-- ==== Sys2Proof/Word.lean ====
section
/-! DEFINITION. The word types of the device: registers are 32 bits wide (00_scope.md, R5, R6) and memory is addressed by bytes. -/
namespace Sys2Proof

/-- One byte of device or host memory. -/
abbrev Byte := BitVec 8

/-- One 32-bit register (00_scope.md, R5). -/
abbrev Word := BitVec 32

end Sys2Proof
end

