-- ==== Sys2Proof/Syntax.lean ====
section
/-! DEFINITION. The commands the device takes from outside, one constructor per row of spec/opcode_table.json, with the operands each carries. -/
namespace Sys2Proof

/-- Where a host write goes: BAR0 registers, BAR2 (doorbells, result window, MSI-X table), or a field of the configuration space that the spec names without an offset:
Bus Master Enable, VF Enable, the size of BAR4 as a power of two, Device Control, Device Control 2, Link Control, and the control register of AER (R8, R11, R12, R24-R27, R31). -/
inductive Space
  | bar0 | bar2 | busMaster | vfEnable | resizeBar | devControl | devControl2 | linkControl | aerControl
  deriving DecidableEq, Repr

/-- How the host answered a read the device made (R32 codes 0x0C and 0x0D). -/
inductive HostAnswer
  | ok | failed | timeout
  deriving DecidableEq, Repr


/-- The requester that meets a GDDR6 error: a stroke of a job, the host through BAR4, the partner of an Ulzia port, or a requester class of R299 that runs for no job. -/
inductive MemAgent
  | stroke (job idx : Nat) | bar4 | link (port : Nat) | unit (cls : Nat)
  deriving DecidableEq, Repr

/-- What is wrong with a GDDR6 block as it is read: the bits that are flipped, 0 to 511 the data's and 512 to 527 the code's, and whether it is the block of another address (R291). -/
structure BlockErr where
  flips : List Nat
  wrongAddress : Bool
  deriving DecidableEq, Repr

/-- What the cold-boot training of a physical position finds: whether the device answers, its density (true = 16 Gb), whether its eyes could be centred, and the margins (R289, R302). -/
structure TrainRun where
  answers : Bool
  dense : Bool
  ok : Bool
  read : Nat
  write : Nat
  deriving DecidableEq, Repr

/-- A coded picture that the parse of a chunk finds complete: what its bitstream and its standard say of it (R195-R199). -/
structure CodedPic where
  width : Nat
  height : Nat
  /-- Bits of a sample, and whether the stream is monochrome. -/
  depth : Nat
  mono : Bool
  /-- Luma samples on a side of a coding unit: macroblock, CTU or superblock. -/
  unit : Nat
  /-- 0 to 2 as in the picture descriptor; any other number: the stream signals none that is listed. -/
  matrix : Nat
  fullRange : Bool
  /-- Picture order count. -/
  poc : Nat
  /-- Its first byte lies in this chunk. -/
  here : Bool
  /-- Decoding may start at this picture (R198). -/
  starts : Bool
  /-- Output of a context that joined at the latest start may begin with this picture (R198). -/
  shows : Bool
  /-- In output order it precedes the point at which a context that joined at the latest start resumes output (a RASL picture of a CRA, a picture before a recovery point, R198). -/
  early : Bool
  /-- It shows an existing frame and codes none (AV1 show_existing_frame). -/
  existing : Bool
  /-- The stream marks it as not output by itself. -/
  silent : Bool
  /-- A random-access point or the end of a recovery. -/
  rap : Bool
  /-- Order counts of its references. -/
  refs : List Nat
  /-- It becomes a reference, and a long-term one. -/
  keep : Bool
  longTerm : Bool
  /-- After it is decoded: the order counts output now, in order, and those that are references no more. -/
  outputs : List Nat
  drops : List Nat
  /-- Coding-unit rows, and the parts that the stream lets it be divided into. -/
  rows : Nat
  parts : Nat
  deriving DecidableEq, Repr

/-- The profiles of the three standards that R195 names, and any other. -/
inductive CodecProfile
  | constrainedBaseline | main | high | main10 | other
  deriving DecidableEq, Repr

/-- A parameter set (AV1: sequence header) that the parse of a chunk meets: profile, level times 10, picture size, bit depth, and whether it uses a tool or an extension that R195 excludes. -/
structure ParamSet where
  profile : CodecProfile
  level : Nat
  width : Nat
  height : Nat
  depth : Nat
  excluded : Bool
  deriving DecidableEq, Repr

/-- What the header of a JPEG page says: whether R208 admits its coding, its size, whether it has three components, whether its chroma is sampled at half the luma's width and height,
and the MCUs of a restart interval (0: no restart markers). -/
structure PageInfo where
  ok : Bool
  width : Nat
  height : Nat
  colour : Bool
  halfWidth : Bool
  halfHeight : Bool
  restart : Nat
  deriving DecidableEq, Repr

/-- A unit of the media engine with parity: a logical codec core, a page decoder (0-1 JPEG, 2-3 bilevel) or the crop-warp-scale unit (R215). -/
inductive MediaUnit
  | core (n : Nat) | page (d : Nat) | cws (job idx : Nat)
  deriving DecidableEq, Repr

/-- A failed parity check in a cluster: its path as BC_INJECT numbers it, or 5 for a fault in a shared resource, and the pass, array row, column or byte lane, and accumulator row it names (R71, R73, R403). -/
structure ParityHit where
  path : Nat
  pass : Nat
  row : Nat
  column : Nat
  accRow : Nat
  deriving DecidableEq, Repr

/-- A pass that the attention sequencer issues: K, N, M, the rate, and the gated columns counted over its rows (R57, R62, R68). -/
structure PassShape where
  k : Nat
  n : Nat
  m : Nat
  wide : Bool
  gated : Nat
  deriving DecidableEq, Repr


/-- The commands. -/
inductive Instr
  /-- JOB_RUN (R19): A fetched RUN packet is checked for format and quota and its stroke range goes to admission. -/
  | jobRun (job : Nat)
  /-- JOB_FENCE (R19): A fetched FENCE packet completes with OK once every job fetched before it from the same queue has completed. -/
  | jobFence (job : Nat)
  /-- JOB_NOP (R19): A fetched NOP packet completes with OK at once. -/
  | jobNop (job : Nat)
  /-- PACKET_FETCH (R17): The device fetches the next packet in ring order when the SQ tail is ahead of its head, and advances SQ_HEAD. -/
  | packetFetch (q : Nat)
  /-- PACKET_FETCH_FAIL (R32): A packet fetch answered poisoned, UR or CA, or timed out, is retried once and otherwise puts the queue in ERROR. -/
  | packetFetchFail (q : Nat) (again : Bool)
  /-- SQ_TAIL_DOORBELL (R24): A write of the SQ tail word of a doorbell pair is range-checked and taken or refused as a violation. -/
  | sqTailDoorbell (fn q value : Nat)
  /-- CQ_HEAD_DOORBELL (R24): A write of the CQ head word is checked against the old head and CQ_TAIL, and frees CQ space for held completions. -/
  | cqHeadDoorbell (fn q value : Nat)
  /-- QUEUE_ENABLE (R16): A write of ENABLE = 1 checks the queue configuration, then resets the ring positions or refuses with CFG_REFUSED. -/
  | queueEnable (fn value : Nat)
  /-- QUEUE_DISABLE (R18): A write of ENABLE = 0 stops fetching, posts DISCARDED for fetched uncompleted jobs and shows DISABLED. -/
  | queueDisable (fn value : Nat)
  /-- COALESCE_TIMER_EXPIRY (R26): The coalescing timer reaching TIME_US sends the queue's vector and clears the count and the timer. -/
  | coalesceTimerExpiry (q : Nat)
  /-- MSIX_VECTOR_UNMASK (R26): Unmasking an MSI-X vector whose pending bit is set sends its message. -/
  | msixVectorUnmask (fn vec : Nat)
  /-- RESULT_SLOT_ACK (R29): A write to ACK equal to SEQ frees a FULL slot; any other write to ACK is a violation. -/
  | resultSlotAck (fn slot value : Nat)
  /-- HIF_BAR4_BASE_WRITE (R14): A write of the BAR4 base is taken only when it is aligned and the window lies in a permitted region. -/
  | hifBar4BaseWrite (value : Nat)
  /-- BAR4_READ (R14): A host read through BAR4 returns device memory, or zeros and poisoned completions as the target region dictates. -/
  | bar4Read (off len : Nat)
  /-- BAR4_WRITE (R14): A host write through BAR4 is applied, or dropped where the region is refused, burnished or powered down. -/
  | bar4Write (off : Nat) (data : List Byte)
  /-- POISONED_TLP_RECEIVED (R32): A poisoned TLP written to the device is dropped and reported through AER and an event. -/
  | poisonedTlpReceived (fn : Nat)
  /-- ECRC_FAIL_TLP (R32): A TLP failing ECRC is dropped and reported through AER and an event. -/
  | ecrcFailTlp (fn : Nat)
  /-- REGISTER_WRITE (R6): A write to a register with no behaviour of its own is applied according to the access codes of its fields. -/
  | registerWrite (fn : Nat) (space : Space) (off size value : Nat)
  /-- CLK_TIME_LO_READ (R328): A read of CLK_TIME_LO returns the low word of device time and latches the high word into CLK_TIME_HI. -/
  | clkTimeLoRead
  /-- MBX_IDENTITY (R359): The IDENTITY command returns part, device ID, firmware, SVN, owner, profile and fuse-step information. -/
  | mbxIdentity (tag : Nat)
  /-- MBX_EVENT_SUMMARY (R368): The EVENT_SUMMARY command returns the record numbers, counts and capacity words of the log. -/
  | mbxEventSummary (tag : Nat)
  /-- ATTEST_SIGN (R357): ATTEST_GET with OP 1 builds a report over the nonce and signs it with the next bottom leaf. -/
  | attestSign (tag : Nat)
  /-- ATTEST_READ (R357): ATTEST_GET with OP 2 returns 32 B of the last signed blob. -/
  | attestRead (tag : Nat)
  /-- ATTEST_CERT (R357): ATTEST_GET with OP 3 returns 32 B of the identity area. -/
  | attestCert (tag : Nat)
  /-- MBX_DUMP_READ (R307): The DUMP_READ command returns 32 B of the GDDR6 dump at the given offset. -/
  | mbxDumpRead (tag : Nat)
  /-- MBX_SPARE_IN (R372): The SPARE_IN command queues a spare-in or retirement of the named unit. -/
  | mbxSpareIn (tag : Nat)
  /-- MBX_GDDR6_RETRAIN (R302): The GDDR6_RETRAIN command starts a full on-demand centring of one position in slices. -/
  | mbxGddr6Retrain (tag : Nat)
  /-- MBX_PROFILE_COMMIT (R354): The PROFILE_COMMIT command checks a staged profile and starts writing it to the copy not in use. -/
  | mbxProfileCommit (tag : Nat)
  /-- MBX_FLASH_WRITE (R349): The FLASH_WRITE command verifies a staged firmware image and starts erasing and programming it. -/
  | mbxFlashWrite (tag : Nat)
  /-- MBX_EVENT_CLEAR (R369): The EVENT_CLEAR command checks a signed clear token and starts clearing records up to UPTO. -/
  | mbxEventClear (tag : Nat)
  /-- MBX_ATTEST_KEY_ROLL (R358): The ATTEST_KEY_ROLL command starts a new attestation preparation. -/
  | mbxAttestKeyRoll (tag : Nat) (fuseOk : Bool)
  /-- MBX_UNKNOWN_CMD (R32): An unknown mailbox command code ends at once as DONE with UNKNOWN_CMD. -/
  | mbxUnknownCmd (code tag : Nat)
  /-- GDDR6_RETRAIN_DONE (R302): An on-demand retraining ends, compares its margins and reports the result. -/
  | gddr6RetrainDone (position readMargin writeMargin : Nat) (ok : Bool)
  /-- PROFILE_COMMIT_DONE (R354): A profile commit finishes programming, read-back and owner fuse actions and ends with its result. -/
  | profileCommitDone (ok : Bool)
  /-- FLASH_WRITE_DONE (R349): A firmware flash write finishes programming and read-back comparison and ends with its result. -/
  | flashWriteDone (ok : Bool)
  /-- EVENT_CLEAR_DONE (R370): A clear finishes erasing blocks, appends the cleared record and then the staged records. -/
  | eventClearDone (aborted : Option Nat)
  /-- ATTEST_KEY_ROLL_DONE (R358): The preparation of a key roll ends, the old bottom tree is discarded and the command ends with SUCCESS. -/
  | attestKeyRollDone
  /-- FLR_VF (R31): An FLR of a VF kills and discards the partition's jobs and resets the function's queues, slots and resources. -/
  | flrVf (vf : Nat)
  /-- FLR_PF (R31): An FLR of the PF kills all work, rolls back mode changes and aborts mailbox operations, then resets every function and starts unit initialisation. -/
  | flrPf
  /-- PF_UNIT_INIT_DONE (R31): Unit initialisation and burnish after a PF reset end, and SERVICE_READY returns to 1. -/
  | pfUnitInitDone
  /-- SCHEDULER_FAILURE (R31): A failure of the stroke scheduler posts DISCARDED everywhere, sets DEVICE_FAULT and signals vector 0 of every function. -/
  | schedulerFailure
  /-- PCIE_CORE_FAILURE (R379): A failure of the PCIe controller core loses the link until PERST_N. -/
  | pcieCoreFailure
  /-- PCIE_LANE_FAULT (R8): A lane failing training makes the link retrain at x4 on the clean half. -/
  | pcieLaneFault (lane : Nat)
  /-- JOB_ADMIT (R35): A job gets its window chunks, reads its argument block and strokes once, and checks every stroke. -/
  | jobAdmit (job : Nat) (ans : HostAnswer)
  /-- STROKE_PLACE (R45): READY strokes are taken in priority order and placed on the first free suitable unit, with their mutexes acquired. -/
  | strokePlace
  /-- PREEMPT_SAVE (R49): A pre-empted stroke reaches its level-2 tile boundary, saves its state and tiles and hands the cluster over. -/
  | preemptSave (job idx tilesDone now : Nat)
  /-- STROKE_COMPLETE (R40): A stroke's last write becomes visible and its signals are applied, and its job completes when all strokes are done or skipped. -/
  | strokeComplete (job idx active stall : Nat) (ans : HostAnswer)
  /-- WAIT_LIMIT_EXPIRY (R44): A job with no stroke changing state for SCH_WAIT_LIMIT is killed with FAULT_TIMEOUT. -/
  | waitLimitExpiry (job : Nat)
  /-- TIME_LIMIT_EXPIRY (R19): A job exceeding TIME_LIMIT_US from fetch is killed with FAULT_TIMEOUT. -/
  | timeLimitExpiry (job : Nat)
  /-- JOB_KILL_RELEASE (R53): Once every unit has let go of a killed job, its completion is posted and its window chunks are freed. -/
  | jobKillRelease (job : Nat)
  /-- SCH_BUCKET (R52): sch.bucket reads the actual size, selects a bucket, writes the record and skips the other ranges. -/
  | schBucket (job idx : Nat)
  /-- SCH_MODE (R54): sch.mode commits the units armed by the job's function and completes at COMMITTED. -/
  | schMode (job idx : Nat)
  /-- SCH_NOP (R38): sch.nop has no effect beyond its waits and signals. -/
  | schNop (job idx : Nat)
  /-- SCH_SEMSET (R43): sch.semset sets a counter semaphore's value, or records an event when it finds a mutex. -/
  | schSemset (job idx : Nat)
  /-- SCH_SEM_CTRL_WRITE (R42): A host write of a semaphore's mode or value is applied and waiting strokes are evaluated again. -/
  | schSemCtrlWrite (fn value : Nat)
  /-- MODE_STAGE_WRITE (R54): A write to MODE_STAGE arms a unit with a new mode for its function, unless armed by another or pending. -/
  | modeStageWrite (fn page value : Nat)
  /-- SCH_MODE_COMMIT (R54): A write to SCH_MODE_COMMIT commits every unit armed by the function, or is refused while a change is pending. -/
  | schModeCommit (fn value : Nat)
  /-- MODE_UNIT_APPLY (R55): A unit reaches its safe point and applies the new mode; when all have applied the change is COMMITTED. -/
  | modeUnitApply (page : Nat)
  /-- MODE_TIMEOUT_EXPIRY (R55): A unit not applied within SCH_MODE_TIMEOUT rolls the whole change back. -/
  | modeTimeoutExpiry (fn : Nat)
  /-- MM_GEMM (R79): mm.gemm computes a batched matrix product through the tile sequencer and writes C through the output path. -/
  | mmGemm (job idx now : Nat)
  /-- MM_CONV (R91): mm.conv computes a convolution as an implicit product. -/
  | mmConv (job idx now : Nat)
  /-- MM_PASS (R58): mm.pass runs exactly one array pass. -/
  | mmPass (job idx now accRow : Nat)
  /-- PASS_ISSUE (R67): A pass issues once the preceding rows and its stationary load allow it, stall cycles being counted. -/
  | passIssue (cluster : Nat) (right : Bool) (accRow weightsAt rowsAt : Nat) (shape : PassShape)
  /-- CLUSTER_PARITY_DETECT (R71): A parity detection in a cluster kills the stroke's job with FAULT_PARITY and captures the error. -/
  | clusterParityDetect (cluster : Nat) (right injected : Bool) (hits : List ParityHit)
  /-- BC_INJECT_WRITE (R74): A write of ARM arms a one-time parity failure on the selected path and half. -/
  | bcInjectWrite (fn cluster value : Nat)
  /-- LOCAL_BURNISH_DONE (R72): The burnish of a cluster's local memory, or of a half's share, ends and it takes strokes again. -/
  | localBurnishDone (cluster share : Nat)
  /-- HATCH_ADD (R110): hatch.add writes Z := X + Y elementwise. -/
  | hatchAdd (job idx : Nat)
  /-- HATCH_SUB (R110): hatch.sub writes Z := X − Y elementwise. -/
  | hatchSub (job idx : Nat)
  /-- HATCH_MUL (R110): hatch.mul writes Z := X × Y elementwise. -/
  | hatchMul (job idx : Nat)
  /-- HATCH_AXPBY (R110): hatch.axpby writes Z := P0 × X + P1 × Y. -/
  | hatchAxpby (job idx : Nat)
  /-- HATCH_MAX (R110): hatch.max writes the elementwise maximum. -/
  | hatchMax (job idx : Nat)
  /-- HATCH_MIN (R110): hatch.min writes the elementwise minimum. -/
  | hatchMin (job idx : Nat)
  /-- HATCH_AFFINE (R110): hatch.affine writes Z := P0 × X + P1. -/
  | hatchAffine (job idx : Nat)
  /-- HATCH_CAST (R110): hatch.cast converts X into Z's format. -/
  | hatchCast (job idx : Nat)
  /-- HATCH_CLAMP (R110): hatch.clamp clamps X between P0 and P1. -/
  | hatchClamp (job idx : Nat)
  /-- HATCH_FILL (R110): hatch.fill writes P0 to every element of Z. -/
  | hatchFill (job idx : Nat)
  /-- HATCH_IOTA (R110): hatch.iota writes each element's linear index. -/
  | hatchIota (job idx : Nat)
  /-- HATCH_RELU (R110): hatch.relu writes max(X, +0). -/
  | hatchRelu (job idx : Nat)
  /-- HATCH_GELU (R110): hatch.gelu writes gelu(X). -/
  | hatchGelu (job idx : Nat)
  /-- HATCH_SILU (R110): hatch.silu writes X × sigmoid(X). -/
  | hatchSilu (job idx : Nat)
  /-- HATCH_SIGMOID (R110): hatch.sigmoid writes 1 / (1 + exp(−X)). -/
  | hatchSigmoid (job idx : Nat)
  /-- HATCH_TANH (R110): hatch.tanh writes tanh(X). -/
  | hatchTanh (job idx : Nat)
  /-- HATCH_EXP (R110): hatch.exp writes exp(X). -/
  | hatchExp (job idx : Nat)
  /-- HATCH_LOG (R110): hatch.log writes ln(X). -/
  | hatchLog (job idx : Nat)
  /-- HATCH_SQRT (R110): hatch.sqrt writes √X. -/
  | hatchSqrt (job idx : Nat)
  /-- HATCH_RSQRT (R110): hatch.rsqrt writes 1 / √X. -/
  | hatchRsqrt (job idx : Nat)
  /-- HATCH_RECIP (R110): hatch.recip writes 1 / X. -/
  | hatchRecip (job idx : Nat)
  /-- HATCH_ACT_BWD (R110): hatch.act_bwd writes Y × f′(X) for the selected activation. -/
  | hatchActBwd (job idx : Nat)
  /-- HATCH_SUM (R108): hatch.sum sums along AXIS in the fixed lane and tree order. -/
  | hatchSum (job idx : Nat)
  /-- HATCH_ROWMAX (R110): hatch.rowmax writes the maximum along AXIS. -/
  | hatchRowmax (job idx : Nat)
  /-- HATCH_ARGMAX (R110): hatch.argmax writes the INT32 index of the maximum along AXIS. -/
  | hatchArgmax (job idx : Nat)
  /-- HATCH_SOFTMAX (R111): hatch.softmax writes the softmax of P0 × X along AXIS. -/
  | hatchSoftmax (job idx : Nat)
  /-- HATCH_LOGSOFTMAX (R111): hatch.logsoftmax writes the log-softmax of P0 × X along AXIS. -/
  | hatchLogsoftmax (job idx : Nat)
  /-- HATCH_LAYERNORM (R111): hatch.layernorm writes the layer norm along AXIS with γ and β. -/
  | hatchLayernorm (job idx : Nat)
  /-- HATCH_RMSNORM (R111): hatch.rmsnorm writes the RMS norm along AXIS with γ. -/
  | hatchRmsnorm (job idx : Nat)
  /-- HATCH_NORM_BWD (R111): hatch.norm_bwd writes the input gradient of a norm and optionally the γ and β gradients. -/
  | hatchNormBwd (job idx : Nat)
  /-- HATCH_SOFTMAX_BWD (R110): hatch.softmax_bwd writes the softmax input gradient. -/
  | hatchSoftmaxBwd (job idx : Nat)
  /-- HATCH_TOPK (R110): hatch.topk writes the COUNT largest values and their indices along AXIS. -/
  | hatchTopk (job idx : Nat)
  /-- HATCH_XENT (R110): hatch.xent writes the per-row cross-entropy loss and optionally its gradient. -/
  | hatchXent (job idx : Nat)
  /-- HATCH_IOU (R112): hatch.iou writes the IoU of every pair of boxes. -/
  | hatchIou (job idx : Nat)
  /-- HATCH_COSINE (R110): hatch.cosine writes the cosine of every pair of rows. -/
  | hatchCosine (job idx : Nat)
  /-- HATCH_NMS (R112): hatch.nms writes the indices of boxes kept by non-maximum suppression. -/
  | hatchNms (job idx : Nat)
  /-- HATCH_ASSOC (R113): hatch.assoc writes a greedy row-to-column assignment over a score matrix. -/
  | hatchAssoc (job idx : Nat)
  /-- HATCH_SGDM (R114): hatch.sgdm updates weights and velocity in place. -/
  | hatchSgdm (job idx : Nat)
  /-- HATCH_ADAMW (R114): hatch.adamw updates weights and both moments in place. -/
  | hatchAdamw (job idx : Nat)
  /-- HATCH_SUMSQ (R110): hatch.sumsq writes the sum of squares of the whole tensor. -/
  | hatchSumsq (job idx : Nat)
  /-- HATCH_PHILOX (R115): hatch.philox writes Philox-4x32-10 random words. -/
  | hatchPhilox (job idx : Nat)
  /-- HATCH_DROPOUT (R115): hatch.dropout zeroes or scales elements by a Philox draw and writes the keep mask. -/
  | hatchDropout (job idx : Nat)
  /-- HATCH_GATHER (R110): hatch.gather copies indexed rows of X into Z. -/
  | hatchGather (job idx : Nat)
  /-- HATCH_SCATTER_ADD (R110): hatch.scatter_add adds rows of X into indexed rows of Z in place. -/
  | hatchScatterAdd (job idx : Nat)
  /-- ATTN_FWD (R128): attn.fwd computes attention over the share's items with an online softmax and optional row statistics. -/
  | attnFwd (job idx : Nat)
  /-- ATTN_BWD (R134): attn.bwd recomputes scores from the saved statistics and writes dQ, dK and dV. -/
  | attnBwd (job idx : Nat)
  /-- ATTN_KVWRITE (R131): attn.kvwrite copies new key and value rows into the rings with conversion. -/
  | attnKvwrite (job idx : Nat)
  /-- MOVE_COPY (R158): move.copy copies a tensor and its scale array between matching descriptors. -/
  | moveCopy (job idx : Nat)
  /-- MOVE_LINEAR (R158): move.linear copies PARAM bytes in ascending address order, host memory included. -/
  | moveLinear (job idx : Nat) (ans : HostAnswer)
  /-- MOVE_FILL (R158): move.fill writes an 8-byte pattern repeatedly. -/
  | moveFill (job idx : Nat)
  /-- MOVE_PREFETCH (R158): move.prefetch brings the lines of a range into the cache that serves them. -/
  | movePrefetch (job idx : Nat)
  /-- MOVE_FLUSH (R158): move.flush writes back dirty lines of a range and keeps them valid. -/
  | moveFlush (job idx : Nat)
  /-- MOVE_EVICT (R158): move.evict writes back and invalidates the lines of a range. -/
  | moveEvict (job idx : Nat)
  /-- MOVE_REQUANT (R103): move.requant converts a tensor into another format and shift layout. -/
  | moveRequant (job idx : Nat)
  /-- PLATE_PARITY_DETECT (R149): A plate parity detection on a stroke read re-runs a re-runnable stroke once or kills its job with FAULT_PARITY. -/
  | plateParityDetect (job idx seg off : Nat) (tagPar stored : Bool)
  /-- PLATE_BURNISH_DONE (R152): The clearing of a claimed block of a killed job ends and its claim is released. -/
  | plateBurnishDone (seg : Nat)
  /-- PLATE_ACCESS_RETRY (R155): A requester presents a retried plate access again 64 cycles later; one reaching an OFF segment is late and kills its job. -/
  | plateAccessRetry (waiter : Nat)
  /-- PS_POWER_WRITE (R405): A write of REQ starts a drain or a wake of the segment, or is refused. -/
  | psPowerWrite (seg value : Nat)
  /-- PS_DRAIN_DONE (R154): PS_INFLIGHT reaches zero on a draining segment and it turns OFF. -/
  | psDrainDone (seg : Nat)
  /-- PS_WAKE_DONE (R154): A waking segment finishes power-up and its burnish and turns ON. -/
  | psWakeDone (seg : Nat)
  /-- DRAIN_LIMIT_EXPIRY (R156): A drain not finished within DRAIN_LIMIT_US is abandoned and the segment returns to ON. -/
  | drainLimitExpiry (seg : Nat)
  /-- PS_CACHE_BASE_WRITE (R145): A write of the cache window is taken only in scratch mode with a valid size and alignment. -/
  | psCacheBaseWrite (fn seg value : Nat)
  /-- LET_JOIN (R173): let.join writes a WAITING session entry and holds its slot until the session retires. -/
  | letJoin (job idx : Nat)
  /-- LET_STEP (R177): let.step samples, detokenises, matches stops, retires and admits sessions and commits the next tables. -/
  | letStep (job idx : Nat)
  /-- LET_TOK (R165): let.tok tokenises one buffer of a stream with its carry record. -/
  | letTok (job idx : Nat)
  /-- LET_DETOK (R167): let.detok writes the concatenated strings of its tokens. -/
  | letDetok (job idx : Nat)
  /-- LET_BIND (R163): let.bind verifies a vocabulary or grammar image and binds it to a slot, or unbinds the slot. -/
  | letBind (job idx : Nat)
  /-- MASK_WALK_DONE (R181): A mask walker finishes a configuration's mask and stores it when cacheable. -/
  | maskWalkDone (session : Nat)
  /-- STEP_DEADLINE (R182): GRACE_US after let.step placement, sessions without a ready mask sit out the step. -/
  | stepDeadline
  /-- LET_SESSION_STOP (R180): A write of a session index marks the session STOPPED for the group's next step. -/
  | letSessionStop (value : Nat)
  /-- LET_MASK_CFG_WRITE (R181): A write to the mask-cache base or configuration sets it and empties the mask cache. -/
  | letMaskCfgWrite (off value : Nat)
  /-- MED_OPEN (R193): med.open reads the context block and opens a decode context in JOINING or an encode context in OPEN. -/
  | medOpen (job idx : Nat)
  /-- MED_DECODE (R196): med.decode parses one chunk of a context's bitstream and queues the pictures it completes. -/
  | medDecode (job idx : Nat) (pics : List CodedPic) (sets : List ParamSet) (opens : Bool)
  /-- MED_ENCODE (R203): med.encode encodes one picture under the refresh sweep and writes its bytes and count. -/
  | medEncode (job idx : Nat)
  /-- MED_CLOSE (R193): med.close releases the context's buffers, removes it from a group and returns it to CLOSED. -/
  | medClose (job idx : Nat)
  /-- MED_CLASS (R205): med.class changes a context's class and deadline for pictures not yet started. -/
  | medClass (job idx : Nat)
  /-- MED_PAGE (R207): med.page decodes one JPEG or bilevel page into a pool buffer. -/
  | medPage (job idx : Nat) (page : PageInfo)
  /-- MED_CWS (R211): med.cws crops, warps, scales and converts each ROI of a source picture. -/
  | medCws (job idx : Nat)
  /-- PICTURE_START (R204): A free core takes the first queue entry it may serve and allocates the output buffer. -/
  | pictureStart
  /-- PICTURE_DONE (R194): A decoded picture completes and is output to its ring or registration group, or dropped when full. -/
  | pictureDone (core : Nat) (damaged : List Nat) (coded : List Byte)
  /-- PAGE_DECODE_DONE (R207): A page decoder finishes a page and writes its picture descriptor. -/
  | pageDecodeDone (decoder : Nat) (errors : List Nat)
  /-- POOL_WAIT_RETRY (R200): A picture waiting for a pool buffer retries its allocation every 100 µs. -/
  | poolWaitRetry (work : Nat)
  /-- MED_POOL_WAIT_EXPIRY (R200): A wait for an output buffer reaching MED_POOL_WAIT drops the picture and puts the context in RESYNC. -/
  | medPoolWaitExpiry (work : Nat)
  /-- CTU_ROW_DONE (R206): After each coding-unit row of a LIVE picture the core asserts or ends the real-time panic. -/
  | ctuRowDone (core : Nat)
  /-- PANIC_MAX_EXPIRY (R206): A panic lasting MED_PANIC.MAX_US is ended, counted and recorded. -/
  | panicMaxExpiry (core : Nat)
  /-- MEDIA_PARITY_DETECT (R215): A parity detection in media SRAM kills the affected job with FAULT_PARITY and puts the context in RESYNC. -/
  | mediaParityDetect (site : MediaUnit)
  /-- MED_CTX_CLASS_WRITE (R205): A PF write of a context's class and deadline takes effect for pictures not yet started. -/
  | medCtxClassWrite (value : Nat)
  /-- INT_OPEN (R221): int.open reads the intake block, empties the cache index and opens the context. -/
  | intOpen (job idx : Nat)
  /-- INT_EPOCH (R223): int.epoch emits an epoch's positions in roulette order as batches. -/
  | intEpoch (job idx : Nat)
  /-- INT_CLOSE (R221): int.close returns the intake context to CLOSED. -/
  | intClose (job idx : Nat)
  /-- INT_REGOPEN (R234): int.regopen opens a registration group and redirects its members' pictures to it. -/
  | intRegopen (job idx : Nat)
  /-- INT_REGCLOSE (R237): int.regclose emits every open set as FORCED and returns the members' output to their rings. -/
  | intRegclose (job idx : Nat)
  /-- SAMPLE_DECODE_DONE (R229): A dispatched sample's fetch, check and decode end, and it is cached or marked corrupt. -/
  | sampleDecodeDone (ctx pos : Nat) (page : PageInfo) (errors : List Nat)
  /-- DECODE_LIMIT_EXPIRY (R229): A sample's unit time reaching INT_DECODE_LIMIT abandons it as corrupt with reason LIMIT. -/
  | decodeLimitExpiry (ctx pos : Nat)
  /-- BATCH_EMIT (R225): A filled batch is emitted in roulette order once the ring has room. -/
  | batchEmit
  /-- REG_PICTURE_ARRIVE (R235): A member's picture joins an open set, is dropped as late, or opens a new set. -/
  | regPictureArrive (group : Nat)
  /-- SET_DEADLINE_EXPIRY (R236): A set's deadline passes and it becomes ready for emission in anchor order. -/
  | setDeadlineExpiry (group : Nat)
  /-- TRK_RING (R240): trk.ring opens an output ring for its partition. -/
  | trkRing (job idx : Nat)
  /-- TRK_RINGCLOSE (R244): trk.ringclose writes TAIL for the last time and closes the ring. -/
  | trkRingclose (job idx : Nat)
  /-- TRK_OPEN (R249): trk.open opens tracking for a stream and zeroes its track table. -/
  | trkOpen (job idx : Nat)
  /-- TRK_CLOSE (R249): trk.close ends tracking without writing records. -/
  | trkClose (job idx : Nat)
  /-- TRK_PREP (R251): trk.prep maps, clips and filters a picture's kept detections into the track table. -/
  | trkPrep (job idx : Nat) (ans : HostAnswer)
  /-- TRK_UPDATE (R253): trk.update applies the assignment, updates and opens tracks and writes the picture's records. -/
  | trkUpdate (job idx : Nat) (ans : HostAnswer)
  /-- TRK_TEXT (R259): trk.text writes a LINE or FIELD record from a session result and its text. -/
  | trkText (job idx : Nat) (ans : HostAnswer)
  /-- TRK_PAGE (R259): trk.page writes the PAGE record. -/
  | trkPage (job idx : Nat) (ans : HostAnswer)
  /-- TRK_CLIP (R259): trk.clip copies and checks a CLIP body into a record. -/
  | trkClip (job idx : Nat) (ans : HostAnswer)
  /-- PAR_STATE_WRITE (R264): A write to PAR_STATE changes a partition's state, binding, priority, window or MEASURE, or is refused whole. -/
  | parStateWrite (value : Nat)
  /-- PAR_MOVE_WRITE (R268): A write to PAR_MOVE starts moving one unit to another partition or is refused with a reason. -/
  | parMoveWrite (value : Nat)
  /-- RULING_LOAD (R270): A write of LOAD reads and checks the ruling table and installs it or refuses it. -/
  | rulingLoad
  /-- RULING_ENABLE (R270): A write of ENABLE starts the ruling table at entry 0 or ends every reservation at once. -/
  | rulingEnable (enable : Bool)
  /-- RULING_SLOT_START (R271): At a slot boundary the slot's reservations apply and non-RT strokes on reserved clusters are pre-empted. -/
  | rulingSlotStart
  /-- REGULATOR_TICK (R272): Each tick refills every bucket and releases held requests, and MEASURE changes take effect. -/
  | regulatorTick
  /-- POL_POOL_ENABLE (R279): A write of a pool's ENABLE checks the layout and builds the free lists, or is refused. -/
  | polPoolEnable (value : Nat)
  /-- POL_ALLOC (R280): A host allocation follows the pool chain and answers ALLOCATED, EMPTY or NO_FIT. -/
  | polAlloc (fn value : Nat)
  /-- POL_REF (R283): A host write adds or releases one reference, freeing the buffer at zero. -/
  | polRef (fn value : Nat)
  /-- POL_INIT (R285): A write of INIT rebuilds the selected slice's free list from the side table. -/
  | polInit (value : Nat)
  /-- SLICE_REBUILD_DONE (R287): A slice rebuild ends and the slice is ACTIVE again. -/
  | sliceRebuildDone (pool part : Nat)
  /-- CORRECTABLE_ERROR (R293): A correctable GDDR6 error is corrected, written back and counted. -/
  | correctableError (addr : Nat) (err : BlockErr) (syndrome : Nat) (agent : MemAgent)
  /-- UNCORRECTABLE_ERROR (R294): An uncorrectable block is poisoned, its requester faulted, and the position's retirement started. -/
  | uncorrectableError (addr : Nat) (err : BlockErr) (syndrome : Nat) (agent : MemAgent)
  /-- EDC_RETRY_EXHAUSTED (R296): A burst failing EDC four times answers the read as uncorrectable or poisons the written block. -/
  | edcRetryExhausted (addr : Nat) (write spare : Bool) (agent : MemAgent)
  /-- PATROL_SCRUB (R295): The scrubber reads the next block at its steady rate and handles any error found. -/
  | patrolScrub (err : BlockErr) (found syndrome : Nat)
  /-- REFRESH_INTERVAL (R301): A per-bank refresh falls due and issues, or is postponed by at most 8 intervals. -/
  | refreshInterval (position channel bank : Nat) (queued : Bool)
  /-- PERIODIC_RETRAIN (R302): Every 100 ms each channel recentres its eyes in short slices. -/
  | periodicRetrain (position readMargin writeMargin : Nat)
  /-- MIGRATION_PAGE_COPY (R304): The copy engine copies the next page of the retiring position to M8. -/
  | migrationPageCopy (trained : Bool) (bad : List Nat)
  /-- MIGRATION_DONE (R304): After the last page the logical name moves to M8 and the old position is RETIRED. -/
  | migrationDone
  /-- GDDR6_PLL_LOCK_LOSS (R329): A position PLL loses lock, requests wait while it relocks, and a retraining follows. -/
  | gddr6PllLockLoss (position : Nat)
  /-- ULZ_TRAIN (R314): A port maps its lanes, exchanges NODE and RING and comes UP or stays DOWN. -/
  | ulzTrain (port : Nat) (good : List Bool) (peer : Option (Nat × Nat × Nat))
  /-- ULZ_TRAIN_RETRY (R314): A port with no partner retries training every 100 ms. -/
  | ulzTrainRetry (port : Nat)
  /-- ULZ_RETRAIN (R315): A port retrains, spares a lane or narrows, and replays from the last acknowledged flit. -/
  | ulzRetrain (port : Nat) (good : List Bool) (peerWidth : Nat) (ok pll : Bool)
  /-- FLIT_RECEIVE (R317): A received flit is checked by CRC and sequence, acknowledged or NAKed, and its credits applied. -/
  | flitReceive (port : Nat) (body : List Byte) (crcOk : Bool) (lane : Nat)
  /-- REMOTE_WRITE (R321): A WRITE packet is checked at the target, carried out and answered. -/
  | remoteWrite (port : Nat)
  /-- REMOTE_READ (R321): A READ packet is checked at the target and answered with data, REFUSED or POISONED. -/
  | remoteRead (port : Nat)
  /-- REMOTE_SEM (R321): A SEM packet adds to or sets a counter semaphore at the target and is answered. -/
  | remoteSem (port : Nat)
  /-- COLL_PACKET (R324): A COLL packet contributes its chunk to a local collective's sum or gather. -/
  | collPacket (port : Nat)
  /-- LINK_ANSWER (R322): A READ_DATA, WRITE_ACK or SEM_ACK answer completes a transfer of the originating stroke. -/
  | linkAnswer (port : Nat)
  /-- ULZ_TIMEOUT_EXPIRY (R322): An answer or collective partner not arriving within ULZ_TIMEOUT kills the job with FAULT_LINK. -/
  | ulzTimeoutExpiry (job idx : Nat)
  /-- LINK_COPY (R320): link.copy copies bytes between a local and a remote range. -/
  | linkCopy (job idx : Nat)
  /-- LINK_SEM (R320): link.sem adds to or sets a remote counter semaphore. -/
  | linkSem (job idx : Nat)
  /-- LINK_ALLREDUCE (R324): link.allreduce sums a tensor across every node of the ring in fixed order. -/
  | linkAllreduce (job idx : Nat)
  /-- LINK_ALLGATHER (R323): link.allgather gathers every node's tensor into the destination. -/
  | linkAllgather (job idx : Nat)
  /-- U_VC_CREDIT_WRITE (R318): A grant write is taken if the port's sum stays within 4,096 and applies once the VC is empty. -/
  | uVcCreditWrite (port value : Nat)
  /-- ULZ_NODE_WRITE (R311): A write of NODE and RING is taken only while both ports are DOWN. -/
  | ulzNodeWrite (value : Nat)
  /-- COLD_RESET (R330): Power-up or PERST_N runs the whole boot, training and unit initialisation from reset values. -/
  | coldReset (strap lanes rate : Nat) (testEn flashOk fuseOk hot : Bool)
  /-- GDDR6_TRAINING_DONE (R303): Cold-boot training ends, failed positions are replaced or retired, and M8 is powered down. -/
  | gddr6TrainingDone (results : List TrainRun)
  /-- BOOT_SERVICE_READY (R333): Unit initialisation ends after cold boot and SERVICE_READY becomes 1. -/
  | bootServiceReady
  /-- ATTEST_PREPARATION_DONE (R356): An attestation preparation ends and SEC_ATTEST becomes READY. -/
  | attestPreparationDone
  /-- LINK_RESET (R330): A Hot Reset, Link Down or PCIe PLL loss resets as an FLR of the PF and retrains the link. -/
  | linkReset (pllLoss : Bool)
  /-- D3HOT_ENTRY (R335): The PF written to D3hot kills all work, self-refreshes GDDR6 and powers the units down. -/
  | d3hotEntry
  /-- D3HOT_TO_D0 (R330): The PF written to D0 exits self-refresh and resets as an FLR of the PF. -/
  | d3hotToD0
  /-- SERVICE_RESTART (R331): The service watchdog reloads the firmware after a digest check, aborting any mailbox operation. -/
  | serviceRestart (digestOk : Bool)
  /-- REFERENCE_LOSS (R329): Loss of the reference or root PLL lock stops every domain and halts the device. -/
  | referenceLoss (rootPll : Bool)
  /-- THERMAL_SAMPLE (R338): Each millisecond Tj and power are compared with the limits, DUTY is adjusted and THERM_ALERT_N set. -/
  | thermalSample (readings : List Nat) (estimate : Nat)
  /-- THERMAL_SHUTDOWN (R340): A sensor at 115 °C or more stops every domain but service and halts the device. -/
  | thermalShutdown (sensor reading : Nat)
  /-- RAIL_DIP (R391): A monitored rail below 90 % for 1 µs counts as removal of power. -/
  | railDip
  /-- TAP_RESET (R330): TRST_N or five TCK cycles with TMS high reset the JTAG TAP only. -/
  | tapReset
  /-- EXTEST (R394): The EXTEST instruction drives and captures the boundary while PERST_N is asserted. -/
  | tapExtest (perst : Bool) (pins drive : Nat)
  /-- IDCODE (R394): The IDCODE instruction selects the 0x1773_0A4B identification register. -/
  | tapIdcode
  /-- SAMPLE_PRELOAD (R394): The SAMPLE/PRELOAD instruction samples and preloads the boundary cells. -/
  | samplePreload (pins drive : Nat)
  /-- HIGHZ (R394): The HIGHZ instruction puts the outputs in high impedance while PERST_N is asserted. -/
  | tapHighz (perst : Bool)
  /-- CLAMP (R394): The CLAMP instruction holds the outputs from the boundary while PERST_N is asserted. -/
  | tapClamp (perst : Bool)
  /-- EXTEST_PULSE (R394): The EXTEST_PULSE instruction runs the AC pulse test of the lanes. -/
  | extestPulse (perst : Bool) (pins drive : Nat)
  /-- EXTEST_TRAIN (R394): The EXTEST_TRAIN instruction runs the AC train test of the lanes. -/
  | extestTrain (perst : Bool) (pins drive : Nat)
  /-- BYPASS (R394): BYPASS, or any unassigned code, selects the one-bit bypass register. -/
  | tapBypass
  /-- SMBUS_EVENT_SUMMARY (R368): The SMBus event summary request returns the EVENT_SUMMARY words. -/
  | smbusEventSummary
  /-- SMBUS_ATTEST (R357): The SMBus attestation request signs or reads with its own blob from the shared bottom tree. -/
  | smbusAttest (op off : Nat) (nonce : List Byte)
  /-- EVENT_RECORD_COMMIT (R364): An open record reaching 1 s, or displaced by a 17th event, is committed to the log. -/
  | eventRecordCommit
  /-- RECORDER_CHECKPOINT (R362): Every 3,600 s the recorder writes a checkpoint record. -/
  | recorderCheckpoint
  /-- EVT_SEL_WRITE (R365): A write of EVT_SEL loads the selected record into the function's window. -/
  | evtSelWrite (fn num : Nat)
  /-- EVT_FREEZE_WRITE (R367): A write of FREEZE fixes the log and stages new records, or thaws and appends them. -/
  | evtFreezeWrite (fn value : Nat)
  /-- FREEZE_LIMIT_EXPIRY (R367): A freeze held for EVT_FREEZE_LIMIT ends by itself and sets THAW_FORCED. -/
  | freezeLimitExpiry (fn : Nat)
  /-- SPARE_IN_TRIGGER (R371): A threshold, wear margin, error or self-test failure queues a spare-in of the unit. -/
  | spareInTrigger (kind index cause : Nat)
  /-- WEAR_CHECK (R371): Each second the wear margins are compared with their thresholds. -/
  | wearCheck (kind index margin : Nat)
  /-- SPARE_IN_COMPLETE (R374): A spare-in moves the logical name to the spare or retires the unit and writes the ledger. -/
  | spareInComplete (spareOk : Bool)
  /-- CQ_FULL_WAIT_EXPIRY (R32): A completion held on chip for a full CQ that has waited 1 s writes the violation 0x0E event. -/
  | cqFullWaitExpiry (q : Nat)
  /-- FUNCTION_RESET_COMPLETE (R31): At step 3 of an FLR the function reset completes, RESETTING returns to 0, registers answer normally and a VF shows SERVICE_READY = 1, with vector 0 signalling resumed. -/
  | functionResetComplete (fn : Nat)
  /-- VF_POWER_STATE_WRITE (R334): A write of a VF's Power State field to D3hot or D0 makes its BAR accesses answer Unsupported Request or restores them, with the partition and device power unchanged. -/
  | vfPowerStateWrite (vf : Nat) (d3 : Bool)
  /-- POSITION_NOT_ANSWERING (R306): A GDDR6 position that stops answering freezes the controllers with MEM_FREEZE.CAUSE = 3. -/
  | positionNotAnswering (position : Nat)
  /-- GDDR6_TEMPERATURE_READ (R301): Every 16 ms each controller reads its device's temperature and halves or restores the refresh period around 85 °C. -/
  | gddr6TemperatureRead (temps : List Nat)
  /-- MOVE_DONE (R268): A unit move finishes its drain and burnish, changes owner and signals vector 0 of the PF. -/
  | moveDone
  deriving DecidableEq, Repr

end Sys2Proof
end

