-- ==== Sys2Proof/WellFormed.lean ====
section
/-! DEFINITION. Which commands a sender can form: every numbered operand within the range of what it names (functions, queues, vectors, slots, ports, units, words).
A meaning is total all the same: a command outside these ranges has the effect its meaning gives it. -/
namespace Sys2Proof

/-- The operands of a command are within their ranges (R12, R16, R25, R27, R30, R37, R46, R138, R277, R310, R337). -/
def Instr.wellFormed (i : Instr) : Bool :=
  match i with
  | .jobRun _ => true
  | .jobFence _ => true
  | .jobNop _ => true
  | .packetFetch q => decide (q < 4096)
  | .packetFetchFail q _ => decide (q < 4096)
  | .sqTailDoorbell fn q value => decide (fn < 9) && decide (q < 4096) && decide (value < 2 ^ 32)
  | .cqHeadDoorbell fn q value => decide (fn < 9) && decide (q < 4096) && decide (value < 2 ^ 32)
  | .queueEnable fn value => decide (fn < 9) && decide (value < 2 ^ 32)
  | .queueDisable fn value => decide (fn < 9) && decide (value < 2 ^ 32)
  | .coalesceTimerExpiry q => decide (q < 4096)
  | .msixVectorUnmask fn vec => decide (fn < 9) && decide (vec < 2048)
  | .resultSlotAck fn slot value => decide (fn < 9) && decide (slot < 4096) && decide (value < 2 ^ 32)
  | .hifBar4BaseWrite value => decide (value < 2 ^ 32)
  | .bar4Read off len => decide (off < 2 ^ 34) && decide (len ≤ 4096)
  | .bar4Write off data => decide (off < 2 ^ 34) && decide (data.length ≤ 4096)
  | .poisonedTlpReceived fn => decide (fn < 9)
  | .ecrcFailTlp fn => decide (fn < 9)
  | .registerWrite fn _ off size value => decide (fn < 9) && decide (off < 2 ^ 24) && decide (size ≤ 8) && decide (value < 2 ^ 64)
  | .clkTimeLoRead => true
  | .mbxIdentity tag => decide (tag < 256)
  | .mbxEventSummary tag => decide (tag < 256)
  | .attestSign tag => decide (tag < 256)
  | .attestRead tag => decide (tag < 256)
  | .attestCert tag => decide (tag < 256)
  | .mbxDumpRead tag => decide (tag < 256)
  | .mbxSpareIn tag => decide (tag < 256)
  | .mbxGddr6Retrain tag => decide (tag < 256)
  | .mbxProfileCommit tag => decide (tag < 256)
  | .mbxFlashWrite tag => decide (tag < 256)
  | .mbxEventClear tag => decide (tag < 256)
  | .mbxAttestKeyRoll tag _ => decide (tag < 256)
  | .mbxUnknownCmd code tag => decide (code < 256) && decide (tag < 256)
  | .gddr6RetrainDone position _ _ _ => decide (position < 9)
  | .profileCommitDone _ => true
  | .flashWriteDone _ => true
  | .eventClearDone _ => true
  | .attestKeyRollDone => true
  | .flrVf vf => decide (1 ≤ vf ∧ vf < 9)
  | .flrPf => true
  | .pfUnitInitDone => true
  | .schedulerFailure => true
  | .pcieCoreFailure => true
  | .pcieLaneFault lane => decide (lane < 8)
  | .jobAdmit _ _ => true
  | .strokePlace => true
  | .preemptSave _ idx _ _ => decide (idx < 65536)
  | .strokeComplete _ idx _ _ _ => decide (idx < 65536)
  | .waitLimitExpiry _ => true
  | .timeLimitExpiry _ => true
  | .jobKillRelease _ => true
  | .schBucket _ idx => decide (idx < 65536)
  | .schMode _ idx => decide (idx < 65536)
  | .schNop _ idx => decide (idx < 65536)
  | .schSemset _ idx => decide (idx < 65536)
  | .schSemCtrlWrite fn value => decide (fn < 9) && decide (value < 2 ^ 32)
  | .modeStageWrite fn page value => decide (fn < 9) && decide (page < 256) && decide (value < 2 ^ 32)
  | .schModeCommit fn value => decide (fn < 9) && decide (value < 2 ^ 32)
  | .modeUnitApply page => decide (page < 256)
  | .modeTimeoutExpiry fn => decide (fn < 9)
  | .mmGemm _ idx _ => decide (idx < 65536)
  | .mmConv _ idx _ => decide (idx < 65536)
  | .mmPass _ idx _ accRow => decide (idx < 65536) && decide (accRow < 2048)
  | .passIssue cluster _ accRow _ _ _ => decide (cluster < 17) && decide (accRow < 2048)
  | .clusterParityDetect cluster _ _ hits => decide (cluster < 17) && decide (∀ h ∈ hits, h.path < 6)
  | .bcInjectWrite fn cluster value => decide (fn < 9) && decide (cluster < 17) && decide (value < 2 ^ 32)
  | .localBurnishDone cluster share => decide (cluster < 17) && decide (share < 4)
  | .hatchAdd _ idx => decide (idx < 65536)
  | .hatchSub _ idx => decide (idx < 65536)
  | .hatchMul _ idx => decide (idx < 65536)
  | .hatchAxpby _ idx => decide (idx < 65536)
  | .hatchMax _ idx => decide (idx < 65536)
  | .hatchMin _ idx => decide (idx < 65536)
  | .hatchAffine _ idx => decide (idx < 65536)
  | .hatchCast _ idx => decide (idx < 65536)
  | .hatchClamp _ idx => decide (idx < 65536)
  | .hatchFill _ idx => decide (idx < 65536)
  | .hatchIota _ idx => decide (idx < 65536)
  | .hatchRelu _ idx => decide (idx < 65536)
  | .hatchGelu _ idx => decide (idx < 65536)
  | .hatchSilu _ idx => decide (idx < 65536)
  | .hatchSigmoid _ idx => decide (idx < 65536)
  | .hatchTanh _ idx => decide (idx < 65536)
  | .hatchExp _ idx => decide (idx < 65536)
  | .hatchLog _ idx => decide (idx < 65536)
  | .hatchSqrt _ idx => decide (idx < 65536)
  | .hatchRsqrt _ idx => decide (idx < 65536)
  | .hatchRecip _ idx => decide (idx < 65536)
  | .hatchActBwd _ idx => decide (idx < 65536)
  | .hatchSum _ idx => decide (idx < 65536)
  | .hatchRowmax _ idx => decide (idx < 65536)
  | .hatchArgmax _ idx => decide (idx < 65536)
  | .hatchSoftmax _ idx => decide (idx < 65536)
  | .hatchLogsoftmax _ idx => decide (idx < 65536)
  | .hatchLayernorm _ idx => decide (idx < 65536)
  | .hatchRmsnorm _ idx => decide (idx < 65536)
  | .hatchNormBwd _ idx => decide (idx < 65536)
  | .hatchSoftmaxBwd _ idx => decide (idx < 65536)
  | .hatchTopk _ idx => decide (idx < 65536)
  | .hatchXent _ idx => decide (idx < 65536)
  | .hatchIou _ idx => decide (idx < 65536)
  | .hatchCosine _ idx => decide (idx < 65536)
  | .hatchNms _ idx => decide (idx < 65536)
  | .hatchAssoc _ idx => decide (idx < 65536)
  | .hatchSgdm _ idx => decide (idx < 65536)
  | .hatchAdamw _ idx => decide (idx < 65536)
  | .hatchSumsq _ idx => decide (idx < 65536)
  | .hatchPhilox _ idx => decide (idx < 65536)
  | .hatchDropout _ idx => decide (idx < 65536)
  | .hatchGather _ idx => decide (idx < 65536)
  | .hatchScatterAdd _ idx => decide (idx < 65536)
  | .attnFwd _ idx => decide (idx < 65536)
  | .attnBwd _ idx => decide (idx < 65536)
  | .attnKvwrite _ idx => decide (idx < 65536)
  | .moveCopy _ idx => decide (idx < 65536)
  | .moveLinear _ idx _ => decide (idx < 65536)
  | .moveFill _ idx => decide (idx < 65536)
  | .movePrefetch _ idx => decide (idx < 65536)
  | .moveFlush _ idx => decide (idx < 65536)
  | .moveEvict _ idx => decide (idx < 65536)
  | .moveRequant _ idx => decide (idx < 65536)
  | .plateParityDetect _ idx seg _ _ _ => decide (idx < 65536) && decide (seg < 34)
  | .plateBurnishDone seg => decide (seg < 34)
  | .plateAccessRetry _ => true
  | .psPowerWrite seg value => decide (seg < 34) && decide (value < 2 ^ 32)
  | .psDrainDone seg => decide (seg < 34)
  | .psWakeDone seg => decide (seg < 34)
  | .drainLimitExpiry seg => decide (seg < 34)
  | .psCacheBaseWrite fn seg value => decide (fn < 9) && decide (seg < 34) && decide (value < 2 ^ 32)
  | .letJoin _ idx => decide (idx < 65536)
  | .letStep _ idx => decide (idx < 65536)
  | .letTok _ idx => decide (idx < 65536)
  | .letDetok _ idx => decide (idx < 65536)
  | .letBind _ idx => decide (idx < 65536)
  | .maskWalkDone session => decide (session < 16384)
  | .stepDeadline => true
  | .letSessionStop value => decide (value < 2 ^ 32)
  | .letMaskCfgWrite off value => decide (off < 4096) && decide (value < 2 ^ 32)
  | .medOpen _ idx => decide (idx < 65536)
  | .medDecode _ idx _ _ _ => decide (idx < 65536)
  | .medEncode _ idx => decide (idx < 65536)
  | .medClose _ idx => decide (idx < 65536)
  | .medClass _ idx => decide (idx < 65536)
  | .medPage _ idx _ => decide (idx < 65536)
  | .medCws _ idx => decide (idx < 65536)
  | .pictureStart => true
  | .pictureDone core _ _ => decide (core < 9)
  | .pageDecodeDone decoder _ => decide (decoder < 4)
  | .poolWaitRetry _ => true
  | .medPoolWaitExpiry _ => true
  | .ctuRowDone core => decide (core < 9)
  | .panicMaxExpiry core => decide (core < 9)
  | .mediaParityDetect _ => true
  | .medCtxClassWrite value => decide (value < 2 ^ 32)
  | .intOpen _ idx => decide (idx < 65536)
  | .intEpoch _ idx => decide (idx < 65536)
  | .intClose _ idx => decide (idx < 65536)
  | .intRegopen _ idx => decide (idx < 65536)
  | .intRegclose _ idx => decide (idx < 65536)
  | .sampleDecodeDone ctx _ _ _ => decide (ctx < 8)
  | .decodeLimitExpiry ctx _ => decide (ctx < 8)
  | .batchEmit => true
  | .regPictureArrive group => decide (group < 16)
  | .setDeadlineExpiry group => decide (group < 16)
  | .trkRing _ idx => decide (idx < 65536)
  | .trkRingclose _ idx => decide (idx < 65536)
  | .trkOpen _ idx => decide (idx < 65536)
  | .trkClose _ idx => decide (idx < 65536)
  | .trkPrep _ idx _ => decide (idx < 65536)
  | .trkUpdate _ idx _ => decide (idx < 65536)
  | .trkText _ idx _ => decide (idx < 65536)
  | .trkPage _ idx _ => decide (idx < 65536)
  | .trkClip _ idx _ => decide (idx < 65536)
  | .parStateWrite value => decide (value < 2 ^ 32)
  | .parMoveWrite value => decide (value < 2 ^ 32)
  | .moveDone => true
  | .rulingLoad => true
  | .rulingEnable _ => true
  | .rulingSlotStart => true
  | .regulatorTick => true
  | .polPoolEnable value => decide (value < 2 ^ 32)
  | .polAlloc fn value => decide (fn < 9) && decide (value < 2 ^ 32)
  | .polRef fn value => decide (fn < 9) && decide (value < 2 ^ 32)
  | .polInit value => decide (value < 2 ^ 32)
  | .sliceRebuildDone pool part => decide (pool < 16) && decide (part < 8)
  | .correctableError _ _ _ _ => true
  | .uncorrectableError _ _ _ _ => true
  | .edcRetryExhausted _ _ _ _ => true
  | .patrolScrub _ _ _ => true
  | .refreshInterval position channel bank _ => decide (position < 9) && decide (channel < 2) && decide (bank < 16)
  | .periodicRetrain position _ _ => decide (position < 9)
  | .migrationPageCopy _ _ => true
  | .migrationDone => true
  | .gddr6PllLockLoss position => decide (position < 9)
  | .ulzTrain port good _ => decide (port < 2) && decide (good.length = 5)
  | .ulzTrainRetry port => decide (port < 2)
  | .ulzRetrain port good _ _ _ => decide (port < 2) && decide (good.length = 5)
  | .flitReceive port _ _ lane => decide (port < 2) && decide (lane < 4)
  | .remoteWrite port => decide (port < 2)
  | .remoteRead port => decide (port < 2)
  | .remoteSem port => decide (port < 2)
  | .collPacket port => decide (port < 2)
  | .linkAnswer port => decide (port < 2)
  | .ulzTimeoutExpiry _ idx => decide (idx < 65536)
  | .linkCopy _ idx => decide (idx < 65536)
  | .linkSem _ idx => decide (idx < 65536)
  | .linkAllreduce _ idx => decide (idx < 65536)
  | .linkAllgather _ idx => decide (idx < 65536)
  | .uVcCreditWrite port value => decide (port < 2) && decide (value < 2 ^ 32)
  | .ulzNodeWrite value => decide (value < 2 ^ 32)
  | .coldReset strap lanes rate _ _ _ _ => decide (strap < 4) && decide (lanes = 1 ∨ lanes = 2 ∨ lanes = 4 ∨ lanes = 8) && decide (1 ≤ rate ∧ rate < 7)
  | .gddr6TrainingDone _ => true
  | .bootServiceReady => true
  | .attestPreparationDone => true
  | .linkReset _ => true
  | .d3hotEntry => true
  | .d3hotToD0 => true
  | .serviceRestart _ => true
  | .referenceLoss _ => true
  | .thermalSample readings estimate => decide (readings.length = 24) && decide (estimate < 2 ^ 16)
  | .thermalShutdown sensor reading => decide (sensor < 24) && decide (reading < 256)
  | .railDip => true
  | .tapReset => true
  | .tapExtest _ _ _ => true
  | .tapIdcode => true
  | .samplePreload _ _ => true
  | .tapHighz _ => true
  | .tapClamp _ => true
  | .extestPulse _ _ _ => true
  | .extestTrain _ _ _ => true
  | .tapBypass => true
  | .smbusEventSummary => true
  | .smbusAttest op _ nonce => decide (op < 256) && decide (nonce.length = 28)
  | .eventRecordCommit => true
  | .recorderCheckpoint => true
  | .evtSelWrite fn num => decide (fn < 9) && decide (num < 2 ^ 32)
  | .evtFreezeWrite fn value => decide (fn < 9) && decide (value < 2 ^ 32)
  | .freezeLimitExpiry fn => decide (fn < 9)
  | .spareInTrigger kind _ cause => decide (kind < 6) && decide (cause < 8)
  | .wearCheck kind _ margin => decide (kind < 6) && decide (margin < 256)
  | .spareInComplete _ => true
  | .cqFullWaitExpiry q => decide (q < 4096)
  | .functionResetComplete fn => decide (fn < 9)
  | .vfPowerStateWrite vf _ => decide (1 ≤ vf ∧ vf < 9)
  | .positionNotAnswering position => decide (position < 9)
  | .gddr6TemperatureRead temps => decide (temps.length = 9)

end Sys2Proof
end

