-- ==== Sys2Proof/Machine/Tab.lean ====
section
/-! DEFINITION. Sparse tables in one canonical form: keys strictly rising, no entry equal to what an unlisted key reads as.
Memory, register files, queues, jobs and every other numbered resource of the device are held this way. -/
namespace Sys2Proof.Machine

/-- A sparse table: the pairs of a key and its value, keys strictly rising. -/
abbrev Tab (α : Type) := List (Nat × α)

/-- The value at a key; `d` is what an unlisted key reads as. -/
def Tab.get {α : Type} (d : α) : Tab α → Nat → α
  | [], _ => d
  | (k', v) :: t, k => if k' = k then v else Tab.get d t k

/-- Sets the value at a key and keeps the canonical form: writing the default removes the entry. -/
def Tab.put {α : Type} [DecidableEq α] (d : α) : Tab α → Nat → α → Tab α
  | [], k, v => if v = d then [] else [(k, v)]
  | (k', v') :: t, k, v =>
    if k < k' then (if v = d then (k', v') :: t else (k, v) :: (k', v') :: t)
    else if k = k' then (if v = d then t else (k, v) :: t)
    else (k', v') :: Tab.put d t k v

/-- Every key of the table is above `b`, and the keys rise strictly. -/
def Tab.above {α : Type} : Nat → Tab α → Bool
  | _, [] => true
  | b, (k, _) :: t => decide (b ≤ k) && Tab.above (k + 1) t

/-- The canonical form. -/
def Tab.wf {α : Type} [DecidableEq α] (d : α) (t : Tab α) : Bool :=
  Tab.above 0 t && t.all (fun e => decide (e.2 ≠ d))

/-- Removes the entries whose key is in the range of `n` keys from `a` on. -/
def Tab.clear {α : Type} (t : Tab α) (a n : Nat) : Tab α :=
  t.filter (fun e => !(decide (a ≤ e.1) && decide (e.1 < a + n)))

/-- The keys listed. -/
def Tab.keys {α : Type} (t : Tab α) : List Nat := t.map (·.1)

/-- Sets `n` consecutive keys from a list of values. -/
def Tab.putList {α : Type} [DecidableEq α] (d : α) (t : Tab α) (a : Nat) : List α → Tab α
  | [] => t
  | v :: vs => Tab.putList d (Tab.put d t a v) (a + 1) vs

/-- Reads `n` consecutive keys. -/
def Tab.getList {α : Type} (d : α) (t : Tab α) (a n : Nat) : List α :=
  (List.range n).map (fun i => Tab.get d t (a + i))

end Sys2Proof.Machine
end

