-- ==== Sys2Proof/Machine/Types.lean ====
section
/-! DEFINITION. The records that State is made of: host interface, jobs and strokes, partitions, clusters, plate, recorder and reserve. -/
namespace Sys2Proof.Machine

/-! ## Host interface (02_host_interface.md) -/

/-- One PCIe function: what its configuration space and HIF_SERVICE_STATUS hold (R25, R31, R334). -/
structure Func where
  /-- Bus Master Enable of the function's configuration space (R31). -/
  busMaster : Bool := false
  /-- HIF_SERVICE_STATUS.RESETTING. -/
  resetting : Bool := false
  /-- HIF_SERVICE_STATUS.SERVICE_READY. -/
  ready : Bool := false
  /-- HIF_SERVICE_STATUS.DEVICE_FAULT. -/
  fault : Bool := false
  /-- The Power State field reads D3hot (R334, R335). -/
  d3hot : Bool := false
  /-- An FLR of the function is between its first step and its end (R31). -/
  flr : Bool := false
  /-- HIF_BAR4_BASE_HI as written, effective with the next write of LO (R14; PF only). -/
  bar4HiStaged : Nat := 0
  /-- Device Control of its configuration space: the codes of the maximum payload size, at most 2 = 512 B, and of the maximum read request size, at most 5 = 4,096 B (R8; log entry 106). -/
  maxPayload : Nat := 0
  maxRead : Nat := 2
  /-- Device Control 2: the completion timeout value, 0 being the default of 50 ms, and the enable of 10-bit tags as requester (R8, R11; log entry 106). -/
  cplTimeout : Nat := 0
  tags10 : Bool := false
  /-- Link Control: ASPM L1 is enabled; the control of L0s, which is absent, reads 0 (R8; log entry 106). -/
  aspmL1 : Bool := false
  /-- AER: ECRC generation and checking are enabled (R8; log entry 106). -/
  ecrcGen : Bool := false
  ecrcCheck : Bool := false
  deriving DecidableEq, Repr

/-- QUE_ERR.STATE (R18). -/
inductive QState
  | disabled | running | error | draining
  deriving DecidableEq, Repr

/-- A completion entry waiting on chip or being posted (R21). -/
structure Cqe where
  status : Nat
  queue : Nat
  tag : Nat
  ptr : Nat
  irqNow : Bool
  /-- Tick since which it is held on chip (R32 code 0x0E). -/
  since : Nat := 0
  /-- The window chunks its job keeps until it is posted, and the partition they count for (R36, R53). -/
  chunks : Nat := 0
  part : Nat := 0
  deriving DecidableEq, Repr

/-- One queue pair (R16-R26). -/
structure Queue where
  sqBase : Nat := 0
  cqBase : Nat := 0
  vector : Nat := 0
  cqLog2 : Nat := 0
  sqLog2 : Nat := 0
  enable : Bool := false
  coalCount : Nat := 0
  coalTime : Nat := 0
  sqHead : Nat := 0
  sqTail : Nat := 0
  cqHead : Nat := 0
  cqTail : Nat := 0
  /-- The PHASE bit of the next completion entry is 1. -/
  phase : Bool := true
  /-- QUE_ERR bits 5:0. -/
  err : Nat := 0
  state : QState := .disabled
  /-- Completions since the queue last signalled (R26). -/
  count : Nat := 0
  /-- Tick at which the coalescing timer started. -/
  timer : Option Nat := none
  /-- Completions held on chip for CQ space, oldest first (R32 code 0x0E). -/
  held : List Cqe := []
  /-- Tick since which a completion waits for CQ space. -/
  heldSince : Option Nat := none
  deriving DecidableEq, Repr

/-- Result slot state (R28). -/
inductive SlotState
  | free | reserved | full
  deriving DecidableEq, Repr

/-- One result slot (R27-R29). -/
structure Slot where
  state : SlotState := .free
  seq : Nat := 1
  payload : List Byte := []
  deriving DecidableEq, Repr

/-- One MSI-X table entry (R25, R26). `sent` counts the messages sent (the model's own). -/
structure Vec where
  addr : Nat := 0
  data : Nat := 0
  masked : Bool := true
  pend : Bool := false
  sent : Nat := 0
  deriving DecidableEq, Repr

/-- The PCIe endpoint and its error reporting (R8, R32, R379). -/
structure Pcie where
  /-- The link is up. -/
  up : Bool := false
  /-- PCIe lanes trained: 1, 2, 4 or 8; 0 before the link has trained. -/
  width : Nat := 0
  /-- HIF_LINK_STATUS.RATE: 1 = 2.5, 2 = 5, 3 = 8, 4 = 16, 5 = 32, 6 = 64 GT/s; 0 before the link has trained. -/
  rate : Nat := 0
  /-- HIF_LINK_STATUS.DEGRADED: the link trained at x4 after a lane fault (R8). -/
  degraded : Bool := false
  /-- AER: Poisoned TLP Received. -/
  aerPoisoned : Bool := false
  /-- AER: ECRC Error. -/
  aerEcrc : Bool := false
  /-- AER: another error of a read answered poisoned, UR or CA, or of poisoned data sent (R32, R148). -/
  aerOther : Bool := false
  /-- Size of BAR4 as a power of two, set through the Resizable BAR capability, 28 to 34 (R8; log entry 8). -/
  bar4Log2 : Nat := 28
  /-- VF Enable of the PF (R31). -/
  vfEnable : Bool := false
  /-- The PCIe controller core has failed (R379). -/
  coreFailed : Bool := false
  /-- The stroke scheduler has failed (R31, R379). -/
  schedFailed : Bool := false
  deriving DecidableEq, Repr

/-- What the last host access returned (the model's own): read data, and whether the completion was poisoned or UR. -/
structure HostRead where
  data : List Byte := []
  poisoned : Bool := false
  unsupported : Bool := false
  deriving DecidableEq, Repr

/-- SVC_MBX_STATUS.STATE (R30). -/
inductive MbxState
  | idle | busy | done
  deriving DecidableEq, Repr

/-- The management mailbox (R30). -/
structure Mailbox where
  state : MbxState := .idle
  result : Nat := 0
  cmd : Nat := 0
  tag : Nat := 0
  args : List Nat := [0, 0, 0, 0, 0, 0, 0, 0]
  /-- The arguments latched by the last accepted command. -/
  latched : List Nat := [0, 0, 0, 0, 0, 0, 0, 0]
  rsps : List Nat := [0, 0, 0, 0, 0, 0, 0, 0]
  percent : Nat := 0
  deriving DecidableEq, Repr

/-! ## Jobs and strokes (03_strokes_and_scheduler.md) -/

/-- KIND of a wait entry (R37). -/
inductive WaitKind
  | none | token | mutex | counter
  deriving DecidableEq, Repr

/-- A wait entry (R37). -/
structure Wait where
  kind : WaitKind
  id : Nat
  target : Nat
  deriving DecidableEq, Repr

/-- KIND of a signal entry (R37). -/
inductive SigKind
  | none | token | release | add
  deriving DecidableEq, Repr

/-- A signal entry (R37). -/
structure Signal where
  kind : SigKind
  id : Nat
  deriving DecidableEq, Repr

/-- The stroke states (R39). -/
inductive StrokeState
  | waiting | ready | running | preempted | done | skipped
  deriving DecidableEq, Repr

/-- Where a stroke runs (R46). -/
inductive Place
  /-- A whole cluster. -/
  | whole (n : Nat)
  /-- The left or right half of a split-mode cluster. -/
  | half (n : Nat) (right : Bool)
  /-- The hatch unit of a full-mode cluster. -/
  | hatch (n : Nat)
  /-- The move engine of a full-mode cluster. -/
  | mover (n : Nat)
  /-- A session slot of the lettering engine, its step pipeline and its bulk lane (R160). -/
  | session (n : Nat) | letStep | letBulk
  | media | intake | trk
  /-- One Ulzia port, and both (R320). -/
  | link (p : Nat) | links
  | sched
  deriving DecidableEq, Repr

/-- A stroke in the window: its descriptor with operands resolved (R37, R38) and its progress. -/
structure Stroke where
  cls : Nat := 0
  op : Nat := 0
  splitOk : Bool := false
  barrier : Bool := false
  rt : Bool := false
  waits : List Wait := []
  signals : List Signal := []
  param : Nat := 0
  opnds : List Nat := [0, 0, 0, 0]
  state : StrokeState := .waiting
  place : Option Place := none
  /-- The operation has begun on a unit that ends it later (a session, a picture, a transfer). -/
  begun : Bool := false
  /-- The operation's effect has been carried out; the stroke awaits STROKE_COMPLETE. -/
  ran : Bool := false
  /-- The stroke has been re-run once after a plate parity detection (R149). -/
  rerun : Bool := false
  /-- Save frame that holds the stroke's state (R49). -/
  frame : Option Nat := none
  /-- A pre-emption of the stroke is under way (R48). -/
  preempting : Bool := false
  /-- The waiting stroke for which it was started, as job and index; none when a mode change, move, slot or spare-in started it. -/
  preemptFor : Option (Nat × Nat) := none
  /-- Saved from a split half (R47). -/
  savedSplit : Bool := false
  /-- Level-2 tiles completed when the stroke was saved (R93). -/
  tilesDone : Nat := 0
  /-- Order of placement, for "most recently started" (R48). -/
  started : Nat := 0
  /-- The bucket table of a sch.bucket stroke, read when the job was taken in: LIMIT, FIRST, COUNT (R51). -/
  buckets : List (Nat × Nat × Nat) := []
  /-- Tick of placement (R275). -/
  startTick : Nat := 0
  /-- CRC-32C of the structures as read at first placement (R93, R137). -/
  descCrc : Option Nat := none
  /-- It has been resumed after a pre-emption, so check 13 or 26 applies (R83, R136). -/
  resumed : Bool := false
  /-- The function, plus 1, whose mode change pre-empted it: it resumes after the change (R55). -/
  afterChange : Nat := 0
  /-- The structures that an mm or attn stroke works from, as read when it was last placed: address and bytes of each (R78, R93, R120). -/
  structs : List (Nat × List Byte) := []
  /-- Passes issued so far (R93). -/
  passes : Nat := 0
  /-- The accumulator tiles read back at its resumption, and which of its partial tiles each one is (R49, R93, R137). -/
  loaded : List Byte := []
  accOrder : List Nat := []
  /-- TILES of its save frame (R49). -/
  savedSlots : Nat := 0
  deriving DecidableEq, Repr

/-- What a job packet asked for, and how far the job is (R19, R35, R53). -/
inductive JobPhase
  /-- Fetched; JOB_RUN, JOB_FENCE or JOB_NOP has not yet examined it. -/
  | fetched
  /-- Format and quota pass; it waits for its window chunks and its reads (R34, R35). -/
  | entering
  /-- Its strokes are in the window. -/
  | running
  /-- Completed; its record is gone once its completion is posted. -/
  | gone
  deriving DecidableEq, Repr

/-- A fetched, uncompleted job (R19-R22, R35-R53). -/
structure Job where
  fn : Nat := 0
  /-- Global queue index. -/
  queue : Nat := 0
  part : Nat := 0
  packet : List Byte := []
  phase : JobPhase := .gone
  tag : Nat := 0
  irqNow : Bool := false
  ordered : Bool := false
  resultMode : Nat := 0
  base : Nat := 0
  eff : Nat := 0
  /-- Holders between the blocked stroke that raised its effective priority and the job, itself counted; 0 where it is not raised (R50). -/
  via : Nat := 0
  first : Nat := 0
  count : Nat := 0
  argsAddr : Nat := 0
  argsLen : Nat := 0
  resultAddr : Nat := 0
  /-- Global result slot of a SLOT-mode job that holds one. -/
  slot : Option Nat := none
  timeLimit : Nat := 0
  fetchTick : Nat := 0
  args : List Byte := []
  strokes : List Stroke := []
  tokens : Tab Nat := []
  chunks : Nat := 0
  /-- Status of the kill, once killed (R53). -/
  killed : Option Nat := none
  rerun : Bool := false
  reordered : Bool := false
  rollback : Bool := false
  grammarDead : Bool := false
  sessionStopped : Bool := false
  /-- Tick of the last change of state of one of its strokes (R44). -/
  changed : Nat := 0
  /-- Order in which jobs were taken into the window (R45). -/
  entry : Nat := 0
  /-- It was fetched while SERVICE_READY = 0 (R22). -/
  notReady : Bool := false
  /-- No completion is posted any more (R31 step 3 without Bus Master Enable). -/
  silent : Bool := false
  /-- R275: sums over its timed strokes. -/
  active : Nat := 0
  stall : Nat := 0
  timed : Nat := 0
  deriving DecidableEq, Repr

/-- A semaphore (R42). `holder` is the id of the holding job plus 1; 0 is free. -/
structure Sem where
  mutex : Bool := false
  value : Nat := 0
  holder : Nat := 0
  deriving DecidableEq, Repr

/-- MODE_STAGE and MODE_APPLIED of one page (R54, R55). -/
structure ModeUnit where
  armed : Bool := false
  owner : Nat := 0
  newMode : Nat := 0
  applied : Bool := false
  rolledBack : Bool := false
  current : Nat := 0
  /-- The mode to return to at a rollback. -/
  old : Nat := 0
  /-- Taken in by a pending change of this function (plus 1); 0 is none. -/
  pending : Nat := 0
  deriving DecidableEq, Repr

/-- SCH_MODE_STATUS.STATE. -/
inductive ChangeState
  | idle | pending | committed | rolledBack
  deriving DecidableEq, Repr

/-- The mode change of one function (R54, R55). -/
structure ModeChange where
  state : ChangeState := .idle
  refused : Bool := false
  result : Nat := 0
  armed : Nat := 0
  applied : Nat := 0
  start : Nat := 0
  /-- The sch.mode stroke that committed, as job and stroke index. -/
  byStroke : Option (Nat × Nat) := none
  /-- SCH_MODE_TIMEOUT.US of the function. -/
  timeout : Nat := 0x2710
  deriving DecidableEq, Repr

/-! ## Partitions (13_partitions_and_ruling.md) -/

/-- PAR_STATE.STATE (R264). -/
inductive PartState
  | unused | config | active
  deriving DecidableEq, Repr

/-- A token bucket (R272): RATE and DEPTH in units of 64 B, a signed level in bytes, and whether a request is held at its port. -/
structure Bucket where
  rate : Nat := 0
  depth : Nat := 0
  level : Int := 0
  /-- A request of the partition is held at its port (R272). -/
  held : Bool := false
  deriving DecidableEq, Repr

/-- One partition (R262-R276) with its part of the SCH page. -/
structure Part where
  state : PartState := .unused
  fn : Nat := 0
  maxPriority : Nat := 0
  measure : Bool := true
  /-- A change of MEASURE written and not yet in effect (R274). -/
  measureNext : Option Bool := none
  window : Nat := 0
  qCount : Nat := 0
  qFirst : Nat := 0
  sCount : Nat := 0
  sFirst : Nat := 0
  semCount : Nat := 0
  semFirst : Nat := 0
  sessCount : Nat := 0
  sessFirst : Nat := 0
  gSize : Nat := 0
  gBase : Nat := 0
  gddr : Bucket := {}
  plate : Bucket := {}
  link : Bucket := {}
  regHeld : Nat := 0
  slowBase : Nat := 0
  slowLog2 : Nat := 4
  slowDropped : Nat := 0
  waitLimit : Nat := 0x3E8
  saveBase : Nat := 0
  frames : Nat := 0
  /-- Frames reserved or holding state: frame number and job. -/
  framesUsed : List (Nat × Nat) := []
  preempts : Nat := 0
  inherits : Nat := 0
  deriving DecidableEq, Repr

/-- A ruling-table entry (R269). -/
structure RulEntry where
  duration : Nat := 0
  clustersA : Nat := 0
  partA : Nat := 0
  enA : Bool := false
  clustersB : Nat := 0
  partB : Nat := 0
  enB : Bool := false
  deriving DecidableEq, Repr

/-- A stroke named by its job's id and its index in the job. -/
structure StrokeRef where
  job : Nat
  idx : Nat
  deriving DecidableEq, Repr

/-- Strokes that the start of a slot found on clusters it reserves for others, each with its cluster (R271). -/
structure SlotWait where
  /-- Tick at which the slot began. -/
  start : Nat
  strokes : List (Nat × StrokeRef)
  deriving DecidableEq, Repr

/-- The ruling table (R269-R271). -/
structure Ruling where
  table : List RulEntry := []
  /-- A loaded table that awaits the end of the cycle. -/
  pendingTable : Option (List RulEntry) := none
  enable : Bool := false
  length : Nat := 0
  entry : Nat := 0
  /-- Tick at which the entry in force began. -/
  slotStart : Nat := 0
  errEntry : Nat := 0
  unpreempted : Nat := 0
  maxUs : Nat := 0
  /-- Slots whose reserved clusters are not yet free of such strokes (R271 step 3). -/
  awaiting : List SlotWait := []
  deriving DecidableEq, Repr

/-- PAR_MOVE_STATUS and the move under way (R268). -/
structure UnitMove where
  /-- 0 = IDLE, 1 = BUSY, 2 = DONE, 3 = REFUSED. -/
  status : Nat := 0
  reason : Nat := 0
  kind : Nat := 0
  index : Nat := 0
  dest : Nat := 0
  deriving DecidableEq, Repr

/-! ## Clusters (04_matrix_array.md) -/

/-- The stationary registers of an array, or of a half: the FORMAT code and the codes of the tile they hold, row by row; rows from `k` on and columns from `n` on hold zero (R57, R63, R65). -/
structure Stationary where
  fmt : Nat := 0
  k : Nat := 0
  n : Nat := 0
  codes : List Nat := []
  deriving DecidableEq, Repr

/-- The code in row `k` and column `n`. -/
def Stationary.at (x : Stationary) (k n : Nat) : Nat := if k < x.k ∧ n < x.n then x.codes.getD (k * x.n + n) 0 else 0

/-- The two register sets of an array or of a half, the active one and the shadow (R65, R66). -/
structure ArrayTiles where
  active : Stationary := {}
  shadow : Stationary := {}
  deriving DecidableEq, Repr

/-- One logical cluster (R46, R69-R74). The default owner is partition 0 (R265). -/
structure Cluster where
  owner : Nat := 0
  /-- The stroke that has the whole cluster, or the left half of a split one. -/
  left : Option StrokeRef := none
  right : Option StrokeRef := none
  hatch : Option StrokeRef := none
  mover : Option StrokeRef := none
  /-- A burnish of the left half's share, of the right half's, or of the whole cluster's local memory is under way (R72, R73). -/
  burnishL : Bool := false
  burnishR : Bool := false
  burnishW : Bool := false
  /-- The hatch unit's or the move engine's operand-store buffer is under burnish (R73). -/
  burnishH : Bool := false
  burnishM : Bool := false
  /-- Physical cluster behind the name, plus 1; 0 is the one of the same number. -/
  phys : Nat := 0
  withdrawn : Bool := false
  /-- Issue cycle of the preceding pass and the cycles its rows take, of the left half or whole array and of the right half (R67, R70). -/
  issueL : Nat := 0
  rowsL : Nat := 0
  issueR : Nat := 0
  rowsR : Nat := 0
  /-- The stationary registers of the left half or whole array and of the right half (R65, R66). -/
  tilesL : ArrayTiles := {}
  tilesR : ArrayTiles := {}
  deriving DecidableEq, Repr

/-! ## Plate memory (08_plate_memory.md) -/

/-- PS_STATE.POWER (R154). -/
inductive SegPower
  | on | draining | off | waking
  deriving DecidableEq, Repr

/-- One logical plate segment (R138-R157, R405). -/
structure Seg where
  /-- Owning partition plus 1; 0 is none, and the default 1 is partition 0 (R265). -/
  owner : Nat := 1
  power : SegPower := .on
  req : Bool := false
  drainLimit : Nat := 0x2710
  drainStart : Nat := 0
  /-- Blocks of 64 KiB under burnish, in the order in which they are cleared (R152). -/
  burnish : List Nat := []
  inReads : Nat := 0
  inWrites : Nat := 0
  windowBase : Nat := 0
  windowLog2 : Nat := 0x17
  windowHiStaged : Nat := 0
  phys : Nat := 0
  withdrawn : Bool := false
  deriving DecidableEq, Repr

/-- A cache line (R143-R150). -/
structure Line where
  valid : Bool := false
  dirty : Bool := false
  /-- GDDR6 address of the line divided by 128. -/
  tag : Nat := 0
  /-- The job that last dirtied the line, plus 1; 0 when none. -/
  job : Nat := 0
  /-- POISONED in its first and in its second block of GDDR6 (R292, R294). -/
  poisonLo : Bool := false
  poisonHi : Bool := false
  /-- A parity detection marked the line as poisoned: both of its blocks are when it is written back (R150, R294). -/
  marked : Bool := false
  /-- Its tag is stored with bad parity (R148). -/
  badTag : Bool := false
  data : List Byte := []
  deriving DecidableEq, Repr

/-- A plate access answered with a retry and presented again every 64 cycles (R155). -/
structure RetryReq where
  who : StrokeRef
  seg : Nat
  isWrite : Bool
  addr : Nat
  /-- The bytes of a last write that ends its stroke; none where the unit itself presents its accesses again. -/
  data : List Byte := []
  deriving DecidableEq, Repr

/-! ## Event recorder and reserve (19_event_recorder_and_reserve.md) -/

/-- An event record (R360); the repeat tail is `times` and `last`. -/
structure Event where
  cls : Nat
  code : Nat
  seconds : Nat
  stroke : Nat
  part : Nat
  charged : Bool
  fn : Nat
  page : Nat
  check : Nat
  detail : List Byte
  /-- Tick of the first occurrence (the model's own, for the 1 s of R364). -/
  tick : Nat
  times : Nat
  last : Nat
  deriving DecidableEq, Repr

/-- A numbered record of the log, with the power cycle it belongs to (R362). -/
structure LogRec where
  num : Nat
  cycle : Nat
  /-- The block of the event area that holds the record, counted from the first ever written (R363). -/
  blk : Nat
  ev : Event
  deriving DecidableEq, Repr

/-- EVT_SEL, EVT_SEL_STATUS, EVT_SEL_NEXT and EVT_DATA of one function (R365). -/
structure EvtSel where
  num : Nat := 0
  /-- 0 = PENDING, 1 = PRESENT, 2 = ABSENT, 3 = ERASED. -/
  state : Nat := 2
  isOpen : Bool := false
  cycle : Nat := 0
  next : Nat := 0
  data : List Byte := []
  deriving DecidableEq, Repr

/-- The event recorder (R360-R370). -/
structure Recorder where
  /-- Records in flash, in ascending number. -/
  log : List LogRec := []
  /-- Open records, oldest first, at most 16 (R364). -/
  opened : List LogRec := []
  /-- Records staged during a freeze or a clear, oldest first, at most 64 (R367). -/
  staged : List Event := []
  /-- The number the next record takes. -/
  next : Nat := 1
  /-- Functions that hold a freeze, with the tick at which each began. -/
  freezes : List (Nat × Nat) := []
  freezeLimit : Nat := 0x3E8
  /-- Highest number cleared (R370). -/
  cleared : Nat := 0
  overflow : Nat := 0
  /-- Events lost while the staging of the present freeze or clear was full. -/
  lostNow : Nat := 0
  lostWrap : Nat := 0
  powerCycles : Nat := 0
  /-- Operating seconds at the cold reset (R362). -/
  secondsBase : Nat := 0
  /-- A clear runs: UPTO, signing owner slot, and the records it erases. -/
  clearing : Option (Nat × Nat) := none
  /-- Tick of the last checkpoint. -/
  checkpoint : Nat := 0
  /-- The block being filled and the bytes used in it, its header included (R363). -/
  headBlk : Nat := 0
  headOff : Nat := 16
  deriving DecidableEq, Repr

/-- A spare-in trigger (R371, R372): KIND, INDEX, CAUSE, whether to retire without a spare, and whether the mailbox waits for it. -/
structure Trigger where
  kind : Nat
  index : Nat
  cause : Nat
  retire : Bool
  byMailbox : Bool
  deriving DecidableEq, Repr

/-- A ledger entry (R376). -/
structure LedgerEntry where
  kind : Nat
  action : Nat
  logical : Nat
  physFrom : Nat
  physTo : Nat
  cause : Nat
  seq : Nat
  cycles : Nat
  seconds : Nat
  deriving DecidableEq, Repr

/-- The reserve manager (R371-R377). -/
structure Reserve where
  queue : List Trigger := []
  running : Option Trigger := none
  phase : Nat := 0
  ledger : List LedgerEntry := []
  /-- Torn entries met at the last reapplication. -/
  torn : Nat := 0
  spareCluster : Bool := true
  spareSegs : Nat := 2
  spareCore : Bool := true
  /-- Counts of the SPARE_THRESH metrics in the running windows: key metric * 2^16 + kind * 2^8 + physical unit, and the seconds of the counted events (R371). -/
  counts : Tab (List Nat) := []
  /-- The SPARE_THRESH settings in force: KIND, METRIC, window in hours, threshold (R351). -/
  thresh : List (Nat × Nat × Nat × Nat) := [(0, 1, 24, 4), (1, 1, 24, 4), (2, 1, 24, 4), (3, 2, 24, 4096), (3, 3, 24, 65536)]
  /-- WEAR thresholds in picoseconds of clusters and of codec cores (R351). -/
  wearCluster : Nat := 10
  wearCore : Nat := 10
  deriving DecidableEq, Repr

end Sys2Proof.Machine
end

