-- ==== Sys2Proof/Machine/UnitTypes.lean ====
section
/-! DEFINITION. The records of the lettering engine, media engine, intake pipeline, tracking unit, buffer pools, GDDR6, links, clocks, boot and pins. -/
namespace Sys2Proof.Machine

/-- Partition 0 under the factory layout (R265, R266). -/
def Part.factory0 : Part :=
  { state := .active, maxPriority := 7, window := 1024, qCount := 4096, sCount := 32768,
    semCount := 4096, sessCount := 16384, gSize := 960 }

/-- The reset values of the value registers of the PF that do not reset to 0: CLK limits, MEM, MED, INT, LET and ULZ settings (chapters 9 to 11 and 15 to 17). -/
def resetRegs : Tab Word :=
  [(0x08124, 0x00036964), (0x0812C, 0x55), (0x60108, 0x3E00), (0x6010C, 0xC), (0x60110, 0x2815), (0x70120, 0x03E800C8), (0x70128, 0x1388),
   (0x80100, 0xC8), (0x90114, 0x00A0000C), (0x90120, 0x10), (0xB0104, 0x3E8), (0xB0108, 0x10)]

/-! ## GDDR6 (15_gddr6_memory.md) -/

/-- The GDDR6 subsystem (R288-R307). -/
structure Gddr where
  trained : Bool := false
  /-- Devices of 16 Gb (R289). -/
  dense : Bool := false
  /-- Gb/s per pin in force. -/
  rate : Nat := 0
  frozen : Bool := false
  /-- MEM_FREEZE.CAUSE and POSITION. -/
  cause : Nat := 0
  freezePos : Nat := 0
  migrating : Bool := false
  /-- Logical position being migrated. -/
  source : Nat := 0
  /-- M8 is trained and the copy runs (R304 step 2). -/
  copying : Bool := false
  /-- The next page to copy. -/
  page : Nat := 0
  /-- The migration was started by an error, so an FLR of the PF starts it again (R305). -/
  byError : Bool := false
  /-- A migration that an FLR of the PF abandoned and that starts again with service (R305): the position plus 1. -/
  again : Nat := 0
  /-- M8 is a spare that works (MEM_STATUS.SPARES). -/
  spare : Bool := false
  /-- Positions in service (MEM_STATUS.IN_SERVICE). -/
  inService : Nat := 8
  /-- The error log of the dump: ERR_CAPTURE0-3 of each error, oldest first, at most 256 (R307). -/
  log : List (List Nat) := []
  /-- The dump captured at the freeze. -/
  dump : List Byte := []
  /-- The next block of the patrol scrubber, by address divided by 64 (R295). -/
  scrub : Nat := 0
  /-- The profile's data rate, minimum margins and EDC limit (R351). -/
  cfgRate : Nat := 20
  minRead : Nat := 8
  minWrite : Nat := 8
  edcLimit : Nat := 256
  deriving DecidableEq, Repr

/-- One GDDR6 position behind a logical name, 0-8 (M8 is the position behind none). -/
structure MemPos where
  /-- M_STATE.STATE: 0 = OFF, 1 = TRAINING, 2 = ACTIVE, 3 = COPY_SOURCE, 4 = COPY_TARGET, 5 = FAILED. -/
  state : Nat := 0
  temp : Nat := 0
  /-- The refresh period is halved by temperature (R301). -/
  hot : Bool := false
  /-- Physical position plus 1; 0 is the one of the same number. -/
  phys : Nat := 0
  retired : Bool := false
  withdrawn : Bool := false
  /-- M_TRAIN: RESULT and the two margins. -/
  result : Nat := 0
  readMargin : Nat := 0
  writeMargin : Nat := 0
  /-- An on-demand retraining runs (R302). -/
  retraining : Bool := false
  /-- The position's PLL is in lock (R329). -/
  locked : Bool := true
  /-- Postponed refreshes by channel * 16 + bank (R301). -/
  postponed : Tab Nat := []
  /-- Retries in the running second (R296). -/
  edcSecond : Nat := 0
  edcCount : Nat := 0
  deriving DecidableEq, Repr

/-- Who makes a GDDR6 request: its class, and the codec core that makes it (R299, R300). -/
structure MemSrc where
  cls : Nat
  core : Option Nat := none
  deriving DecidableEq, Repr

/-- A request that waits in a channel: its block, its class, the codec core that made it plus 1, and the tick of its acceptance (R297). -/
structure MemReq where
  addr : Nat
  write : Bool
  cls : Nat
  core : Nat
  came : Nat
  deriving DecidableEq, Repr

/-- One channel of a GDDR6 position (R297, R299, R300). -/
structure Channel where
  reads : List MemReq := []
  writes : List MemReq := []
  /-- A write drain runs; the queue held 64 entries and goes down to 48. -/
  draining : Bool := false
  full : Bool := false
  /-- Commands in a row that went to the panic. -/
  panicRun : Nat := 0
  /-- The open row of each bank, plus 1. -/
  rows : Tab Nat := []
  /-- Highest occupancy of the write queue, and drains started. -/
  peak : Nat := 0
  drains : Nat := 0
  deriving DecidableEq, Repr

/-! ## Ulzia links (16_ulzia_links.md) -/

/-- A packet (R317). -/
structure Packet where
  typ : Nat
  dst : Nat
  src : Nat
  vc : Nat
  len : Nat
  status : Nat
  tag : Nat
  /-- ADDR or ARG: the 8 bytes at 0x08. -/
  arg : Nat
  data : List Byte
  /-- Tick of arrival (the model's own). -/
  tick : Nat
  /-- The port in whose receive buffer it takes units, plus 1 (the model's own); 0 = none. -/
  via : Nat := 0
  deriving DecidableEq, Repr

/-- A flit in the replay buffer: the fields of its head and its packet units (R317). -/
structure Flit where
  seq : Nat
  ack : Nat
  nak : Bool
  creditVc : Nat
  credit : Nat
  units : List Byte
  deriving DecidableEq, Repr

/-- One port (R310-R319). -/
structure Port where
  /-- U_STATE.STATE: 0 = DOWN, 1 = TRAINING, 2 = UP, 3 = RETRAINING. -/
  state : Nat := 0
  width : Nat := 0
  partner : Nat := 0
  /-- Physical lane of each logical lane 0-3. -/
  lanes : List Nat := [0, 1, 2, 3]
  /-- Physical lanes that work, 0-4. -/
  good : List Bool := [true, true, true, true, true]
  /-- SPARE_MAP.STATE. -/
  spare : Nat := 0
  /-- The port's PLL is in lock (R329). -/
  locked : Bool := true
  /-- Tick of the last training that failed (R314). -/
  tried : Nat := 0
  /-- Sequence number of the next flit sent, and of the last received in sequence. -/
  txSeq : Nat := 0
  rxSeq : Nat := 4095
  /-- The flits sent carry NAK = 1 (R317). -/
  nak : Bool := false
  /-- Flits not yet acknowledged, oldest first, at most 64. -/
  replay : List Flit := []
  /-- Replays of the oldest of them without success. -/
  replays : Nat := 0
  /-- Units of a packet not yet complete. -/
  part : List Byte := []
  /-- Packets received and not yet served, oldest first. -/
  inbox : List Packet := []
  /-- Packets that wait to be sent, oldest first. -/
  waiting : List Packet := []
  /-- Units the partner has granted and that are unused, by VC. -/
  held : Tab Nat := []
  /-- Units granted to the partner, by VC (unlisted: the reset value 0x200), and a grant written and not yet in force, plus 1. -/
  grant : Tab Nat := []
  grantNext : Tab Nat := []
  /-- Units of packets in the receive buffer, by VC. -/
  used : Tab Nat := []
  /-- Units to return to the partner, by VC (R317, R318). -/
  owed : Tab Nat := []
  /-- Consecutive retrainings that failed (R316). -/
  failed : Nat := 0
  /-- CRC errors of each lane in the running second. -/
  laneSecond : Nat := 0
  laneErrs : Tab Nat := []
  deriving DecidableEq, Repr

/-- A transfer that awaits its answer (R322). -/
structure Xfer where
  tag : Nat
  port : Nat
  vc : Nat
  job : Nat
  idx : Nat
  /-- Packet type of the answer: 3 = READ_DATA, 4 = WRITE_ACK, 6 = SEM_ACK. -/
  typ : Nat
  /-- Where READ_DATA goes. -/
  addr : Nat
  len : Nat
  start : Nat
  deriving DecidableEq, Repr

/-- A collective of a local stroke (R323, R324). -/
structure Coll where
  job : Nat
  idx : Nat
  id : Nat
  vc : Nat
  reduce : Bool
  bf16 : Bool
  ring : Nat
  node : Nat
  /-- Base of the source and of the destination, and the bytes of the source. -/
  src : Nat
  dst : Nat
  size : Nat
  /-- Bytes received of each part, by direction * 2^32 + step * 2^16 + chunk. -/
  got : Tab Nat := []
  /-- Bytes of the destination that are final. -/
  done : Nat := 0
  start : Nat
  deriving DecidableEq, Repr

/-! ## Lettering engine (09_lettering_engine.md) -/

/-- STATE of a session (R173). -/
inductive SessState
  | free | waiting | active | closing
  deriving DecidableEq, Repr

/-- One session slot (R172, R173). -/
structure Session where
  state : SessState := .free
  /-- END of R173. -/
  fin : Nat := 0
  group : Nat := 0
  /-- STOP_KEEP, IGNORE_EOS, SAMPLE in bits 0-2; SAT_OUT and UTF8_INCOMPLETE in bits 3 and 4. -/
  stopKeep : Bool := false
  ignoreEos : Bool := false
  sample : Bool := false
  satOut : Bool := false
  utf8Open : Bool := false
  /-- The let.join that holds the slot. -/
  job : Nat := 0
  idx : Nat := 0
  vocab : Nat := 0
  grammar : Nat := 0xFF
  stopSet : Nat := 0xFFFF
  ring : Nat := 0
  maxNew : Nat := 0
  kvLen : Nat := 0
  /-- Q_LEN of the next length-table entry. -/
  qLen : Nat := 0
  promptLen : Nat := 0
  generated : Nat := 0
  input : Nat := 0
  topK : Nat := 0
  /-- Group slot plus 1; 0 while WAITING. -/
  gslot : Nat := 0
  temp : Nat := 0
  topP : Nat := 0
  seed : Nat := 0
  pdaState : Nat := 0
  /-- The grammar stack, bottom first. -/
  stack : List Nat := []
  sitRun : Nat := 0
  sitTotal : Nat := 0
  textBase : Nat := 0
  textCap : Nat := 0
  textLen : Nat := 0
  promptAddr : Nat := 0
  holdLen : Nat := 0
  tail : List Byte := []
  kvStart : Nat := 0
  stepJoined : Nat := 0
  /-- Its mask is ready (R181). -/
  ready : Bool := false
  /-- It had no mask at the deadline of the running let.step (R182). -/
  late : Bool := false
  /-- The host stopped it (R180). -/
  stopped : Bool := false
  /-- The last bytes released to the text buffer, at most 3 (the model's own, for UTF8_INCOMPLETE). -/
  textTail : List Byte := []
  deriving DecidableEq, Repr

/-- One step group (R175-R179). -/
structure Group where
  /-- Owning partition plus 1; 0 is none. -/
  owner : Nat := 0
  /-- The current copy: 0 = A, 1 = B. -/
  copy : Nat := 0
  step : Nat := 0
  /-- Sessions in slots: group slot and session index, ascending. -/
  slots : List (Nat × Nat) := []
  /-- Waiting sessions, in the order of their let.join placement. -/
  waiting : List Nat := []
  /-- Group slots with a row in the committed tables, ascending: the rows of the logits (R176). -/
  rows : List Nat := []
  deriving DecidableEq, Repr

/-- A vocabulary or grammar slot (R163). -/
structure Bound where
  /-- Partition that bound it plus 1; 0 is unbound. -/
  owner : Nat := 0
  base : Nat := 0
  /-- Bind generation. -/
  gen : Nat := 0
  deriving DecidableEq, Repr

/-! ## Buffer pools (14_buffer_pools.md) -/

/-- The slice of one partition in a pool (R277, R284, R285). -/
structure PolSlice where
  enable : Bool := false
  count : Nat := 0
  base : Nat := 0
  /-- STATE: 0 = DISABLED, 1 = ACTIVE, 2 = QUARANTINED, 3 = BUILDING. -/
  state : Nat := 0
  /-- Index of the first free buffer, and how many there are. -/
  head : Nat := 0
  free : Nat := 0
  gen : Nat := 0
  refused : Nat := 0
  underflow : Nat := 0
  deriving DecidableEq, Repr

/-- One buffer pool (R277-R280). -/
structure Pool where
  enable : Bool := false
  stepUp : Bool := false
  nextEn : Bool := false
  next : Nat := 0
  size4k : Nat := 0
  first : Nat := 0
  /-- Slices by partition. -/
  slices : Tab PolSlice := []
  deriving DecidableEq, Repr

/-! ## Service controller, clocks and pins (17_clocks_reset_power.md, 18_boot_security_profile.md, 20_pins_electrical_package.md) -/

/-- An owner slot in fuses (R344). -/
structure OwnerSlot where
  programmed : Bool := false
  revoked : Bool := false
  digest : List Byte := []
  deriving DecidableEq, Repr

/-- What a boot meets outside the device (R330, R333, R347): the SMBus straps, the lanes and the rate that train, whether the flash answers and the attestation fuse reads back blown. -/
structure BootIn where
  strap : Nat
  lanes : Nat
  rate : Nat
  flashOk : Bool
  fuseOk : Bool
  deriving DecidableEq, Repr

/-- What the service controller holds: boot, profile, owner slots, attestation, thermal state and the mailbox work in hand (R327-R359). -/
structure Svc where
  /-- SEC_BOOT_STATUS.STAGE: 0 = BOOT_ROM, 1 = FIRMWARE, 2 = RUNNING, 3 = RECOVERY. -/
  stage : Nat := 0
  reason : Nat := 0
  layoutFactory : Bool := false
  /-- The PARTITION set of a profile is in force (R353). -/
  layoutOwn : Bool := false
  skipped : Nat := 0
  /-- The profile in force: 0 = factory defaults, 1 = copy A, 2 = copy B; its SEQ and signer. -/
  profile : Nat := 0
  profileSeq : Nat := 0
  signer : Nat := 0xF
  /-- Entries of the profile in force that keep the rules: byte offset, TYPE and value, in order (R351). -/
  entries : List (Nat × Nat × List Byte) := []
  /-- The running firmware (R345). -/
  fwVersion : Nat := 0
  svn : Nat := 0
  fwRaise : Bool := false
  fwDigest : List Byte := []
  /-- Blown fuses of MIN_SVN, and of the attestation counter (R346, R356). -/
  minSvn : Nat := 0
  steps : Nat := 0
  owners : List OwnerSlot := [{}, {}, {}, {}]
  /-- SEC_ATTEST.STATE and SIGS_LEFT, SEC_ATTEST_STEPS.TOP_LEAF. -/
  attest : Nat := 0
  sigsLeft : Nat := 0
  topLeaf : Nat := 0
  /-- The top leaf of the boot's preparation while it runs (R356). -/
  preparing : Option Nat := none
  /-- A fuse failed to read back blown; attestation is unavailable until the next cold reset (R356). -/
  fuseFailed : Bool := false
  /-- The blob of the last SIGN on the mailbox, and on SMBus (R357). -/
  blob : List Byte := []
  smbusBlob : List Byte := []
  /-- The words that the last SMBus request answered: result, then RSP0-7 (R357, R368). -/
  smbus : List Nat := []
  /-- CLK_RESET_CAUSE.KIND. -/
  resetCause : Nat := 1
  /-- CLK_TIME_HI as latched by the last read of CLK_TIME_LO. -/
  timeHi : Nat := 0
  /-- Last and highest readings of the 24 sensors, signed degrees Celsius in 8 bits; 0x80 = none yet (R337). -/
  temps : List Nat := List.replicate 24 0x80
  peaks : List Nat := List.replicate 24 0x80
  tj : Nat := 0x80
  tjSensor : Nat := 0
  /-- THM_THROTTLE.DUTY and STEPS. -/
  duty : Nat := 8
  throttles : Nat := 0
  estimate : Nat := 0
  /-- THERM_ALERT_N is asserted (R339). -/
  alert : Bool := false
  /-- The reference is present, the root PLL and the PCIe PLL are in lock (R329). -/
  refOk : Bool := false
  rootLock : Bool := false
  pcieLock : Bool := false
  /-- The device has halted; only a cold reset and the TAP answer (R329, R340, R386). -/
  halted : Bool := false
  /-- It has halted in thermal shutdown (R340). -/
  shut : Bool := false
  /-- The boot ROM waits for every sensor to read below 110 degrees (R340). -/
  bootWait : Option BootIn := none
  /-- Cold boot, unit initialisation or the reset of the PF has not yet ended (R31, R333). -/
  initialising : Bool := false
  /-- The SMBus address sampled from the straps at the cold boot (R386). -/
  smbusAddr : Nat := 0x24
  /-- The object that a long mailbox command writes: its bytes and where they go in flash (R349, R354). -/
  staged : List Byte := []
  stagedAt : Nat := 0
  /-- Position that GDDR6_RETRAIN or the controller retrains for the mailbox (R302). -/
  retrain : Nat := 0
  deriving DecidableEq, Repr

/-- The JTAG TAP and its boundary register of 2,028 cells, as numbers (R394). -/
structure Tap where
  /-- The instruction in force: IDCODE after a TAP reset. -/
  instr : Nat := 0x01
  /-- What the selected data register captured. -/
  data : Nat := 0
  /-- The update stage of the boundary register. -/
  latch : Nat := 0
  /-- What the balls take from the TAP: 0 = nothing, 1 = the boundary, 2 = high impedance. -/
  drive : Nat := 0
  deriving DecidableEq, Repr

/-! ## Media engine (10_media_engine.md) -/

/-- A decoded picture that a context holds: its buffer and what its descriptor says (R194). -/
structure Decoded where
  poc : Nat
  handle : Nat
  width : Nat
  height : Nat
  format : Nat
  matrix : Nat
  fullRange : Bool
  /-- Coding units concealed, and CONCEALED, which a concealed reference sets too (R199). -/
  concealed : Nat
  patched : Bool
  tainted : Bool
  rap : Bool
  longTerm : Bool
  time : Nat
  deadline : Option Nat
  /-- It is a reference picture. -/
  isRef : Bool
  /-- It awaits output. -/
  waits : Bool
  /-- Output is not yet open to it (R198). -/
  hidden : Bool
  /-- The joining of its context under which it was accepted. -/
  epoch : Nat
  deriving DecidableEq, Repr

/-- How a picture is encoded (R201-R203): its number since med.open and in its sweep, wholly intra with the parameter sets, the intra columns [first, last), the columns already refreshed, to whose
counterparts their units' prediction is limited, the pictures it is predicted from, a recovery point SEI and its recovery_frame_cnt, whether it becomes the long-term reference, and QP. -/
structure EncPlan where
  number : Nat
  sweep : Nat
  intra : Bool
  first : Nat
  last : Nat
  refs : List Nat
  recovery : Option Nat
  longTerm : Bool
  qp : Nat
  deriving DecidableEq, Repr

/-- A stream context (R193). -/
structure StreamCtx where
  /-- Owning partition plus 1; 0 is none, and the default 1 is partition 0 (R265). -/
  owner : Nat := 1
  /-- MED_CTX_STATE.STATE: 0 = CLOSED, 1 = OPEN, 2 = JOINING, 3 = RESYNC, 4 = UNSUPPORTED. -/
  state : Nat := 0
  encode : Bool := false
  codec : Nat := 0
  cls : Nat := 0
  maxCores : Nat := 0
  deadline : Nat := 0
  ring : Nat := 0
  ringLog2 : Nat := 0
  pool : Nat := 0
  sem : Nat := 0xFFFF
  dropConcealed : Bool := false
  matrixDefault : Nat := 0
  width : Nat := 0
  height : Nat := 0
  refresh : Nat := 0
  averageRate : Bool := false
  qp : Nat := 0
  qpMax : Nat := 0
  bitrate : Nat := 0
  ltrInterval : Nat := 0
  fps : Nat := 0
  /-- The engine's own count of TAIL, and the pictures output. -/
  tail : Nat := 0
  number : Nat := 0
  /-- The next picture output carries FIRST. -/
  first : Bool := true
  /-- Decoding has begun since the context last joined (R198). -/
  decoding : Bool := false
  /-- No later start has been met since it resumed output (R198). -/
  joined : Bool := false
  /-- Time stamp of the chunk in which the incomplete access unit began. -/
  openTime : Nat := 0
  /-- Decoded pictures that the context holds. -/
  dpb : List Decoded := []
  /-- Registration group plus 1, and the member's number in it (R234). -/
  group : Nat := 0
  member : Nat := 0
  /-- Encode: pictures coded since med.open, and the picture number in the sweep that the next one takes (R202). -/
  coded : Nat := 0
  sweep : Nat := 0
  /-- Encode: the number of the picture before and of the long-term reference, and how the last picture was encoded (R201-R203). -/
  lastRef : Option Nat := none
  longRef : Option Nat := none
  plan : Option EncPlan := none
  /-- Times the context has begun to join or to resynchronise (R198). -/
  epoch : Nat := 0
  suppressed : Nat := 0
  concealed : Nat := 0
  dropped : Nat := 0
  late : Nat := 0
  deriving DecidableEq, Repr

/-- A coded page: KIND, BLACK_IS_ZERO, LSB_FIRST and EOL_ALIGNED of its block or record, where its bytes lie, and what a JPEG header says (R207). -/
structure PageSpec where
  kind : Nat := 0
  blackIsZero : Bool := false
  lsbFirst : Bool := false
  eolAligned : Bool := false
  input : Nat := 0
  len : Nat := 0
  info : PageInfo := { ok := true, width := 0, height := 0, colour := false, halfWidth := false, halfHeight := false, restart := 0 }
  deriving DecidableEq, Repr

/-- What an entry of the media queue is (R204). -/
inductive MedKind
  | decode | encode | jpeg | bilevel
  deriving DecidableEq, Repr

/-- An entry of the media queue: a picture, a part of one, or a page (R197, R204). -/
structure MedWork where
  id : Nat
  kind : MedKind
  job : Nat
  idx : Nat
  ctx : Nat
  /-- Number of the picture among all accepted; its parts share it. -/
  order : Nat
  part : Nat
  parts : Nat
  pic : CodedPic
  /-- FORMAT of the output picture (R195). -/
  format : Nat
  /-- A page's coding, and the intake context and position that it is decoded for (R207, R229). -/
  page : PageSpec := {}
  intake : Option (Nat × Nat) := none
  time : Nat
  /-- Tick of acceptance. -/
  came : Nat
  /-- Class with which the picture started, and the tick by which a LIVE one is due; known to every part when the first one starts (R205, R206). -/
  cls : Option Nat := none
  deadline : Option Nat := none
  /-- Without AU_END its end is known with the next access unit's first byte (R191). -/
  tail : Bool := false
  /-- The joining of its context under which it was accepted (R198). -/
  epoch : Nat := 0
  /-- Tick at which it took its core. -/
  begun : Nat := 0
  /-- Output is open to the picture (R198). -/
  shown : Bool
  /-- The pool of its output buffer, and the partition charged. -/
  pool : Nat
  owner : Nat
  /-- The output buffer, plus 1; 0 while it has none. -/
  handle : Nat := 0
  /-- Tick since which it waits for a buffer, and the tick of its last try. -/
  waitSince : Option Nat := none
  tried : Nat := 0
  /-- Coding units that finished parts of the picture found damaged. -/
  damaged : List Nat := []
  /-- The core or page decoder that runs it. -/
  core : Option Nat := none
  deriving DecidableEq, Repr

/-- A codec core by logical name 0-7, the core behind no name 8, or a page decoder 16-19 (0-1 JPEG, 2-3 bilevel). -/
structure Core where
  /-- The work it runs, plus 1. -/
  work : Nat := 0
  /-- Class with which the running picture started (R205). -/
  cls : Nat := 0
  /-- Coding-unit rows finished. -/
  rows : Nat := 0
  panic : Bool := false
  panicStart : Nat := 0
  /-- The panic of the running picture was cut (R206). -/
  cut : Bool := false
  phys : Nat := 0
  withdrawn : Bool := false
  retired : Bool := false
  deriving DecidableEq, Repr

/-! ## Intake pipeline (11_intake_pipeline.md) -/

/-- A sample that has been fetched, checked and decoded, or that is corrupt (R226, R229). -/
structure Drawn where
  /-- Corruption reason, or 0. -/
  reason : Nat := 0
  /-- SAMPLE_ID, or all ones when the header could not be read. -/
  id : Nat := 0xFFFFFFFFFFFFFFFF
  /-- KIND 3: raw bytes. -/
  raw : Bool := false
  /-- The picture descriptor, or the data bytes of KIND 3. -/
  data : List Byte := []
  label : List Byte := []
  /-- The handle of its transient buffer plus 1; 0 when it holds none. -/
  handle : Nat := 0
  /-- It was served from the cache. -/
  hit : Bool := false
  deriving DecidableEq, Repr

/-- What the reorder window holds of a dispatched position (R229). -/
inductive Sample
  /-- It has not been decided, nor dispatched. -/
  | pending
  /-- Dispatched at a tick: it is fetched, or its page waits for or runs on a page decoder. -/
  | fetch (since : Nat)
  /-- It waits for a buffer since a tick (R281). -/
  | waiting (since : Nat)
  | ready (d : Drawn)
  deriving DecidableEq, Repr

/-- An intake context (R221-R233). -/
structure IntCtx where
  /-- Owning partition plus 1. -/
  owner : Nat := 1
  /-- INT_CTX_STATE.STATE: 0 = CLOSED, 1 = OPEN, 2 = RUNNING. -/
  state : Nat := 0
  /-- The intake context block as read. -/
  block : List Byte := []
  /-- The epoch block of the running int.epoch, and its stroke. -/
  epoch : List Byte := []
  job : Nat := 0
  idx : Nat := 0
  /-- Next position to emit. -/
  next : Nat := 0
  /-- Next position to dispatch (R229). -/
  sent : Nat := 0
  /-- The reorder window, by position. -/
  window : Tab Sample := []
  /-- SAMPLE_ID and label of the samples whose index word is VALID or CORRUPT, by sample (the model's own, R232; log entry 34). -/
  kept : Tab (List Byte) := []
  /-- TAIL of the batch ring, and batches emitted by the stroke. -/
  tail : Nat := 0
  batches : Nat := 0
  valid : Nat := 0
  hits : Nat := 0
  decodes : Nat := 0
  /-- Corrupt samples met, in position order: sample, position, reason, SAMPLE_ID. -/
  corrupt : List (Nat × Nat × Nat × Nat) := []
  cached : Nat := 0
  /-- Bytes of the cache area in use. -/
  used : Nat := 0
  deriving DecidableEq, Repr

/-- A picture in a registration set: its descriptor and its buffer's handle. -/
structure RegPic where
  desc : List Byte
  handle : Nat
  deriving DecidableEq, Repr

/-- An open set (R235). -/
structure RegSet where
  anchor : Int
  due : Nat
  pics : Tab (Option RegPic) := []
  deriving DecidableEq, Repr

/-- A registration group (R234-R238). -/
structure RegGroup where
  /-- Owning partition plus 1. -/
  owner : Nat := 1
  isOpen : Bool := false
  /-- Members defined, their contexts and offsets. -/
  count : Nat := 0
  members : List Nat := []
  contexts : List Nat := []
  offsets : List Int := []
  tol : Nat := 0
  deadline : Nat := 0
  ring : Nat := 0
  ringLog2 : Nat := 0
  sem : Nat := 0xFFFF
  tail : Nat := 0
  sets : List RegSet := []
  /-- Anchor of the last set emitted. -/
  lastAnchor : Option Int := none
  /-- Pictures output by the members and not yet placed: member and picture. -/
  arrivals : List (Nat × RegPic) := []
  emitted : Nat := 0
  partials : Nat := 0
  late : Nat := 0
  dropped : Nat := 0
  deriving DecidableEq, Repr

/-! ## Tracking unit (12_metadata_and_tracking.md) -/

/-- An output ring (R240-R244). -/
structure OutRing where
  /-- TRK_RING_STATE.STATE: 0 = CLOSED, 1 = OPEN, 2 = DROPPING, 3 = ERROR. -/
  state : Nat := 0
  part : Nat := 0
  ctrl : Nat := 0
  data : Nat := 0
  log2 : Nat := 0
  tail : Nat := 0
  /-- The last HEAD read. -/
  head : Nat := 0
  /-- SEQ of the next record. -/
  seq : Nat := 1
  /-- Records dropped since the last record written, and since trk.ring. -/
  gap : Nat := 0
  dropped : Nat := 0
  deriving DecidableEq, Repr

/-- A track slot (R253-R255). Numbers are FP32 bits. -/
structure Track where
  /-- 0 = free, 1 = TENTATIVE, 2 = CONFIRMED, 3 = LOST. -/
  state : Nat := 0
  id : Nat := 0
  cls : Nat := 0
  hits : Nat := 0
  misses : Nat := 0
  age : Nat := 0
  score : Nat := 0
  /-- Last matched box, its centre and the velocity; the predicted box and the embedding are TBOX and TEMB in memory (R250). -/
  box : List Nat := []
  centre : List Nat := []
  velocity : List Nat := []
  deriving DecidableEq, Repr

/-- A tracking stream (R249-R258). -/
structure TrkStream where
  isOpen : Bool := false
  part : Nat := 0
  base : Nat := 0
  ring : Nat := 0
  tentative : Bool := false
  detections : Bool := false
  lost : Bool := false
  embDim : Nat := 0
  embFmt : Nat := 0
  maxAge : Nat := 0
  minSize : Nat := 0
  alpha : Nat := 0
  beta : Nat := 0
  cols : Nat := 0
  nextId : Nat := 0
  slots : Tab Track := []
  /-- A trk.prep awaits its trk.update: the picture's NUMBER, and the columns it wrote. -/
  prepped : Bool := false
  prepNumber : Nat := 0
  columns : Nat := 0
  /-- The picture of the trk.prep was stale (R257). -/
  stalePrep : Bool := false
  /-- NUMBER of the last update. -/
  lastNumber : Option Nat := none
  overflow : Bool := false
  full : Nat := 0
  small : Nat := 0
  rejected : Nat := 0
  stale : Nat := 0
  deriving DecidableEq, Repr

end Sys2Proof.Machine
end

