-- ==== Sys2Proof/Machine/State.lean ====
section
/-! DEFINITION. The state of the device as plain data, the reasons a step can stop, and the state right after reset.
Every piece of state the spec gives the device has a field here (INVENTORY.md lists each with its rule). -/
namespace Sys2Proof.Machine

/-- The state of the LV7730: every register group, table, buffer and memory that the spec names, and the queue of the commands that wait. -/
structure State where
  /-- The commands that wait, first in, first out (the block's queue; log entry 1). -/
  pending : List Instr
  /-- The model's own: the number of free values drawn so far (log entry 2). -/
  fresh : Nat
  /-- Microseconds of device time since the cold reset (R328): one per REGULATOR_TICK. -/
  ticks : Nat
  /-- The model's own: what the last host read returned (log entry 3). -/
  hostRead : HostRead
  /-- Device memory: GDDR6 from 0, plate scratch from 0x1000_0000_0000, host memory from 0x8000_0000_0000 (R10, R138). An unlisted byte reads as 0 (log entry 5). -/
  mem : Tab Byte
  /-- Cluster local memory, 4 MiB for each logical cluster, by `localKey`: each half's share of the accumulator store in one piece (R15, R70). -/
  localMem : Tab Byte
  /-- POISONED GDDR6 blocks, by address divided by 64 (R292). -/
  poisoned : Tab Bool
  /-- Plate words stored with bad parity, by device address divided by 4 (R148, R149). -/
  badWords : Tab Bool
  /-- Registers that only hold a value, by function * 2^20 + PF BAR0 offset; an unlisted one reads 0 (R6, R400). -/
  regs : Tab Word
  /-- The nine functions, 0 = PF (R12, R25, R31). -/
  funcs : Tab Func
  /-- The 4,096 queue pairs, by global index (R16). -/
  queues : Tab Queue
  /-- The 4,096 result slots, by global index (R27). -/
  slots : Tab Slot
  /-- MSI-X table entries, by function * 2,048 + vector (R25). -/
  vecs : Tab Vec
  /-- The PCIe endpoint (R8, R379). -/
  pcie : Pcie
  /-- The management mailbox (R30). -/
  mbx : Mailbox
  /-- Fetched, uncompleted jobs, by the order in which they were fetched. -/
  jobs : Tab Job
  /-- The id that the next fetched job takes (the model's own numbering of fetches). -/
  nextJob : Nat
  /-- Jobs taken into the window so far (the model's own numbering, R45). -/
  entries : Nat
  /-- Strokes placed so far (the model's own numbering, R48). -/
  starts : Nat
  /-- The 4,096 semaphores, by global index (R42). -/
  sems : Tab Sem
  /-- MODE_STAGE and MODE_APPLIED, by BAR0 page (R54). -/
  modeUnits : Tab ModeUnit
  /-- The mode change of each function (R54). -/
  modeChanges : Tab ModeChange
  /-- The eight partitions (R262). -/
  parts : Tab Part
  /-- The ruling table (R269). -/
  ruling : Ruling
  /-- The move of a unit (R268). -/
  unitMove : UnitMove
  /-- Logical clusters 0-15 (R46). -/
  clusters : Tab Cluster
  /-- Logical plate segments 0-31 (R138). -/
  segs : Tab Seg
  /-- Claims of 64 KiB plate blocks, by segment * 128 + block: the claiming job's id plus 1 (R151). -/
  claims : Tab Nat
  /-- Cache lines, by segment * 65,536 + set * 16 + way (R143). -/
  lines : Tab Line
  /-- The 15-bit pseudo-LRU tree of each set, by segment * 4,096 + set (R143). -/
  plru : Tab Nat
  /-- Plate accesses that wait for a segment, in the order of presentation (R155). -/
  retries : List RetryReq
  /-- The event recorder (R360). -/
  recorder : Recorder
  /-- The record selection of each function (R365). -/
  evtSels : Tab EvtSel
  /-- The reserve manager (R371). -/
  reserve : Reserve
  /-- The GDDR6 subsystem (R288). -/
  gddr : Gddr
  /-- GDDR6 positions by logical name 0-7, and 8 for the one behind no name (R288). -/
  positions : Tab MemPos
  /-- The GDDR6 channels, by logical position * 2 + device channel: queues, drains and open rows (R297). -/
  channels : Tab Channel
  /-- The Ulzia ports U0 and U1 (R310). -/
  ports : Tab Port
  /-- Transfers of local link strokes that await an answer (R322). -/
  xfers : List Xfer
  /-- Collectives of local strokes (R323). -/
  colls : List Coll
  /-- The next transaction tag (the model's own numbering, R317). -/
  nextTag : Nat
  /-- The 16,384 session slots, by global index (R172). -/
  sessions : Tab Session
  /-- The 64 step groups (R175). -/
  groups : Tab Group
  /-- The four vocabulary slots (R163). -/
  vocabs : Tab Bound
  /-- The 32 grammar slots (R163). -/
  grammars : Tab Bound
  /-- Keys of the mask-cache entries, by entry index (R181). -/
  maskTags : Tab (List Byte)
  /-- Bases in force of the LO/HI register pairs whose HI takes effect with LO (R171, R181, R187), by page * 0x1000 + offset of LO. -/
  bases : Tab Nat
  /-- The 16 buffer pools (R277). -/
  pools : Tab Pool
  /-- Reference counts of the side table, by entry (R282, R283). -/
  refs : Tab Nat
  /-- Allocations of a function that wait for the rebuild of a slice, as the value written to POL_ALLOC plus 1 (R287). -/
  polWaits : Tab Nat
  /-- The service controller: boot, profile, security, thermal and clock state (R327-R359). -/
  svc : Svc
  /-- The JTAG TAP (R394). -/
  tap : Tap
  /-- Bytes of the flash, by offset; an unlisted byte is erased, 0xFF (R341, R342; log entry 9). -/
  flash : Tab Byte
  /-- The 256 stream contexts (R193). -/
  streams : Tab StreamCtx
  /-- The entries of the media queue, in order of acceptance (R204). -/
  medQueue : List MedWork
  /-- Pictures and pages accepted so far (the model's own numbering, R204). -/
  medNext : Nat
  /-- Codec cores by logical name 0-7, 8 for the one behind no name, and the page decoders 16-19. -/
  cores : Tab Core
  /-- The eight intake contexts (R221). -/
  intakes : Tab IntCtx
  /-- The 16 registration groups (R234). -/
  regGroups : Tab RegGroup
  /-- The 64 output rings (R240). -/
  outRings : Tab OutRing
  /-- The tracking streams, by stream context (R249). -/
  tracks : Tab TrkStream
  deriving DecidableEq, Repr

/-- The reasons a step could fault. -/
inductive Fault
  /-- Raised by no command: every fault of the device (a killed job, a violation, a halted device) is part of its state and the block goes on. Safe. -/
  | none
  deriving DecidableEq, Repr

/-- The reasons a command could be refused. -/
inductive Refusal
  /-- Raised by the dispatch alone, for a command that has no meaning in the model. Safe. -/
  | notModelled (mnemonic : String)
  deriving DecidableEq, Repr

/-- The device right after reset: every register at the reset value its rule gives, partition 0 and the PF with the factory layout (R265, R266), memory with nothing listed. -/
def State.reset : State where
  pending := []
  fresh := 0
  ticks := 0
  hostRead := {}
  mem := []
  localMem := []
  poisoned := []
  badWords := []
  regs := resetRegs
  funcs := []
  queues := []
  slots := []
  vecs := []
  pcie := {}
  mbx := {}
  jobs := []
  nextJob := 1
  entries := 0
  starts := 0
  sems := []
  modeUnits := []
  modeChanges := []
  parts := [(0, Part.factory0)]
  ruling := {}
  unitMove := {}
  clusters := []
  segs := []
  claims := []
  lines := []
  plru := []
  retries := []
  recorder := {}
  evtSels := []
  reserve := {}
  gddr := {}
  positions := []
  channels := []
  ports := []
  xfers := []
  colls := []
  nextTag := 0
  sessions := []
  groups := []
  vocabs := []
  grammars := []
  maskTags := []
  bases := []
  pools := []
  refs := []
  polWaits := []
  svc := {}
  tap := {}
  flash := []
  streams := []
  medQueue := []
  medNext := 0
  cores := []
  intakes := []
  regGroups := []
  outRings := []
  tracks := []

end Sys2Proof.Machine
end

