-- ==== Sys2Proof/Machine/Eff.lean ====
section
/-! DEFINITION. The effects: everything a command can do to the device, one field or one entry of a table at a time.
A command's meaning is a plan, the list of effects it has in a state; `State.applyAll` carries a plan out.
No effect touches the queue of waiting commands. -/
namespace Sys2Proof.Machine

/-- One effect on the state. -/
inductive Eff
  /-- Sets `fresh`. -/
  | fresh (v : Nat)
  /-- Sets `ticks`. -/
  | ticks (v : Nat)
  /-- Sets `hostRead`. -/
  | hostRead (v : HostRead)
  /-- Sets one entry of `mem`. -/
  | mem (k : Nat) (v : Byte)
  /-- Sets one entry of `localMem`. -/
  | localMem (k : Nat) (v : Byte)
  /-- Sets one entry of `poisoned`. -/
  | poisoned (k : Nat) (v : Bool)
  /-- Sets one entry of `badWords`. -/
  | badWords (k : Nat) (v : Bool)
  /-- Sets one entry of `regs`. -/
  | regs (k : Nat) (v : Word)
  /-- Sets one entry of `funcs`. -/
  | funcs (k : Nat) (v : Func)
  /-- Sets one entry of `queues`. -/
  | queues (k : Nat) (v : Queue)
  /-- Sets one entry of `slots`. -/
  | slots (k : Nat) (v : Slot)
  /-- Sets one entry of `vecs`. -/
  | vecs (k : Nat) (v : Vec)
  /-- Sets `pcie`. -/
  | pcie (v : Pcie)
  /-- Sets `mbx`. -/
  | mbx (v : Mailbox)
  /-- Sets one entry of `jobs`. -/
  | jobs (k : Nat) (v : Job)
  /-- Sets `nextJob`. -/
  | nextJob (v : Nat)
  /-- Sets `entries`. -/
  | entries (v : Nat)
  /-- Sets `starts`. -/
  | starts (v : Nat)
  /-- Sets one entry of `sems`. -/
  | sems (k : Nat) (v : Sem)
  /-- Sets one entry of `modeUnits`. -/
  | modeUnits (k : Nat) (v : ModeUnit)
  /-- Sets one entry of `modeChanges`. -/
  | modeChanges (k : Nat) (v : ModeChange)
  /-- Sets one entry of `parts`. -/
  | parts (k : Nat) (v : Part)
  /-- Sets `ruling`. -/
  | ruling (v : Ruling)
  /-- Sets `unitMove`. -/
  | unitMove (v : UnitMove)
  /-- Sets one entry of `clusters`. -/
  | clusters (k : Nat) (v : Cluster)
  /-- Sets one entry of `segs`. -/
  | segs (k : Nat) (v : Seg)
  /-- Sets one entry of `claims`. -/
  | claims (k : Nat) (v : Nat)
  /-- Sets one entry of `lines`. -/
  | lines (k : Nat) (v : Line)
  /-- Sets one entry of `plru`. -/
  | plru (k : Nat) (v : Nat)
  /-- Sets `retries`. -/
  | retries (v : List RetryReq)
  /-- Sets `recorder`. -/
  | recorder (v : Recorder)
  /-- Sets one entry of `evtSels`. -/
  | evtSels (k : Nat) (v : EvtSel)
  /-- Sets `reserve`. -/
  | reserve (v : Reserve)
  /-- Sets `gddr`. -/
  | gddr (v : Gddr)
  /-- Sets one entry of `positions`. -/
  | positions (k : Nat) (v : MemPos)
  /-- Sets one entry of `channels`. -/
  | channels (k : Nat) (v : Channel)
  /-- Sets one entry of `ports`. -/
  | ports (k : Nat) (v : Port)
  /-- Sets `xfers`. -/
  | xfers (v : List Xfer)
  /-- Sets `colls`. -/
  | colls (v : List Coll)
  /-- Sets `nextTag`. -/
  | nextTag (v : Nat)
  /-- Sets one entry of `sessions`. -/
  | sessions (k : Nat) (v : Session)
  /-- Sets one entry of `groups`. -/
  | groups (k : Nat) (v : Group)
  /-- Sets one entry of `vocabs`. -/
  | vocabs (k : Nat) (v : Bound)
  /-- Sets one entry of `grammars`. -/
  | grammars (k : Nat) (v : Bound)
  /-- Sets one entry of `maskTags`. -/
  | maskTags (k : Nat) (v : List Byte)
  /-- Sets one entry of `bases`. -/
  | bases (k : Nat) (v : Nat)
  /-- Sets one entry of `pools`. -/
  | pools (k : Nat) (v : Pool)
  /-- Sets one entry of `refs`. -/
  | refs (k : Nat) (v : Nat)
  /-- Sets one entry of `polWaits`. -/
  | polWaits (k : Nat) (v : Nat)
  /-- Sets `svc`. -/
  | svc (v : Svc)
  /-- Sets `tap`. -/
  | tap (v : Tap)
  /-- Sets one entry of `flash`. -/
  | flash (k : Nat) (v : Byte)
  /-- Sets one entry of `streams`. -/
  | streams (k : Nat) (v : StreamCtx)
  /-- Sets `medQueue`. -/
  | medQueue (v : List MedWork)
  /-- Sets `medNext`. -/
  | medNext (v : Nat)
  /-- Sets one entry of `cores`. -/
  | cores (k : Nat) (v : Core)
  /-- Sets one entry of `intakes`. -/
  | intakes (k : Nat) (v : IntCtx)
  /-- Sets one entry of `regGroups`. -/
  | regGroups (k : Nat) (v : RegGroup)
  /-- Sets one entry of `outRings`. -/
  | outRings (k : Nat) (v : OutRing)
  /-- Sets one entry of `tracks`. -/
  | tracks (k : Nat) (v : TrkStream)
  /-- Stores bytes from an address of the device address space on. -/
  | store (a : Nat) (bs : List Byte)
  /-- Zeroes a range of the device address space. -/
  | zero (a n : Nat)
  /-- Stores bytes in the local memory of the clusters, from a key on. -/
  | localStore (k : Nat) (bs : List Byte)
  /-- Returns a range of `localMem` to what unlisted entries read as. -/
  | localMemClear (a n : Nat)
  /-- Returns a range of `poisoned` to what unlisted entries read as. -/
  | poisonedClear (a n : Nat)
  /-- Returns a range of `badWords` to what unlisted entries read as. -/
  | badWordsClear (a n : Nat)
  /-- Returns a range of `regs` to what unlisted entries read as. -/
  | regsClear (a n : Nat)
  /-- Returns a range of `funcs` to what unlisted entries read as. -/
  | funcsClear (a n : Nat)
  /-- Returns a range of `queues` to what unlisted entries read as. -/
  | queuesClear (a n : Nat)
  /-- Returns a range of `slots` to what unlisted entries read as. -/
  | slotsClear (a n : Nat)
  /-- Returns a range of `vecs` to what unlisted entries read as. -/
  | vecsClear (a n : Nat)
  /-- Returns a range of `jobs` to what unlisted entries read as. -/
  | jobsClear (a n : Nat)
  /-- Returns a range of `sems` to what unlisted entries read as. -/
  | semsClear (a n : Nat)
  /-- Returns a range of `modeUnits` to what unlisted entries read as. -/
  | modeUnitsClear (a n : Nat)
  /-- Returns a range of `modeChanges` to what unlisted entries read as. -/
  | modeChangesClear (a n : Nat)
  /-- Returns a range of `parts` to what unlisted entries read as. -/
  | partsClear (a n : Nat)
  /-- Returns a range of `clusters` to what unlisted entries read as. -/
  | clustersClear (a n : Nat)
  /-- Returns a range of `segs` to what unlisted entries read as. -/
  | segsClear (a n : Nat)
  /-- Returns a range of `claims` to what unlisted entries read as. -/
  | claimsClear (a n : Nat)
  /-- Returns a range of `lines` to what unlisted entries read as. -/
  | linesClear (a n : Nat)
  /-- Returns a range of `plru` to what unlisted entries read as. -/
  | plruClear (a n : Nat)
  /-- Returns a range of `evtSels` to what unlisted entries read as. -/
  | evtSelsClear (a n : Nat)
  /-- Returns a range of `positions` to what unlisted entries read as. -/
  | positionsClear (a n : Nat)
  /-- Returns a range of `channels` to what unlisted entries read as. -/
  | channelsClear (a n : Nat)
  /-- Returns a range of `ports` to what unlisted entries read as. -/
  | portsClear (a n : Nat)
  /-- Returns a range of `sessions` to what unlisted entries read as. -/
  | sessionsClear (a n : Nat)
  /-- Returns a range of `groups` to what unlisted entries read as. -/
  | groupsClear (a n : Nat)
  /-- Returns a range of `vocabs` to what unlisted entries read as. -/
  | vocabsClear (a n : Nat)
  /-- Returns a range of `grammars` to what unlisted entries read as. -/
  | grammarsClear (a n : Nat)
  /-- Returns a range of `maskTags` to what unlisted entries read as. -/
  | maskTagsClear (a n : Nat)
  /-- Returns a range of `bases` to what unlisted entries read as. -/
  | basesClear (a n : Nat)
  /-- Returns a range of `pools` to what unlisted entries read as. -/
  | poolsClear (a n : Nat)
  /-- Returns a range of `refs` to what unlisted entries read as. -/
  | refsClear (a n : Nat)
  /-- Returns a range of `polWaits` to what unlisted entries read as. -/
  | polWaitsClear (a n : Nat)
  /-- Returns a range of `flash` to what unlisted entries read as. -/
  | flashClear (a n : Nat)
  /-- Returns a range of `streams` to what unlisted entries read as. -/
  | streamsClear (a n : Nat)
  /-- Returns a range of `cores` to what unlisted entries read as. -/
  | coresClear (a n : Nat)
  /-- Returns a range of `intakes` to what unlisted entries read as. -/
  | intakesClear (a n : Nat)
  /-- Returns a range of `regGroups` to what unlisted entries read as. -/
  | regGroupsClear (a n : Nat)
  /-- Returns a range of `outRings` to what unlisted entries read as. -/
  | outRingsClear (a n : Nat)
  /-- Returns a range of `tracks` to what unlisted entries read as. -/
  | tracksClear (a n : Nat)

/-- Carries one effect out. -/
def State.apply (s : State) : Eff → State
  | .fresh v => { s with fresh := v }
  | .ticks v => { s with ticks := v }
  | .hostRead v => { s with hostRead := v }
  | .mem k v => { s with mem := Tab.put 0 s.mem k v }
  | .localMem k v => { s with localMem := Tab.put 0 s.localMem k v }
  | .poisoned k v => { s with poisoned := Tab.put false s.poisoned k v }
  | .badWords k v => { s with badWords := Tab.put false s.badWords k v }
  | .regs k v => { s with regs := Tab.put 0 s.regs k v }
  | .funcs k v => { s with funcs := Tab.put {} s.funcs k v }
  | .queues k v => { s with queues := Tab.put {} s.queues k v }
  | .slots k v => { s with slots := Tab.put {} s.slots k v }
  | .vecs k v => { s with vecs := Tab.put {} s.vecs k v }
  | .pcie v => { s with pcie := v }
  | .mbx v => { s with mbx := v }
  | .jobs k v => { s with jobs := Tab.put {} s.jobs k v }
  | .nextJob v => { s with nextJob := v }
  | .entries v => { s with entries := v }
  | .starts v => { s with starts := v }
  | .sems k v => { s with sems := Tab.put {} s.sems k v }
  | .modeUnits k v => { s with modeUnits := Tab.put {} s.modeUnits k v }
  | .modeChanges k v => { s with modeChanges := Tab.put {} s.modeChanges k v }
  | .parts k v => { s with parts := Tab.put {} s.parts k v }
  | .ruling v => { s with ruling := v }
  | .unitMove v => { s with unitMove := v }
  | .clusters k v => { s with clusters := Tab.put {} s.clusters k v }
  | .segs k v => { s with segs := Tab.put {} s.segs k v }
  | .claims k v => { s with claims := Tab.put 0 s.claims k v }
  | .lines k v => { s with lines := Tab.put {} s.lines k v }
  | .plru k v => { s with plru := Tab.put 0 s.plru k v }
  | .retries v => { s with retries := v }
  | .recorder v => { s with recorder := v }
  | .evtSels k v => { s with evtSels := Tab.put {} s.evtSels k v }
  | .reserve v => { s with reserve := v }
  | .gddr v => { s with gddr := v }
  | .positions k v => { s with positions := Tab.put {} s.positions k v }
  | .channels k v => { s with channels := Tab.put {} s.channels k v }
  | .ports k v => { s with ports := Tab.put {} s.ports k v }
  | .xfers v => { s with xfers := v }
  | .colls v => { s with colls := v }
  | .nextTag v => { s with nextTag := v }
  | .sessions k v => { s with sessions := Tab.put {} s.sessions k v }
  | .groups k v => { s with groups := Tab.put {} s.groups k v }
  | .vocabs k v => { s with vocabs := Tab.put {} s.vocabs k v }
  | .grammars k v => { s with grammars := Tab.put {} s.grammars k v }
  | .maskTags k v => { s with maskTags := Tab.put [] s.maskTags k v }
  | .bases k v => { s with bases := Tab.put 0 s.bases k v }
  | .pools k v => { s with pools := Tab.put {} s.pools k v }
  | .refs k v => { s with refs := Tab.put 0 s.refs k v }
  | .polWaits k v => { s with polWaits := Tab.put 0 s.polWaits k v }
  | .svc v => { s with svc := v }
  | .tap v => { s with tap := v }
  | .flash k v => { s with flash := Tab.put 0xFF s.flash k v }
  | .streams k v => { s with streams := Tab.put {} s.streams k v }
  | .medQueue v => { s with medQueue := v }
  | .medNext v => { s with medNext := v }
  | .cores k v => { s with cores := Tab.put {} s.cores k v }
  | .intakes k v => { s with intakes := Tab.put {} s.intakes k v }
  | .regGroups k v => { s with regGroups := Tab.put {} s.regGroups k v }
  | .outRings k v => { s with outRings := Tab.put {} s.outRings k v }
  | .tracks k v => { s with tracks := Tab.put {} s.tracks k v }
  | .store a bs => { s with mem := Tab.putList 0 s.mem a bs }
  | .zero a n => { s with mem := Tab.clear s.mem a n }
  | .localStore k bs => { s with localMem := Tab.putList 0 s.localMem k bs }
  | .localMemClear a n => { s with localMem := Tab.clear s.localMem a n }
  | .poisonedClear a n => { s with poisoned := Tab.clear s.poisoned a n }
  | .badWordsClear a n => { s with badWords := Tab.clear s.badWords a n }
  | .regsClear a n => { s with regs := Tab.clear s.regs a n }
  | .funcsClear a n => { s with funcs := Tab.clear s.funcs a n }
  | .queuesClear a n => { s with queues := Tab.clear s.queues a n }
  | .slotsClear a n => { s with slots := Tab.clear s.slots a n }
  | .vecsClear a n => { s with vecs := Tab.clear s.vecs a n }
  | .jobsClear a n => { s with jobs := Tab.clear s.jobs a n }
  | .semsClear a n => { s with sems := Tab.clear s.sems a n }
  | .modeUnitsClear a n => { s with modeUnits := Tab.clear s.modeUnits a n }
  | .modeChangesClear a n => { s with modeChanges := Tab.clear s.modeChanges a n }
  | .partsClear a n => { s with parts := Tab.clear s.parts a n }
  | .clustersClear a n => { s with clusters := Tab.clear s.clusters a n }
  | .segsClear a n => { s with segs := Tab.clear s.segs a n }
  | .claimsClear a n => { s with claims := Tab.clear s.claims a n }
  | .linesClear a n => { s with lines := Tab.clear s.lines a n }
  | .plruClear a n => { s with plru := Tab.clear s.plru a n }
  | .evtSelsClear a n => { s with evtSels := Tab.clear s.evtSels a n }
  | .positionsClear a n => { s with positions := Tab.clear s.positions a n }
  | .channelsClear a n => { s with channels := Tab.clear s.channels a n }
  | .portsClear a n => { s with ports := Tab.clear s.ports a n }
  | .sessionsClear a n => { s with sessions := Tab.clear s.sessions a n }
  | .groupsClear a n => { s with groups := Tab.clear s.groups a n }
  | .vocabsClear a n => { s with vocabs := Tab.clear s.vocabs a n }
  | .grammarsClear a n => { s with grammars := Tab.clear s.grammars a n }
  | .maskTagsClear a n => { s with maskTags := Tab.clear s.maskTags a n }
  | .basesClear a n => { s with bases := Tab.clear s.bases a n }
  | .poolsClear a n => { s with pools := Tab.clear s.pools a n }
  | .refsClear a n => { s with refs := Tab.clear s.refs a n }
  | .polWaitsClear a n => { s with polWaits := Tab.clear s.polWaits a n }
  | .flashClear a n => { s with flash := Tab.clear s.flash a n }
  | .streamsClear a n => { s with streams := Tab.clear s.streams a n }
  | .coresClear a n => { s with cores := Tab.clear s.cores a n }
  | .intakesClear a n => { s with intakes := Tab.clear s.intakes a n }
  | .regGroupsClear a n => { s with regGroups := Tab.clear s.regGroups a n }
  | .outRingsClear a n => { s with outRings := Tab.clear s.outRings a n }
  | .tracksClear a n => { s with tracks := Tab.clear s.tracks a n }

/-- Carries a list of effects out, in order. -/
def State.applyAll (s : State) : List Eff → State
  | [] => s
  | e :: es => State.applyAll (s.apply e) es

end Sys2Proof.Machine
end

