-- ==== Sys2Proof/Machine/Plan.lean ====
section
/-! DEFINITION. Plans: what a command will do in a state, as the list of its effects, and how plans are put together. -/
namespace Sys2Proof.Machine

/-- The effects a command has in a state. -/
abbrev Plan := State → List Eff

/-- Nothing happens. -/
def Plan.skip : Plan := fun _ => []

/-- One effect. -/
def Plan.act (e : Eff) : Plan := fun _ => [e]

/-- A plan chosen by looking at the state. -/
def Plan.look (f : State → Plan) : Plan := fun s => f s s

/-- One plan after another: the second sees the state that the first leaves. -/
def Plan.andThen (p q : Plan) : Plan := fun s => let es := p s; es ++ q (s.applyAll es)

/-- Plans in order. -/
def Plan.seq : List Plan → Plan
  | [] => Plan.skip
  | p :: ps => Plan.andThen p (Plan.seq ps)

/-- A plan for each element of a list, in order. -/
def Plan.each {α : Type} (xs : List α) (f : α → Plan) : Plan := Plan.seq (xs.map f)

/-- A plan under a condition. -/
def Plan.when (b : Bool) (p : Plan) : Plan := fun s => if b then p s else []

/-- The state a plan leaves. -/
def Plan.run (p : Plan) (s : State) : State := s.applyAll (p s)

/-- A command whose effect is a plan, whatever state the device is in: the machine goes on in the state the plan leaves. -/
def Plan.always (p : Plan) (s : State) : Host.Outcome State Fault Refusal := .next (p.run s)

/-- A command whose effect is a plan; in a device that has halted it has none (R329, R340, R379). -/
def Plan.done (p : Plan) (s : State) : Host.Outcome State Fault Refusal := .next (if s.svc.halted then s else p.run s)

end Sys2Proof.Machine
end

