-- ==== Sys2Proof/Machine/Flags.lean ====
section
/-! DEFINITION. Registers that hold a value, saturating and wrapping counters, the MSI-X vectors, and the error flags of a page:
ERR_STATUS with its capture, INT_STATUS and the vector 0 message they raise (R25, R26, R398). -/
namespace Sys2Proof.Machine

/-! BAR0 pages of the PF, by page number (R399). -/

def pgHIF : Nat := 0x00
def pgQUE : Nat := 0x01
def pgSCH : Nat := 0x02
def pgPAR : Nat := 0x03
def pgPOL : Nat := 0x04
def pgSVC : Nat := 0x05
def pgEVT : Nat := 0x06
def pgSEC : Nat := 0x07
def pgCLK : Nat := 0x08
def pgRSV : Nat := 0x09
def pgBC (n : Nat) : Nat := 0x10 + n
def pgPLT : Nat := 0x30
def pgPS (n : Nat) : Nat := 0x31 + n
def pgMEM : Nat := 0x60
def pgM (n : Nat) : Nat := 0x61 + n
def pgMED : Nat := 0x70
def pgCC (n : Nat) : Nat := 0x71 + n
def pgSCL : Nat := 0x7A
def pgINT : Nat := 0x80
def pgLET : Nat := 0x90
def pgTRK : Nat := 0xA0
def pgULZ : Nat := 0xB0
def pgU (n : Nat) : Nat := 0xB1 + n
/-- UNIT of an event that concerns no unit (R360). -/
def pgNone : Nat := 0xFFFF

/-- Key of a register in the register file: function, page and offset. -/
def regKey (fn page off : Nat) : Nat := fn * 2 ^ 20 + page * 0x1000 + off

/-- What a value register holds. -/
def State.reg (s : State) (fn page off : Nat) : Nat := (Tab.get (0 : Word) s.regs (regKey fn page off)).toNat

/-- Sets a value register. -/
def setReg (fn page off v : Nat) : Plan := Plan.act (.regs (regKey fn page off) (BitVec.ofNat 32 v))

/-- Adds to a counter that saturates at 0xFFFF_FFFF. -/
def bump (page off n : Nat) : Plan := fun s => setReg 0 page off (satAdd 0xFFFFFFFF (s.reg 0 page off) n) s

/-- Adds to a counter that wraps at 2^32. -/
def bumpWrap (page off n : Nat) : Plan := fun s => setReg 0 page off ((s.reg 0 page off + n) % 2 ^ 32) s

/-- Adds to a counter in bits `hi` to `lo` that saturates at its largest value. -/
def bumpField (page off hi lo n : Nat) : Plan := fun s =>
  let w := s.reg 0 page off
  let f := fld w hi lo
  setReg 0 page off (w - f * 2 ^ lo + satAdd (2 ^ (hi + 1 - lo) - 1) f n * 2 ^ lo) s

/-- The base in force of a LO/HI pair of registers. -/
def State.base (s : State) (page off : Nat) : Nat := Tab.get 0 s.bases (page * 0x1000 + off)

/-- A function of the device. -/
def State.func (s : State) (fn : Nat) : Func := Tab.get {} s.funcs fn

/-- A partition. -/
def State.part (s : State) (p : Nat) : Part := Tab.get {} s.parts p

/-- The partition bound to a function, if any (R262). -/
def State.partOf (s : State) (fn : Nat) : Option Nat :=
  (List.range 8).find? (fun p => decide ((s.part p).state ≠ .unused) && (s.part p).fn == fn)

/-- The cluster, or segment, behind a logical name. -/
def State.cluster (s : State) (n : Nat) : Cluster := Tab.get {} s.clusters n

def State.seg (s : State) (n : Nat) : Seg := Tab.get {} s.segs n

/-- Logical clusters that a partition owns, ascending (R12, R46). -/
def State.ownClusters (s : State) (p : Nat) : List Nat :=
  (List.range 16).filter (fun n => (s.cluster n).owner == p && !(s.cluster n).withdrawn)

/-- Logical segments that a partition owns, ascending (R12). -/
def State.ownSegs (s : State) (p : Nat) : List Nat :=
  (List.range 32).filter (fun n => (s.seg n).owner == p + 1 && !(s.seg n).withdrawn)

/-- Whether a function's BAR0 view shows a page (R12, R399). -/
def State.shows (s : State) (fn page : Nat) : Bool :=
  if fn = 0 then true
  else if page ≤ pgPOL || page == pgEVT then true
  else match s.partOf fn with
    | none => false
    | some p =>
      ((s.ownClusters p).any (fun n => pgBC n == page)) || ((s.ownSegs p).any (fun n => pgPS n == page))

/-- Sends an MSI-X message, or sets the pending bit of a masked vector (R25, R26). Vector 0 is silent while the function's reset is in progress. -/
def sendVec (fn v : Nat) : Plan := fun s =>
  let f := s.func fn
  if v = 0 && f.resetting then []
  else
    let e := Tab.get {} s.vecs (fn * 2048 + v)
    if e.masked then [.vecs (fn * 2048 + v) { e with pend := true }]
    else [.vecs (fn * 2048 + v) { e with sent := e.sent + 1 }]

/-- An ERR_STATUS bit of a page went from 0 to 1: INT_STATUS and vector 0 of one function (R398). -/
def raiseInt (page b fn : Nat) : Plan := fun s =>
  if s.shows fn page && !bit (s.reg fn page 0x01C) b then
    (if bit (s.reg fn page 0x020) 0 then []
     else Plan.andThen (setReg fn page 0x020 1) (Plan.when (bit (s.reg fn page 0x024) 0) (sendVec fn 0)) s)
  else []

/-- Sets an ERR_STATUS bit of a page; `cap` are the four capture words, kept only when ERR_STATUS read 0 in the bits of `capMask` (R398, R404). -/
def raiseErr (page b : Nat) (cap : List Nat) (capMask : Nat := 0xFFFFFFFF) : Plan := fun s =>
  let w := s.reg 0 page 0x018
  let keep : Plan := Plan.when (decide (Nat.land w capMask = 0) && !cap.isEmpty)
    (Plan.each (List.zip (List.range 4) cap) (fun ic => setReg 0 page (0x028 + 4 * ic.1) ic.2))
  if bit w b then keep s
  else Plan.seq [keep, setReg 0 page 0x018 (w + 2 ^ b), Plan.each (List.range 9) (raiseInt page b)] s

end Sys2Proof.Machine
end

