-- ==== Sys2Proof/Machine/Record.lean ====
section
/-! DEFINITION. Event records: a new event counts in an open record or opens one, is staged during a freeze or a clear, and reaches the log (R360-R367);
protocol violations, which write one (R32). -/
namespace Sys2Proof.Machine

/-- Operating seconds (R362). -/
def State.seconds (s : State) : Nat := s.recorder.secondsBase + s.ticks / 1000000

/-- What an event is about; the fields of its record that the event itself decides (R360, R361). -/
structure EvArgs where
  cls : Nat
  code : Nat
  stroke : Nat := 0
  part : Nat := 0
  charged : Bool := false
  fn : Nat := 0
  page : Nat := 0xFFFF
  check : Nat := 0
  detail : List Byte := []

/-- The record of one occurrence now. -/
def EvArgs.record (e : EvArgs) (s : State) : Event :=
  { cls := e.cls, code := e.code, seconds := s.seconds, stroke := e.stroke, part := e.part, charged := e.charged,
    fn := e.fn, page := e.page, check := e.check, detail := e.detail, tick := s.ticks, times := 1, last := s.seconds }

/-- SIZE of a record in bytes: the 16 B head, DETAIL in whole 8 B, and the repeat tail (R360). -/
def Event.size (e : Event) : Nat := 16 + cdiv e.detail.length 8 * 8 + (if e.times > 1 then 8 else 0)

/-- The bytes of a record (R360). -/
def Event.bytes (e : Event) : List Byte :=
  let pad := cdiv e.detail.length 8 * 8 - e.detail.length
  leBytes 1 (e.size / 8) ++ leBytes 1 (e.cls + (if e.times > 1 then 128 else 0)) ++ leBytes 2 e.code ++ leBytes 4 e.seconds
    ++ leBytes 4 (e.stroke + e.part * 2 ^ 21 + (if e.charged then 2 ^ 24 else 0) + e.fn * 2 ^ 25)
    ++ leBytes 2 e.page ++ leBytes 1 e.check ++ leBytes 1 0 ++ e.detail ++ zeros pad
    ++ (if e.times > 1 then leBytes 4 e.times ++ leBytes 4 e.last else [])

/-- Whether two events count in one record (R364). -/
def Event.same (a b : Event) : Bool :=
  a.cls == b.cls && a.code == b.code && a.fn == b.fn && a.part == b.part && a.page == b.page && a.check == b.check

/-- Counts one more occurrence (R360, R364). -/
def Event.again (a b : Event) : Event := { a with times := satAdd 0xFFFFFFFF a.times 1, last := b.last }

/-- Counts an event in the first matching record of a list that is still open for 1 s; `none` when there is none (R364). -/
def countIn (e : Event) : List Event → Option (List Event)
  | [] => none
  | r :: rs =>
    if r.same e && decide (e.tick < r.tick + 1000000) then some (r.again e :: rs)
    else (countIn e rs).map (r :: ·)

/-- Counts an event in the first matching open record (R364). -/
def countOpen (e : Event) : List LogRec → Option (List LogRec)
  | [] => none
  | r :: rs =>
    if r.ev.same e && decide (e.tick < r.ev.tick + 1000000) then some ({ r with ev := r.ev.again e } :: rs)
    else (countOpen e rs).map (r :: ·)

/-- Puts a record into the log: a record never crosses a block, and the oldest of 512 blocks is erased when none is free (R363). -/
def Recorder.program (r : Recorder) (l : LogRec) : Recorder × Nat :=
  let n := l.ev.size
  let r1 := if r.headOff + n ≤ 65536 then r else { r with headBlk := r.headBlk + 1, headOff := 16 }
  let kept := r1.log.filter (fun x => decide (r1.headBlk < x.blk + 512))
  let lost := r1.log.length - kept.length
  ({ r1 with log := kept ++ [{ l with blk := r1.headBlk }], headOff := r1.headOff + n, lostWrap := r1.lostWrap + lost }, lost)

/-- Sets the recorder and raises WRAPPED when records were lost (R363). -/
def setRecorder (x : Recorder × Nat) : Plan :=
  Plan.andThen (Plan.act (.recorder x.1)) (Plan.when (x.2 != 0) (raiseErr pgEVT 2 []))

/-- Appends a record that takes the next number at once (R362, R363). -/
def appendNow (e : Event) : Plan := fun s =>
  let r := s.recorder
  setRecorder ({ r with next := r.next + 1 }.program { num := r.next, cycle := r.powerCycles, blk := 0, ev := e }) s

/-- Commits the oldest open record (R364). -/
def commitOldest : Plan := fun s =>
  match s.recorder.opened with
  | [] => []
  | l :: ls => setRecorder ({ s.recorder with opened := ls }.program l) s

/-- Classes that are programmed at once, past the repeat window, a freeze and staging (R363). -/
def urgentEvent (e : Event) : Bool := e.cls == 0x0C || (e.cls == 0x0B && e.code == 2) || e.cls == 0x0F

/-- Opens a record, committing the oldest of 16 first (R364). -/
def openRecord (e : Event) : Plan := fun s =>
  Plan.andThen (Plan.when (16 ≤ s.recorder.opened.length) commitOldest)
    (fun s => let r := s.recorder
      [.recorder { r with next := r.next + 1, opened := r.opened ++ [{ num := r.next, cycle := r.powerCycles, blk := 0, ev := e }] }]) s

/-- An event occurs: EVENT_RECORD (R364, R367). In recovery no record is written (R348). -/
def event (a : EvArgs) : Plan := fun s =>
  let e := a.record s
  let r := s.recorder
  if s.svc.stage = 3 then []
  else if urgentEvent e then appendNow e s
  else if !r.freezes.isEmpty || r.clearing.isSome then
    (match countIn e r.staged with
     | some st => [.recorder { r with staged := st }]
     | none =>
       if r.staged.length < 64 then [.recorder { r with staged := r.staged ++ [e] }]
       else Plan.andThen (Plan.act (.recorder { r with overflow := satAdd 0xFFFFFFFF r.overflow 1, lostNow := r.lostNow + 1 }))
         (raiseErr pgEVT 0 []) s)
  else
    (match countOpen e r.opened with
     | some os => [.recorder { r with opened := os }]
     | none => openRecord e s)

/-- A host protocol violation whose answer includes an event: the count, the last violation and the record (R32). -/
def violation (fn code queue : Nat) : Plan := fun s =>
  let p := s.partOf fn
  Plan.seq [
    setReg fn pgHIF 0x118 (satAdd 0xFFFFFFFF (s.reg fn pgHIF 0x118) 1),
    setReg fn pgHIF 0x11C (queue % 4096 * 2 ^ 12 + code),
    event { cls := 1, code := code, part := p.getD 0, charged := p.isSome, fn := fn, page := pgHIF, detail := leBytes 2 queue }] s

end Sys2Proof.Machine
end

