-- ==== Sys2Proof/Machine/Units.lean ====
section
/-! DEFINITION. Units, their physical positions and spares (R3, R371-R375), the counts towards the spare-in thresholds (R351), and a parity detection in a plate segment (R148). -/
namespace Sys2Proof.Machine

/-- A position behind a logical name. -/
def State.pos (s : State) (n : Nat) : MemPos := Tab.get {} s.positions n

/-! ## Logical and physical units -/

/-- A codec core, or a page decoder. -/
def State.core (s : State) (n : Nat) : Core := Tab.get {} s.cores n

/-- The physical unit behind a logical name (R3): KIND 0 = cluster, 1 = segment, 2 = codec core, 3 = GDDR6 position. -/
def State.physOf (s : State) (kind n : Nat) : Nat :=
  let p := match kind with
    | 0 => (s.cluster n).phys
    | 1 => (s.seg n).phys
    | 2 => (s.core n).phys
    | _ => (s.pos n).phys
  if p = 0 then n else p - 1

/-- A name that has been withdrawn (R375). -/
def State.withdrawn (s : State) (kind n : Nat) : Bool :=
  match kind with
  | 0 => (s.cluster n).withdrawn
  | 1 => (s.seg n).withdrawn
  | 2 => (s.core n).withdrawn
  | 3 => (s.pos n).withdrawn
  | _ => false

/-- Logical units of a kind. -/
def unitsOf (kind : Nat) : Nat := match kind with | 0 => 16 | 1 => 32 | _ => 8

/-- A spare of a kind is unused. -/
def State.hasSpare (s : State) (kind : Nat) : Bool :=
  match kind with
  | 0 => s.reserve.spareCluster
  | 1 => s.reserve.spareSegs != 0
  | 2 => s.reserve.spareCore
  | _ => s.gddr.spare

/-- The fifth lane of a port is unused and works. -/
def State.spareLane (s : State) (p : Nat) : Bool := let x : Port := Tab.get {} s.ports p; x.spare == 0 && x.good.getD 4 false

/-- A spare for a trigger's unit is unused; the index of a lane is its port, and twice its logical lane (R372). -/
def State.spareFor (s : State) (t : Trigger) : Bool := if t.kind = 4 then s.spareLane (t.index % 2) else s.hasSpare t.kind

/-- The page of a unit. -/
def unitPage (kind n : Nat) : Nat := match kind with | 0 => pgBC n | 1 => pgPS n | 2 => pgCC n | 3 => pgM n | _ => pgU (n % 2)

/-- A trigger for the same unit already waits or runs. -/
def Reserve.hasTrigger (r : Reserve) (kind n : Nat) : Bool :=
  (r.queue ++ r.running.toList).any (fun t => t.kind == kind && t.index == n)

/-- One more event of a SPARE_THRESH metric on a unit; at the threshold within the window its spare-in is triggered by `trigger` (R351, R371). -/
def noteMetric (kind metric n : Nat) (trigger : Plan) : Plan := fun s =>
  match s.reserve.thresh.find? (fun t => t.1 == kind && t.2.1 == metric) with
  | none => []
  | some (_, _, hours, limit) =>
    let k := metric * 2 ^ 16 + kind * 2 ^ 8 + s.physOf kind n
    let l := s.seconds :: (Tab.get [] s.reserve.counts k).filter (fun t => decide (s.seconds < t + hours * 3600))
    if limit = 0 then []
    else if limit ≤ l.length then
      Plan.andThen (Plan.act (.reserve { s.reserve with counts := Tab.put [] s.reserve.counts k [] }))
        trigger s
    else [.reserve { s.reserve with counts := Tab.put [] s.reserve.counts k l }]

/-- The spare-in of a segment is triggered: it waits its turn, or begins where nothing waits or runs (R371, R373). -/
def queueSegment (n : Nat) : Plan := fun s =>
  let r := s.reserve
  let t : Trigger := { kind := 1, index := n, cause := 1, retire := true, byMailbox := false }
  let pending := (Tab.get {} s.modeUnits (pgPS n)).pending != 0
  if s.withdrawn 1 n || r.hasTrigger 1 n then []
  else if r.running.isSome || !r.queue.isEmpty || s.svc.initialising || (s.hasSpare 1 && pending) then [.reserve { r with queue := r.queue ++ [t] }]
  else [.reserve { r with running := some t, phase := if s.hasSpare 1 then 1 else 2 }]

/-! ## Parity detections in plate memory (R148) -/

/-- The capture words of a plate detection (R148): source, function, stroke, offset. -/
def plateCapture (source fn stroke off gaddr : Nat) : List Nat :=
  [source * 2 ^ 29 + fn * 2 ^ 25 + stroke, off, gaddr % 2 ^ 32, gaddr / 2 ^ 32]

/-- A plate parity detection is counted, captured and recorded (R148). -/
def plateDetect (seg off source fn stroke part : Nat) (charged tagPar : Bool) (gaddr : Nat) : Plan :=
  let cap := plateCapture source fn stroke off gaddr
  Plan.seq [
    (if tagPar then bumpField (pgPS seg) 0x120 31 16 1 else bumpField (pgPS seg) 0x120 15 0 1),
    bump pgPLT 0x110 1,
    raiseErr (pgPS seg) (if tagPar then 1 else 0) cap,
    event { cls := 3, code := 2, stroke := stroke, part := part, charged := charged, fn := fn, page := pgPS seg,
            detail := (cap.map (leBytes 4)).flatten },
    noteMetric 1 1 seg (queueSegment seg)]

end Sys2Proof.Machine
end

