-- ==== Sys2Proof/Machine/Channels.lean ====
section
/-! DEFINITION. The GDDR6 channels: the address map (R288, R290), what the code of a block makes of an error (R291), and the request queues with the order of commands and
the page policy (R297-R300). -/
namespace Sys2Proof.Machine

/-- The mode in force of a page (R54). -/
def State.mode (s : State) (page : Nat) : Nat := (Tab.get {} s.modeUnits page).current

/-- Segments in cache mode, ascending (R143). -/
def State.cacheSegs (s : State) : List Nat :=
  (s.modeUnits.filter (fun e => decide (pgPS 0 ≤ e.1) && decide (e.1 ≤ pgPS 31) && e.2.current == 1)).map (fun e => e.1 - pgPS 0)

/-- The cache segment that serves a GDDR6 address: the lowest-numbered whose window holds it (R144). -/
def State.cacheOf (s : State) (a : Nat) : Option Nat :=
  s.cacheSegs.find? (fun n => let g := s.seg n; decide (g.windowBase ≤ a) && decide (a < g.windowBase + 2 ^ g.windowLog2))

/-! ## The GDDR6 address map (R288, R290) -/

/-- Logical positions in service, ascending (R288). -/
def State.inService (s : State) : List Nat := (List.range 8).filter (fun n => !(s.pos n).withdrawn)

/-- The channel of an address: logical position and device channel (R290). -/
def State.channelOf (s : State) (a : Nat) : Nat × Nat :=
  let l := s.inService
  let p := max 1 l.length
  let ch := a / 256 % (2 * p)
  (l.getD (ch / 2) 0, ch % 2)

/-- Bank and row of an address (R290). -/
def State.bankRow (s : State) (a : Nat) : Nat × Nat :=
  let p := max 1 s.inService.length
  let l := a / 256 / (2 * p) * 256 + a % 256
  let n := l / 64 / 31
  (Nat.xor (n % 16) (n / 16 % 16), n / 16)

/-- The place of an address in its 2 KiB DRAM page: its data byte, and the first of the two code bytes of its block (R290). -/
def State.dataByte (s : State) (a : Nat) : Nat :=
  let p := max 1 s.inService.length
  (a / 256 / (2 * p) * 256 + a % 256) / 64 % 31 * 64 + a % 64
def State.codeByte (s : State) (a : Nat) : Nat := 1984 + s.dataByte a / 64 * 2

/-- Who made a GDDR6 request: the class of R299, the function and the stroke. -/
structure MemWho where
  cls : Nat := 0
  fn : Nat := 0
  stroke : Nat := 0

/-- The capture words of a GDDR6 error at an address (15_gddr6_memory.md, Mn ERR_CAPTURE0-3). -/
def State.memCapture (s : State) (w : MemWho) (kind a syndrome : Nat) : List Nat :=
  let br := s.bankRow a
  [w.cls * 2 ^ 29 + w.fn * 2 ^ 25 + kind * 2 ^ 21 + w.stroke % 2 ^ 21, a % 2 ^ 32, syndrome % 65536 * 65536 + a / 2 ^ 32 % 65536,
   (s.channelOf a).2 * 2 ^ 19 + br.1 % 16 * 2 ^ 15 + br.2 % 2 ^ 15]

/-- The logical position of an address. -/
def State.posOf (s : State) (a : Nat) : Nat := (s.channelOf a).1

/-- The DRAM page of an address in its channel (R290). -/
def State.dramPage (s : State) (a : Nat) : Nat :=
  let p := max 1 s.inService.length
  (a / 256 / (2 * p) * 256 + a % 256) / 64 / 31

/-- A read of the address is served from M8, because its page is already copied (R304 step 3). -/
def State.servedByM8 (s : State) (a : Nat) : Bool := s.gddr.copying && s.gddr.source == s.posOf a && decide (s.dramPage a < s.gddr.page)

/-- The page whose counters the physical position that serves an address keeps. -/
def State.servingPage (s : State) (a : Nat) : Nat := if s.servedByM8 a then 8 else s.posOf a

/-- A POISONED block was read: it counts, and nothing else is reported (R294). -/
def poisonRead (w : MemWho) (a : Nat) : Plan := fun s =>
  Plan.andThen (bumpField (pgM (s.servingPage a)) 0x108 31 16 1) (raiseErr (pgM (s.servingPage a)) 2 (s.memCapture w 3 a 0)) s

/-! ## The code of a block (R291) -/

/-- What the decoder makes of a block. -/
inductive Decoded64
  | clean | corrected
  /-- Detected and not to be corrected. -/
  | detected
  /-- An error that the rule promises nothing of. -/
  | unstated
  deriving DecidableEq, Repr

/-- The code corrects one flipped bit and detects two, those of one byte of the data, and a read of another address. -/
def decodeBlock (e : BlockErr) : Decoded64 :=
  let bits := e.flips.dedup.filter (fun b => decide (b < 528))
  if e.wrongAddress then .detected
  else match bits with
    | [] => .clean
    | [_] => .corrected
    | [_, _] => .detected
    | b :: bs => if b < 512 ∧ bs.all (fun c => c / 8 == b / 8) then .detected else .unstated

/-! ## Queues and the order of commands (R297, R299, R300) -/

def State.channel (s : State) (k : Nat) : Channel := Tab.get {} s.channels k

/-- The channel of an address as a number: twice its logical position, plus its device channel. -/
def State.channelKey (s : State) (a : Nat) : Nat := let c := s.channelOf a; 2 * c.1 + c.2

/-- The requester is a codec core that asserts the panic (R206, R300). -/
def State.panics (s : State) (r : MemReq) : Bool := r.core != 0 && (s.core (r.core - 1)).panic

/-- The page-policy hint of a request: 1 = OPEN, 2 = CLOSE, else ADAPTIVE; the mode CLOSE_ALL of its position makes every request CLOSE (R299, R308). -/
def State.hint (s : State) (r : MemReq) : Nat :=
  if bit (Tab.get {} s.modeUnits (pgM (s.posOf r.addr))).current 1 then 2 else fld (s.reg 0 pgMEM 0x110) (2 * r.cls + 1) (2 * r.cls)

/-- A request meets the open row of its bank. -/
def State.rowHit (s : State) (c : Channel) (r : MemReq) : Bool := let x := s.bankRow r.addr; Tab.get 0 c.rows x.1 == x.2 + 1

/-- The rank of a waiting request, the lowest first: the panic, unless three commands in turn have gone to it and others wait, or a full write queue drains; 2 us of waiting; reads before writes outside
a drain and writes before reads in one; a row hit. -/
def State.rank (s : State) (c : Channel) (r : MemReq) : Nat :=
  let others := (c.reads ++ c.writes).any (fun x => !s.panics x)
  (if c.full || !s.panics r then 8 else if 3 ≤ c.panicRun ∧ others then 16 else 0) + (if r.came + 2 ≤ s.ticks then 0 else 4) +
    (if r.write = c.draining then 0 else 2) + (if s.rowHit c r then 0 else 1)

/-- The first of the requests with the lowest rank. -/
def State.nextReq (s : State) (c : Channel) : Option MemReq :=
  (c.reads ++ c.writes).foldl (fun b r => match b with
    | none => some r
    | some x => if s.rank c r < s.rank c x then some r else some x) none

/-- A channel issues one command: the request leaves its queue, a drain ends at 16 entries and that of a full queue at 48, and the page policy keeps or closes the row. ADAPTIVE keeps it while
a request to it waits (log entry 30). -/
def State.issue (s : State) (c : Channel) : Channel :=
  match s.nextReq c with
  | none => c
  | some r =>
    let w := if r.write then c.writes.erase r else c.writes
    let d := { c with reads := if r.write then c.reads else c.reads.erase r, writes := w, draining := c.draining && decide (16 < w.length),
                      full := c.full && decide (48 < w.length), panicRun := if s.panics r then c.panicRun + 1 else 0 }
    let x := s.bankRow r.addr
    let stays := match s.hint r with
      | 1 => true
      | 2 => false
      | _ => (d.reads ++ d.writes).any (fun q => s.bankRow q.addr == x)
    { d with rows := Tab.put 0 d.rows x.1 (if stays then x.2 + 1 else 0) }

/-- Commands issue until a queue has room for one more request. -/
def State.makeRoom (s : State) (write : Bool) : Nat → Channel → Channel
  | 0, c => c
  | fuel + 1, c => if (if write then c.writes else c.reads).length < 64 then c else s.makeRoom write fuel (s.issue c)

/-- A channel accepts a request; a drain starts when the write queue reaches 48 entries. -/
def State.accept (s : State) (r : MemReq) (c : Channel) : Channel :=
  let c := s.makeRoom r.write 128 c
  if r.write then
    let w := c.writes ++ [r]
    let starts := !c.draining && decide (48 ≤ w.length)
    { c with writes := w, draining := c.draining || starts, drains := if starts then (c.drains + 1) % 2 ^ 32 else c.drains, full := c.full || w.length == 64,
             peak := max c.peak w.length }
  else { c with reads := c.reads ++ [r] }

/-- The channels that serve a request: that of its position, M8's for a read of a page already copied, and both for a write during a copy (R304). -/
def State.channelsFor (s : State) (write : Bool) (a : Nat) : List Nat :=
  let k := s.channelKey a
  if s.gddr.copying && s.gddr.source == s.posOf a then (if write then [k, 16 + k % 2] else if s.servedByM8 a then [16 + k % 2] else [k]) else [k]

/-- The requests of an access to GDDR6 reach their channels, one for each 64 B block that no cache segment serves; CLASS 4 are the segments' own (R144, R290, R299). -/
def memRequests (src : MemSrc) (write : Bool) (a n : Nat) : Plan := fun s =>
  if n = 0 || s.gddr.frozen || decide (2 ^ 36 < a + n) then []
  else Plan.each ((List.range ((a + n - 1) / 64 + 1 - a / 64)).map (fun i => (a / 64 + i) * 64)) (fun b => fun s =>
    if src.cls != 4 && (s.cacheOf b).isSome then []
    else (s.channelsFor write b).map (fun k =>
      .channels k (s.accept { addr := b, write := write, cls := src.cls, core := match src.core with | some n => n + 1 | none => 0, came := s.ticks } (s.channel k)))) s

/-- Every request that waits in a channel issues. -/
def State.emptied (s : State) : Nat → Channel → Channel
  | 0, c => c
  | fuel + 1, c => if c.reads.isEmpty && c.writes.isEmpty then c else State.emptied s fuel (s.issue c)

/-- A tick has passed: what waited in the queues has been issued (log entry 30). -/
def channelsEmpty : Plan := fun s => s.channels.map (fun e => Eff.channels e.1 (s.emptied 128 e.2))

/-- Both queues of a position are empty (R308). -/
def State.queuesEmpty (s : State) (p : Nat) : Bool := [2 * p, 2 * p + 1].all (fun k => (s.channel k).reads.isEmpty && (s.channel k).writes.isEmpty)

/-- M_WQ and M_DRAINS of a position. -/
def State.wqWord (s : State) (n : Nat) : Nat :=
  let a := s.channel (2 * n)
  let b := s.channel (2 * n + 1)
  b.peak * 2 ^ 24 + a.peak * 2 ^ 16 + b.writes.length * 2 ^ 8 + a.writes.length
def State.drainsWord (s : State) (n : Nat) : Nat := ((s.channel (2 * n)).drains + (s.channel (2 * n + 1)).drains) % 2 ^ 32

end Sys2Proof.Machine
end

