-- ==== Sys2Proof/Machine/Mem.lean ====
section
/-! DEFINITION. The device address space: its regions, what a read of a range returns (burnish, power, cache lines), and which accesses a stroke may make (R10, R15, R138-R146, R401). -/
namespace Sys2Proof.Machine

def plateBase : Nat := 0x100000000000
def localBase : Nat := 0x200000000000
def hostBase : Nat := 0x800000000000
/-- Bytes of one plate segment (R138). -/
def segSize : Nat := 0x800000
/-- The key of a byte of cluster local memory: its offset in the region, but with the accumulator store of a cluster as the left half's words of every row and then the right half's (R15, R70). -/
def localKey (a : Nat) : Nat :=
  let o := a - localBase
  let x := o % 0x400000
  if x < 0x300000 then o
  else o - x + 0x300000 + (if x % 512 < 256 then 0 else 0x80000) + (x - 0x300000) / 512 * 256 + x % 256

/-- The key of word `col` of accumulator row `row` of a cluster (R15). -/
def accKey (n row col : Nat) : Nat := localKey (localBase + n * 0x400000 + 0x300000 + row * 512 + col * 4)

/-- The share of a placement in its cluster's local memory: keys and lengths of its part of the operand store and of the accumulator store (R15, R70, R105). -/
def Place.localShare : Place → List (Nat × Nat)
  | .whole n => [(n * 0x400000, 0x400000)]
  | .half n false => [(n * 0x400000, 0x180000), (n * 0x400000 + 0x300000, 0x80000)]
  | .half n true => [(n * 0x400000 + 0x180000, 0x180000), (n * 0x400000 + 0x380000, 0x80000)]
  | .hatch n => [(n * 0x400000, 0x180000)]
  | .mover n => [(n * 0x400000 + 0x180000, 0x180000)]
  | _ => []

/-- Units of 16 MiB (R263). -/
def gUnit : Nat := 0x1000000

/-- The regions of the device address space. -/
inductive Region
  | gddr | plate | localMem | host | nowhere
  deriving DecidableEq, Repr

/-- The region that holds a range wholly (R10, R15, R138, R401). The GDDR6 region ends at 2^36, the largest usable size lies below it (R289). -/
def regionOf (a n : Nat) : Region :=
  if a + n ≤ 2 ^ 36 then .gddr
  else if plateBase ≤ a ∧ a + n ≤ plateBase + 32 * segSize then .plate
  else if localBase ≤ a ∧ a + n ≤ localBase + 0x10000000 then .localMem
  else if hostBase ≤ a ∧ a + n ≤ hostBase + 2 ^ 47 then .host
  else .nowhere

/-- Segment and block of a plate address. -/
def segOf (a : Nat) : Nat := (a - plateBase) / segSize
def blockOf (a : Nat) : Nat := (a - plateBase) / 0x10000

/-- Set of a line (R143), and the key of the line in a way. -/
def setOf (a : Nat) : Nat := a / 128 % 4096
def lineKey (seg set way : Nat) : Nat := seg * 65536 + set * 16 + way

/-- The way that holds a line, if it is present. -/
def State.wayOf (s : State) (seg a : Nat) : Option Nat :=
  (List.range 16).find? (fun w => let l := Tab.get {} s.lines (lineKey seg (setOf a) w); l.valid && l.tag == a / 128)

/-- A byte of GDDR6 as the device sees it: from the cache line that holds it, else from the array (R144). -/
def State.gddrByte (s : State) (a : Nat) : Byte :=
  match s.cacheOf a with
  | none => Tab.get 0 s.mem a
  | some n =>
    match s.wayOf n a with
    | none => Tab.get 0 s.mem a
    | some w => ((Tab.get {} s.lines (lineKey n (setOf a) w)).data.drop (a % 128)).headD 0

/-- A byte of plate scratch: zero under burnish, and in a segment that is not ON (R152, R154, R155). -/
def State.plateByte (s : State) (a : Nat) : Byte :=
  let g := s.seg (segOf a)
  if g.power = .off || g.power = .waking || g.burnish.contains (blockOf a % 128) then 0 else Tab.get 0 s.mem a

/-- The bytes that a range of the device address space holds, as a read returns them. -/
def State.bytesAt (s : State) (a n : Nat) : List Byte :=
  match regionOf a n with
  | .gddr => if s.cacheSegs.isEmpty then Tab.getList 0 s.mem a n else (List.range n).map (fun i => s.gddrByte (a + i))
  | .plate => (List.range n).map (fun i => s.plateByte (a + i))
  | .localMem => (List.range n).map (fun i => Tab.get 0 s.localMem (localKey (a + i)))
  | .host => Tab.getList 0 s.mem a n
  | .nowhere => zeros n

/-- The little-endian number in a range. -/
def State.numAt (s : State) (a n : Nat) : Nat := leNat (s.bytesAt a n)

/-- Whether a range lies in the GDDR6 of a partition (R263). -/
def State.inPartGddr (s : State) (p a n : Nat) : Bool :=
  let q := s.part p
  decide (q.gBase * gUnit ≤ a) && decide (a + n ≤ (q.gBase + q.gSize) * gUnit)

/-- The segments that a plate range touches. -/
def segsOf (a n : Nat) : List Nat := (List.range (segOf (a + n - 1) + 1 - segOf a)).map (· + segOf a)

/-- How the device answers an access of a stroke (R139, R155, R401). -/
inductive Access
  | ok
  /-- Refused: no permitted region (R401, R139); the segment that refused, if one did. -/
  | refused (seg : Option Nat)
  /-- It reached a segment that is OFF (R155). -/
  | late (seg : Nat)
  /-- The segment answers with a retry (R154, R147). -/
  | retry (seg : Nat)
  deriving DecidableEq, Repr

/-- Whether a segment serves scratch accesses of a partition; from a commit until the change ends it answers them with a retry, whatever mode it has applied (R139, R147). -/
def State.segServes (s : State) (p n : Nat) : Bool :=
  let g := s.seg n
  g.owner == p + 1 && !g.withdrawn && (s.mode (pgPS n) == 0 || (Tab.get {} s.modeUnits (pgPS n)).pending != 0)

/-- The 128 B lines of a range. -/
def linesOf (a n : Nat) : List Nat := if n = 0 then [] else (List.range ((a + n - 1) / 128 + 1 - a / 128)).map (fun i => (a / 128 + i) * 128)

/-- The cache segments that serve some line of a GDDR6 range; a window begins and ends at a multiple of 8 MiB (R143, R144). -/
def State.servers (s : State) (a n : Nat) : List Nat :=
  if s.cacheSegs.isEmpty || n = 0 then []
  else (List.range ((a + n - 1) / segSize + 1 - a / segSize)).filterMap (fun k => s.cacheOf (max a ((a / segSize + k) * segSize)))

/-- Whether a segment answers new accesses with a retry: DRAINING, WAKING, taken into a pending mode change, or being moved (R55, R147, R154, R268). -/
def State.segRetries (s : State) (n : Nat) : Bool :=
  let g := s.seg n
  g.power = .draining || g.power = .waking || (Tab.get {} s.modeUnits (pgPS n)).pending != 0 ||
    (s.unitMove.status == 1 && s.unitMove.kind == 1 && s.unitMove.index == n)

/-- The first segment of a list with a property. -/
def firstSeg (l : List Nat) (f : Nat → Bool) : Option Nat := l.find? f

/-- Usable GDDR6 in bytes (R289): MEM_CAPACITY in MiB. -/
def State.usable (s : State) : Nat := s.reg 0 pgMEM 0x108 * 0x100000

/-- The base of the stroke table: the top 128 MiB of usable GDDR6 (R33). -/
def State.tableBase (s : State) : Nat := s.usable - 0x8000000

/-- A range lies in a partition's share of the stroke table, in chunks of 64 strokes (R33). -/
def State.inShare (s : State) (p a n : Nat) : Bool :=
  let q := s.part p
  decide (s.tableBase + q.sFirst * 4096 ≤ a) && decide (a + n ≤ s.tableBase + (q.sFirst + q.sCount) * 4096)

/-- How an access of a stroke of partition `p` to a range is answered. `host` holds for move.linear, and for admission: host memory is open to it, and the partition's share of the stroke table,
into which a job may copy a stroke program (R33, R158, R401; log entry 103). -/
def State.judge (s : State) (p : Nat) (host : Bool) (a n : Nat) : Access :=
  if n = 0 then .ok
  else match regionOf a n with
    | .gddr =>
      if !s.inPartGddr p a n && !(host && s.inShare p a n) then .refused none
      else match firstSeg (s.servers a n) (fun g => decide ((s.seg g).power = .off)) with
        | some g => .late g
        | none =>
          match firstSeg (s.servers a n) s.segRetries with
          | some g => .retry g
          | none => .ok
    | .plate =>
      match firstSeg (segsOf a n) (fun g => !s.segServes p g) with
      | some g => .refused (some g)
      | none =>
        match firstSeg (segsOf a n) (fun g => decide ((s.seg g).power = .off)) with
        | some g => .late g
        | none =>
          match firstSeg (segsOf a n) s.segRetries with
          | some g => .retry g
          | none => .ok
    | .host => if host then .ok else .refused none
    | .localMem => .refused none
    | .nowhere => .refused none

/-- Whether a cache line serves the addresses that its tag names (R144). -/
def State.lineServes (s : State) (key : Nat) (l : Line) : Bool := l.valid && s.cacheOf (l.tag * 128) == some (key / 65536)

/-- Whether a GDDR6 address is served from a line that is present. -/
def State.cached (s : State) (a : Nat) : Bool := match s.cacheOf a with | some g => (s.wayOf g a).isSome | none => false

/-- Whether a GDDR6 range meets a block that is POISONED where it is served from: in its cache line, or else in the array (R144, R292, R294). -/
def State.meetsPoison (s : State) (a n : Nat) : Bool :=
  let inR (b : Nat) : Bool := decide (a / 64 ≤ b) && decide (b ≤ (a + n - 1) / 64)
  regionOf a n = .gddr && n != 0 &&
    (s.poisoned.any (fun e => e.2 && inR e.1 && !s.cached (e.1 * 64)) ||
      s.lines.any (fun e => s.lineServes e.1 e.2 && ((e.2.poisonLo && inR (e.2.tag * 2)) || (e.2.poisonHi && inR (e.2.tag * 2 + 1)))))

/-- The first plate word of a range that is stored with bad parity (R148, R149). -/
def State.badWordIn (s : State) (a n : Nat) : Option Nat :=
  if regionOf a n = .plate ∧ n ≠ 0 then
    (s.badWords.find? (fun e => e.2 && decide (a / 4 ≤ e.1) && decide (e.1 ≤ (a + n - 1) / 4))).map (·.1 * 4)
  else none

/-- The words and tags with bad parity that a GDDR6 range meets in the cache lines that serve it: line, offset in its segment, and whether it is the tag (R148, R150).
A line lies at its set and way: that of key k holds the words from offset k × 128 of the plate on (R143). -/
def State.badCached (s : State) (a n : Nat) : List (Nat × Nat × Bool) :=
  if regionOf a n ≠ .gddr ∨ n = 0 ∨ s.cacheSegs.isEmpty then []
  else
    s.badWords.filterMap (fun e =>
      let o := e.1 * 4 - plateBase
      let l := Tab.get {} s.lines (o / 128)
      if e.2 && s.lineServes (o / 128) l && overlaps (l.tag * 128 + o % 128) 4 a n then some (o / 128, o % segSize, false) else none) ++
    s.lines.filterMap (fun e => if e.2.badTag && s.lineServes e.1 e.2 && overlaps (e.2.tag * 128) 128 a n then some (e.1, e.1 * 128 % segSize, true) else none)

/-- Whether a write of part of a 128 B line of GDDR6 needs a read that meets a POISONED block: the merge is not made (R143, R292). -/
def State.mergePoisoned (s : State) (a n : Nat) : Bool :=
  let b := a / 128 * 2
  let lo := Tab.get false s.poisoned b
  let hi := Tab.get false s.poisoned (b + 1)
  match s.cacheOf a with
  | some g => (s.wayOf g a).isNone && decide (n < 128) && (lo || hi)
  | none =>
    let part (x : Nat) : Bool := overlaps (x * 64) 64 a n && !(decide (a ≤ x * 64) && decide (x * 64 + 64 ≤ a + n))
    (lo && part b) || (hi && part (b + 1))

/-- A write covers part of a GDDR6 block, or of a line that is not present, that is POISONED (R292): only its first and its last line can be covered in part. -/
def State.partialOnPoison (s : State) (a n : Nat) : Bool :=
  regionOf a n = .gddr && n != 0 &&
    (s.mergePoisoned a (min n (128 - a % 128)) || s.mergePoisoned (max a ((a + n - 1) / 128 * 128)) (min n ((a + n - 1) % 128 + 1)))

/-! ## Cache lines (R143-R146, R150) -/

/-- The 15 nodes on the path to a way in the pseudo-LRU tree, root 1, with the side taken (PRESUMED: log entry 6). -/
def plruPath (way : Nat) : List (Nat × Bool) :=
  let b3 := bit way 3; let b2 := bit way 2; let b1 := bit way 1; let b0 := bit way 0
  let n1 := 1; let n2 := 2 * n1 + (if b3 then 1 else 0); let n3 := 2 * n2 + (if b2 then 1 else 0)
  let n4 := 2 * n3 + (if b1 then 1 else 0)
  [(n1, b3), (n2, b2), (n3, b1), (n4, b0)]

/-- A use of a way turns every node on its path away from it. -/
def plruTouch (tree way : Nat) : Nat :=
  (plruPath way).foldl (fun t nb =>
    let i := nb.1 - 1
    let cleared := t - (if bit t i then 2 ^ i else 0)
    if nb.2 then cleared else cleared + 2 ^ i) tree

/-- The way the tree points at. -/
def plruVictim (tree : Nat) : Nat :=
  let s1 := bit tree 0; let n2 := 2 + (if s1 then 1 else 0)
  let s2 := bit tree (n2 - 1); let n3 := 2 * n2 + (if s2 then 1 else 0)
  let s3 := bit tree (n3 - 1); let n4 := 2 * n3 + (if s3 then 1 else 0)
  let s4 := bit tree (n4 - 1)
  bitAt s1 3 + bitAt s2 2 + bitAt s3 1 + bitAt s4 0

/-- A parity detection on the line of a key, seen by a reader (R148). -/
def lineDetect (source fn stroke part : Nat) (charged : Bool) (x : Nat × Nat × Bool) : Plan := fun s =>
  plateDetect (x.1 / 65536) x.2.1 source fn stroke part charged x.2.2 ((Tab.get {} s.lines x.1).tag * 128) s

/-- The words and the tag of a line that are stored with bad parity. -/
def State.lineFails (s : State) (key : Nat) : List (Nat × Nat × Bool) :=
  ((s.badWords.filter (fun e => e.2 && decide ((plateBase + key * 128) / 4 ≤ e.1) && decide (e.1 < (plateBase + key * 128) / 4 + 32))).map (fun e =>
    (key, (e.1 * 4 - plateBase) % segSize, false))) ++ (if (Tab.get {} s.lines key).badTag then [(key, key * 128 % segSize, true)] else [])

/-- Debits the GDDR6 bucket of the partition that owns a cache segment, for a fill or a write-back of a line (R272). -/
def debitLine (seg : Nat) : Plan := fun s =>
  let o := (s.seg seg).owner
  let q := s.part (o - 1)
  if o = 0 || q.measure || q.gddr.rate = 0 then [] else [.parts (o - 1) { q with gddr := { q.gddr with level := q.gddr.level - 128 } }]

/-- Writes a dirty line back to GDDR6, checking its parity; the blocks of a line that is marked, or fails the check, become POISONED, those of a POISONED half stay so, and a clean write-back
clears them (R148, R150, R292). The line stays valid and clean. -/
def writeBack (key : Nat) : Plan := fun s =>
  let l := Tab.get {} s.lines key
  let bad := s.lineFails key
  let all := l.marked || !bad.isEmpty
  if l.valid && l.dirty then
    Plan.seq [
      Plan.each bad (lineDetect 4 0 0 0 false), debitLine (key / 65536), memRequests { cls := 4 } true (l.tag * 128) 128,
      (fun _ => [.store (l.tag * 128) l.data, .poisoned (l.tag * 2) (all || l.poisonLo), .poisoned (l.tag * 2 + 1) (all || l.poisonHi),
        .lines key { l with dirty := false, job := 0, marked := false, poisonLo := all || l.poisonLo, poisonHi := all || l.poisonHi }])] s
  else []

/-- The way that a line missing from a set will take: an invalid one, else the one the tree points at. -/
def State.victimWay (s : State) (seg set : Nat) : Nat :=
  match (List.range 16).find? (fun w => !(Tab.get {} s.lines (lineKey seg set w)).valid) with
  | some w => w
  | none => plruVictim (Tab.get 0 s.plru (seg * 4096 + set))

/-- The words of a line hold good parity again, from byte `o` of it on for `n` bytes (R148, R149). -/
def goodWords (key o n : Nat) : Plan := fun s =>
  if s.badWords.isEmpty then [] else [.badWordsClear ((plateBase + key * 128 + o) / 4) ((o + n - 1) / 4 + 1 - o / 4)]

/-- Brings the line of an address into the segment: counts a hit or a miss, writes a dirty victim back, fills from GDDR6 unless the whole line is written, and touches the tree (R143). -/
def bringLine (seg a : Nat) (whole : Bool) : Plan := fun s =>
  let set := setOf a
  let touch (w : Nat) : Eff := .plru (seg * 4096 + set) (plruTouch (Tab.get 0 s.plru (seg * 4096 + set)) w)
  match s.wayOf seg a with
  | some w => Plan.andThen (bumpWrap (pgPS seg) 0x114 1) (Plan.act (touch w)) s
  | none =>
    let w := s.victimWay seg set
    let k := lineKey seg set w
    Plan.seq [bumpWrap (pgPS seg) 0x118 1, writeBack k, Plan.when (!whole) (Plan.andThen (debitLine seg) (memRequests { cls := 4 } false (a / 128 * 128) 128)), goodWords k 0 128,
      (fun s => [.lines k { valid := true, tag := a / 128, data := Tab.getList 0 s.mem (a / 128 * 128) 128,
                            poisonLo := Tab.get false s.poisoned (a / 128 * 2), poisonHi := Tab.get false s.poisoned (a / 128 * 2 + 1) }]),
      Plan.act (touch w)] s

/-- Writes part of a line in its segment for a job (plus 1; 0 for no job): another job's dirty line is written back first; a block that is written whole is no longer POISONED (R146, R292). -/
def writeLine (seg a job : Nat) (bs : List Byte) : Plan :=
  let o := a % 128
  let e := o + bs.length
  Plan.andThen (bringLine seg a (bs.length == 128)) (fun s =>
    match s.wayOf seg a with
    | none => []
    | some w =>
      let k := lineKey seg (setOf a) w
      let l := Tab.get {} s.lines k
      Plan.seq [
        Plan.when (l.dirty && l.job != job) (writeBack k), goodWords k o bs.length,
        (fun s => let l := Tab.get {} s.lines k
          [.lines k { l with dirty := true, job := job, data := ovl l.data o bs, badTag := l.badTag && bs.length != 128, marked := l.marked && bs.length != 128,
                             poisonLo := l.poisonLo && !(decide (o = 0) && decide (64 ≤ e)), poisonHi := l.poisonHi && !(decide (o ≤ 64) && decide (128 ≤ e)) }])] s)

/-- Cuts a range at the boundaries of `g` bytes. -/
def pieces (g : Nat) (a : Nat) (bs : List Byte) : Nat → List (Nat × List Byte)
  | 0 => []
  | fuel + 1 =>
    match bs with
    | [] => []
    | _ => let n := g - a % g
           (a, bs.take n) :: pieces g (a + n) (bs.drop n) fuel

/-- The write of a range to GDDR6, through the cache segments that hold it; whole blocks written to the array clear their poison (R144, R292). -/
def gddrStore (job : Nat) (a : Nat) (bs : List Byte) : Plan := fun s =>
  if s.cacheSegs.isEmpty && s.poisoned.isEmpty then [.store a bs]
  else
    Plan.each (pieces 128 a bs (bs.length / 128 + 2)) (fun p => fun s =>
      match s.cacheOf p.1 with
      | some n => writeLine n p.1 job p.2 s
      | none =>
        .store p.1 p.2 :: (pieces 64 p.1 p.2 4).filterMap (fun q => if q.2.length = 64 then some (.poisoned (q.1 / 64) false) else none)) s

/-- The lines of a range that GDDR6 reads bring in (R143); a range in no window brings none. -/
def gddrTouch (a n : Nat) : Plan := fun s =>
  if s.cacheSegs.isEmpty || n = 0 then []
  else Plan.each (linesOf a n) (fun la => fun s =>
    match s.cacheOf la with
    | some g => bringLine g la false s
    | none => []) s

/-- Clean lines that fail their parity check are invalidated, and the access is served again from GDDR6 (R150). -/
def dropClean (note : Nat × Nat × Bool → Plan) (l : List (Nat × Nat × Bool)) : Plan := Plan.each l (fun x => fun s =>
  let k := Tab.get {} s.lines x.1
  if k.valid && !k.dirty then Plan.andThen (note x) (Plan.act (.lines x.1 {})) s else [])

/-- A dirty line that failed its check carries the mark into GDDR6 (R150). -/
def markLine (key : Nat) : Plan := fun s => [.lines key { Tab.get {} s.lines key with marked := true }]

/-- A read of GDDR6 through the cache lines that serve it: each detection is noted; a clean line is served again from GDDR6, the first dirty one is marked and answered by `onDirty` (R148, R150). -/
def cachedRead (note : Nat × Nat × Bool → Plan) (onDirty go : Plan) (a n : Nat) : Plan := fun s =>
  match s.badCached a n with
  | [] => go s
  | bad => Plan.andThen (dropClean note bad) (fun s =>
      match bad.find? (fun x => (Tab.get {} s.lines x.1).dirty) with
      | some x => Plan.seq [note x, markLine x.1, onDirty] s
      | none => go s) s

/-- The write of a range to plate scratch: it clears the bad parity of every word it touches (R149). -/
def plateStore (a : Nat) (bs : List Byte) : Plan := fun s =>
  if s.badWords.isEmpty then [.store a bs]
  else .store a bs :: (s.badWords.filter (fun e => decide (a / 4 ≤ e.1) && decide (e.1 ≤ (a + bs.length - 1) / 4))).map (fun e => Eff.badWords e.1 false)

end Sys2Proof.Machine
end

