-- ==== Sys2Proof/Machine/Buffers.lean ====
section
/-! DEFINITION. The areas of memory that the lettering engine and the pool manager keep to themselves (R171, R187, R282), the writes of units, and
buffer handles of the pools: where a buffer lies, its reference count, and the free list it returns to (R277, R282-R284). -/
namespace Sys2Proof.Machine

/-! ## Areas of the units -/

/-- Whether a range enters the session area, the mask-cache area or, unless `stops` admits it, the stop-set table (R171, R187). An area whose base reads 0 is there once something uses it
(log entry 20). -/
def State.letForeign (s : State) (stops : Bool) (a n : Nat) : Bool :=
  let sess := s.base pgLET 0x104
  let stop := s.base pgLET 0x118
  let cfg := s.reg 0 pgLET 0x114
  let log2 := fld cfg 4 0
  ((sess != 0 || s.sessions.any (fun e => e.2.state ≠ .free)) && overlaps a n sess 8421376) ||
    (decide (8 ≤ log2) && decide (log2 ≤ 16) && fld cfg 13 8 != 0 && overlaps a n (s.base pgLET 0x10C) (2 ^ log2 * (fld cfg 13 8 * 1024))) ||
    (!stops && (stop != 0 || s.sessions.any (fun e => e.2.state ≠ .free && e.2.stopSet != 0xFFFF)) && overlaps a n stop (4096 * 288))

/-- The side table of the buffer pools (R282; log entry 20 while its base reads 0). -/
def State.refBase (s : State) : Nat := s.reg 0 pgPOL 0x100 + s.reg 0 pgPOL 0x104 * 2 ^ 32
def State.polForeign (s : State) (a n : Nat) : Bool :=
  (s.refBase != 0 || s.pools.any (fun e => e.2.enable)) && overlaps a n s.refBase 0x400000

/-- The page of the area that a write of another requester would enter; `stops` holds for BAR4 and jobs of the PF (R171, R187, R282). -/
def State.foreign (s : State) (stops : Bool) (a n : Nat) : Option Nat :=
  if s.letForeign stops a n then some pgLET else if s.polForeign a n then some pgPOL else none

/-- A counter of LET_CNT, by its index (R171, R181). -/
def letCnt (i : Nat) : Nat := 0x1000 + 4 * i

/-- A foreign write was dropped: it is counted and sets FOREIGN (R171, R282). -/
def noteForeign (page : Nat) : Plan :=
  if page = pgLET then Plan.andThen (bump pgLET (letCnt 9) 1) (raiseErr pgLET 1 []) else raiseErr pgPOL 2 []

/-! ## Writes of units -/

/-- A write of the lettering engine into its own areas (R171). -/
def ownStore (a : Nat) (bs : List Byte) : Plan := fun s => if s.gddr.frozen then [] else Plan.andThen (memRequests { cls := 5 } true a bs.length) (gddrStore 0 a bs) s

/-- A write that a unit makes for no job: the pool manager's links and the log of measured service. It is dropped in an area of another unit, `mine` being the page of an area that is its own
(R171, R282), and where a POISONED block would need a merge (R292, R294). -/
def unitStore (mine : Nat) (a : Nat) (bs : List Byte) : Plan := fun s =>
  if s.gddr.frozen then []
  else match s.foreign false a bs.length with
    | some pg => if pg = mine then Plan.andThen (memRequests { cls := 6 } true a bs.length) (gddrStore 0 a bs) s else noteForeign pg s
    | none =>
      Plan.andThen (memRequests { cls := 6 } true a bs.length)
        (if s.partialOnPoison a bs.length then poisonRead { cls := 6 } a else gddrStore 0 a bs) s

def State.pool (s : State) (p : Nat) : Pool := Tab.get {} s.pools p
def Pool.slice (x : Pool) (p : Nat) : PolSlice := Tab.get {} x.slices p
def Pool.setSlice (x : Pool) (p : Nat) (v : PolSlice) : Pool := { x with slices := Tab.put {} x.slices p v }
def modSlice (pool part : Nat) (f : PolSlice → PolSlice) : Plan := fun s => [.pools pool ((s.pool pool).setSlice part (f ((s.pool pool).slice part)))]

/-- The first index of a partition's slice: the COUNTs of the enabled slices of the partitions below it (R277). -/
def Pool.firstIndex (x : Pool) (part : Nat) : Nat :=
  ((List.range part).map (fun p => if (x.slice p).enable then (x.slice p).count else 0)).foldl (· + ·) 0

/-- Buffers of a pool over its enabled slices. -/
def Pool.total (x : Pool) : Nat := x.firstIndex 8

def Pool.bufBytes (x : Pool) : Nat := x.size4k * 4096

/-- The slice that holds an index of a pool. -/
def Pool.sliceOf (x : Pool) (i : Nat) : Option Nat :=
  (List.range 8).find? (fun p => (x.slice p).enable && decide (x.firstIndex p ≤ i) && decide (i < x.firstIndex p + (x.slice p).count))

/-- Where a buffer lies (R277). -/
def Pool.bufAddr (x : Pool) (part i : Nat) : Nat := (x.slice part).base + (i - x.firstIndex part) * x.bufBytes

def handleOf (pool i : Nat) : Nat := pool * 2 ^ 20 + i
def State.refCount (s : State) (pool i : Nat) : Nat := Tab.get 0 s.refs ((s.pool pool).first + i)
def setRef (pool i n : Nat) : Plan := fun s => [.refs ((s.pool pool).first + i) n]

/-- The address of the buffer that a handle names. -/
def State.handleAddr (s : State) (h : Nat) : Nat :=
  let x := s.pool (fld h 23 20)
  let i := fld h 19 0
  match x.sliceOf i with
  | some p => x.bufAddr p i
  | none => 0

/-! ## Free lists (R284) -/

/-- The 16-byte link of a free buffer (R284). -/
def linkBytes (next : Nat) (last : Bool) (self pool part gen : Nat) : List Byte :=
  let b := leBytes 4 (next + bitAt last 31) ++ leBytes 4 (self + pool * 2 ^ 20 + part * 2 ^ 24) ++ leBytes 4 gen
  b ++ leBytes 4 (crc32c b)

/-- Adds a reference of a unit or the host; refused at 0 and at 0xFFFF. The second part says that it was taken. -/
def addRef (s : State) (h : Nat) : Bool × Plan :=
  let n := s.refCount (fld h 23 20) (fld h 19 0)
  if n = 0 ∨ n = 0xFFFF then (false, Plan.skip) else (true, setRef (fld h 23 20) (fld h 19 0) (n + 1))

/-- Pushes a freed buffer onto its slice's list, unless the slice is QUARANTINED or under rebuild (R283, R285). -/
def pushFree (pool i : Nat) : Plan := fun s =>
  let x := s.pool pool
  match x.sliceOf i with
  | none => []
  | some p =>
    let sl := x.slice p
    if sl.state ≠ 1 then []
    else Plan.andThen (unitStore pgPOL (x.bufAddr p i) (linkBytes (if sl.free = 0 then 0 else sl.head) (sl.free == 0) i pool p sl.gen))
      (modSlice pool p (fun sl => { sl with head := i, free := sl.free + 1 })) s

/-- Releases one reference; at 0 the buffer is freed (R283). -/
def releaseRef (h : Nat) : Plan := fun s =>
  let pool := fld h 23 20
  let i := fld h 19 0
  let n := s.refCount pool i
  match (s.pool pool).sliceOf i with
  | none => []
  | some p =>
    if n = 0 then
      Plan.andThen (modSlice pool p (fun sl => { sl with underflow := satAdd 0xFFFF sl.underflow 1 }))
        (event { cls := 8, code := 2, part := p, charged := true, fn := (s.part p).fn, page := pgPOL, detail := leBytes 4 (h % 2 ^ 24) }) s
    else Plan.andThen (setRef pool i (n - 1)) (Plan.when (n == 1) (pushFree pool i)) s

end Sys2Proof.Machine
end

