-- ==== Sys2Proof/Machine/Jobs.lean ====
section
/-! DEFINITION. Jobs and strokes: completion entries and interrupts, readiness, mutexes and priority inheritance, the kill of a job and its completion (R20-R28, R39-R53, R276). -/
namespace Sys2Proof.Machine

/-- A job by the number of its fetch; a number that names none is `gone`. -/
def State.job (s : State) (id : Nat) : Job := Tab.get {} s.jobs id

/-- The ids of the jobs that exist. -/
def State.jobIds (s : State) : List Nat := s.jobs.map (·.1)

/-- A stroke of a job. -/
def Job.stroke (j : Job) (i : Nat) : Stroke := (j.strokes[i]?).getD {}

def setJob (id : Nat) (j : Job) : Plan := Plan.act (.jobs id j)

/-- Changes a job. -/
def modJob (id : Nat) (f : Job → Job) : Plan := fun s => [.jobs id (f (s.job id))]

/-- Changes one stroke of a job and notes the tick of its change of state (R44). -/
def modStroke (id i : Nat) (f : Stroke → Stroke) : Plan := fun s =>
  let j := s.job id
  [.jobs id { j with strokes := j.strokes.modify i f, changed := s.ticks }]

/-- The stroke-table index of a job's stroke. -/
def Job.tableIndex (j : Job) (i : Nat) : Nat := j.first + i

/-- The global semaphore behind a partition-local number (R42). -/
def State.semOf (s : State) (p local_ : Nat) : Sem := Tab.get {} s.sems ((s.part p).semFirst + local_)

/-- The partition that owns a queue (R13, R263). -/
def State.queuePart (s : State) (q : Nat) : Option Nat :=
  (List.range 8).find? (fun p => let x := s.part p; decide (x.state ≠ .unused) && decide (x.qFirst ≤ q) && decide (q < x.qFirst + x.qCount))

/-- The function of a queue and its local number (R13). -/
def State.queueFn (s : State) (q : Nat) : Nat := ((s.queuePart q).map (fun p => (s.part p).fn)).getD 0
def State.queueLocal (s : State) (q : Nat) : Nat := ((s.queuePart q).map (fun p => q - (s.part p).qFirst)).getD 0

def State.queue (s : State) (q : Nat) : Queue := Tab.get {} s.queues q

def Queue.sqSize (q : Queue) : Nat := 2 ^ (q.sqLog2 + 6)
def Queue.cqSize (q : Queue) : Nat := 2 ^ (q.cqLog2 + 6)

/-- A QUE_ERR bit goes from 0 to 1, or stays: a queue error signals vector 0 of the function (R25). -/
def queueErr (q b : Nat) : Plan := fun s =>
  let x := s.queue q
  if bit x.err b then []
  else .queues q { x with err := x.err + 2 ^ b } :: sendVec (s.queueFn q) 0 (s.apply (.queues q { x with err := x.err + 2 ^ b }))

/-! ## Completions (R21, R26, R32 code 0x0E) -/

/-- The 16 bytes of a completion entry (R21). -/
def Cqe.bytes (c : Cqe) (phase : Bool) : List Byte :=
  leBytes 1 (if phase then 1 else 0) ++ leBytes 1 c.status ++ leBytes 2 c.queue ++ leBytes 4 c.tag ++ leBytes 8 c.ptr

/-- The CQ has no room for another entry (log entry 7). -/
def Queue.cqFull (q : Queue) : Bool := (q.cqTail + 1) % q.cqSize == q.cqHead

/-- COALESCE_COUNT: the queue's count and timer after a completion, and its vector (R26). -/
def coalesce (q : Nat) (c : Cqe) : Plan := fun s =>
  let x := s.queue q
  let n := x.count + 1
  if c.irqNow || decide (0x0F < c.status) || decide (x.coalCount ≤ n) then
    Plan.andThen (Plan.act (.queues q { x with count := 0, timer := none })) (sendVec (s.queueFn q) x.vector) s
  else [.queues q { x with count := n, timer := some (x.timer.getD s.ticks) }]

/-- COMPLETION_POST: one entry written to the ring, CQ_TAIL advanced and PHASE inverted on a wrap (R21). -/
def writeCqe (q : Nat) (c : Cqe) : Plan := fun s =>
  let x := s.queue q
  let t := (x.cqTail + 1) % x.cqSize
  Plan.andThen
    (fun _ => [.store (hostBase + x.cqBase + x.cqTail * 16) (c.bytes x.phase),
               .queues q { x with cqTail := t, phase := if t = 0 then !x.phase else x.phase }])
    (coalesce q c) s

/-- Posts a completion, or holds it on chip while the CQ is full (R9, R32 code 0x0E). -/
def postCqe (q : Nat) (c : Cqe) : Plan := fun s =>
  let x := s.queue q
  if x.cqFull || !x.held.isEmpty then
    Plan.andThen (Plan.act (.queues q { x with held := x.held ++ [{ c with since := s.ticks }], heldSince := some (x.heldSince.getD s.ticks) })) (queueErr q 4) s
  else writeCqe q c s

/-- Posts the completions that are held, as far as the CQ has room. -/
def drainHeld (q : Nat) : Nat → Plan
  | 0 => Plan.skip
  | fuel + 1 => fun s =>
    let x := s.queue q
    match x.held with
    | [] => []
    | c :: cs =>
      if x.cqFull then []
      else Plan.seq [Plan.act (.queues q { x with held := cs, heldSince := cs.head?.map (·.since) }), writeCqe q c, drainHeld q fuel] s

/-! ## Readiness (R39, R52) -/

def Stroke.finished (t : Stroke) : Bool := t.state = .done || t.state = .skipped

/-- A wait entry is satisfied for a job (R39, R41, R42, R43). -/
def waitOk (s : State) (id : Nat) (j : Job) (w : Wait) : Bool :=
  match w.kind with
  | .none => true
  | .token => decide (w.target ≤ Tab.get 0 j.tokens w.id)
  | .counter => let m := s.semOf j.part w.id; !m.mutex && decide (w.target ≤ m.value)
  | .mutex => let m := s.semOf j.part w.id; m.mutex && (m.holder == 0 || m.holder == id + 1)

/-- A wait entry is a mutex that another job holds; the answer is that job's id. -/
def blockedBy (s : State) (id : Nat) (j : Job) (w : Wait) : Option Nat :=
  match w.kind with
  | .mutex => let m := s.semOf j.part w.id; if m.mutex && m.holder != 0 && m.holder != id + 1 then some (m.holder - 1) else none
  | _ => none

/-- An unfinished sch.bucket stroke of the job holds stroke `i` in one of its ranges (R52). -/
def bucketHolds (j : Job) (i : Nat) : Bool :=
  j.strokes.any (fun b => !b.finished && b.buckets.any (fun e => decide (e.2.1 ≤ i) && decide (i < e.2.1 + e.2.2)))

/-- Every condition of R39 but those on mutexes. -/
def readyButMutex (s : State) (id : Nat) (j : Job) (i : Nat) (t : Stroke) : Bool :=
  t.waits.all (fun w => w.kind = .mutex || waitOk s id j w) &&
  (!t.barrier || (j.strokes.take i).all Stroke.finished) && !bucketHolds j i

/-- The conditions of R39. -/
def isReady (s : State) (id : Nat) (j : Job) (i : Nat) (t : Stroke) : Bool :=
  readyButMutex s id j i t && t.waits.all (waitOk s id j)

/-- The state of a WAITING or READY stroke evaluated again. -/
def evalStroke (s : State) (id : Nat) (j : Job) (i : Nat) (t : Stroke) : Stroke :=
  match t.state with
  | .waiting => if isReady s id j i t then { t with state := .ready } else t
  | .ready => if isReady s id j i t then t else { t with state := .waiting }
  | _ => t

/-- The strokes of a job evaluated again. -/
def evalJob (id : Nat) : Plan := fun s =>
  let j := s.job id
  if j.phase = .running && j.killed.isNone then
    let st := j.strokes.mapIdx (fun i t => evalStroke s id j i t)
    if st = j.strokes then [] else [.jobs id { j with strokes := st, changed := s.ticks }]
  else []

/-- The holders that a stroke is blocked on: it would be READY except for mutexes of other jobs (R50). -/
def blockers (s : State) (id : Nat) (j : Job) (i : Nat) (t : Stroke) : List Nat :=
  if t.state = .waiting && readyButMutex s id j i t then t.waits.filterMap (blockedBy s id j) else []

/-- The holders that any stroke of a job is blocked on. -/
def jobBlockers (s : State) (id : Nat) : List Nat :=
  let j := s.job id
  (j.strokes.mapIdx (fun i t => blockers s id j i t)).flatten

/-- PRIORITY_INHERIT: raises a holder and, through it, the holders its own strokes are blocked on, through at most `fuel` holders: of the four from the blocked stroke, those that are left (R50). -/
def raiseHolder : Nat → Nat → Nat → Plan
  | 0, _, _ => Plan.skip
  | fuel + 1, p, h => fun s =>
    let j := s.job h
    if j.phase ≠ .gone && (decide (j.eff < p) || (j.eff == p && decide (4 - fuel < j.via))) then
      let part := s.part j.part
      Plan.seq [setJob h { j with eff := p, via := 4 - fuel },
        Plan.when (decide (j.eff < p)) (Plan.act (.parts j.part { part with inherits := satAdd 0xFFFFFFFF part.inherits 1 })),
        Plan.look (fun s => Plan.each (jobBlockers s h) (raiseHolder fuel p))] s
    else []

/-- Every blocked stroke raises the holders of its mutexes; a job that is raised itself passes the raise on through the holders that are left of the four (R50). -/
def inherit : Plan := fun s =>
  Plan.each s.jobIds (fun id => fun s =>
    let j := s.job id
    if j.phase = .running && j.killed.isNone then Plan.each (jobBlockers s id) (raiseHolder (4 - j.via) j.eff) s else []) s

/-- Waiting strokes are evaluated again, and priorities inherited. -/
def settle : Plan := fun s => Plan.andThen (Plan.each s.jobIds evalJob) inherit s

/-- The effective priority of a job that has released a mutex: its base, or the highest of the strokes still blocked on mutexes it holds (R50). -/
def effAfterRelease (s : State) (h : Nat) : Nat :=
  s.jobIds.foldl (fun m id => if (jobBlockers s id).contains h && decide ((s.job id).via < 4) then max m (s.job id).eff else m) (s.job h).base

/-- The holders between the job and the blocked stroke that still raises it, at the priority it then has. -/
def viaAfterRelease (s : State) (h : Nat) : Nat :=
  let e := effAfterRelease s h
  if e = (s.job h).base then 0
  else s.jobIds.foldl (fun m id => if (jobBlockers s id).contains h && (s.job id).eff == e then min m ((s.job id).via + 1) else m) 4

def dropInherit (h : Nat) : Plan := fun s =>
  if (s.job h).phase = .gone then [] else [.jobs h { s.job h with eff := effAfterRelease s h, via := viaAfterRelease s h }]

/-! ## Mutexes (R43) -/

/-- An event of class SCHEDULER (R361). -/
def schedEvent (j : Job) (code stroke sem : Nat) : Plan :=
  event { cls := 7, code := code, stroke := stroke, part := j.part, charged := true, fn := j.fn, page := pgSCH, detail := leBytes 2 sem }

/-- Frees every mutex that a job still holds, with an event record for each (R43). -/
def freeMutexes (id : Nat) : Plan := fun s =>
  Plan.each ((s.sems.filter (fun e => e.2.mutex && e.2.holder == id + 1)).map (·.1)) (fun g => fun s =>
    let m := Tab.get {} s.sems g
    let j := s.job id
    Plan.andThen (Plan.act (.sems g { m with holder := 0 })) (schedEvent j 2 0 (g - (s.part j.part).semFirst)) s) s

/-! ## Kill (R53, R73, R146, R152) -/

/-- The local-memory share of a placement is put under burnish and zeroed (R53, R72, R73). -/
def burnishLocal (pl : Place) : Plan := fun s =>
  (match pl with
  | .whole n => [.clusters n { s.cluster n with burnishW := true }]
  | .half n false => [.clusters n { s.cluster n with burnishL := true }]
  | .half n true => [.clusters n { s.cluster n with burnishR := true }]
  | .hatch n => [.clusters n { s.cluster n with burnishH := true }]
  | .mover n => [.clusters n { s.cluster n with burnishM := true }]
  | _ => []) ++ pl.localShare.map (fun x => .localMemClear x.1 x.2)

/-- The plate blocks that a job claims, ascending (R151). -/
def State.claimsOf (s : State) (id : Nat) : List Nat := (s.claims.filter (fun e => e.2 == id + 1)).map (·.1)

/-- Puts every block that a job claims under burnish (R152). -/
def burnishClaims (id : Nat) : Plan := fun s =>
  Plan.each (s.claimsOf id) (fun b => fun s =>
    let g := s.seg (b / 128)
    if g.burnish.contains (b % 128) then [] else [.segs (b / 128) { g with burnish := g.burnish ++ [b % 128] }]) s

/-- Invalidates every line still dirty under a job, without write-back (R146). -/
def dropLines (id : Nat) : Plan := fun s =>
  (s.lines.filter (fun e => e.2.valid && e.2.dirty && e.2.job == id + 1)).map (fun e => Eff.lines e.1 {})

/-- Frees a job's save frames (R53). -/
def freeFrames (id : Nat) : Plan := fun s =>
  let j := s.job id
  let p := s.part j.part
  if p.framesUsed.any (fun f => f.2 == id) then [.parts j.part { p with framesUsed := p.framesUsed.filter (fun f => f.2 != id) }] else []

/-! ## The session area (R171, R173) -/

def State.session (s : State) (n : Nat) : Session := Tab.get {} s.sessions n
def State.group (s : State) (g : Nat) : Group := Tab.get {} s.groups g



/-- The 128 bytes of a session entry (R173). -/
def entryBytes (s : State) (x : Session) (nextWait : Nat) : List Byte :=
  let j := s.job x.job
  leBytes 1 (match x.state with | .free => 0 | .waiting => 1 | .active => 2 | .closing => 3) ++ leBytes 1 x.fin ++ leBytes 1 x.group ++
  leBytes 1 (bitAt x.stopKeep 0 + bitAt x.ignoreEos 1 + bitAt x.sample 2 + bitAt x.satOut 3 + bitAt x.utf8Open 4) ++
  leBytes 4 (j.tableIndex x.idx + j.fn * 2 ^ 25 + j.part * 2 ^ 29) ++ leBytes 1 x.vocab ++ leBytes 1 x.grammar ++ leBytes 2 x.stopSet ++
  leBytes 2 x.ring ++ leBytes 2 x.maxNew ++ leBytes 4 x.kvLen ++ leBytes 2 x.promptLen ++ leBytes 2 x.generated ++ leBytes 4 x.input ++
  leBytes 2 x.topK ++ leBytes 2 (if x.gslot = 0 then 0xFFFF else x.gslot - 1) ++ leBytes 4 x.temp ++ leBytes 4 x.topP ++ leBytes 8 x.seed ++
  leBytes 2 x.pdaState ++ leBytes 1 x.stack.length ++ leBytes 1 x.sitRun ++ leBytes 4 x.sitTotal ++ leBytes 8 x.textBase ++ leBytes 4 x.textCap ++
  leBytes 4 x.textLen ++ leBytes 8 x.promptAddr ++ leBytes 1 x.holdLen ++ leBytes 1 x.tail.length ++ leBytes 2 nextWait ++ leBytes 4 x.kvStart ++
  (x.tail ++ zeros (32 - x.tail.length)) ++ leBytes 4 x.stepJoined ++ zeros 4

def copyBase (s : State) (c : Nat) : Nat := s.base pgLET 0x104 + c * 0x404000

/-- Writes a session's entry and stack in one copy. -/
def writeEntry (c n nextWait : Nat) : Plan := fun s =>
  let x := s.session n
  Plan.andThen (ownStore (copyBase s c + n * 256) (entryBytes s x nextWait)) (ownStore (copyBase s c + n * 256 + 128) (x.stack.map (leBytes 2)).flatten) s

/-- The entries of a group's waiting sessions, the same in both copies, linked in order (R173). -/
def writeWaiting (g : Nat) : Plan := fun s =>
  let w := (s.group g).waiting
  Plan.seq (w.mapIdx (fun k n => Plan.andThen (writeEntry 0 n (w.getD (k + 1) 0xFFFF)) (writeEntry 1 n (w.getD (k + 1) 0xFFFF)))) s

/-- Marks the entry of a session FREE in both copies of the session area (R171, R173). -/
def freeEntry (s : State) (n : Nat) : Plan := Plan.andThen (ownStore (copyBase s 0 + n * 256) [0]) (ownStore (copyBase s 1 + n * 256) [0])

/-- The WAITING sessions of a job leave their waiting lists at once; a group left empty is released (R180). -/
def dropWaiting (id : Nat) : Plan := fun s =>
  Plan.each ((s.sessions.filter (fun e => e.2.state = .waiting && e.2.job == id)).map (·.1)) (fun n => fun s =>
    let x := Tab.get {} s.sessions n
    let g := Tab.get {} s.groups x.group
    let w := g.waiting.filter (· != n)
    Plan.andThen (fun _ => [.sessions n {}, .groups x.group { g with waiting := w, owner := if w.isEmpty && g.slots.isEmpty then 0 else g.owner }])
      (Plan.andThen (freeEntry s n) (writeWaiting x.group)) s) s

/-- A coded picture is met in a context's stream, which resumes output only at a point that decoding has reached since it joined: whether it is decoded, and if so whether output is open to it (R198). -/
def StreamCtx.meet (x : StreamCtx) (p : CodedPic) : StreamCtx × Option Bool :=
  let quiet := { x with suppressed := satAdd 0xFFFFFFFF x.suppressed 1 }
  if x.state = 1 then
    if x.joined && p.early then (quiet, some false) else ({ x with joined := x.joined && !p.starts }, some true)
  else if p.shows && (p.starts || x.decoding) then ({ x with state := 1, decoding := false, joined := true }, some true)
  else if p.starts || x.decoding then
    ({ (if x.codec = 3 && p.starts then x else quiet) with decoding := true }, some false)
  else (quiet, none)

/-- The pictures of a list met in turn: the context that is left, and those that are decoded with their number in the list. -/
def meetAll (x : StreamCtx) : Nat → List CodedPic → StreamCtx × List (Nat × CodedPic × Bool)
  | _, [] => (x, [])
  | k, p :: ps =>
    let a := x.meet p
    let b := meetAll a.1 (k + 1) ps
    (b.1, match a.2 with | none => b.2 | some sh => (k, p, sh) :: b.2)

/-- A begun media stroke with no work left in the queue has run (R196). -/
def mediaEnds (l : List (Nat × Nat)) : Plan :=
  Plan.each l.dedup (fun r => fun s =>
    let t := (s.job r.1).stroke r.2
    if s.medQueue.any (fun w => w.job == r.1 && w.idx == r.2) || !t.begun || t.ran then [] else modStroke r.1 r.2 (fun t => { t with ran := true }) s)

/-- A context, unless it is UNSUPPORTED, enters RESYNC: its queued pictures are met anew from that point on (R198, R200, R215). -/
def resync (c : Nat) : Plan := fun s =>
  let x : StreamCtx := Tab.get {} s.streams c
  if x.state = 4 then [] else
  let mine := s.medQueue.filter (fun w => w.kind = .decode && w.ctx == c && w.cls.isNone)
  let orders := (mine.map (·.order)).dedup
  let m := meetAll { x with state := 3, decoding := false, joined := false, first := true, epoch := x.epoch + 1 } 0
    (orders.filterMap (fun o => (mine.find? (fun w => w.order == o)).map (·.pic)))
  let shown (o : Nat) : Option Bool := (m.2.find? (fun e => orders.getD e.1 0 == o)).map (·.2.2)
  let queue := s.medQueue.filterMap (fun w =>
    if w.kind = .decode && w.ctx == c && w.cls.isNone then (shown w.order).map (fun b => { w with shown := b, epoch := x.epoch + 1 }) else some w)
  let gone := (mine.filter (fun w => (shown w.order).isNone && w.handle != 0)).map (·.handle)
  Plan.seq [Plan.act (.streams c m.1), Plan.act (.medQueue queue), Plan.each gone.dedup (fun h => releaseRef (h - 1)),
    mediaEnds (mine.map (fun w => (w.job, w.idx)))] s

/-- The running pictures and pages of a killed job are abandoned at once, its queued ones leave, and the contexts whose picture ran enter RESYNC (R198, R215). -/
def abandonMedia (id : Nat) : Plan := fun s =>
  let mine := s.medQueue.filter (fun w => w.job == id)
  if mine.isEmpty then []
  else
    let ctxs := ((mine.filter (fun w => (w.kind = .decode || w.kind = .encode) && w.core.isSome)).map (·.ctx)).dedup
    let bufs := ((mine.filter (fun w => w.handle != 0)).map (·.handle)).dedup
    Plan.seq [
      Plan.act (.medQueue (s.medQueue.filter (fun w => w.job != id))),
      Plan.each (mine.filterMap (·.core)) (fun c => fun s => [.cores c { Tab.get {} s.cores c with work := 0, panic := false }]),
      Plan.each ctxs resync,
      Plan.each bufs (fun h => releaseRef (h - 1))] s

/-- The epoch that a killed job runs ends: its context is OPEN again and its transient buffers are returned (R221, R231). -/
def abandonIntake (id : Nat) : Plan := fun s =>
  Plan.each ((s.intakes.filter (fun e => e.2.state == 2 && e.2.job == id)).map (·.1)) (fun c => fun s =>
    let x := Tab.get {} s.intakes c
    let bufs := x.window.filterMap (fun e => match e.2 with | .ready d => if d.handle = 0 then none else some (d.handle - 1) | _ => none)
    Plan.andThen (Plan.act (.intakes c { x with state := 1, window := [] })) (Plan.each bufs releaseRef) s) s

/-- JOB_KILL with a status; a job already killed keeps its first status unless DISCARDED, ranked above it, now applies (R22, R53). -/
def killJob (id status : Nat) : Plan := fun s =>
  let j := s.job id
  if j.phase = .gone then []
  else match j.killed with
    | some _ => if status = 0x10 then [.jobs id { j with killed := some 0x10 }] else []
    | none =>
      Plan.seq [
        setJob id { j with killed := some status, changed := s.ticks,
                           strokes := j.strokes.map (fun t => if t.state = .preempted then { t with frame := none } else t) },
        freeMutexes id, freeFrames id, burnishClaims id, dropLines id, dropWaiting id, abandonMedia id, abandonIntake id,
        Plan.each (j.strokes.filterMap (fun t => if t.state = .running then t.place else none)) burnishLocal,
        settle] s

/-- A fault charged to a stroke: its job is killed and a JOB_FAULT record names the stroke (R361, R401). -/
def faultStroke (id i status check page : Nat) : Plan := fun s =>
  let j := s.job id
  Plan.andThen
    (event { cls := 2, code := status, stroke := j.tableIndex i, part := j.part, charged := true, fn := j.fn, page := page, check := check })
    (killJob id status) s

/-! ## Completion of a job (R22, R28, R40, R276) -/

/-- The status of a job by R22 over its strokes' outcomes. -/
def Job.status (j : Job) : Nat :=
  match j.killed with
  | some st => st
  | none =>
    if j.rollback then 0x40 else if j.grammarDead then 0x50 else if j.sessionStopped then 0x51
    else if j.rerun then 0x02 else if j.reordered then 0x01 else 0x00

/-- ⌊256 × ACTIVE / (ACTIVE − STALL)⌋, at most 0xFFFF (R275). -/
def slowdown (active stall : Nat) : Nat :=
  if active ≤ stall then 0xFFFF else min 0xFFFF (256 * active / (active - stall))

/-- SLOWDOWN_ENTRY: one entry of the log of a partition in measured service, for a job that ends with a status; where its header lies in a POISONED block it is dropped (R276; log entry 119). -/
def slowdownEntry (id status : Nat) : Plan := fun s =>
  let j := s.job id
  let p := s.part j.part
  if !p.measure || p.slowBase = 0 then []
  else
    let tail := s.numAt p.slowBase 4
    let head := s.numAt (p.slowBase + 4) 4
    let drop : Plan := Plan.andThen (Plan.act (.parts j.part { p with slowDropped := satAdd 0xFFFF p.slowDropped 1 })) (raiseErr pgPAR 3 [])
    if s.meetsPoison p.slowBase 8 then Plan.andThen (poisonRead { cls := 6, fn := j.fn, stroke := j.first } p.slowBase) drop s
    else if (tail + 2 ^ 32 - head) % 2 ^ 32 = 2 ^ p.slowLog2 then drop s
    else
      let nb := decide (j.timed < 1024)
      let e := leBytes 4 j.tag ++ leBytes 2 (s.queueLocal j.queue + (if nb then 2 ^ 15 else 0)) ++
        leBytes 2 (if nb then 0 else slowdown j.active j.stall) ++ leBytes 4 j.timed ++ leBytes 1 status ++ zeros 3 ++
        leBytes 8 j.active ++ leBytes 8 j.stall
      Plan.andThen (unitStore pgPAR (p.slowBase + 64 + tail % 2 ^ p.slowLog2 * 32) e) (unitStore pgPAR p.slowBase (leBytes 4 ((tail + 1) % 2 ^ 32))) s

/-- SLOT_FILL: the slot takes the payload and the next sequence number (R27, R28). -/
def Slot.fill (x : Slot) (payload : List Byte) : Slot :=
  { state := .full, seq := if x.seq = 0xFFFFFFFF then 1 else x.seq + 1, payload := payload }

/-- KIND of a fetched packet. -/
def Job.kind (j : Job) : Nat := rdN j.packet 0 1

/-- Chunks of 64 strokes that a job needs (R34). -/
def Job.chunksNeeded (j : Job) : Nat := cdiv j.count 64

/-- A RUN packet breaks its layout (R19, R20). -/
def malformed (s : State) (j : Job) : Bool :=
  let p := s.part j.part
  let len := rdN j.packet 0x28 4
  let slot := fld (rdN j.packet 0x2C 4) 11 0
  j.kind != 1 || j.resultMode == 3 || j.count == 0 || decide (65536 < j.count) || decide (65536 < j.argsLen) ||
  decide (j.first < p.sFirst * 64) || decide ((p.sFirst + p.sCount) * 64 < j.first + j.count) ||
  (j.resultMode == 1 && (len == 0 || decide (2 ^ 47 < j.resultAddr + len))) ||
  (j.resultMode == 2 && decide (p.qCount ≤ slot))

/-- The global result slot that a SLOT-mode packet names. -/
def State.slotNamed (s : State) (j : Job) : Nat := (s.part j.part).qFirst + fld (rdN j.packet 0x2C 4) 11 0

/-- What a fetched packet is turned away with, if anything: the status, and the violation that is reported (R19, R20, R22, R28, R32 codes 0x08 and 0x09, R34).
A FENCE and a NOP ignore every field that follows RESULT_MODE. -/
def State.refusal (s : State) (j : Job) : Option (Nat × Option Nat) :=
  if j.kind = 2 ∨ j.kind = 3 then
    (if j.resultMode = 3 then some (0x20, some 0x08) else if j.notReady then some (0x60, none) else none)
  else if malformed s j then some (0x20, some 0x08)
  else if (s.part j.part).window < j.chunksNeeded then some (0x21, none)
  else if j.resultMode = 2 ∧ (Tab.get {} s.slots (s.slotNamed j)).state ≠ .free then some (0x21, some 0x09)
  else if j.notReady then some (0x60, none)
  else none

/-- What a job that ends is turned away with: a packet that has not been looked at yet may be refused still, which ranks above its kill (R22). -/
def State.lateRefusal (s : State) (j : Job) : Option (Nat × Option Nat) := if j.phase = .fetched then s.refusal j else none

/-- The status in the completion of a job: the outcome listed first in R22 of those it met. -/
def State.endStatus (s : State) (j : Job) : Nat := ((s.lateRefusal j).map (·.1)).getD j.status

/-- RESULT_PTR of a completion (R21). -/
def resultPtr (s : State) (j : Job) : Nat :=
  if 0x0F < j.status then 0
  else if j.resultMode = 1 then j.resultAddr
  else match j.slot with
    | some g => 0x100000 + (g - ((s.queuePart j.queue).map (fun p => (s.part p).qFirst)).getD 0) * 64
    | none => 0

/-- Releases a job's claims, keeping the contents; blocks under burnish keep theirs until the burnish ends (R151, R152). -/
def releaseClaims (id : Nat) : Plan := fun s =>
  (s.claimsOf id).filterMap (fun b => if (s.seg (b / 128)).burnish.contains (b % 128) then none else some (Eff.claims b 0))

/-- A queue that drains shows DISABLED once the completion of its last fetched job has been posted (R18). -/
def drainedQueue (q : Nat) : Plan := fun s =>
  let x := s.queue q
  if x.state = .draining && x.held.isEmpty && !s.jobs.any (fun e => e.2.phase ≠ .gone && e.2.queue == q) then [.queues q { x with state := .disabled }] else []

/-- A job ends: its result slot, its slowdown entry, its completion entry, and its record goes; its window chunks stay with a completion that is held on chip (R28, R36, R43, R51, R53, R276). -/
def finishJob (id : Nat) (payload : List Byte) : Plan := fun s =>
  let j := s.job id
  let c : Cqe := { status := s.endStatus j, queue := s.queueLocal j.queue, tag := j.tag, ptr := resultPtr s j, irqNow := j.irqNow, chunks := j.chunks, part := j.part }
  Plan.seq [
    (match s.lateRefusal j with | some (_, some v) => violation j.fn v (s.queueLocal j.queue) | _ => Plan.skip),
    freeMutexes id,
    (match j.slot with
     | none => Plan.skip
     | some g => fun s => [.slots g (if 0x0F < j.status then { Tab.get {} s.slots g with state := .free } else (Tab.get {} s.slots g).fill payload)]),
    slowdownEntry id (s.endStatus j),
    releaseClaims id, freeFrames id,
    Plan.when (!j.silent) (postCqe j.queue c),
    Plan.act (.jobs id {}),
    drainedQueue j.queue,
    settle] s

/-! ## Release of units -/

/-- A stroke leaves its unit. -/
def leaveUnit (id i : Nat) (pl : Place) : Plan := fun s =>
  let me : Option StrokeRef := some { job := id, idx := i }
  match pl with
  | .whole n => if (s.cluster n).left = me then [.clusters n { s.cluster n with left := none }] else []
  | .half n false => if (s.cluster n).left = me then [.clusters n { s.cluster n with left := none }] else []
  | .half n true => if (s.cluster n).right = me then [.clusters n { s.cluster n with right := none }] else []
  | .hatch n => if (s.cluster n).hatch = me then [.clusters n { s.cluster n with hatch := none }] else []
  | .mover n => if (s.cluster n).mover = me then [.clusters n { s.cluster n with mover := none }] else []
  | _ => []

/-- The sessions that a job still holds become FREE, and its transfers and collectives end. -/
def dropHeld (id : Nat) : Plan := fun s =>
  Plan.seq [
    Plan.each ((s.sessions.filter (fun e => e.2.state ≠ .free && e.2.job == id)).map (·.1)) (fun n => fun s =>
      let g := (s.session n).group
      let x := s.group g
      let y := { x with slots := x.slots.filter (fun e => e.2 != n), waiting := x.waiting.filter (· != n) }
      Plan.andThen (fun _ => [.sessions n {}, .groups g { y with owner := if y.slots.isEmpty && y.waiting.isEmpty then 0 else y.owner }]) (freeEntry s n) s),
    (fun s => if s.xfers.any (fun x => x.job == id) then [.xfers (s.xfers.filter (fun x => x.job != id))] else []),
    (fun s => if s.colls.any (fun x => x.job == id) then [.colls (s.colls.filter (fun x => x.job != id))] else [])] s

/-- Every unit lets go of a killed job, and its completion is posted (R53 step 5). -/
def releaseKilled (id : Nat) : Plan := fun s =>
  let j := s.job id
  if j.phase = .gone || j.killed.isNone then []
  else
    Plan.seq [
      Plan.seq (j.strokes.mapIdx (fun i t => match t.place with | some pl => leaveUnit id i pl | none => Plan.skip)),
      (fun s => if s.retries.any (fun r => r.who.job == id) then [.retries (s.retries.filter (fun r => r.who.job != id))] else []),
      dropHeld id,
      finishJob id []] s

end Sys2Proof.Machine
end

