-- ==== Sys2Proof/Machine/Ledger.lean ====
section
/-! DEFINITION. The reserve ledger: an entry for every spare-in and retirement, with its event record (R376, R377). -/
namespace Sys2Proof.Machine

/-- The 32 bytes of a ledger entry (R376). -/
def LedgerEntry.bytes (e : LedgerEntry) : List Byte :=
  let b := leBytes 2 0x4C52 ++ leBytes 1 e.kind ++ leBytes 1 e.action ++ leBytes 1 e.logical ++ leBytes 1 e.physFrom ++ leBytes 1 e.physTo ++
    leBytes 1 e.cause ++ leBytes 4 e.seq ++ leBytes 4 (e.cycles % 2 ^ 24) ++ leBytes 4 e.seconds ++ zeros 8
  b ++ leBytes 4 (crc32c b)

/-- Writes a ledger entry and its RESERVE event; a full region takes no more (R342, R376). ACTION 2 and 3 also raise their error flags. -/
def ledgerWrite (kind action logical physFrom physTo cause page : Nat) : Plan := fun s =>
  let r := s.reserve
  let e : LedgerEntry :=
    { kind := kind, action := action, logical := logical, physFrom := physFrom, physTo := physTo, cause := cause, seq := r.ledger.length + 1,
      cycles := s.recorder.powerCycles, seconds := s.seconds }
  let full := decide (32768 ≤ r.ledger.length + r.torn)
  Plan.seq [
    (if full then raiseErr pgRSV 3 [] else Plan.act (.reserve { r with ledger := r.ledger ++ [e] })),
    Plan.when (action == 2) (raiseErr pgRSV 0 []),
    Plan.when (action == 3) (raiseErr pgRSV 1 []),
    event { cls := 0x0A, code := action, page := page, detail := e.bytes }] s

end Sys2Proof.Machine
end

