-- ==== Sys2Proof/Config.lean ====
section
/-! DEFINITION. What the spec leaves open, as constants with no body: free values, and results fixed by standards outside the spec.
Nothing can be proved of their values (log entries 2 and 10 to 16). -/
namespace Sys2Proof.Config

/-- The distance in units in the last place between a hatch result and the exact result rounded, by operation and input bits (R109); the model clips it to the bound of R109. -/
opaque ulpError : Nat → Nat → Int

/-- The bound in units in the last place of an operation whose accuracy R109 does not state: f′(X) of hatch.act_bwd for gelu, silu, sigmoid and tanh, and hatch.cosine (R110). -/
opaque openBound : Nat → Nat

/-- A value the spec leaves open, by the number of values drawn so far. -/
opaque freeValue : Nat → Nat

/-- hatch.cosine of two rows of FP32 bits one of which has norm 0, to FP32 bits: the spec states no result (R110). -/
opaque cosine : List Nat → List Nat → Nat

/-- What ITU-T T.4 (1: one-dimensional, 2: two-dimensional) or T.6 (3) makes of a line of a bilevel page: kind, whether EOLs are byte-aligned, pixels of a line, the page's bits in order, the line;
its bits, none where it cannot be decoded (R207, R209). -/
opaque bilevelLine : Nat → Bool → Nat → List Bool → Nat → Option (List Bool)

/-- A sample that ITU-T T.81 gives: the page's bytes, component, x, y in the component's own sampling (R208). -/
opaque jpegSample : List (BitVec 8) → Nat → Nat → Nat → Nat

/-- The fused device ID: the spec states no value for it (R359). -/
opaque deviceId : Nat

/-- The bytes of the identity area beyond its magic and its device ID: the attestation key and the vendor's signature (R355). -/
opaque identityByte : Nat → BitVec 8

/-- Digest of the vendor key, fixed in the boot ROM (R343). -/
opaque vendorDigest : List (BitVec 8)

/-- The typecode of LMS_SHA256_M32_H14, which neither the spec nor RFC 8554 gives (R343). -/
opaque lmsH14 : Nat

/-- An HSS signature of a message is valid under a public key: key, signature, message (R343; RFC 8554). -/
opaque hssVerifies : List (BitVec 8) → List (BitVec 8) → List (BitVec 8) → Bool

/-- A byte of the HSS signature of an attestation report: top leaf, bottom leaf, report, offset (R355, R357). -/
opaque attestByte : Nat → Nat → List (BitVec 8) → Nat → BitVec 8

end Sys2Proof.Config
end

