-- ==== Sys2Proof/Machine/Mbx.lean ====
section
/-! DEFINITION. The management mailbox as such: taking a command and ending one (R30, R32 codes 0x11 and 0x12). -/
namespace Sys2Proof.Machine

/-- A free value is drawn (log entry 2). -/
def withFree (f : Nat → Plan) : Plan := fun s => Plan.andThen (Plan.act (.fresh (s.fresh + 1))) (f (Config.freeValue s.fresh)) s

/-- Eight words, the ones that are not given being 0. -/
def words8 (l : List Nat) : List Nat := (List.range 8).map (fun k => l.getD k 0 % 2 ^ 32)

/-- The end of a mailbox operation: responses, DONE with the result, and vector 0 of the PF (R30). -/
def mbxEnd (result : Nat) (rsps : List Nat) : Plan := fun s =>
  Plan.andThen (Plan.act (.mbx { s.mbx with state := .done, result := result, rsps := words8 rsps, percent := 0 })) (sendVec 0 0) s

/-- A long command is running. -/
def State.mbxRuns (s : State) (code : Nat) : Bool := s.mbx.state = .busy && s.mbx.cmd == code

/-- Commands that the mailbox still carries out while the GDDR6 controllers are frozen (R306), and in recovery (R348). -/
def allowedNow (s : State) (code : Nat) : Bool :=
  if s.svc.stage = 3 then code == 0x01 || code == 0x13
  else !s.gddr.frozen || (decide (1 ≤ code) && decide (code ≤ 4))

/-- A write of SVC_MBX_CMD with a defined code: dropped while BUSY, else accepted, the arguments latched, and the command carried out or refused (R30). -/
def mbxCommand (code tag : Nat) (p : Plan) : Plan := fun s =>
  if s.mbx.state = .busy then bump pgSVC 0x148 1 s
  else Plan.andThen (Plan.act (.mbx { s.mbx with state := .busy, cmd := code, tag := tag % 256, latched := s.mbx.args, percent := 0 }))
    (fun s => if allowedNow s code then p s else mbxEnd 3 [] s) s

/-- An argument of the command in hand. -/
def State.arg (s : State) (k : Nat) : Nat := s.mbx.latched.getD k 0

end Sys2Proof.Machine
end

