-- ==== Sys2Proof/Machine/Retire.lean ====
section
/-! DEFINITION. Spares and triggers (R371-R375), the GDDR6 dump (R307), the freeze (R306) and the start of a migration (R304, R305). -/
namespace Sys2Proof.Machine

/-! ## The dump of the GDDR6 subsystem (R307) -/

/-- MODE_STAGE and MODE_APPLIED of a page as they read. -/
def ModeUnit.stageWord (m : ModeUnit) : Nat := bitAt m.armed 31 + m.owner * 2 ^ 16 + m.newMode
def ModeUnit.appliedWord (m : ModeUnit) : Nat := bitAt m.applied 31 + bitAt m.rolledBack 30 + m.current

/-- A register of page Mn as the PF sees it, 0x018 to 0x040 and 0x100 to 0x118. -/
def State.mReg (s : State) (n off : Nat) : Nat :=
  let x := s.pos n
  let m : ModeUnit := Tab.get {} s.modeUnits (pgM n)
  if x.withdrawn then (if off = 0x038 then 3 * 2 ^ 30 else 0)
  else match off with
    | 0x038 => (if n ≠ 8 then 0 else if s.gddr.spare then 1 else if x.retired then 2 else 0) * 2 ^ 30 + s.physOf 3 n
    | 0x03C => m.stageWord
    | 0x040 => m.appliedWord
    | 0x100 => x.state * 2 ^ 29 + x.temp % 256 * 2 ^ 16 + bitAt (bit m.current 1) 1 + bitAt (bit m.current 0 || x.hot) 0
    | 0x110 => x.writeMargin % 256 * 2 ^ 16 + x.readMargin % 256 * 2 ^ 8 + x.result
    | 0x114 => s.wqWord n
    | 0x118 => s.drainsWord n
    | _ => s.reg 0 (pgM n) off

/-- Offsets of the 18 defined registers of an Mn page from 0x018 on. -/
def mOffsets : List Nat := (List.range 11).map (fun k => 0x018 + 4 * k) ++ (List.range 7).map (fun k => 0x100 + 4 * k)

/-- The logical page that shows a physical position. -/
def State.pageOfPhys (s : State) (k : Nat) : Nat := ((List.range 9).find? (fun n => s.physOf 3 n == k)).getD k

/-- The dump as the subsystem now stands (R307). -/
def State.dumpNow (s : State) : List Byte :=
  let g := s.gddr
  leBytes 4 0x4D554447 ++ leBytes 4 (if g.frozen then g.cause + g.freezePos * 16 else 0) ++ leBytes 4 s.seconds ++ leBytes 4 g.log.length ++ zeros 48 ++
  ((List.range 9).flatMap (fun k => (mOffsets.flatMap (fun o => leBytes 4 (s.mReg (s.pageOfPhys k) o))) ++ zeros 184)) ++
  g.log.flatMap (fun e => e.flatMap (leBytes 4))

/-! ## The rollback of a mode change (R55, R56) -/

def State.modeUnit (s : State) (page : Nat) : ModeUnit := Tab.get {} s.modeUnits page
def State.change (s : State) (fn : Nat) : ModeChange := Tab.get {} s.modeChanges fn

/-- The unit behind a page that takes modes: KIND of R372 and number, kind 5 for LET and 6 for a port; shadow pages are none of them (R54). -/
def modePage (page : Nat) : Option (Nat × Nat) :=
  if pgBC 0 ≤ page ∧ page ≤ pgBC 15 then some (0, page - pgBC 0)
  else if pgPS 0 ≤ page ∧ page ≤ pgPS 31 then some (1, page - pgPS 0)
  else if pgCC 0 ≤ page ∧ page ≤ pgCC 7 then some (2, page - pgCC 0)
  else if pgM 0 ≤ page ∧ page ≤ pgM 7 then some (3, page - pgM 0)
  else if page = pgLET then some (5, 0)
  else if page = pgU 0 ∨ page = pgU 1 then some (6, page - pgU 0)
  else none

/-- Pages that a pending change of a function takes in. -/
def State.takenIn (s : State) (fn : Nat) : List Nat := (s.modeUnits.filter (fun e => e.2.pending == fn + 1)).map (·.1)

/-- Every line and tree of a segment is cold. -/
def coldCache (n : Nat) : Plan := fun _ => [.linesClear (n * 65536) 65536, .plruClear (n * 4096) 4096]

/-- The mask cache starts empty (R181). -/
def emptyMasks : Plan := fun s => s.maskTags.map (fun e => Eff.maskTags e.1 [])

/-- A unit returns to its old mode at once. A segment that had gone to cache drops its tags, one that had gone to scratch is cold (R147). -/
def rollbackUnit (page : Nat) : Plan := fun s =>
  let m := s.modeUnit page
  Plan.andThen (match modePage page with
      | some (1, n) => Plan.when (m.applied && m.current != m.old) (coldCache n)
      | some (5, _) => Plan.when (m.applied && bit m.current 1 && !bit m.old 1) emptyMasks
      | _ => Plan.skip)
    (Plan.act (.modeUnits page { m with armed := false, applied := false, rolledBack := true, pending := 0, current := if m.applied then m.old else m.current })) s

/-- The pending change of a function is rolled back, and `after` follows; `quiet` holds for one that a reset ends (R55, R56). -/
def rollbackThen (after : Plan) (fn : Nat) (quiet : Bool) : Plan := fun s =>
  let c := s.change fn
  if c.state ≠ .pending then []
  else
    Plan.seq [
      Plan.each (s.takenIn fn) rollbackUnit,
      (fun s => [.modeChanges fn { s.change fn with state := .rolledBack, result := 0x40, byStroke := none }]),
      (match c.byStroke with
       | some (id, _) => fun s => if (s.job id).phase = .running ∧ (s.job id).killed.isNone then
           Plan.andThen (modJob id (fun j => { j with rollback := true })) (killJob id 0x40) s else []
       | none => Plan.skip),
      Plan.when (!quiet) (sendVec fn 0), after] s

/-! ## Freeze and migration -/

/-- Every job of the device is killed and completes with DISCARDED. -/
def discardAll : Plan := fun s =>
  Plan.andThen (Plan.each s.jobIds (fun id => killJob id 0x10)) (Plan.each s.jobIds releaseKilled) s

/-- Vector 0 of every function. -/
def signalAll : Plan := Plan.each (List.range 9) (fun fn => sendVec fn 0)

/-- A spare-in is over: nothing runs. -/
def spareIdle : Plan := fun s => [.reserve { s.reserve with running := none, phase := 0 }]

/-- The controllers freeze: nothing is read or written any more, every job ends DISCARDED, a mode change that takes the position in is rolled back, the state is captured, and the position's
retirement is written to the ledger (R55, R306). -/
def freeze (cause p ledgerCause : Nat) : Plan := fun s =>
  let phys := s.physOf 3 p
  Plan.seq [
    (fun s => [.gddr { s.gddr with frozen := true, cause := cause, freezePos := phys, migrating := false, copying := false }]),
    (fun s => [.gddr { s.gddr with dump := s.dumpNow }]),
    (fun s => s.channels.map (fun e => Eff.channels e.1 { e.2 with reads := [], writes := [], draining := false, full := false })),
    discardAll,
    Plan.look (fun s => if (s.modeUnit (pgM p)).pending = 0 then Plan.skip else rollbackThen settle ((s.modeUnit (pgM p)).pending - 1) false),
    Plan.each (List.range 9) (fun fn => fun s => [.funcs fn { s.func fn with ready := false }]),
    signalAll,
    ledgerWrite 3 2 p phys 0xFF ledgerCause (pgM p),
    Plan.when (s.mbx.state = .busy && decide (0x10 ≤ s.mbx.cmd)) (mbxEnd 3 []),
    (fun s => [.reserve { s.reserve with running := none, phase := 0, queue := [] }])] s

/-- The migration of a position to M8 starts: M8 is powered and trained (R304 step 1). -/
def startMigration (p : Nat) (byError : Bool) : Plan := fun s =>
  [.gddr { s.gddr with migrating := true, source := p, copying := false, page := 0, byError := byError },
   .positions 8 { s.pos 8 with state := 1 }]

/-- A position must retire: a migration starts, or the controllers freeze when no spare is available or another migration runs (R294, R304-R306). -/
def retirePosition (p cause : Nat) : Plan := fun s =>
  let g := s.gddr
  if g.frozen || (s.pos p).withdrawn || (g.migrating && g.source == p) then []
  else if g.migrating || !g.spare then freeze 1 p cause s
  else Plan.andThen (startMigration p true)
    (fun s => match s.reserve.running with
      | none => [.reserve { s.reserve with running := some { kind := 3, index := p, cause := cause, retire := true, byMailbox := false }, phase := 1 }]
      | some _ => []) s

/-! ## Triggers (R371, R373) -/

/-- The next trigger in arrival order begins, when none runs; one whose unit is taken into a pending mode change and has a spare waits for the change to end (R373). While the units are initialised only failed self-tests are acted on (R371, R373). -/
def nextTrigger : Plan := fun s =>
  let r := s.reserve
  match r.running, r.queue with
  | none, t :: ts =>
    if s.svc.initialising && t.cause != 5 then []
    else if s.withdrawn t.kind t.index || (!s.spareFor t && !t.retire) then
      Plan.andThen (Plan.act (.reserve { r with queue := ts })) (Plan.when t.byMailbox (mbxEnd (if s.withdrawn t.kind t.index then 2 else 3) [])) s
    else if s.spareFor t && (Tab.get {} s.modeUnits (unitPage t.kind t.index)).pending != 0 then []
    else if t.kind = 3 then
      (if s.gddr.spare && !s.gddr.migrating then
        Plan.andThen (Plan.act (.reserve { r with queue := ts, running := some t, phase := 1 })) (startMigration t.index false) s
       else Plan.andThen (Plan.act (.reserve { r with queue := ts })) (freeze 1 t.index t.cause) s)
    else [.reserve { r with queue := ts, running := some t, phase := if s.spareFor t then 1 else 2 }]
  | _, _ => []

/-- A trigger arrives (R371, R373). -/
def queueTrigger (t : Trigger) : Plan := fun s =>
  if s.withdrawn t.kind t.index || (s.reserve.hasTrigger t.kind t.index && !t.byMailbox) then []
  else Plan.andThen (Plan.act (.reserve { s.reserve with queue := s.reserve.queue ++ [t] })) nextTrigger s

/-- One more event of a SPARE_THRESH metric on a unit; at the threshold within the window the unit's spare-in is triggered (R351, R371). -/
def countMetric (kind metric n : Nat) : Plan :=
  noteMetric kind metric n (queueTrigger { kind := kind, index := n, cause := 1, retire := true, byMailbox := false })

end Sys2Proof.Machine
end

