-- ==== Sys2Proof/Machine/Parity.lean ====
section
/-! DEFINITION. Parity in the clusters (R71-R74, R403, R404): the strokes that a detection is charged to, what it counts, captures and records, and the armed injection. -/
namespace Sys2Proof.Machine

/-- The ERR_STATUS bit of a check: paths 0 to 4 as BC_INJECT numbers them, 5 a fault in a shared resource (R71, R73). -/
def clusterErrBit (path : Nat) (right : Bool) (column : Nat) (split : Bool) : Nat :=
  let r := if split then right else decide (64 ≤ column)
  match path with
  | 0 => if split && right then 1 else 0
  | 1 => if r then 3 else 2
  | 2 => if r then 3 else 2
  | 3 => if r then 5 else 4
  | 4 => 6
  | _ => 7

/-- HALF of the capture: full, left, right or both. -/
def clusterHalf (path : Nat) (right split : Bool) : Nat :=
  if !split then 0 else if path = 5 then 3 else if right then 2 else 1

/-- The strokes that a fault is charged to: both halves for a shared fault, the half's in split mode; in full mode the one running stroke, or on the operand store the
hatch stroke (buffer 0) or the move stroke (buffer 1) (R71-R73, R105). -/
def faultedStrokes (c : Cluster) (path : Nat) (right split : Bool) : List StrokeRef :=
  if path = 5 then c.left.toList ++ c.right.toList ++ c.hatch.toList ++ c.mover.toList
  else if split then (if right then c.right.toList else c.left.toList)
  else match c.left with
    | some r => [r]
    | none => if path = 4 then (if right then c.mover.toList else c.hatch.toList) else []

def State.splitMode (s : State) (n : Nat) : Bool := s.mode (pgBC n) == 1

/-- BC_INJECT: ARM, PATH and HALF select this check (R74). -/
def State.armed (s : State) (n path : Nat) (right : Bool) : Bool :=
  let w := s.reg 0 (pgBC n) 0x128
  bit w 0 && fld w 3 1 == path && fld w 5 4 == (if right then 1 else 0)

/-- The place of a check among those made in one cycle: operand store, stationary path, stationary registers, input path, accumulator store, then a shared resource (R403). -/
def hitRank (h : ParityHit) : Nat :=
  match h.path with | 4 => 0 | 1 => 1 | 2 => 2 | 0 => 3 | 3 => 4 | _ => 5

/-- Detections of one cycle in the order in which they are taken (R403). -/
def sortHits (l : List ParityHit) : List ParityHit :=
  l.foldr (fun h acc => acc.takeWhile (fun x => decide (hitRank x < hitRank h)) ++ h :: acc.dropWhile (fun x => decide (hitRank x < hitRank h))) []

/-- Whether the timeline of a stroke has reached a check of the pass it names: rows are presented, registers swapped and outputs written only of a pass that has issued;
the load and the operand store may serve the next one (R65, R403). A stroke that issues no pass has no such limit. -/
def Stroke.reached (t : Stroke) (h : ParityHit) : Bool :=
  if t.cls == 1 || t.cls == 2 then
    match h.path with
    | 0 => decide (h.pass < t.passes)
    | 2 => decide (h.pass < t.passes)
    | 3 => decide (h.pass < max 1 t.passes)
    | 1 => decide (h.pass ≤ t.passes)
    | 4 => decide (h.pass ≤ t.passes)
    | _ => true
  else true

/-- One detection: counted unless injected or in a shared resource, captured if it is the first, and recorded for each stroke it is charged to (R71-R74, R404). -/
def noteHit (n : Nat) (right injected : Bool) (h : ParityHit) : Plan := fun s =>
  let split := s.splitMode n
  let who := faultedStrokes (s.cluster n) h.path right split
  match who with
  | [] => []
  | r :: _ =>
    let j := s.job r.job
    let cap := [bitAt injected 31 + clusterHalf h.path right split * 2 ^ 29 + j.fn * 2 ^ 25 + j.tableIndex r.idx, h.pass % 2 ^ 32,
      (if h.path = 1 ∨ h.path = 2 then h.row % 128 else 0) * 2 ^ 16 + h.column % 128, if h.path = 3 then h.accRow % 2048 else 0]
    Plan.seq [
      Plan.when (!injected && h.path != 5)
        (if h.path = 3 then bumpField (pgBC n) 0x120 29 20 1 else if h.path = 1 || h.path = 2 then bumpField (pgBC n) 0x120 19 10 1 else bumpField (pgBC n) 0x120 9 0 1),
      Plan.when injected (fun s => setReg 0 (pgBC n) 0x128 (fld (s.reg 0 (pgBC n) 0x128) 5 1 * 2 + 256) s),
      raiseErr (pgBC n) (clusterErrBit h.path right h.column split) cap 0xFF,
      Plan.each who (fun r => fun s =>
        let j := s.job r.job
        event { cls := 3, code := 1, stroke := j.tableIndex r.idx, part := j.part, charged := true, fn := j.fn, page := pgBC n,
                detail := (cap.map (leBytes 4)).flatten } s),
      Plan.when (!injected && h.path != 5) (countMetric 0 1 n)] s

/-- The detections of one cycle: each noted in its order, then the job of every stroke charged is killed with FAULT_PARITY (R71, R403). -/
def parityDetect (n : Nat) (right injected : Bool) (hits : List ParityHit) : Plan := fun s =>
  let who := hits.flatMap (fun h => faultedStrokes (s.cluster n) h.path right (s.splitMode n))
  Plan.seq [Plan.each (sortHits hits) (noteHit n right injected), Plan.each who (fun r => killJob r.job 0x31)] s

/-- The check of an armed path that a stroke on a place meets next, of those it makes (R74, R403). -/
def State.firesOn (s : State) (pl : Place) (paths : List Nat) : Option (Nat × Bool × Nat) :=
  match pl with
  | .whole n => (paths.find? (fun p => s.armed n p false)).map (fun p => (n, false, p))
  | .half n r => (paths.find? (fun p => s.armed n p r)).map (fun p => (n, r, p))
  | .hatch n => (paths.find? (fun p => s.armed n p false)).map (fun p => (n, false, p))
  | .mover n => if (s.cluster n).hatch.isNone then (paths.find? (fun p => s.armed n p false)).map (fun p => (n, true, p)) else none
  | _ => none

/-- An armed injection fires at the next check of its path, of the next pass where one is left (`next`): row and column of the first check of a pass, a free byte lane, and a free accumulator row (R74, R403; log entry 109). -/
def fireInjection (t : Stroke) (next : Bool) (x : Nat × Bool × Nat) : Plan := withFree (fun f =>
  let split := match t.place with | some (.half ..) => true | _ => false
  let first := if split && x.2.1 then 64 else 0
  parityDetect x.1 x.2.1 true [{ path := x.2.2, pass := (if next then t.passes else t.passes - 1), row := 0,
                                 column := (if x.2.2 = 2 ∨ x.2.2 = 3 then first else f % 128), accRow := f / 128 % 2048 }])

end Sys2Proof.Machine
end

