-- ==== Sys2Proof/Machine/Access.lean ====
section
/-! DEFINITION. What a running stroke does to memory: its reads and writes with refusals, late accesses, claims, poison and parity (R139, R149-R155, R292, R294, R401),
the bandwidth charge (R272), and how an operation is carried out as a whole. -/
namespace Sys2Proof.Machine

/-- A function answers accesses and does work: its reset is not in its first phase, it and the PF are in D0, the PCIe controller core is alive, and a VF is enabled; in recovery only the PF answers (R31, R334, R335, R348, R379). -/
def State.answers (s : State) (fn : Nat) : Bool :=
  !(s.func fn).flr && !(s.func fn).d3hot && !(s.func 0).d3hot && !s.pcie.coreFailed && (fn == 0 || (s.pcie.vfEnable && s.svc.stage != 3))

/-- A host access of a function: without effect while the function does not answer. -/
def hostGate (fn : Nat) (p : Plan) : Plan := fun s => if s.answers fn then p s else []

/-- A write to a page other than HIF, SVC, SEC and CLK: in recovery it meets an unmapped offset (R32 code 0x06, R348). -/
def pageGate (fn : Nat) (p : Plan) : Plan := hostGate fn (fun s => if s.svc.stage = 3 then violation fn 0x06 0 s else p s)

/-! ## Refusals and detections -/

/-- A stroke access that is refused: its job is killed with FAULT_MEMORY and an event names the stroke; a segment that refused it shows REFUSED (R139, R401). -/
def refuseStroke (id i : Nat) (seg : Option Nat) : Plan :=
  Plan.andThen (match seg with | some g => raiseErr (pgPS g) 2 [] | none => Plan.skip) (faultStroke id i 0x30 0 pgNone)

/-- An access that reached an OFF segment: LATE_ACCESS, the count, an event that names job and segment, and the kill (R155). -/
def lateStroke (id i seg : Nat) : Plan :=
  Plan.seq [raiseErr (pgPS seg) 3 [], bump pgPLT 0x118 1, faultStroke id i 0x30 0 (pgPS seg)]

/-- Whether a stroke may be re-run after a plate parity detection (R149). -/
def Stroke.reRunnable (t : Stroke) (zIsX : Bool) : Bool :=
  match t.cls, t.op with
  | 0x01, 0x20 => !bit t.param 0
  | 0x01, _ => !bit t.param 11
  | 0x02, _ => true
  | 0x03, 0x38 => false
  | 0x03, 0x39 => false
  | 0x03, 0x41 => false
  | 0x03, _ => !zIsX
  | 0x04, _ => true
  | _, _ => false

/-- STROKE_RERUN: a re-runnable stroke is abandoned once and waits for placement again; any other detection kills the job with FAULT_PARITY (R149). -/
def rerunOrKill (id i : Nat) (zIsX : Bool) : Plan := fun s =>
  let j := s.job id
  let t := j.stroke i
  if t.reRunnable zIsX && !t.rerun then
    Plan.seq [
      (match t.place with | some pl => leaveUnit id i pl | none => Plan.skip),
      modStroke id i (fun t => { t with state := .waiting, place := none, ran := false, begun := false, rerun := true, resumed := false, frame := none, structs := [], passes := 0, loaded := [], accOrder := [], tilesDone := 0 }),
      modJob id (fun j => { j with rerun := true }),
      bump pgPLT 0x114 1, settle] s
  else killJob id 0x31 s

/-- A read of host memory for a job was answered poisoned, UR or CA, or timed out: violation 0x0D, AER, and the kill (R32, R35). -/
def hostReadFail (id : Nat) (ans : HostAnswer) : Plan := fun s =>
  let j := s.job id
  Plan.seq [violation j.fn 0x0D (s.queueLocal j.queue), (fun s => [.pcie { s.pcie with aerOther := true }]),
    killJob id (if ans = .timeout then 0x32 else 0x30)] s

/-! ## The payload of a result slot (R28) -/

/-- A read that the job itself makes meets a segment that is OFF: LATE_ACCESS, the count, and the kill (R155). -/
def lateJob (id seg : Nat) : Plan := fun s =>
  let j := s.job id
  Plan.seq [raiseErr (pgPS seg) 3 [], bump pgPLT 0x118 1,
    event { cls := 2, code := 0x30, part := j.part, charged := true, fn := j.fn, page := pgPS seg }, killJob id 0x30] s

/-- The 48 bytes of a SLOT-mode job are read once; a read that fails is a kill, one that meets a segment in transition waits (R28, R32 code 0x0D, R148, R155, R294). -/
def payloadRead (id : Nat) (ans : HostAnswer) : Plan := fun s =>
  let j := s.job id
  match s.judge j.part false j.resultAddr 48 with
  | .refused g => Plan.andThen (match g with | some g => raiseErr (pgPS g) 2 [] | none => Plan.skip) (killJob id 0x30) s
  | .late g => lateJob id g s
  | .retry g => [.retries (s.retries ++ [{ who := { job := id, idx := j.strokes.length }, seg := g, isWrite := false, addr := j.resultAddr }])]
  | .ok =>
    if ans ≠ .ok then hostReadFail id ans s
    else match s.badWordIn j.resultAddr 48 with
      | some w => Plan.andThen (plateDetect (segOf w) (w - plateBase - segOf w * segSize) 0 j.fn 0 j.part true false 0) (killJob id 0x31) s
      | none =>
        cachedRead (lineDetect 0 j.fn 0 j.part true) (killJob id 0x31)
          (fun s => if s.meetsPoison j.resultAddr 48 then Plan.andThen (poisonRead { cls := 6, fn := j.fn } j.resultAddr) (killJob id 0x30) s
            else Plan.andThen (Plan.andThen (memRequests { cls := 6 } false j.resultAddr 48) (gddrTouch j.resultAddr 48)) (finishJob id (s.bytesAt j.resultAddr 48)) s) j.resultAddr 48 s

/-- When every stroke of a job is DONE or SKIPPED, the job completes, a SLOT-mode job once its payload has been read (R28, R40). -/
def checkJobDone (id : Nat) (ans : HostAnswer) : Plan := fun s =>
  let j := s.job id
  if j.phase = .running && j.killed.isNone && j.strokes.all Stroke.finished then
    match j.slot with
    | none => finishJob id [] s
    | some _ => payloadRead id ans s
  else []

/-! ## Bandwidth regulators (R272, R273) -/

/-- The parts of a GDDR6 range that lie in cache windows (R144). -/
def State.windowParts (s : State) (a n : Nat) : List (Nat × Nat) :=
  if s.cacheSegs.isEmpty || n = 0 then []
  else (List.range ((a + n - 1) / segSize + 1 - a / segSize)).filterMap (fun k =>
    let x := max a ((a / segSize + k) * segSize)
    let y := min (a + n) ((a / segSize + k + 1) * segSize)
    if (s.cacheOf x).isSome then some (x, y - x) else none)

/-- Bytes that an access debits from the GDDR6 bucket and from the plate bucket: what a cache segment serves is an access to the segment, 128 for each line (R140, R272). -/
def State.chargeOf (s : State) (a n : Nat) : Nat × Nat :=
  if n = 0 then (0, 0)
  else match regionOf a n with
    | .gddr =>
      let w := s.windowParts a n
      (cdiv (n - w.foldl (fun m x => m + x.2) 0) 32 * 32, w.foldl (fun m x => m + 128 * (linesOf x.1 x.2).length) 0)
    | .plate => (0, 128 * ((a + n - 1) / 128 + 1 - a / 128))
    | _ => (0, 0)

/-- Whether an access brings in a line, which its segment reads from GDDR6 (R143, R272). -/
def State.fills (s : State) (a n : Nat) : Bool :=
  regionOf a n = .gddr && (s.windowParts a n).any (fun w => (linesOf w.1 w.2).any (fun x => !s.cached x))

/-- A bucket in force that a charge would touch and that holds no byte. -/
def Bucket.empty (b : Bucket) (charge : Nat) : Bool := b.rate != 0 && charge != 0 && decide (b.level ≤ 0)

def Bucket.debit (b : Bucket) (charge : Nat) : Bucket := if b.rate = 0 then b else { b with level := b.level - charge }

/-- The total charges of a list of accesses. -/
def State.chargesOf (s : State) (l : List (Nat × Nat)) : Nat × Nat :=
  l.foldl (fun c x => let y := s.chargeOf x.1 x.2; (c.1 + y.1, c.2 + y.2)) (0, 0)

/-- The buckets of a partition that hold accesses at their port, GDDR6 and plate: in force, wanted, and without a byte (R272, R274). -/
def State.holdsAt (s : State) (p : Nat) (l : List (Nat × Nat)) : Bool × Bool :=
  let q := s.part p
  let c := s.chargesOf l
  (!q.measure && q.gddr.empty (c.1 + if l.any (fun x => s.fills x.1 x.2) then 128 else 0), !q.measure && q.plate.empty c.2)

/-- Accesses are held. -/
def State.held (s : State) (p : Nat) (l : List (Nat × Nat)) : Bool := (s.holdsAt p l).1 || (s.holdsAt p l).2

/-- Requests of a partition wait at their port: the cycles count from now to the tick that refills the bucket (R272). -/
def noteHeld (p : Nat) (l : List (Nat × Nat)) : Plan := fun s =>
  let q := s.part p
  let h := s.holdsAt p l
  [.parts p { q with gddr := { q.gddr with held := q.gddr.held || h.1 }, plate := { q.plate with held := q.plate.held || h.2 } }]

/-- The debits of accesses that are admitted (R272). -/
def chargeTo (p : Nat) (l : List (Nat × Nat)) : Plan := fun s =>
  let q := s.part p
  let c := s.chargesOf l
  if !q.measure && (q.gddr.rate != 0 || q.plate.rate != 0) then [.parts p { q with gddr := q.gddr.debit c.1, plate := q.plate.debit c.2 }] else []

/-! ## Reads and writes of a stroke -/

/-- The requester class of a stroke's GDDR6 requests, by its CLASS (R299): the move engine feeds mm strokes. -/
def memClass (cls op : Nat) : Nat :=
  match cls with
  | 0x01 => 2
  | 0x02 => 3
  | 0x03 => 3
  | 0x04 => 2
  | 0x05 => 5
  | 0x06 => if op = 0x08 || op = 0x10 then 1 else 0
  | 0x07 => 1
  | 0x08 => 6
  | 0x09 => 7
  | _ => 6

/-- The requester that a stroke is. -/
def Job.who (j : Job) (i : Nat) : MemWho := { cls := memClass (j.stroke i).cls (j.stroke i).op, fn := j.fn, stroke := j.tableIndex i }

/-- What a read of a range does besides returning data: refusal, late access, poison, parity detection, and the cache lines it brings in. -/
def strokeRead (id i : Nat) (host zIsX : Bool) (a n : Nat) : Plan := fun s =>
  let j := s.job id
  if j.phase = .gone || j.killed.isSome || n = 0 then []
  else match s.judge j.part host a n with
    | .refused g => refuseStroke id i g s
    | .late g => lateStroke id i g s
    | .retry _ => []
    | .ok =>
      match s.badWordIn a n with
      | some w =>
        Plan.andThen (plateDetect (segOf w) (w - plateBase - segOf w * segSize) 0 j.fn (j.tableIndex i) j.part true false 0)
          (rerunOrKill id i zIsX) s
      | none =>
        cachedRead (lineDetect 0 j.fn (j.tableIndex i) j.part true) (rerunOrKill id i zIsX)
          (fun s => if s.meetsPoison a n then Plan.andThen (poisonRead (j.who i) a) (killJob id 0x30) s else gddrTouch a n s) a n s

/-- A plate block that another job claims (R151). -/
def State.claimedByOther (s : State) (id a n : Nat) : Bool :=
  regionOf a n = .plate && (List.range (blockOf (a + n - 1) + 1 - blockOf a)).any (fun k =>
    let c := Tab.get 0 s.claims (blockOf a + k)
    c != 0 && c != id + 1)

/-- Claims every block of a plate range (R151). -/
def claimBlocks (id a n : Nat) : Plan := fun s =>
  (List.range (blockOf (a + n - 1) + 1 - blockOf a)).filterMap (fun k =>
    if Tab.get 0 s.claims (blockOf a + k) = 0 then some (Eff.claims (blockOf a + k) (id + 1)) else none)

/-- The area of a unit that a write of a stroke would enter; the lettering engine's own strokes may write its areas (R171, R187, R282). -/
def State.strokeForeign (s : State) (j : Job) (i a n : Nat) : Option Nat :=
  if (j.stroke i).cls = 0x05 then (if s.polForeign a n then some pgPOL else none) else s.foreign (j.fn == 0) a n

/-- A write of a stroke: refused, dropped, or made visible. The writes of a killed job are dropped (R53). -/
def strokeWrite (id i : Nat) (host : Bool) (a : Nat) (bs : List Byte) : Plan := fun s =>
  let j := s.job id
  let n := bs.length
  if j.phase = .gone || j.killed.isSome || n = 0 then []
  else match s.judge j.part host a n with
    | .refused g => refuseStroke id i g s
    | .late g => lateStroke id i g s
    | .retry _ => []
    | .ok =>
      match regionOf a n with
      | .plate =>
        if s.claimedByOther id a n then Plan.andThen (bump pgPLT 0x11C 1) (faultStroke id i 0x30 0 (pgPS (segOf a))) s
        else Plan.andThen (claimBlocks id a n) (plateStore a bs) s
      | .gddr =>
        if s.gddr.frozen then []
        else match s.strokeForeign j i a n with
        | some pg => Plan.andThen (noteForeign pg) (faultStroke id i 0x30 0 pg) s
        | none =>
          if s.partialOnPoison a n then Plan.andThen (poisonRead (j.who i) a) (killJob id 0x30) s
          else gddrStore (id + 1) a bs s
      | _ => [.store a bs]

/-- The accesses of a range list that a segment answers with a retry, or that wait for a burnish (R152, R155). -/
def State.retryOf (s : State) (p : Nat) (host : Bool) (l : List (Nat × Nat)) : Option (Nat × Nat × Nat) :=
  l.findSome? (fun x => match s.judge p host x.1 x.2 with
    | .retry g => some (g, x.1, x.2)
    | _ => none)

def State.burnishOf (s : State) (l : List (Nat × List Byte)) : Option (Nat × Nat × Nat) :=
  l.findSome? (fun x =>
    if regionOf x.1 x.2.length = .plate ∧ x.2 ≠ [] then
      ((List.range (blockOf (x.1 + x.2.length - 1) + 1 - blockOf x.1)).map (· + blockOf x.1)).findSome? (fun b =>
        if (s.seg (b / 128)).burnish.contains (b % 128) then some (b / 128, x.1, x.2.length) else none)
    else none)

/-! ## Carrying an operation out -/

/-- What an operation of a stroke comes to: what it reads, what it writes, the placement check that fails, and whatever else it does. -/
structure OpOut where
  reads : List (Nat × Nat) := []
  writes : List (Nat × List Byte) := []
  check : Option Nat := none
  /-- Z coincides with X (R149). -/
  zIsX : Bool := false
  /-- Host memory is open to it (R158). -/
  host : Bool := false
  /-- The parity paths of its cluster, as BC_INJECT numbers them, that it meets a check of, and whether a pass is left (R71, R74). -/
  paths : List Nat := []
  next : Bool := false
  /-- What else it does, and the writes that this makes for other strokes. -/
  more : Plan := Plan.skip
  also : List (Nat × List Byte) := []

/-- PLACEMENT_CHECK_FAIL: the job is killed with FAULT_MEMORY and the event carries the check number (R83, R402). -/
def failCheck (id i n : Nat) : Plan := faultStroke id i 0x30 n pgNone

/-- Whether a stroke is one that its class command can carry out now. -/
def State.runnable (s : State) (id i cls op : Nat) : Bool :=
  let j := s.job id
  let t := j.stroke i
  j.phase = .running && j.killed.isNone && t.state = .running && !t.ran && !t.begun && !t.preempting && t.cls == cls && t.op == op

/-- The page of the unit a stroke runs on. -/
def Place.page : Place → Nat
  | .whole n => pgBC n | .half n _ => pgBC n | .hatch n => pgBC n | .mover n => pgBC n
  | .session _ => pgLET | .letStep => pgLET | .letBulk => pgLET | .media => pgMED | .intake => pgINT | .trk => pgTRK
  | .link p => pgU p | .links => pgULZ | .sched => pgSCH

/-- The number of the cluster of a place. -/
def Place.cluster : Place → Nat
  | .whole n => n | .half n _ => n | .hatch n => n | .mover n => n | _ => 0

/-- Queues an access that meets a segment which answers with a retry (R155). -/
def addRetry (id i : Nat) (x : Nat × Nat × Nat) (isWrite : Bool) : Plan := fun s =>
  [.retries (s.retries ++ [{ who := { job := id, idx := i }, seg := x.1, isWrite := isWrite, addr := x.2.1 }])]

/-- A stroke already waits for a segment. -/
def State.hasRetry (s : State) (id i : Nat) : Bool := s.retries.any (fun r => r.who.job == id && r.who.idx == i)

/-- The requests of reads and writes reach the GDDR6 channels (R297). -/
def requestAll (src : MemSrc) (reads : List (Nat × Nat)) (writes : List (Nat × List Byte)) : Plan :=
  Plan.andThen (Plan.each reads (fun r => memRequests src false r.1 r.2)) (Plan.each writes (fun w => memRequests src true w.1 w.2.length))

/-- A request source under the real-time panic (R206). -/
def State.inPanic (s : State) (src : MemSrc) : Bool := match src.core with | some n => (s.core n).panic | none => false

/-- Accesses that a unit makes for a stroke after its command: while a segment answers one with a retry, or a block is under burnish, or the buckets hold them, nothing happens, and the unit presents
them again; else they are charged and made. Requests under the real-time panic are never held (R152, R155, R272, R273, R300). -/
def withAccess (id i : Nat) (src : MemSrc) (reads : List (Nat × Nat)) (writes : List (Nat × List Byte)) (go : Plan) : Plan := fun s =>
  let j := s.job id
  let acc := reads ++ writes.map (fun w => (w.1, w.2.length))
  let wait (x : Nat × Nat × Nat) (isWrite : Bool) : Plan := fun s => if s.hasRetry id i then [] else addRetry id i x isWrite s
  if j.phase = .gone || j.killed.isSome then go s
  else match s.retryOf j.part false reads, s.retryOf j.part false (writes.map (fun w => (w.1, w.2.length))), s.burnishOf writes with
    | some x, _, _ => wait x false s
    | none, some x, _ => wait x true s
    | none, none, some x => wait x true s
    | none, none, none =>
      if !s.inPanic src && s.held j.part acc then noteHeld j.part acc s else Plan.seq [chargeTo j.part acc, requestAll src reads writes, go] s

/-- What a stroke does to its place's local memory, as its working space (R47, R84, R89, R105): the arrangement of tiles in it is not told, so it holds free values from then on;
`operands` leaves the accumulator store as it is (log entry 110). -/
def workSpace (pl : Place) (operands : Bool) : Plan :=
  withFree (fun f _ => (pl.localShare.take (if operands then 1 else 2)).mapIdx (fun k x =>
    Eff.localStore x.1 (leBytes (if operands then min x.2 0x300000 else x.2) (f / 2 ^ (8 * 0x180000 * k)))))

/-- Carries out what a stroke comes to: a failed placement check kills its job; an access that meets a segment in transition waits; an empty bucket holds it; an armed injection fires;
otherwise its reads, its writes and its further effects happen, each as long as it may still go on (`on`), and `fin` ends it. -/
def carryOut (id i : Nat) (o : OpOut) (on : State → Bool) (fin : Plan) : Plan := fun s =>
  let j := s.job id
  let t := j.stroke i
  match o.check with
  | some n => failCheck id i n s
  | none =>
    let all := o.writes ++ o.also
    let acc := o.reads ++ all.map (fun w => (w.1, w.2.length))
    match s.retryOf j.part o.host o.reads, s.retryOf j.part o.host (all.map (fun w => (w.1, w.2.length))), s.burnishOf all with
    | some x, _, _ => addRetry id i x false s
    | none, some x, _ => addRetry id i x true s
    | none, none, some x => addRetry id i x true s
    | none, none, none =>
      if s.held j.part acc then noteHeld j.part acc s
      else match t.place.bind (fun pl => s.firesOn pl o.paths) with
      | some x => fireInjection t o.next x s
      | none =>
        Plan.seq [
          (match t.place with
           | some pl => Plan.when (pl.localShare != []) (workSpace pl (t.cls == 0x01 && t.op == 0x20))
           | none => Plan.skip),
          chargeTo j.part acc,
          requestAll { cls := memClass t.cls t.op } o.reads all,
          Plan.each o.reads (fun r => strokeRead id i o.host o.zIsX r.1 r.2),
          Plan.look (fun s1 => if !on s1 then Plan.skip else
            Plan.seq [
              Plan.each o.writes (fun w => strokeWrite id i o.host w.1 w.2),
              Plan.look (fun s2 => if (s2.job id).killed.isSome then Plan.skip else Plan.andThen o.more fin)])] s

/-- Carries an operation out on a running stroke. -/
def runOpWith (stays : Bool) (cls op id i : Nat) (f : State → Job → Stroke → OpOut) : Plan := fun s =>
  if !s.runnable id i cls op || s.hasRetry id i then []
  else carryOut id i (f s (s.job id) ((s.job id).stroke i)) (fun s1 => s1.runnable id i cls op)
    (modStroke id i (fun t => if stays then { t with begun := true } else { t with ran := true })) s

/-- An operation whose effect is whole when it has been carried out. -/
def runOp (cls op id i : Nat) (f : State → Job → Stroke → OpOut) : Plan := runOpWith false cls op id i f

/-- An operation that goes on in its unit after this command. -/
def runOpOpen (cls op id i : Nat) (f : State → Job → Stroke → OpOut) : Plan := runOpWith true cls op id i f

/-- A unit has ended an operation that stayed in it. -/
def endOp (id i : Nat) : Plan := fun s => if (s.job id).phase = .gone then [] else modStroke id i (fun t => { t with ran := true }) s

/-- The last write of a stroke that stays in its unit: it is presented again as long as a segment answers it with a retry; then the stroke ends (R155). -/
def lastWrite (id i : Nat) (src : MemSrc) (a : Nat) (bs : List Byte) : Plan := fun s =>
  let j := s.job id
  let again (x : Nat × Nat × Nat) : List Eff := [.retries (s.retries ++ [{ who := { job := id, idx := i }, seg := x.1, isWrite := true, addr := a, data := bs }])]
  if j.phase = .gone || j.killed.isSome then []
  else match s.retryOf j.part false [(a, bs.length)], s.burnishOf [(a, bs)] with
    | some x, _ => again x
    | none, some x => again x
    | none, none =>
      Plan.seq [Plan.when (s.held j.part [(a, bs.length)]) (noteHeld j.part [(a, bs.length)]), chargeTo j.part [(a, bs.length)], requestAll src [] [(a, bs)],
        strokeWrite id i false a bs, endOp id i] s

end Sys2Proof.Machine
end

