-- ==== Sys2Proof/Machine/Host.lean ====
section
/-! DEFINITION. The host interface (02_host_interface.md): packets, doorbells, queues, interrupts, result slots and the BAR4 window (R13-R32). -/
namespace Sys2Proof.Machine

/-! ## Queues of a function -/

/-- The queues of a function: first global index and count (R13). -/
def State.queueRange (s : State) (fn : Nat) : Nat × Nat :=
  match s.partOf fn with
  | none => (0, 0)
  | some p => ((s.part p).qFirst, (s.part p).qCount)

/-- Vectors of a function's MSI-X table (R25). -/
def vectorsOf (fn : Nat) : Nat := if fn = 0 then 2048 else 256

/-- The fields of a job packet (R19) in a job's record. -/
def Job.ofPacket (b : List Byte) (fn q part ticks : Nat) (ready : Bool) (maxPrio : Nat) : Job :=
  { fn := fn, queue := q, part := part, packet := b, phase := .fetched, tag := rdN b 4 4,
    irqNow := bit (rdN b 1 1) 0, ordered := bit (rdN b 1 1) 1, resultMode := fld (rdN b 1 1) 3 2,
    base := min (fld (rdN b 2 1) 2 0) maxPrio, eff := min (fld (rdN b 2 1) 2 0) maxPrio,
    first := fld (rdN b 8 4) 20 0, count := fld (rdN b 0xC 4) 16 0, argsAddr := rdN b 0x10 8, argsLen := rdN b 0x18 4,
    resultAddr := rdN b 0x20 8, timeLimit := rdN b 0x30 4, fetchTick := ticks, changed := ticks, notReady := !ready }

/-- A queue fetches: enabled, running, a packet ahead of its head, no completion held, its function answering, the scheduler alive (R17, R32). -/
def State.canFetch (s : State) (q : Nat) : Bool :=
  let x := s.queue q
  let fn := s.queueFn q
  x.enable && x.state = .running && x.sqHead != x.sqTail && x.held.isEmpty && (s.queuePart q).isSome && s.answers fn && !s.pcie.schedFailed

/-- PACKET_FETCH: the next packet in ring order; SQ_HEAD advances (R17). -/
def packetFetch (q : Nat) : Plan := fun s =>
  if !s.canFetch q then []
  else
    let x := s.queue q
    let fn := s.queueFn q
    let p := (s.queuePart q).getD 0
    let b := Tab.getList 0 s.mem (hostBase + x.sqBase + x.sqHead * 64) 64
    [.jobs s.nextJob (Job.ofPacket b fn q p s.ticks (s.func fn).ready (s.part p).maxPriority), .nextJob (s.nextJob + 1),
     .queues q { x with sqHead := (x.sqHead + 1) % x.sqSize }]

def execPacketFetch (q : Nat) (s : State) : Host.Outcome State Fault Refusal := Plan.done (packetFetch q) s

/-- PACKET_FETCH_FAIL: a failed fetch is retried once; on a second failure the queue is in ERROR with FETCH_FAIL, which signals vector 0
whether or not FETCH_FAIL was set before, and fetched jobs still complete (R25, R32 code 0x0C). -/
def packetFetchFail (q : Nat) (again : Bool) : Plan := fun s =>
  if !s.canFetch q then []
  else if !again then packetFetch q s
  else
    let fn := s.queueFn q
    Plan.seq [
      Plan.act (.queues q { s.queue q with state := .error }),
      (if bit (s.queue q).err 3 then sendVec fn 0 else queueErr q 3),
      violation fn 0x0C (s.queueLocal q)] s

def execPacketFetchFail (q : Nat) (again : Bool) (s : State) : Host.Outcome State Fault Refusal := Plan.done (packetFetchFail q again) s

/-- A job that is not run: its slowdown entry, and its completion with the status, without result pointer (R21, R22, R276). -/
def rejectJob (id status : Nat) : Plan := fun s =>
  let j := s.job id
  Plan.seq [
    slowdownEntry id status,
    Plan.when (!j.silent) (postCqe j.queue { status := status, queue := s.queueLocal j.queue, tag := j.tag, ptr := 0, irqNow := j.irqNow }),
    Plan.act (.jobs id {}), drainedQueue j.queue, settle] s

/-- A packet is turned away: its violation is reported, and it completes with its status. -/
def turnAway (id : Nat) (r : Nat × Option Nat) : Plan := fun s =>
  let j := s.job id
  Plan.andThen (match r.2 with | some v => violation j.fn v (s.queueLocal j.queue) | none => Plan.skip) (rejectJob id r.1) s

/-- JOB_RUN: a fetched RUN packet is checked for format, quota and service, and its stroke range goes to the window (R19, R20, R22, R28, R34). -/
def jobRun (id : Nat) : Plan := fun s =>
  let j := s.job id
  if j.phase ≠ .fetched || j.kind == 2 || j.kind == 3 || j.killed.isSome then []
  else match s.refusal j with
    | some r => turnAway id r s
    | none =>
      .jobs id { j with phase := .entering, slot := if j.resultMode == 2 then some (s.slotNamed j) else none } ::
        (if j.resultMode == 2 then [.slots (s.slotNamed j) { Tab.get {} s.slots (s.slotNamed j) with state := .reserved }] else [])

def execJobRun (job : Nat) (s : State) : Host.Outcome State Fault Refusal := Plan.done (jobRun job) s

/-- Every job fetched before `id` from the same queue has completed (R19). -/
def State.earlierDone (s : State) (id : Nat) : Bool :=
  !s.jobs.any (fun e => decide (e.1 < id) && e.2.phase ≠ .gone && e.2.queue == (s.job id).queue)

/-- A packet that runs nothing: one that R19 rejects does so at once, any other completes when its time has come, with NOT_READY where it was fetched out of service, else with OK (R19, R22). -/
def runPlain (id kind : Nat) (due : Bool) : Plan := fun s =>
  let j := s.job id
  if j.phase ≠ .fetched || j.kind != kind || j.killed.isSome then []
  else if j.resultMode = 3 then turnAway id (0x20, some 0x08) s
  else if due then rejectJob id (if j.notReady then 0x60 else 0x00) s
  else []

/-- JOB_FENCE (R19). -/
def jobFence (id : Nat) : Plan := fun s => runPlain id 2 (s.earlierDone id) s

def execJobFence (job : Nat) (s : State) : Host.Outcome State Fault Refusal := Plan.done (jobFence job) s

/-- JOB_NOP (R19). -/
def jobNop (id : Nat) : Plan := fun s => runPlain id 3 (!(s.job id).ordered || s.earlierDone id) s

def execJobNop (job : Nat) (s : State) : Host.Outcome State Fault Refusal := Plan.done (jobNop job) s

/-! ## Doorbells (R24) -/

/-- A new SQ tail is within the ring and not behind the old one (R24). -/
def Queue.tailOk (x : Queue) (v : Nat) : Bool :=
  decide ((x.sqTail + x.sqSize - x.sqHead) % x.sqSize ≤ (v + x.sqSize - x.sqHead) % x.sqSize)

/-- SQ_TAIL_DOORBELL (R24, R32 codes 0x01, 0x02, 0x04). -/
def sqTailDoorbell (fn q v : Nat) : Plan := fun s =>
  if !s.answers fn then []
  else
    let r := s.queueRange fn
    let g := r.1 + q
    let x := s.queue g
    if r.2 ≤ q || !x.enable then violation fn 0x04 q s
    else if x.sqSize ≤ v then Plan.andThen (queueErr g 0) (violation fn 0x01 q) s
    else if !x.tailOk v then Plan.andThen (queueErr g 1) (violation fn 0x02 q) s
    else [.queues g { x with sqTail := v }]

def execSqTailDoorbell (fn q value : Nat) (s : State) : Host.Outcome State Fault Refusal := Plan.done (sqTailDoorbell fn q value) s

/-- A new CQ head lies between the old head and CQ_TAIL, counted forward (R24). -/
def Queue.headOk (x : Queue) (v : Nat) : Bool :=
  decide (v < x.cqSize) && decide ((v + x.cqSize - x.cqHead) % x.cqSize ≤ (x.cqTail + x.cqSize - x.cqHead) % x.cqSize)

/-- CQ_HEAD_DOORBELL (R24, R32 codes 0x03, 0x04, 0x0E). DESIGN CHOICE: a queue that drains takes it, since its last completions may wait for the room it makes; it takes no SQ tail (log entry 94). -/
def cqHeadDoorbell (fn q v : Nat) : Plan := fun s =>
  if !s.answers fn then []
  else
    let r := s.queueRange fn
    let g := r.1 + q
    let x := s.queue g
    if r.2 ≤ q || (!x.enable && x.state ≠ .draining) then violation fn 0x04 q s
    else if !x.headOk v then Plan.andThen (queueErr g 2) (violation fn 0x03 q) s
    else Plan.seq [Plan.act (.queues g { x with cqHead := v }), drainHeld g (x.held.length + 1), drainedQueue g] s

def execCqHeadDoorbell (fn q value : Nat) (s : State) : Host.Outcome State Fault Refusal := Plan.done (cqHeadDoorbell fn q value) s

/-- CQ_FULL_WAIT_EXPIRY: the event of a completion that has waited 1 s for CQ space (R32 code 0x0E). DESIGN CHOICE: the event comes again for every further second of waiting (log entry 105). -/
def cqFullWaitExpiry (q : Nat) : Plan := fun s =>
  match (s.queue q).heldSince with
  | none => []
  | some t => if t + 1000000 ≤ s.ticks then
      Plan.andThen (violation (s.queueFn q) 0x0E (s.queueLocal q)) (fun s => [.queues q { s.queue q with heldSince := some s.ticks }]) s
    else []

def execCqFullWaitExpiry (q : Nat) (s : State) : Host.Outcome State Fault Refusal := Plan.done (cqFullWaitExpiry q) s

/-! ## Enabling and disabling (R16, R18) -/

/-- The queue that QUE_SEL of a function selects, if it is one of its own. -/
def State.selQueue (s : State) (fn : Nat) : Option Nat :=
  let r := s.queueRange fn
  let i := s.reg fn pgQUE 0x104
  if i < r.2 then some (r.1 + i) else none

/-- The configuration fields of a QUE_CFG write. -/
def Queue.withCfg (x : Queue) (v : Nat) : Queue := { x with vector := fld v 22 12, cqLog2 := fld v 11 8, sqLog2 := fld v 7 4 }

/-- The configuration may be enabled (R16, R264): sizes, vector, coalescing, and an ACTIVE partition. -/
def Queue.cfgOk (x : Queue) (fn : Nat) (active : Bool) : Bool :=
  decide (x.cqLog2 ≤ 10) && decide (x.sqLog2 ≤ 10) && decide (x.sqLog2 ≤ x.cqLog2) && x.vector != 0 && decide (x.vector < vectorsOf fn) &&
  !(x.coalTime == 0 && decide (1 < x.coalCount)) && active

/-- QUEUE_ENABLE (R16, R18, R32 codes 0x0F, 0x10). -/
def queueEnable (fn v : Nat) : Plan := fun s =>
  match s.selQueue fn with
  | none => []
  | some q =>
    let x := s.queue q
    let l := q - (s.queueRange fn).1
    if x.enable then violation fn 0x0F l s
    else
      let y := x.withCfg v
      let active := decide ((s.part ((s.queuePart q).getD 0)).state = .active)
      if x.state = .draining || s.svc.stage == 3 || !y.cfgOk fn active then
        Plan.seq [Plan.act (.queues q (if x.state = .draining then x else y)), queueErr q 5, violation fn 0x10 l] s
      else [.queues q { y with enable := true, sqHead := 0, sqTail := 0, cqHead := 0, cqTail := 0, phase := true, state := .running,
                               count := 0, timer := none, held := [], heldSince := none }]

def execQueueEnable (fn value : Nat) (s : State) : Host.Outcome State Fault Refusal := Plan.done (hostGate fn (queueEnable fn value)) s

/-- A job is killed and, where no unit holds it, completes at once. -/
def killAndFinish (id status : Nat) : Plan := fun s =>
  let j := s.job id
  if j.phase = .running then killJob id status s
  else Plan.andThen (killJob id status) (releaseKilled id) s

/-- The jobs of a queue, oldest first. -/
def State.jobsOfQueue (s : State) (q : Nat) : List Nat := (s.jobs.filter (fun e => e.2.phase ≠ .gone && e.2.queue == q)).map (·.1)

/-- QUEUE_DISABLE: fetching stops, every fetched uncompleted job ends with DISCARDED, and STATE shows DISABLED afterwards (R18). -/
def queueDisable (fn v : Nat) : Plan := fun s =>
  match s.selQueue fn with
  | none => []
  | some q =>
    let x := s.queue q
    if !x.enable then [.queues q (x.withCfg v)]
    else
      Plan.seq [
        Plan.act (.queues q { x with enable := false, state := .draining }),
        Plan.each (s.jobsOfQueue q) (fun id => killAndFinish id 0x10),
        drainedQueue q] s

def execQueueDisable (fn value : Nat) (s : State) : Host.Outcome State Fault Refusal := Plan.done (pageGate fn (queueDisable fn value)) s

/-! ## Interrupts (R25, R26) -/

/-- COALESCE_TIMER_EXPIRY: the timer reaching TIME_US sends the vector and clears count and timer (R26). -/
def coalesceTimerExpiry (q : Nat) : Plan := fun s =>
  let x := s.queue q
  match x.timer with
  | none => []
  | some t =>
    if x.coalTime ≠ 0 ∧ t + x.coalTime ≤ s.ticks then
      Plan.andThen (Plan.act (.queues q { x with count := 0, timer := none })) (sendVec (s.queueFn q) x.vector) s
    else []

def execCoalesceTimerExpiry (q : Nat) (s : State) : Host.Outcome State Fault Refusal := Plan.done (coalesceTimerExpiry q) s

/-- MSIX_VECTOR_UNMASK: a pending vector sends its message (R26). -/
def msixVectorUnmask (fn v : Nat) : Plan := fun s =>
  if vectorsOf fn ≤ v then []
  else
    let e := Tab.get {} s.vecs (fn * 2048 + v)
    [.vecs (fn * 2048 + v) { e with masked := false, pend := false, sent := if e.pend then e.sent + 1 else e.sent }]

def execMsixVectorUnmask (fn vec : Nat) (s : State) : Host.Outcome State Fault Refusal := Plan.done (hostGate fn (msixVectorUnmask fn vec)) s

/-! ## Result slots (R27-R29) -/

/-- RESULT_SLOT_ACK (R29, R32 code 0x0A). -/
def resultSlotAck (fn slot v : Nat) : Plan := fun s =>
  let r := s.queueRange fn
  if r.2 ≤ slot then violation fn 0x06 0 s
  else
    let x := Tab.get {} s.slots (r.1 + slot)
    if x.state = .full ∧ v = x.seq then [.slots (r.1 + slot) { x with state := .free, payload := [] }]
    else violation fn 0x0A 0 s

def execResultSlotAck (fn slot value : Nat) (s : State) : Host.Outcome State Fault Refusal := Plan.done (hostGate fn (resultSlotAck fn slot value)) s

/-! ## BAR4 (R14, R15, R139, R148, R152, R294, R406) -/

/-- Size of the BAR4 window. -/
def State.bar4Size (s : State) : Nat := 2 ^ s.pcie.bar4Log2

/-- The base in force (R14). -/
def State.bar4Base (s : State) : Nat := s.reg 0 pgHIF 0x110 + s.reg 0 pgHIF 0x114 * 2 ^ 32

/-- A window that lies wholly in GDDR6, plate scratch or cluster local memory (R14). -/
def State.bar4Ok (s : State) (base : Nat) : Bool :=
  base % s.bar4Size == 0 &&
  (decide (base + s.bar4Size ≤ s.usable) || regionOf base s.bar4Size == .plate || regionOf base s.bar4Size == .localMem)

/-- HIF_BAR4_BASE_WRITE: a write of LO takes the base with the HI last written (R14, R32 code 0x14). -/
def hifBar4BaseWrite (v : Nat) : Plan := fun s =>
  let base := v / 2 ^ 28 * 2 ^ 28 % 2 ^ 32 + (s.func 0).bar4HiStaged * 2 ^ 32
  if s.bar4Ok base then Plan.andThen (setReg 0 pgHIF 0x110 (base % 2 ^ 32)) (setReg 0 pgHIF 0x114 (base / 2 ^ 32)) s
  else violation 0 0x14 0 s

def execHifBar4BaseWrite (value : Nat) (s : State) : Host.Outcome State Fault Refusal := Plan.done (hostGate 0 (hifBar4BaseWrite value)) s

/-- The answer to a host read. -/
def answerRead (data : List Byte) (poisoned unsupported : Bool) : Plan := Plan.act (.hostRead { data := data, poisoned := poisoned, unsupported := unsupported })

/-- AER reports an error of a transaction (R32, R148, R294). -/
def raiseAer : Plan := fun s => [.pcie { s.pcie with aerOther := true }]

/-- The segment of a plate range that refuses BAR4: cache mode, no partition, withdrawn (R139). -/
def State.bar4Refuses (s : State) (n : Nat) : Bool :=
  let g := s.seg n
  s.mode (pgPS n) != 0 || g.owner == 0 || g.withdrawn

/-- The segment is not ON (R406). -/
def State.segNotOn (s : State) (n : Nat) : Bool := decide ((s.seg n).power ≠ .on)

/-- BAR4_READ (R14, R15, R139, R148, R150, R294, R406). -/
def bar4Read (off len : Nat) : Plan := fun s =>
  let a := s.bar4Base + off
  if len = 0 || decide (s.bar4Size < off + len) then answerRead (zeros len) false true s
  else match regionOf a len with
    | .gddr =>
      if s.gddr.frozen || s.svc.stage == 3 then answerRead (zeros len) false false s else
      if (s.servers a len).any s.segNotOn then Plan.andThen (violation 0 0x14 0) (answerRead (zeros len) false false) s
      else
        cachedRead (lineDetect 1 0 0 0 false) (Plan.andThen raiseAer (fun s => answerRead (s.bytesAt a len) true false s))
          (fun s => if s.meetsPoison a len then Plan.seq [poisonRead { cls := 7 } a, raiseAer, answerRead (s.bytesAt a len) true false] s
            else Plan.seq [memRequests { cls := 7 } false a len, gddrTouch a len, answerRead (s.bytesAt a len) false false] s) a len s
    | .plate =>
      match firstSeg (segsOf a len) s.bar4Refuses with
      | some g => Plan.andThen (raiseErr (pgPS g) 2 []) (answerRead (zeros len) false false) s
      | none =>
        if (segsOf a len).any s.segNotOn then Plan.andThen (violation 0 0x14 0) (answerRead (zeros len) false false) s
        else match s.badWordIn a len with
          | some w => Plan.seq [plateDetect (segOf w) (w - plateBase - segOf w * segSize) 1 0 0 0 false false 0, raiseAer,
              answerRead (s.bytesAt a len) true false] s
          | none => answerRead (s.bytesAt a len) false false s
    | .localMem =>
      let n := (a - localBase) / 0x400000
      if 16 ≤ n || (s.cluster n).withdrawn then answerRead (zeros len) false false s
      else answerRead (s.bytesAt a len) false false s
    | _ => answerRead (zeros len) false true s

/-- A read while the PF resets is answered, with data that the spec does not give: free values (R11; log entry 107). -/
def bar4ReadInReset (len : Nat) : Plan := withFree (fun f => answerRead (leBytes len f) false false)

/-- BAR4_READ: UR where the PF does not answer, but for its reset. -/
def execBar4Read (off len : Nat) (s : State) : Host.Outcome State Fault Refusal :=
  Plan.done (fun s => if s.answers 0 then bar4Read off len s else if (s.func 0).flr && !(s.func 0).d3hot && !s.pcie.coreFailed then bar4ReadInReset len s
    else answerRead (zeros len) false true s) s

/-- A cluster runs nothing and burnishes nothing (R15). -/
def Cluster.quiet (c : Cluster) : Bool :=
  c.left.isNone && c.right.isNone && c.hatch.isNone && c.mover.isNone && !c.burnishL && !c.burnishR && !c.burnishW && !c.burnishH && !c.burnishM

/-- BAR4_WRITE: applied, or dropped where the region is refused, burnished or powered down (R14, R15, R139, R152, R406). -/
def bar4Write (off : Nat) (data : List Byte) : Plan := fun s =>
  let a := s.bar4Base + off
  let len := data.length
  if len = 0 || decide (s.bar4Size < off + len) then []
  else match regionOf a len with
    | .gddr =>
      if s.gddr.frozen || s.svc.stage == 3 then []
      else match s.foreign true a len with
      | some pg => noteForeign pg s
      | none =>
        if (s.servers a len).any s.segNotOn then violation 0 0x14 0 s
        else Plan.andThen (memRequests { cls := 7 } true a len) (if s.partialOnPoison a len then poisonRead { cls := 7 } a else gddrStore 0 a data) s
    | .plate =>
      match firstSeg (segsOf a len) s.bar4Refuses with
      | some g => (raiseErr (pgPS g) 2 []) s
      | none =>
        if (segsOf a len).any s.segNotOn then violation 0 0x14 0 s
        else if (s.burnishOf [(a, data)]).isSome then []
        else plateStore a data s
    | .localMem =>
      let n := (a - localBase) / 0x400000
      if decide (n < 16) && !(s.cluster n).withdrawn && (s.cluster n).quiet then data.mapIdx (fun i b => .localMem (localKey (a + i)) b) else []
    | _ => []

def execBar4Write (off : Nat) (data : List Byte) (s : State) : Host.Outcome State Fault Refusal := Plan.done (hostGate 0 (bar4Write off data)) s

/-! ## TLP errors (R32) -/

/-- POISONED_TLP_RECEIVED: the TLP is dropped and reported (R32 code 0x0B). -/
def execPoisonedTlpReceived (fn : Nat) (s : State) : Host.Outcome State Fault Refusal :=
  Plan.done (Plan.andThen (Plan.act (.pcie { s.pcie with aerPoisoned := true })) (violation fn 0x0B 0)) s

/-- ECRC_FAIL_TLP: where the host has enabled ECRC checking in the function's AER, the TLP is dropped and reported (R8, R32 code 0x13). -/
def ecrcFailTlp (fn : Nat) : Plan := fun s =>
  if (s.func fn).ecrcCheck then Plan.andThen (Plan.act (.pcie { s.pcie with aerEcrc := true })) (violation fn 0x13 0) s else []

def execEcrcFailTlp (fn : Nat) (s : State) : Host.Outcome State Fault Refusal := Plan.done (ecrcFailTlp fn) s

end Sys2Proof.Machine
end

