-- ==== Sys2Proof/Machine/Numbers.lean ====
section
/-! DEFINITION. Number formats and arithmetic: the eight formats (R94-R97), binary32 arithmetic with round-half-even (R60, R109),
block shifts (R98, R100, R101), and the transcendental steps within the bounds of R109. Every value is exact: a sign, an integer and a power of two. -/
namespace Sys2Proof.Machine

/-- A value: NaN, an infinity, or a finite value ± `m` × 2^`e`, zero with its sign. -/
inductive FVal
  | nan
  | inf (neg : Bool)
  | fin (neg : Bool) (m : Nat) (e : Int)
  deriving DecidableEq, Repr

def FVal.zero : FVal := .fin false 0 0

/-- An integer as a value. -/
def FVal.ofInt (i : Int) : FVal := .fin (decide (i < 0)) i.natAbs 0

/-- Shifts right by `k` with round-half-even. -/
def rneShift (m k : Nat) : Nat :=
  let q := m / 2 ^ k
  let r := m % 2 ^ k
  if 2 * r < 2 ^ k then q else if 2 ^ k < 2 * r then q + 1 else q + q % 2

/-- Rounds `m` × 2^`e` to `p` significant bits, but never finer than 2^`emin`: gradual underflow, no upper limit on the exponent (R97). -/
def rnd (p : Nat) (emin : Int) (m : Nat) (e : Int) : Nat × Int :=
  if m = 0 then (0, emin)
  else
    let q := max emin ((Nat.log2 m : Int) + e - (p : Int) + 1)
    if q ≤ e then (m, e) else (rneShift m (q - e).toNat, q)

/-- Whether `m` × 2^`e` is above `m2` × 2^`e2`. -/
def magGt (m : Nat) (e : Int) (m2 : Nat) (e2 : Int) : Bool :=
  let b := min e e2
  decide (m2 * 2 ^ (e2 - b).toNat < m * 2 ^ (e - b).toNat)

/-- Rounds a value to binary32 by round-half-even; a result above the largest finite is an infinity (R60). -/
def FVal.r32 : FVal → FVal
  | .fin n m e =>
    let x := rnd 24 (-149) m e
    if magGt x.1 x.2 (2 ^ 24 - 1) 104 then .inf n else .fin n x.1 x.2
  | v => v

/-- The signed integer numerator of a finite value over 2^`b`. -/
def signedAt (n : Bool) (m : Nat) (e b : Int) : Int :=
  let x : Int := (m * 2 ^ (e - b).toNat : Nat)
  if n then -x else x

/-- Exact sum of two finite values; an exact zero of two values of opposite sign is +0, and −0 + −0 is −0. -/
def finAdd (n1 : Bool) (m1 : Nat) (e1 : Int) (n2 : Bool) (m2 : Nat) (e2 : Int) : FVal :=
  if m1 = 0 ∧ m2 = 0 then .fin (n1 && n2) 0 0
  else
    let b := min e1 e2
    let x := signedAt n1 m1 e1 b + signedAt n2 m2 e2 b
    if x = 0 then .fin false 0 0 else .fin (decide (x < 0)) x.natAbs b

/-- IEEE 754 addition, exact. -/
def FVal.addX : FVal → FVal → FVal
  | .nan, _ => .nan
  | _, .nan => .nan
  | .inf a, .inf b => if a = b then .inf a else .nan
  | .inf a, _ => .inf a
  | _, .inf b => .inf b
  | .fin n1 m1 e1, .fin n2 m2 e2 => finAdd n1 m1 e1 n2 m2 e2

def FVal.neg : FVal → FVal
  | .nan => .nan
  | .inf a => .inf (!a)
  | .fin n m e => .fin (!n) m e

/-- IEEE 754 multiplication, exact: NaN for 0 × ∞. -/
def FVal.mulX : FVal → FVal → FVal
  | .nan, _ => .nan
  | _, .nan => .nan
  | .inf a, .inf b => .inf (xor a b)
  | .inf a, .fin n m _ => if m = 0 then .nan else .inf (xor a n)
  | .fin n m _, .inf b => if m = 0 then .nan else .inf (xor b n)
  | .fin n1 m1 e1, .fin n2 m2 e2 => .fin (xor n1 n2) (m1 * m2) (e1 + e2)

/-- Binary32 addition, subtraction and multiplication, round-half-even. -/
def FVal.add (a b : FVal) : FVal := (a.addX b).r32
def FVal.sub (a b : FVal) : FVal := (a.addX b.neg).r32
def FVal.mul (a b : FVal) : FVal := (a.mulX b).r32

/-- The product by 2^`k`, exact. -/
def FVal.scale (k : Int) : FVal → FVal
  | .fin n m e => .fin n m (e + k)
  | v => v

/-- The integer square root by bisection on bits, from bit `k` down. -/
def isqrt (n : Nat) : Nat → Nat → Nat
  | 0, r => if (r + 1) * (r + 1) ≤ n then r + 1 else r
  | k + 1, r => isqrt n k (if (r + 2 ^ (k + 1)) * (r + 2 ^ (k + 1)) ≤ n then r + 2 ^ (k + 1) else r)

/-- Binary32 division, correctly rounded. -/
def FVal.div : FVal → FVal → FVal
  | .nan, _ => .nan
  | _, .nan => .nan
  | .inf _, .inf _ => .nan
  | .inf a, .fin n _ _ => .inf (xor a n)
  | .fin n _ _, .inf b => .fin (xor n b) 0 0
  | .fin n1 m1 e1, .fin n2 m2 e2 =>
    if m2 = 0 then (if m1 = 0 then .nan else .inf (xor n1 n2))
    else
      let k := 64 + Nat.log2 m2
      let q := m1 * 2 ^ k / m2
      let st := if m1 * 2 ^ k % m2 = 0 then 0 else 1
      FVal.r32 (.fin (xor n1 n2) (2 * q + st) (e1 - e2 - k - 1))

/-- Binary32 square root, correctly rounded; √−0 = −0 and the root of a negative value is NaN. -/
def FVal.sqrt : FVal → FVal
  | .nan => .nan
  | .inf n => if n then .nan else .inf false
  | .fin n m e =>
    if m = 0 then .fin n 0 0
    else if n then .nan
    else
      let m' := if e % 2 = 0 then m else 2 * m
      let e' := if e % 2 = 0 then e else e - 1
      let x := m' * 2 ^ 64
      let r := isqrt x (Nat.log2 x / 2 + 1) 0
      let st := if r * r = x then 0 else 1
      FVal.r32 (.fin false (2 * r + st) (e' / 2 - 32 - 1))

/-- Numeric order of two values that are not NaN, with −0 below +0 (R109). -/
def FVal.lt : FVal → FVal → Bool
  | .nan, _ => false
  | _, .nan => false
  | .inf a, .inf b => a && !b
  | .inf a, _ => a
  | _, .inf b => !b
  | .fin n1 m1 e1, .fin n2 m2 e2 =>
    let b := min e1 e2
    if m1 = 0 ∧ m2 = 0 then n1 && !n2
    else decide (signedAt n1 m1 e1 b < signedAt n2 m2 e2 b)

def FVal.isNan : FVal → Bool
  | .nan => true
  | _ => false

def FVal.isFinite : FVal → Bool
  | .fin .. => true
  | _ => false

/-- Maximum and minimum: NaN if either is NaN, −0 below +0 (R110). -/
def FVal.max (a b : FVal) : FVal := if a.isNan || b.isNan then .nan else if a.lt b then b else a
def FVal.min (a b : FVal) : FVal := if a.isNan || b.isNan then .nan else if b.lt a then b else a

/-- Equal as numbers (−0 = +0), NaN equal to nothing; at least, as numbers. -/
def FVal.eqNum : FVal → FVal → Bool
  | .fin n1 m1 e1, .fin n2 m2 e2 => let b := Min.min e1 e2; decide (signedAt n1 m1 e1 b = signedAt n2 m2 e2 b)
  | .inf a, .inf b => a == b
  | _, _ => false
def FVal.ge (a b : FVal) : Bool := b.eqNum a || b.lt a

/-! ## Formats (R94-R97) -/

/-- The formats of R77 and R94. -/
inductive Fmt
  | int8 | int4 | e4m3 | e5m2 | bf16 | fp16 | fp32 | int32
  deriving DecidableEq, Repr

def Fmt.ofCode : Nat → Option Fmt
  | 1 => some .int8 | 2 => some .int4 | 3 => some .e4m3 | 4 => some .e5m2
  | 5 => some .bf16 | 6 => some .fp16 | 7 => some .fp32 | 8 => some .int32
  | _ => none

def Fmt.isInt : Fmt → Bool
  | .int8 | .int4 | .int32 => true
  | _ => false

/-- Bits of one element. -/
def Fmt.bits : Fmt → Nat
  | .int4 => 4
  | .int8 | .e4m3 | .e5m2 => 8
  | .bf16 | .fp16 => 16
  | .fp32 | .int32 => 32

/-- Bytes of one element, 1 for INT4 (R83 check 2). -/
def Fmt.bytes (f : Fmt) : Nat := Max.max 1 (f.bits / 8)

/-- Fraction bits, exponent bits and bias of a float format. -/
def Fmt.float : Fmt → Nat × Nat × Int
  | .e4m3 => (3, 4, 7)
  | .e5m2 => (2, 5, 15)
  | .bf16 => (7, 8, 127)
  | .fp16 => (10, 5, 15)
  | _ => (23, 8, 127)

/-- Largest finite magnitude, as an integer and a power of two (R94). -/
def Fmt.largest : Fmt → Nat × Int
  | .int8 => (127, 0)
  | .int4 => (7, 0)
  | .int32 => (2147483647, 0)
  | .e4m3 => (7, 6)
  | .e5m2 => (7, 13)
  | .bf16 => (255, 120)
  | .fp16 => (2047, 5)
  | .fp32 => (2 ^ 24 - 1, 104)

/-- The value that the bits of an element spell (R94). -/
def decodeElem (f : Fmt) (w : Nat) : FVal :=
  if f.isInt then FVal.ofInt (toSigned f.bits w)
  else
    let (fb, eb, bias) := f.float
    let neg := bit w (fb + eb)
    let ex := w / 2 ^ fb % 2 ^ eb
    let fr := w % 2 ^ fb
    if ex = 2 ^ eb - 1 ∧ f ≠ .e4m3 then (if fr = 0 then .inf neg else .nan)
    else if ex = 2 ^ eb - 1 ∧ fr = 2 ^ fb - 1 then .nan
    else if ex = 0 then .fin neg fr (1 - bias - fb)
    else .fin neg (2 ^ fb + fr) ((ex : Int) - bias - fb)

/-- The canonical NaN of a float format (R95). -/
def Fmt.nanBits : Fmt → Nat
  | .e4m3 => 0x7F
  | .e5m2 => 0x7E
  | .bf16 => 0x7FC0
  | .fp16 => 0x7E00
  | _ => 0x7FC00000

/-- The bits of a finite value that the float format represents. -/
def packFloat (f : Fmt) (neg : Bool) (m : Nat) (e : Int) : Nat :=
  let (fb, eb, bias) := f.float
  let sg := if neg then 2 ^ (fb + eb) else 0
  if m = 0 then sg
  else
    let top := (Nat.log2 m : Int) + e
    if top < 1 - bias then sg + m * 2 ^ (e - (1 - bias - fb)).toNat
    else
      let frac := if Nat.log2 m ≤ fb then m * 2 ^ (fb - Nat.log2 m) else m / 2 ^ (Nat.log2 m - fb)
      sg + (top + bias).toNat * 2 ^ fb + (frac - 2 ^ fb)

def Fmt.infBits (f : Fmt) (neg : Bool) : Nat :=
  let (fb, eb, _) := f.float
  (if neg then 2 ^ (fb + eb) else 0) + (2 ^ eb - 1) * 2 ^ fb

/-- The outcome of a narrowing conversion: the bits, whether the element saturated, and whether a NaN became an integer (R97). -/
structure Conv where
  bits : Nat
  sat : Bool := false
  nanInt : Bool := false
  deriving DecidableEq, Repr

/-- Rounds a finite value to an integer by round-half-even. -/
def roundInt (n : Bool) (m : Nat) (e : Int) : Int :=
  let x : Nat := if 0 ≤ e then m * 2 ^ e.toNat else rneShift m (-e).toNat
  if n then -(x : Int) else x

/-- Integer conversion with limits `lo` and `hi` (R97, R98). -/
def convInt (f : Fmt) (lo hi : Int) : FVal → Conv
  | .nan => { bits := 0, nanInt := true }
  | .inf n => { bits := ofSigned f.bits (if n then lo else hi), sat := true }
  | .fin n m e =>
    let x := roundInt n m e
    if x < lo then { bits := ofSigned f.bits lo, sat := true }
    else if hi < x then { bits := ofSigned f.bits hi, sat := true }
    else { bits := ofSigned f.bits x }

/-- Float conversion; an infinity stays one where `keepInf` holds and the format has one, else it saturates (R97, R100). -/
def convFloat (f : Fmt) (keepInf : Bool) : FVal → Conv
  | .nan => { bits := f.nanBits }
  | .inf n =>
    if keepInf && f != .e4m3 then { bits := f.infBits n }
    else { bits := packFloat f n f.largest.1 f.largest.2, sat := true }
  | .fin n m e =>
    let (fb, _, bias) := f.float
    let x := rnd (fb + 1) (1 - bias - fb) m e
    if magGt x.1 x.2 f.largest.1 f.largest.2 then { bits := packFloat f n f.largest.1 f.largest.2, sat := true }
    else { bits := packFloat f n x.1 x.2 }

/-- The least integer of an integer format. -/
def Fmt.least (f : Fmt) : Int := -(2 ^ (f.bits - 1) : Nat)

/-- The conversion of R97, without block shifts. -/
def convert (f : Fmt) (v : FVal) : Conv :=
  if f.isInt then convInt f f.least (f.largest.1 : Int) v else convFloat f true v

/-- The conversion of a scaled element, with the code limits of R98 (R100). -/
def convertCode (f : Fmt) (v : FVal) : Conv :=
  if f.isInt then convInt f (-(f.largest.1 : Int)) (f.largest.1 : Int) v else convFloat f false v

/-- The FP32 bits of a value, and the value of FP32 bits. -/
def FVal.bits32 (v : FVal) : Nat := (convFloat .fp32 true v).bits
def ofBits32 (w : Nat) : FVal := decodeElem .fp32 w

/-! ## Block shifts (R100, R101) -/

/-- ⌊log2 Q⌋ of R98. -/
def Fmt.log2Q : Fmt → Int
  | .int8 => 6
  | .int4 => 2
  | .e4m3 => 8
  | _ => 15

/-- The largest magnitude of the finite values of a block. -/
def amax : List FVal → Nat × Int
  | [] => (0, 0)
  | .fin _ m e :: vs => let a := amax vs; if magGt m e a.1 a.2 then (m, e) else a
  | _ :: vs => amax vs

/-- The shift of a block: the smallest integer for which amax × 2^−s ≤ Q, within −128 to 127 (R100). -/
def blockShift (f : Fmt) (vs : List FVal) : Int :=
  let a := amax vs
  if a.1 = 0 then -128
  else
    let s := (Nat.log2 a.1 : Int) + a.2 - f.log2Q
    let s := if magGt a.1 (a.2 - s) f.largest.1 f.largest.2 then s + 1 else s
    Min.min (Max.max s (-128)) 127

/-- The value of a code with its shift, formed in FP32 (R101). -/
def codeValue (f : Fmt) (w : Nat) (s : Int) : FVal := ((decodeElem f w).scale s).r32

/-! ## Transcendental steps (R109): the exact result to 512 fraction bits, rounded to binary32, moved by at most the bound of R109 -/

/-- Fraction bits of the fixed-point working value. -/
def fxP : Nat := 512

def fxOne : Int := 2 ^ fxP
def fxMul (a b : Int) : Int := a * b / fxOne
def fxDiv (a b : Int) : Int := if b = 0 then 0 else a * fxOne / b

/-- The fixed-point value of a finite value. -/
def fxOf (n : Bool) (m : Nat) (e : Int) : Int := signedAt n m (e + fxP) 0

/-- The power series of exp from term `k` on. -/
def expSeries (x : Int) : Nat → Nat → Int → Int
  | 0, _, _ => 0
  | fuel + 1, k, t => t + expSeries x fuel (k + 1) (fxMul t x / ((k : Int) + 1))

/-- Squares `n` times. -/
def fxSquare : Nat → Int → Int
  | 0, x => x
  | n + 1, x => fxSquare n (fxMul x x)

/-- exp of a fixed-point value of magnitude below 256. -/
def fxExp (x : Int) : Int := fxSquare 10 (expSeries (x / 1024) 60 0 fxOne)

/-- The series of 2 × artanh(y). -/
def artanhSeries (y2 : Int) : Nat → Nat → Int → Int
  | 0, _, _ => 0
  | fuel + 1, k, t => 2 * t / (2 * (k : Int) + 1) + artanhSeries y2 fuel (k + 1) (fxMul t y2)

/-- ln of a fixed-point value from 1 to 2. -/
def fxLn1 (x : Int) : Int :=
  let y := fxDiv (x - fxOne) (x + fxOne)
  artanhSeries (fxMul y y) 170 0 y

def fxLn2 : Int := fxLn1 (2 * fxOne)

/-- The series of erf without its factor 2 / √π. -/
def erfSeries (x2 : Int) : Nat → Nat → Int → Int
  | 0, _, _ => 0
  | fuel + 1, k, t => t / (2 * (k : Int) + 1) + erfSeries x2 fuel (k + 1) (-(fxMul t x2) / ((k : Int) + 1))

def fxSqrt (x : Int) : Int := let n := x.toNat * 2 ^ fxP; (isqrt n (Nat.log2 n / 2 + 1) 0 : Nat)

/-- π by Machin's formula: the series of arctan(1/q). -/
def atanInv (q : Int) : Nat → Nat → Int → Int
  | 0, _, _ => 0
  | fuel + 1, k, t => (if k % 2 = 0 then t / (2 * (k : Int) + 1) else -(t / (2 * (k : Int) + 1))) + atanInv q fuel (k + 1) (t / (q * q))
def fxPi : Int := 16 * atanInv 5 120 0 (fxOne / 5) - 4 * atanInv 239 40 0 (fxOne / 239)

/-- erf of a fixed-point value of magnitude below 16. -/
def fxErf (x : Int) : Int := fxDiv (2 * erfSeries (fxMul x x) 800 0 x) (fxSqrt fxPi)

/-- A fixed-point result as a value. -/
def ofFx (x : Int) : FVal := .fin (decide (x < 0)) x.natAbs (-(fxP : Int))

/-- Moves a rounded result by the free error of an operation, at most `bound` units in the last place, never past the largest finite value (R109). -/
def nudge (op bound : Nat) (x : FVal) (r : FVal) : FVal :=
  match r with
  | .fin n _ _ =>
    let d := Config.ulpError op x.bits32
    let d := Min.min (Max.max d (-(bound : Int))) (bound : Int)
    let w := (r.bits32 % 2 ^ 31 : Nat)
    let w' := Min.min (Max.max ((w : Int) + d) 0) 0x7F7FFFFF
    ofBits32 (w'.toNat + if n then 2 ^ 31 else 0)
  | v => v

/-- exp within 2 ulp; exp(−∞) = +0 and exp(+∞) = +∞ (R109). -/
def FVal.exp : FVal → FVal
  | .nan => .nan
  | .inf n => if n then .zero else .inf false
  | .fin n m e =>
    let x := FVal.fin n m e
    nudge 0x15 2 x (if magGt m e 200 0 then (if n then .zero else .inf false) else (ofFx (fxExp (fxOf n m e))).r32)

/-- 2^x within 2 ulp, with exp2(0) = 1 and exp2(−∞) = +0 exactly (R128). -/
def FVal.exp2 : FVal → FVal
  | .nan => .nan
  | .inf n => if n then .zero else .inf false
  | .fin n m e =>
    if m = 0 then .fin false 1 0
    else nudge 0x41 2 (.fin n m e) (if magGt m e 256 0 then (if n then .zero else .inf false) else (ofFx (fxExp (fxMul (fxOf n m e) fxLn2))).r32)

/-- ln within 2 ulp; log(±0) = −∞, and NaN of a negative value (R109). -/
def FVal.log : FVal → FVal
  | .nan => .nan
  | .inf n => if n then .nan else .inf false
  | .fin n m e =>
    if m = 0 then .inf true
    else if n then .nan
    else
      let k : Int := Nat.log2 m
      let one := fxOf false m (-k)
      nudge 0x16 2 (.fin n m e) (ofFx (fxLn1 one + (k + e) * fxLn2)).r32

/-- The fixed-point sigmoid of a value of magnitude at most 200. -/
def fxSigmoid (x : Int) : Int :=
  if 0 ≤ x then fxDiv fxOne (fxOne + fxExp (-x)) else let t := fxExp x; fxDiv t (fxOne + t)

/-- sigmoid within 2 ulp; 1 or +0 at the infinities (R109). -/
def FVal.sigmoid : FVal → FVal
  | .nan => .nan
  | .inf n => if n then .zero else .fin false 1 0
  | .fin n m e =>
    nudge 0x13 2 (.fin n m e) (if magGt m e 200 0 then (if n then .zero else .fin false 1 0) else (ofFx (fxSigmoid (fxOf n m e))).r32)

/-- tanh within 2 ulp; ±1 at the infinities, and the sign of zero kept (R109). -/
def FVal.tanh : FVal → FVal
  | .nan => .nan
  | .inf n => .fin n 1 0
  | .fin n m e =>
    if m = 0 then .fin n 0 0
    else
      nudge 0x14 2 (.fin n m e) (if magGt m e 100 0 then .fin n 1 0
        else let t := fxExp (2 * fxOf false m e)
             let y := (ofFx (fxDiv (t - fxOne) (t + fxOne))).r32
             if n then y.neg else y)

/-- silu within 2 ulp; −0 at −∞ and +∞ at +∞ (R109). -/
def FVal.silu : FVal → FVal
  | .nan => .nan
  | .inf n => if n then .fin true 0 0 else .inf false
  | .fin n m e =>
    if m = 0 then .fin n 0 0
    else
      nudge 0x12 2 (.fin n m e) (if magGt m e 200 0 then (if n then .fin true 0 0 else .fin n m e)
        else (FVal.mulX (.fin n m e) (ofFx (fxSigmoid (fxOf n m e)))).r32)

/-- gelu, 0.5 × x × (1 + erf(x / √2)), within 4 ulp; −0 at −∞ and +∞ at +∞ (R109). -/
def FVal.gelu : FVal → FVal
  | .nan => .nan
  | .inf n => if n then .fin true 0 0 else .inf false
  | .fin n m e =>
    if m = 0 then .fin n 0 0
    else
      nudge 0x11 4 (.fin n m e) (if magGt m e (if n then 15 else 20) 0 then (if n then .fin true 0 0 else .fin n m e)
        else let x := fxOf n m e
             (FVal.mulX (.fin n m (e - 1)) (ofFx (fxOne + fxErf (fxDiv x (fxSqrt (2 * fxOne)))))).r32)

/-- 1 / x within 1 ulp (R109). -/
def FVal.recip (x : FVal) : FVal :=
  let r := FVal.div (.fin false 1 0) x
  if x.isFinite then nudge 0x19 1 x r else r

/-- √(m × 2^e), to 64 bits below its unit. -/
def FVal.rootX (m : Nat) (e : Int) : FVal :=
  let m' := if e % 2 = 0 then m else 2 * m
  let e' := if e % 2 = 0 then e else e - 1
  let x := m' * 2 ^ 128
  .fin false (isqrt x (Nat.log2 x / 2 + 1) 0) (e' / 2 - 64)

/-- 1 / √x, correctly rounded; of a negative value it is NaN. -/
def FVal.rsqrtX : FVal → FVal
  | .nan => .nan
  | .inf n => if n then .nan else .zero
  | .fin n m e => if m = 0 then .inf n else if n then .nan else FVal.div (.fin false 1 0) (FVal.rootX m e)

/-- 1 / √x within 1 ulp (R109): the exact quotient with the root to 64 more bits. -/
def FVal.rsqrt (x : FVal) : FVal := if x.isFinite then nudge 0x18 1 x x.rsqrtX else x.rsqrtX

/-! ## Derivatives of the activations (R110): the exact derivative rounded to binary32, moved by a free error within a bound that no rule states (log entry 11) -/

/-- A derivative of a finite value from its fixed-point form; far out it is its limit. -/
def fxDeriv (sub far : Nat) (f : Int → Int) (limNeg limPos : FVal) : FVal → FVal
  | .nan => .nan
  | .inf n => if n then limNeg else limPos
  | .fin n m e =>
    nudge (0x1A + 256 * sub) (Config.openBound (0x1A + 256 * sub)) (.fin n m e)
      (if magGt m e far 0 then (if n then limNeg else limPos) else (ofFx (f (fxOf n m e))).r32)

/-- gelu′(x) = (1 + erf(x / √2)) / 2 + x × exp(−x² / 2) / √(2π). -/
def FVal.geluD : FVal → FVal :=
  fxDeriv 1 15 (fun x => (fxOne + fxErf (fxDiv x (fxSqrt (2 * fxOne)))) / 2 + fxDiv (fxMul x (fxExp (-(fxMul x x) / 2))) (fxSqrt (2 * fxPi))) (.fin true 0 0) (.fin false 1 0)

/-- silu′(x) = σ(x) × (1 + x × σ(−x)). -/
def FVal.siluD : FVal → FVal :=
  fxDeriv 2 200 (fun x => fxMul (fxSigmoid x) (fxOne + fxMul x (fxSigmoid (-x)))) (.fin true 0 0) (.fin false 1 0)

/-- sigmoid′(x) = σ(x) × σ(−x). -/
def FVal.sigmoidD : FVal → FVal := fxDeriv 3 200 (fun x => fxMul (fxSigmoid x) (fxSigmoid (-x))) .zero .zero

/-- tanh′(x) = 4 × σ(2x) × σ(−2x). -/
def FVal.tanhD : FVal → FVal := fxDeriv 4 100 (fun x => 4 * fxMul (fxSigmoid (2 * x)) (fxSigmoid (-(2 * x)))) .zero .zero

end Sys2Proof.Machine
end

