-- ==== Sys2Proof/Machine/Operands.lean ====
section
/-! DEFINITION. Tensor operands: the descriptor (R77), its extents (R92), its placement checks (R83), reading a tensor as values (R96, R101)
and writing one with or without block shifts (R97-R100). -/
namespace Sys2Proof.Machine

/-- A tensor descriptor (R77). -/
structure Desc where
  base : Nat
  scaleBase : Nat
  fmtCode : Nat
  scaleMode : Nat
  scaleAxis : Nat
  rank : Nat
  dynDim : Nat
  bucketIndex : Nat
  sizes : List Nat
  /-- Byte distances of dimensions 1, 2 and 3. -/
  strides : List Nat
  bucketAddr : Nat
  deriving DecidableEq, Repr

def parseDesc (b : List Byte) : Desc :=
  { base := rdN b 0 6, scaleBase := rdN b 8 6, fmtCode := rdN b 0x10 1,
    scaleMode := fld (rdN b 0x11 1) 2 0, scaleAxis := fld (rdN b 0x11 1) 4 3,
    rank := fld (rdN b 0x12 1) 2 0, dynDim := fld (rdN b 0x12 1) 5 3, bucketIndex := fld (rdN b 0x13 1) 3 0,
    sizes := [rdN b 0x14 4, rdN b 0x18 4, rdN b 0x1C 4, rdN b 0x20 4],
    strides := [rdN b 0x24 6, rdN b 0x2C 6, rdN b 0x34 6], bucketAddr := rdN b 0x3A 6 }

/-- Whether a structure lies wholly inside a job's argument block (R78). -/
def Job.inArgs (j : Job) (a n : Nat) : Bool := decide (j.argsAddr ≤ a) && decide (a + n ≤ j.argsAddr + j.argsLen)

/-- The bytes of a structure: as they were read at placement where they were, else as memory holds them (R78). -/
def State.structAt (s : State) (seen : List (Nat × List Byte)) (a n : Nat) : List Byte :=
  match seen.find? (fun x => x.1 == a && x.2.length == n) with
  | some x => x.2
  | none => s.bytesAt a n

/-- The bytes of a tensor descriptor: from the copy of the argument block when it lies inside (R78). -/
def descBytes (s : State) (j : Job) (seen : List (Nat × List Byte)) (a : Nat) : List Byte :=
  if j.inArgs a 64 then (j.args.drop (a - j.argsAddr)).take 64 else s.structAt seen a 64

/-- A descriptor with its extents known: the actual extent of a dynamic dimension comes from the bucket record (R92). -/
structure Operand where
  d : Desc
  addr : Nat
  fmt : Fmt
  /-- Actual extents; 1 beyond the rank. -/
  ext : List Nat
  /-- SIZE fields as extents, for the scale array (R99). -/
  lim : List Nat
  /-- Byte distances, 0 beyond the rank. -/
  str : List Nat
  /-- Check 11 fails (R83). -/
  dynBad : Bool
  deriving DecidableEq, Repr

/-- An operand from its descriptor and bucket record; `seen` holds what the stroke's sequencer read at placement (R78, R92). -/
def State.operandSeen (s : State) (j : Job) (seen : List (Nat × List Byte)) (a : Nat) : Operand :=
  let d := parseDesc (descBytes s j seen a)
  let rec8 := s.structAt seen d.bucketAddr 8
  let actual := rdN rec8 0 4
  let idx := fld (rdN rec8 4 1) 3 0
  let lim := (List.range 4).map (fun k => if k < d.rank then d.sizes.getD k 1 else 1)
  let ext := if d.dynDim = 0 then lim else lim.set (d.dynDim - 1) actual
  { d := d, addr := a, fmt := (Fmt.ofCode d.fmtCode).getD .int8, ext := ext, lim := lim,
    str := (List.range 3).map (fun k => if k + 1 < d.rank then d.strides.getD k 0 else 0),
    dynBad := d.dynDim != 0 && (idx != d.bucketIndex || decide (lim.getD (d.dynDim - 1) 1 < actual)) }

/-- An operand as memory describes it now. -/
def State.operand (s : State) (j : Job) (a : Nat) : Operand := s.operandSeen j [] a

def Operand.e (o : Operand) (k : Nat) : Nat := o.ext.getD k 1
def Operand.st (o : Operand) (k : Nat) : Nat := o.str.getD k 0
def Operand.count (o : Operand) : Nat := o.e 0 * o.e 1 * o.e 2 * o.e 3

/-- Bytes of a row of dimension 0. -/
def Operand.rowBytes (o : Operand) : Nat := cdiv (o.e 0 * o.fmt.bits) 8

/-- The range from BASE to the last byte of the last element (R83 check 9); empty when an extent is 0. -/
def Operand.span (o : Operand) : Nat × Nat :=
  if o.count = 0 then (o.d.base, 0)
  else (o.d.base, (o.e 1 - 1) * o.st 0 + (o.e 2 - 1) * o.st 1 + (o.e 3 - 1) * o.st 2 + o.rowBytes)

/-- Blocks along the axis of the scale array, and its extents (R99). -/
def Operand.blockLen (o : Operand) : Nat :=
  match o.d.scaleMode with
  | 1 => 32
  | 2 => 128
  | _ => Max.max 1 (o.lim.getD o.d.scaleAxis 1)

def Operand.scaleExt (o : Operand) : List Nat := o.lim.set o.d.scaleAxis (cdiv (o.lim.getD o.d.scaleAxis 1) o.blockLen)

/-- Offset of the shift of an element in the scale array (R99). -/
def Operand.scaleOff (o : Operand) (i : List Nat) : Nat :=
  if o.d.scaleMode = 4 then 0
  else
    let x := o.scaleExt
    let j := i.set o.d.scaleAxis (i.getD o.d.scaleAxis 0 / o.blockLen)
    j.getD 0 0 + x.getD 0 1 * (j.getD 1 0 + x.getD 1 1 * (j.getD 2 0 + x.getD 2 1 * j.getD 3 0))

/-- The bytes of the scale array, from SCALE_BASE to the last shift byte (R99). -/
def Operand.scaleSpan (o : Operand) : Nat × Nat :=
  if o.d.scaleMode = 0 then (o.d.scaleBase, 0)
  else if o.d.scaleMode = 4 then (o.d.scaleBase, 1)
  else (o.d.scaleBase, o.scaleExt.foldl (· * ·) 1)

/-- The extents of the shifts that lie within the actual extents: those of blocks wholly beyond them are neither read nor written (R99). -/
def Operand.scaleUsed (o : Operand) : List Nat := o.ext.set o.d.scaleAxis (cdiv (o.ext.getD o.d.scaleAxis 1) o.blockLen)

/-- Every index (i0, i1, i2, i3) of the extents, dimension 0 fastest. -/
def indices (ext : List Nat) : List (List Nat) :=
  (List.range (ext.getD 3 1)).flatMap (fun i3 => (List.range (ext.getD 2 1)).flatMap (fun i2 =>
    (List.range (ext.getD 1 1)).flatMap (fun i1 => (List.range (ext.getD 0 1)).map (fun i0 => [i0, i1, i2, i3]))))

/-- The shift bytes within the actual extents, as ranges (R99). -/
def Operand.scaleRows (o : Operand) : List (Nat × Nat) :=
  if o.d.scaleMode = 0 ∨ o.count = 0 then []
  else if o.d.scaleMode = 4 then [(o.d.scaleBase, 1)]
  else
    let x := o.scaleExt
    (indices (o.scaleUsed.set 0 1)).map (fun i =>
      (o.d.scaleBase + x.getD 0 1 * (i.getD 1 0 + x.getD 1 1 * (i.getD 2 0 + x.getD 2 1 * i.getD 3 0)), o.scaleUsed.getD 0 1))

/-- The start of the row of dimension 0 that an index lies in. -/
def Operand.rowAddr (o : Operand) (i : List Nat) : Nat :=
  o.d.base + i.getD 1 0 * o.st 0 + i.getD 2 0 * o.st 1 + i.getD 3 0 * o.st 2

/-- The bits of one element (R63, R77). -/
def Operand.code (o : Operand) (s : State) (i : List Nat) : Nat :=
  let r := o.rowAddr i
  let k := i.getD 0 0
  match o.fmt with
  | .int4 => let b := s.numAt (r + k / 2) 1; if k % 2 = 0 then b % 16 else b / 16
  | f => s.numAt (r + k * f.bytes) f.bytes

/-- The shift of an element's block. -/
def Operand.shift (o : Operand) (s : State) (i : List Nat) : Int :=
  if o.d.scaleMode = 0 then 0 else toSigned 8 (s.numAt (o.d.scaleBase + o.scaleOff i) 1)

/-- The value of an element as a unit other than the array reads it, in FP32 (R96, R101). -/
def Operand.value (o : Operand) (s : State) (i : List Nat) : FVal :=
  if o.d.scaleMode = 0 then decodeElem o.fmt (o.code s i) else codeValue o.fmt (o.code s i) (o.shift s i)

/-- A tensor of values, dimension 0 fastest. -/
structure Tensor where
  ext : List Nat
  vals : List FVal
  deriving DecidableEq, Repr

def Tensor.e (t : Tensor) (k : Nat) : Nat := t.ext.getD k 1
def linear (ext i : List Nat) : Nat :=
  i.getD 0 0 + ext.getD 0 1 * (i.getD 1 0 + ext.getD 1 1 * (i.getD 2 0 + ext.getD 2 1 * i.getD 3 0))
def Tensor.at (t : Tensor) (i : List Nat) : FVal := t.vals.getD (linear t.ext i) .zero

/-- An element with broadcast: an extent of 1 uses index 0 (R79, R106). -/
def Tensor.bcast (t : Tensor) (i : List Nat) : FVal :=
  t.at ((List.range 4).map (fun k => if t.e k = 1 then 0 else i.getD k 0))

def Operand.tensor (o : Operand) (s : State) : Tensor := { ext := o.ext, vals := (indices o.ext).map (o.value s) }

/-- A tensor given by a function of the index. -/
def Tensor.build (ext : List Nat) (f : List Nat → FVal) : Tensor := { ext := ext, vals := (indices ext).map f }

/-! ## Writing (R97-R100, R89) -/

/-- The bytes of one row of codes; in an INT4 row of odd extent the unused nibble keeps what it held (R77). -/
def packRow (f : Fmt) (codes : List Nat) (oldLast : Nat) : List Byte :=
  match f with
  | .int4 =>
    (List.range (cdiv codes.length 2)).map (fun k =>
      let lo := codes.getD (2 * k) 0
      let hi := if 2 * k + 1 < codes.length then codes.getD (2 * k + 1) 0 else oldLast / 16
      BitVec.ofNat 8 (lo % 16 + hi * 16))
  | _ => (codes.map (leBytes f.bytes)).flatten

/-- What writing a tensor comes to: the writes, the elements that saturated and the NaNs that became integers. -/
structure TensorOut where
  writes : List (Nat × List Byte) := []
  sat : Nat := 0
  nan : Nat := 0

/-- The rows of a tensor of codes at their addresses. -/
def Operand.rows (o : Operand) (s : State) (codes : List Nat) : List (Nat × List Byte) :=
  let w := o.e 0
  if o.count = 0 then []
  else (indices (o.ext.set 0 1)).mapIdx (fun r i =>
    let a := o.rowAddr i
    (a, packRow o.fmt ((codes.drop (r * w)).take w) (s.numAt (a + o.rowBytes - 1) 1)))

/-- Writes values without block shifts (R97). -/
def Operand.writePlain (o : Operand) (s : State) (vals : List FVal) : TensorOut :=
  let c := vals.map (convert o.fmt)
  { writes := o.rows s (c.map (·.bits)), sat := (c.filter (·.sat)).length, nan := (c.filter (·.nanInt)).length }

/-- The block number of every index, and the shifts of the blocks: the first pass of R100. -/
def Operand.shiftsOf (o : Operand) (t : Tensor) : Tab Int :=
  let idx := indices o.ext
  let offs := (idx.map o.scaleOff).dedup
  offs.foldl (fun tab k => Tab.put (-1000) tab k
    (blockShift o.fmt ((idx.filter (fun i => o.scaleOff i == k)).map t.at))) []

/-- Writes values with block shifts, in two passes over each block (R100). -/
def Operand.writeScaled (o : Operand) (s : State) (t : Tensor) : TensorOut :=
  let sh := o.shiftsOf t
  let c := (indices o.ext).map (fun i => convertCode o.fmt ((t.at i).scale (-(Tab.get 0 sh (o.scaleOff i)))))
  { writes := o.rows s (c.map (·.bits)) ++ sh.map (fun e => (o.d.scaleBase + e.1, [BitVec.ofNat 8 (ofSigned 8 e.2)])),
    sat := (c.filter (·.sat)).length, nan := (c.filter (·.nanInt)).length }

/-- Writes a tensor of values as its descriptor says. -/
def Operand.write (o : Operand) (s : State) (t : Tensor) : TensorOut :=
  if o.d.scaleMode = 0 then o.writePlain s t.vals else o.writeScaled s t

/-- The runs of `q` columns of dimension 0 that hold a selected element, each with its place in the list of codes: start index, position and length. -/
def Operand.runs (o : Operand) (q : Nat) (keep : List Nat → Bool) : List (List Nat × Nat × Nat) :=
  let w := o.e 0
  ((indices (o.ext.set 0 1)).mapIdx (fun r i => ((List.range (cdiv w q)).filter (fun c => keep (i.set 0 (q * c)))).map (fun c =>
    (i.set 0 (q * c), r * w + q * c, min q (w - q * c))))).flatten

/-- Writes the elements that `keep` selects, whole runs of `q` columns of dimension 0 at a time; no block of shifts crosses a run, and an INT4 run starts on a byte (R89, R102). -/
def Operand.writeSome (o : Operand) (s : State) (t : Tensor) (q : Nat) (keep : List Nat → Bool) : TensorOut :=
  let sh := if o.d.scaleMode = 0 then [] else o.shiftsOf t
  let el := (List.zip (indices o.ext) t.vals).map (fun x =>
    (x.1, if o.d.scaleMode = 0 then convert o.fmt x.2 else convertCode o.fmt (x.2.scale (-(Tab.get 0 sh (o.scaleOff x.1))))))
  let kept := el.filter (fun x => keep x.1)
  let offs := (kept.map (fun x => o.scaleOff x.1)).dedup
  { writes := (o.runs q keep).map (fun r =>
        let a := o.rowAddr r.1 + r.1.getD 0 0 * o.fmt.bits / 8
        (a, packRow o.fmt (((el.drop r.2.1).take r.2.2).map (fun x => x.2.bits)) (s.numAt (a + cdiv (r.2.2 * o.fmt.bits) 8 - 1) 1))) ++
      (sh.filter (fun e => offs.contains e.1)).map (fun e => (o.d.scaleBase + e.1, [BitVec.ofNat 8 (ofSigned 8 e.2)])),
    sat := (kept.filter (fun x => x.2.sat)).length, nan := (kept.filter (fun x => x.2.nanInt)).length }

/-! ## Placement checks (R83) -/

/-- The least number of a list of failing checks. -/
def lowest (l : List (Option Nat)) : Option Nat :=
  l.foldl (fun m x => match m, x with | some a, some b => some (min a b) | none, x => x | m, none => m) none

def failIf (b : Bool) (n : Nat) : Option Nat := if b then some n else none

/-- Check 1 of R83. -/
def Operand.bad1 (o : Operand) : Bool :=
  o.d.rank == 0 || decide (4 < o.d.rank) || (Fmt.ofCode o.d.fmtCode).isNone || decide (4 < o.d.scaleMode) || decide (o.d.rank < o.d.dynDim) ||
  (List.range o.d.rank).any (fun k => o.d.sizes.getD k 0 == 0 && o.d.dynDim != k + 1)

/-- Check 2 of R83, for one tensor. -/
def Operand.bad2 (o : Operand) : Bool :=
  o.d.base % o.fmt.bytes != 0 || o.str.any (fun x => x % o.fmt.bytes != 0)

/-- A range lies wholly in GDDR6 or plate scratch of a partition (R83 check 3). -/
def State.placeOk (s : State) (p a n : Nat) : Bool :=
  match s.judge p false a n with
  | .refused _ => false
  | _ => true

/-- Ranges wholly in GDDR6 or plate scratch of the partition; outputs meet no other range of the stroke. -/
def badRanges (s : State) (p : Nat) (outs ins : List (Nat × Nat)) : Bool :=
  (outs ++ ins).any (fun r => !s.placeOk p r.1 r.2) ||
  (List.range outs.length).any (fun k =>
    let o := outs.getD k (0, 0)
    (outs.drop (k + 1) ++ ins).any (fun r => overlaps o.1 o.2 r.1 r.2))

/-- Check 3 of R83, for one tensor and its scale array. -/
def Operand.bad3 (o : Operand) (s : State) (p : Nat) : Bool :=
  !s.placeOk p o.span.1 o.span.2 || !s.placeOk p o.scaleSpan.1 o.scaleSpan.2

/-- Check 10 of R83: a zero stride on a dimension of extent above 1. -/
def Operand.bad10 (o : Operand) : Bool := (List.range 3).any (fun k => k + 1 < o.d.rank && decide (1 < o.e (k + 1)) && o.st k == 0)

/-- Block shifts in a format that carries none (R98). -/
def Operand.badScale (o : Operand) : Bool :=
  o.d.scaleMode != 0 && !(o.fmt == .int8 || o.fmt == .int4 || o.fmt == .e4m3 || o.fmt == .e5m2)

/-- Checks 1-3 and 11 of R83 on a descriptor, and check 10 where `strided` holds; checks 3 and 10 are not judged where check 11 fails on any descriptor of the stroke, `dyn` (R402). -/
def Operand.checks (o : Operand) (s : State) (p : Nat) (strided dyn : Bool) : Option Nat :=
  lowest [failIf o.bad1 1, failIf o.bad2 2, failIf (!dyn && o.bad3 s p) 3, failIf (!dyn && strided && o.bad10) 10, failIf o.dynBad 11]

/-- Two tensors' address ranges meet. -/
def Operand.meets (a b : Operand) : Bool := overlaps a.span.1 a.span.2 b.span.1 b.span.2

/-- Two tensors meet, in their elements or in their shifts (R103, R158). -/
def Operand.meetsScaled (a b : Operand) : Bool :=
  [a.span, a.scaleSpan].any (fun x => [b.span, b.scaleSpan].any (fun y => overlaps x.1 x.2 y.1 y.2))

/-- Two descriptors name the same tensor: same BASE, strides and FORMAT (R106). -/
def Operand.coincides (a b : Operand) : Bool :=
  a.d.base == b.d.base && a.str == b.str && a.d.fmtCode == b.d.fmtCode && a.ext == b.ext

/-- The rows of a tensor, as ranges. -/
def Operand.rowSpans (o : Operand) : List (Nat × Nat) :=
  if o.count = 0 then [] else (indices (o.ext.set 0 1)).map (fun i => (o.rowAddr i, o.rowBytes))

/-- The ranges a unit reads for a tensor: descriptor, bucket record, elements and shifts. -/
def Operand.readRanges (o : Operand) (j : Job) : List (Nat × Nat) :=
  (if j.inArgs o.addr 64 then [] else [(o.addr, 64)]) ++ (if o.d.dynDim = 0 then [] else [(o.d.bucketAddr, 8)]) ++ o.rowSpans ++ o.scaleRows

/-- The ranges read to learn a destination. -/
def Operand.descRanges (o : Operand) (j : Job) : List (Nat × Nat) :=
  (if j.inArgs o.addr 64 then [] else [(o.addr, 64)]) ++ (if o.d.dynDim = 0 then [] else [(o.d.bucketAddr, 8)])

end Sys2Proof.Machine
end

