-- ==== Sys2Proof/Machine/Admit.lean ====
section
/-! DEFINITION. Admission (R33-R38, R51, R62): what a job reads once, its strokes with their operands resolved, and the checks each stroke passes before any runs. -/
namespace Sys2Proof.Machine

/-! ## Descriptors (R37, R38) -/

def parseWait (w : Nat) : Wait :=
  { kind := match fld w 31 30 with | 0 => .none | 1 => .token | 2 => .mutex | _ => .counter, id := fld w 29 18, target := fld w 16 0 }

def parseSignal (w : Nat) : Signal :=
  { kind := match fld w 15 14 with | 0 => .none | 1 => .token | 2 => .release | _ => .add, id := fld w 11 0 }

/-- An operand replaced by the argument it names, when ARG_REL is set (R38). DESIGN CHOICE: bits 63:48 of what is left are part of the address, so that one that does not fit bits 47:0 lies in no region (log entry 104). -/
def resolveOpnd (args : List Byte) (v : Nat) : Nat := if bit v 63 then rdN args (v % 65536) 8 else v

/-- A stroke from its 64 bytes and the argument block (R37, R38). -/
def parseStroke (args b : List Byte) : Stroke :=
  { cls := rdN b 0 1, op := rdN b 1 1, splitOk := bit (rdN b 2 1) 0, barrier := bit (rdN b 2 1) 1, rt := bit (rdN b 2 1) 2,
    waits := (List.range 4).map (fun k => parseWait (rdN b (4 + 4 * k) 4)),
    signals := (List.range 4).map (fun k => parseSignal (rdN b (0x14 + 2 * k) 2)),
    param := rdN b 0x1C 4, opnds := (List.range 4).map (fun k => resolveOpnd args (rdN b (0x20 + 8 * k) 8)) }

/-- An ARG_REL operand whose offset is not a multiple of 8 or exceeds ARGS_LEN − 8 (R36). -/
def badArgRel (argsLen : Nat) (b : List Byte) : Bool :=
  (List.range 4).any (fun k => let v := rdN b (0x20 + 8 * k) 8; bit v 63 && (v % 8 != 0 || decide (argsLen < v % 65536 + 8)))

/-! ## The checks of R36 -/

/-- The operations of the classes (R36, R51, R58, R75, R76, R103, R110, R158, R160, R192, R220, R239, R248, R320). -/
def opDefined (cls op : Nat) : Bool :=
  let among (l : List Nat) : Bool := l.contains op
  match cls with
  | 0x01 => among [0x01, 0x02, 0x20]
  | 0x02 => among [1, 2, 3]
  | 0x03 => (decide (1 ≤ op) && decide (op ≤ 0x0B)) || (decide (0x10 ≤ op) && decide (op ≤ 0x1A)) || (decide (0x20 ≤ op) && decide (op ≤ 0x2A)) ||
    among [0x30, 0x31, 0x32, 0x33, 0x38, 0x39, 0x3A, 0x3C, 0x3D, 0x40, 0x41]
  | 0x04 => among [1, 2, 3, 8, 9, 0xA, 0x20]
  | 0x05 => among [1, 2, 3, 4, 8]
  | 0x06 => among [1, 2, 3, 4, 5, 8, 0x10]
  | 0x07 => among [1, 2, 3, 8, 9]
  | 0x08 => among [1, 2, 4, 5, 6, 7, 0x10, 0x11, 0x12]
  | 0x09 => among [1, 2, 3, 4]
  | 0x0F => among [1, 2, 3, 4]
  | _ => false

/-- A hatch operation that takes no Y, and one that takes no X (R110). -/
def takesNoY (op : Nat) : Bool :=
  (decide (0x07 ≤ op) && decide (op ≤ 0x19)) || (decide (0x20 ≤ op) && decide (op ≤ 0x24)) || [0x29, 0x33, 0x3A, 0x3C, 0x3D].contains op
def takesNoX (op : Nat) : Bool := [0x0A, 0x0B, 0x3C].contains op

/-- A PARAM bit that its operation reserves, or a non-zero operand where it requires 0, in an mm, hatch, move or sch stroke (R36). -/
def badParam (t : Stroke) : Bool :=
  let o (k : Nat) : Bool := t.opnds.getD k 0 != 0
  match t.cls, t.op with
  | 0x01, 0x20 => decide (4 ≤ t.param) || o 3
  | 0x01, _ => decide (4096 ≤ t.param) || fld t.param 2 0 == 6 || fld t.param 5 3 == 6 || fld t.param 8 6 == 6
  | 0x03, op => fld t.param 7 2 != 0 || (takesNoY op && o 1) || (takesNoX op && o 0)
  | 0x04, 0x01 => t.param != 0 || o 2 || o 3
  | 0x04, 0x20 => t.param != 0 || o 2 || o 3
  | 0x04, _ => o 2 || o 3
  | 0x0F, 0x01 => t.param == 0 || decide (16 < t.param)
  | 0x0F, 0x04 => decide (2 ^ 28 ≤ t.param) || o 0 || o 1 || o 2 || o 3
  | 0x0F, _ => t.param != 0 || o 0 || o 1 || o 2 || o 3
  | _, _ => false

/-- A semaphore number outside the partition's range, or one whose mode does not match (R36). -/
def badSem (s : State) (p n : Nat) (wantMutex : Bool) : Bool := decide ((s.part p).semCount ≤ n) || (s.semOf p n).mutex != wantMutex

/-- Signals on a token summed over all strokes of the job (R36). -/
def tokenTotal (ts : List Stroke) (id : Nat) : Nat := ((ts.flatMap (·.signals)).filter (fun g => g.kind = .token ∧ g.id = id)).length

def badWait (s : State) (p : Nat) (ts : List Stroke) (w : Wait) : Bool :=
  match w.kind with
  | .none => false
  | .token => decide (255 < w.id) || decide (tokenTotal ts w.id < w.target)
  | .mutex => badSem s p w.id true
  | .counter => badSem s p w.id false || decide (65535 < w.target)

def badSignal (s : State) (p : Nat) (g : Signal) : Bool :=
  match g.kind with
  | .none => false
  | .token => decide (255 < g.id)
  | .release => badSem s p g.id true
  | .add => badSem s p g.id false

/-- The bucket table of a sch.bucket stroke (R51). -/
def bucketTable (s : State) (t : Stroke) : List (Nat × Nat × Nat) :=
  if t.cls = 0x0F ∧ t.op = 0x01 ∧ !badParam t then
    (List.range t.param).map (fun k => let a := t.opnds.getD 1 0 + 8 * k; (s.numAt a 4, s.numAt (a + 4) 2, s.numAt (a + 6) 2))
  else []

/-- The bucket-table rules (R51, R52). -/
def badBuckets (count i : Nat) (l : List (Nat × Nat × Nat)) : Bool :=
  let n := l.length
  let e (k : Nat) : Nat × Nat × Nat := l.getD k (0, 0, 0)
  (List.range (n - 1)).any (fun k => decide ((e (k + 1)).1 ≤ (e k).1)) ||
  l.any (fun x => x.2.2 == 0 || decide (count < x.2.1 + x.2.2) || decide (x.2.1 ≤ i)) ||
  (List.range n).any (fun k => (l.drop (k + 1)).any (fun x => overlaps (e k).2.1 (e k).2.2 x.2.1 x.2.2))

/-- An integer operand paired with a float operand where both descriptors lie in the argument block (R62, R78). -/
def badPairing (s : State) (j : Job) (t : Stroke) : Bool :=
  t.cls == 0x01 && j.inArgs (t.opnds.getD 0 0) 64 && j.inArgs (t.opnds.getD 1 0) 64 &&
  (match Fmt.ofCode (s.operand j (t.opnds.getD 0 0)).d.fmtCode, Fmt.ofCode (s.operand j (t.opnds.getD 1 0)).d.fmtCode with
   | some a, some b => a.isInt != b.isInt
   | _, _ => false)

/-- A stroke that fails a check of R36; `raw` are its 64 bytes, `ts` all strokes of the job. -/
def badStroke (s : State) (j : Job) (ts : List Stroke) (i : Nat) (raw : List Byte) (t : Stroke) : Bool :=
  !opDefined t.cls t.op || badArgRel j.argsLen raw || badParam t ||
  t.waits.any (badWait s j.part ts) || t.signals.any (badSignal s j.part) ||
  (t.cls == 0x0F && t.op == 0x01 && badBuckets j.count i t.buckets) ||
  (t.cls == 0x0F && t.op == 0x04 && badSem s j.part (fld t.param 27 16) false) ||
  badPairing s j t

/-! ## The reads of admission (R35) -/

/-- A read that admission makes: the stroke it is for, if any, and its range. -/
structure AdmitRead where
  idx : Option Nat
  addr : Nat
  len : Nat
  /-- It is a read of the stroke table, the scheduler's own. -/
  table : Bool := false

/-- A job whose window entry fails: its kill, and its completion at once, since no unit holds it. -/
def killEntering (id status : Nat) : Plan := killAndFinish id status

/-- What a read of admission does when it fails; nothing when it succeeds (R35). -/
def admitRead (id : Nat) (ans : HostAnswer) (r : AdmitRead) : Plan := fun s =>
  let j := s.job id
  if j.phase ≠ .entering || r.len = 0 then []
  else
    let stroke := (r.idx.map j.tableIndex).getD 0
    match (if r.table then Access.ok else s.judge j.part true r.addr r.len) with
    | .refused g => Plan.andThen (match g with | some g => raiseErr (pgPS g) 2 [] | none => Plan.skip) (killEntering id 0x30) s
    | .late g => Plan.seq [raiseErr (pgPS g) 3 [], bump pgPLT 0x118 1, killEntering id 0x30] s
    | .retry _ => []
    | .ok =>
      if regionOf r.addr r.len = .host ∧ ans ≠ .ok then Plan.andThen (hostReadFail id ans) (releaseKilled id) s
      else match s.badWordIn r.addr r.len with
        | some w => Plan.andThen (plateDetect (segOf w) (w - plateBase - segOf w * segSize) 0 j.fn stroke j.part true false 0) (killEntering id 0x31) s
        | none =>
          if s.meetsPoison r.addr r.len then Plan.andThen (poisonRead { cls := 6, fn := j.fn, stroke := stroke } r.addr) (killEntering id 0x30) s
          else gddrTouch r.addr r.len s

/-- The strokes of a job as the table and the argument block give them. -/
def readStrokes (s : State) (j : Job) (args : List Byte) : List (List Byte × Stroke) :=
  (List.range j.count).map (fun i =>
    let raw := s.bytesAt (s.tableBase + 64 * (j.first + i)) 64
    let t := parseStroke args raw
    (raw, { t with buckets := bucketTable s t }))

/-- The reads of a job: its argument block, its descriptors, and its bucket tables. -/
def admitReads (s : State) (j : Job) (l : List (List Byte × Stroke)) : List AdmitRead :=
  { idx := none, addr := j.argsAddr, len := j.argsLen } :: { idx := none, addr := s.tableBase + 64 * j.first, len := 64 * j.count, table := true } ::
    (l.mapIdx (fun i x => ({ idx := some i, addr := x.2.opnds.getD 1 0, len := 8 * x.2.buckets.length } : AdmitRead))).filter (fun r => r.len != 0)

/-- Completions held on chip (R32 code 0x0E). -/
def State.heldCqes (s : State) : List Cqe := s.queues.flatMap (·.2.held)

/-- Window chunks held by the jobs of a partition, and by all: a job's are free when its completion is posted (R34, R36, R53). -/
def State.chunksOf (s : State) (p : Nat) : Nat :=
  ((s.jobs.filter (fun e => e.2.part == p)).map (·.2.chunks)).foldl (· + ·) 0 + ((s.heldCqes.filter (fun c => c.part == p)).map (·.chunks)).foldl (· + ·) 0
def State.chunksAll (s : State) : Nat := (s.jobs.map (·.2.chunks)).foldl (· + ·) 0 + (s.heldCqes.map (·.chunks)).foldl (· + ·) 0

/-- A job of the same queue was fetched before and still waits for admission (R34). -/
def State.waitsBehind (s : State) (id : Nat) : Bool :=
  s.jobs.any (fun e => decide (e.1 < id) && e.2.phase = .entering && e.2.queue == (s.job id).queue)

/-- A malformed stroke: the result slot is free again, and the job completes with REJECTED_FORMAT (R36, R32 code 0x08). -/
def rejectStroke (id : Nat) : Plan := fun s =>
  let j := s.job id
  Plan.seq [
    (match j.slot with | some g => fun s => [.slots g { Tab.get {} s.slots g with state := .free }] | none => Plan.skip),
    violation j.fn 0x08 (s.queueLocal j.queue), rejectJob id 0x20] s

/-- JOB_ADMIT: a job that may start takes its window chunks, reads its argument block, strokes and bucket tables once, and runs if every stroke passes (R34-R36). -/
def jobAdmit (id : Nat) (ans : HostAnswer) : Plan := fun s =>
  let j := s.job id
  let need := j.chunksNeeded
  if j.phase ≠ .entering || j.killed.isSome || s.waitsBehind id || (j.ordered && !s.earlierDone id) ||
      decide ((s.part j.part).window < s.chunksOf j.part + need) || decide (1024 < s.chunksAll + need) then []
  else
    let args := s.bytesAt j.argsAddr j.argsLen
    let l := readStrokes s j args
    let rs := admitReads s j l
    if rs.any (fun r => !r.table && match s.judge j.part true r.addr r.len with | .retry _ => true | _ => false) then []
    else
      Plan.andThen (Plan.each rs (admitRead id ans)) (Plan.look (fun s1 =>
        let j := s1.job id
        if j.phase ≠ .entering || j.killed.isSome then Plan.skip
        else
          let ja := { j with args := args }
          let ts := l.map (·.2)
          if (l.mapIdx (fun i x => badStroke s ja ts i x.1 x.2)).any (fun b => b) then rejectStroke id
          else Plan.andThen (fun s => [.jobs id { ja with phase := .running, strokes := ts, chunks := need, changed := s.ticks, entry := s.entries },
              .entries (s.entries + 1)]) settle)) s

def execJobAdmit (job : Nat) (ans : HostAnswer) (s : State) : Host.Outcome State Fault Refusal := Plan.done (jobAdmit job ans) s

end Sys2Proof.Machine
end

