-- ==== Sys2Proof/Machine/Attention.lean ====
section
/-! DEFINITION. The attn operations (07_attention.md): the length table, rings and masks (R116-R126), attn.fwd (R128, R129), attn.kvwrite (R131), attn.bwd (R134, R135),
(R130 bounds what the steps of R128 give,) the dealing of items to shares (R132), the placement checks (R136) and the sequencer state of a pre-empted stroke (R137). -/
namespace Sys2Proof.Machine

/-- The attention parameter block (R118). -/
structure AttnBlock where
  lenTable : Nat
  entries : Nat
  lse : Nat
  scale : Nat
  win : Nat
  mask : Nat
  hq : Nat
  hkv : Nat
  dsel : Nat
  oDesc : Nat
  dqDesc : Nat
  dkBase : Nat
  dvBase : Nat

def parseAttn (b : List Byte) : AttnBlock :=
  { lenTable := rdN b 0 6, entries := rdN b 6 2, lse := rdN b 8 6, scale := rdN b 0x10 4, win := rdN b 0x14 4,
    mask := fld (rdN b 0x18 1) 1 0, hq := rdN b 0x19 1, hkv := rdN b 0x1A 1, dsel := fld (rdN b 0x1B 1) 1 0,
    oDesc := rdN b 0x20 6, dqDesc := rdN b 0x28 6, dkBase := rdN b 0x30 6, dvBase := rdN b 0x38 6 }

/-- The key/value layout block (R121). -/
structure KvBlock where
  kBase : Nat
  vBase : Nat
  kShift : Nat
  vShift : Nat
  fmtCode : Nat
  contiguous : Bool
  slots : Nat
  rings : Nat

def parseKv (b : List Byte) : KvBlock :=
  { kBase := rdN b 0 6, vBase := rdN b 8 6, kShift := rdN b 0x10 6, vShift := rdN b 0x18 6, fmtCode := rdN b 0x20 1,
    contiguous := bit (rdN b 0x21 1) 0, slots := rdN b 0x24 4, rings := rdN b 0x28 4 }

/-- A length-table entry (R119) with its index. -/
structure LenEntry where
  idx : Nat
  qStart : Nat
  qLen : Nat
  ring : Nat
  kvLen : Nat
  skip : Bool
  deriving DecidableEq, Repr

/-- Everything an attn stroke works from. -/
structure Attn where
  s : State
  j : Job
  t : Stroke
  pb : AttnBlock
  kv : KvBlock
  table : List LenEntry
  x : Operand
  y : Operand

/-- The length table, read whole at placement (R120). -/
def AttnBlock.tableBytes (pb : AttnBlock) : Nat := 16 * min pb.entries 16384

def readTable (bytes : List Byte) (pb : AttnBlock) : List LenEntry :=
  (List.range (min pb.entries 16384)).map (fun i =>
    let b := bytes.drop (16 * i)
    { idx := i, qStart := rdN b 0 4, qLen := rdN b 4 2, ring := rdN b 6 2, kvLen := rdN b 8 4, skip := bit (rdN b 0xC 4) 0 })

/-- The structures of a stroke, from what its sequencer read at placement (R78, R120). -/
def attnOf (s : State) (j : Job) (t : Stroke) : Attn :=
  let pb := parseAttn (s.structAt t.structs (t.opnds.getD 3 0) 64)
  { s := s, j := j, t := t, pb := pb, kv := parseKv (s.structAt t.structs (t.opnds.getD 1 0) 64),
    table := readTable (s.structAt t.structs pb.lenTable pb.tableBytes) pb,
    x := s.operandSeen j t.structs (t.opnds.getD 0 0), y := s.operandSeen j t.structs (t.opnds.getD 2 0) }

def Attn.d (a : Attn) : Nat := 64 * 2 ^ a.pb.dsel
/-- Query heads of one key/value head. -/
def Attn.group (a : Attn) : Nat := a.pb.hq / a.pb.hkv
def Attn.fmt (a : Attn) : Fmt := (Fmt.ofCode a.kv.fmtCode).getD .bf16
/-- The entries that carry work (R119). -/
def Attn.live (a : Attn) : List LenEntry := a.table.filter (fun e => !e.skip)
def Attn.working (a : Attn) : List LenEntry := a.live.filter (fun e => e.qLen != 0)
def Attn.parts (a : Attn) : Nat := fld a.t.param 4 0
def Attn.part (a : Attn) : Nat := fld a.t.param 11 8

/-! ## Layouts and masks (R120-R125) -/

/-- The number of a row in the key area (R122, R123). -/
def Attn.rowIndex (a : Attn) (r g p : Nat) : Nat :=
  if a.kv.contiguous then (r * a.kv.slots + p) * a.pb.hkv + g else (r * a.pb.hkv + g) * a.kv.slots + p % a.kv.slots

/-- Rows of a key, value or shift area (R136). -/
def Attn.areaRows (a : Attn) : Nat := a.kv.rings * a.kv.slots * a.pb.hkv

/-- The lowest resident position of an entry (R124). -/
def Attn.resLo (a : Attn) (e : LenEntry) : Nat := if a.kv.contiguous then 0 else e.kvLen - a.kv.slots

/-- The position of query `i` (R120). -/
def qPos (e : LenEntry) (i : Nat) : Int := (e.kvLen : Int) - e.qLen + i

/-- The positions that the mask admits for a query position, resident or not: from the first to before the second (R125). -/
def Attn.maskRange (a : Attn) (e : LenEntry) (q : Int) : Nat × Nat :=
  match a.pb.mask with
  | 0 => (0, e.kvLen)
  | 1 => (0, (min (q + 1) e.kvLen).toNat)
  | _ => ((q - a.pb.win + 1).toNat, (min (q + 1) e.kvLen).toNat)

/-- The resident positions admitted (R124, R125). -/
def Attn.admitted (a : Attn) (e : LenEntry) (q : Int) : Nat × Nat :=
  let m := a.maskRange e q
  (max m.1 (a.resLo e), m.2)

/-- A row loses a key to residency (R124). -/
def Attn.truncated (a : Attn) (e : LenEntry) (q : Int) : Bool :=
  let m := a.maskRange e q
  decide (m.1 < min m.2 (a.resLo e))

/-- A range of positions meets a block of 128. -/
def meetsBlock (r : Nat × Nat) (b : Nat) : Bool := decide (r.1 < r.2) && decide (r.1 < 128 * b + 128) && decide (128 * b < r.2)

/-! ## Items, tiles and shares (R132) -/

/-- One entry with one key/value head. -/
structure Item where
  e : LenEntry
  g : Nat
  deriving DecidableEq, Repr

/-- Row tiles of an item: 128 virtual rows each. -/
def Attn.tileCount (a : Attn) (it : Item) : Nat := cdiv (it.e.qLen * a.group) 128

/-- The virtual rows of a row tile, as query and head. -/
def Attn.tileRows (a : Attn) (it : Item) (tile : Nat) : List (Nat × Nat) :=
  (List.range (min 128 (it.e.qLen * a.group - 128 * tile))).map (fun k =>
    let v := 128 * tile + k
    (v / a.group, it.g * a.group + v % a.group))

/-- The blocks of a row tile's walk. -/
def Attn.walk (a : Attn) (it : Item) (tile : Nat) : List Nat :=
  let rs := (a.tileRows it tile).map (fun r => a.admitted it.e (qPos it.e r.1))
  (List.range (cdiv it.e.kvLen 128)).filter (fun b => rs.any (fun r => meetsBlock r b))

def Attn.cost (a : Attn) (it : Item) : Nat := ((List.range (a.tileCount it)).map (fun t => (a.walk it t).length)).foldl (· + ·) 0

/-- The items, highest cost first, ties to the lower entry and the lower head. -/
def Attn.items (a : Attn) : List (Item × Nat) :=
  let l := a.working.flatMap (fun e => (List.range a.pb.hkv).map (fun g => let it : Item := { e := e, g := g }; (it, a.cost it)))
  l.foldr (fun x acc => acc.takeWhile (fun y => decide (x.2 < y.2)) ++ x :: acc.dropWhile (fun y => decide (x.2 < y.2))) []

/-- The share with the least load, the lowest of equals. -/
def leastLoad (l : List Nat) : Nat :=
  (l.mapIdx (fun i v => (i, v))).foldl (fun b x => if x.2 < l.getD b 0 then x.1 else b) 0

/-- Deals the list and keeps the items of one share, in list order. -/
def deal (part : Nat) : List (Item × Nat) → List Nat → List Item
  | [], _ => []
  | x :: xs, loads =>
    let p := leastLoad loads
    let rest := deal part xs (loads.set p (loads.getD p 0 + x.2))
    if p = part then x.1 :: rest else rest

def Attn.share (a : Attn) : List Item := deal a.part a.items (List.replicate a.parts 0)

/-! ## Elements -/

/-- A stored row of an area: D values as the array reads them, and its shift. -/
def Attn.stored (a : Attn) (base r g p : Nat) : List FVal :=
  let rb := a.d * a.fmt.bytes
  (List.range a.d).map (fun k => decodeElem a.fmt (a.s.numAt (base + a.rowIndex r g p * rb + k * a.fmt.bytes) a.fmt.bytes))

def Attn.storedShift (a : Attn) (base r g p : Nat) : Int := if base = 0 then 0 else toSigned 8 (a.s.numAt (base + a.rowIndex r g p) 1)

/-- A row of Q, O or dO: D raw codes' values. -/
def Attn.rowOf (a : Attn) (o : Operand) (row h : Nat) : List FVal :=
  (List.range a.d).map (fun k => decodeElem o.fmt (o.code a.s [k, h, row, 0]))

/-- The column sum of one chunk: products in ascending order from +0, padded rows adding +0 (R59, R60). -/
def colSum (x y : List FVal) : FVal :=
  let r := (List.zipWith FVal.mul x y).foldl FVal.add FVal.zero
  if x.length < 128 then r.add .zero else r

/-- A dot product in chunks of 128 (R59, R81). -/
def dotChunks (x y : List FVal) : FVal :=
  (List.range (cdiv x.length 128)).foldl (fun acc c => acc.add (colSum ((x.drop (128 * c)).take 128) ((y.drop (128 * c)).take 128))) FVal.zero

/-- LOG2E of R128. -/
def log2e : FVal := ofBits32 0x3FB8AA3B

/-- 1 / l with 1 / 1 exact, and ln l with ln 1 = +0 exact (R126, R128). -/
def attnRecip (l : FVal) : FVal := if l.eqNum (.fin false 1 0) then .fin false 1 0 else l.recip
def attnLn (l : FVal) : FVal := if l.eqNum (.fin false 1 0) then .zero else l.log

/-- The scores of a row over the admitted positions of a block, by position (R128). -/
def Attn.scores (a : Attn) (it : Item) (q : List FVal) (sq : Int) (adm : Nat × Nat) (b : Nat) : List (Nat × FVal) :=
  ((List.range 128).map (· + 128 * b)).filterMap (fun p =>
    if adm.1 ≤ p ∧ p < adm.2 then
      let c := dotChunks q (a.stored a.kv.kBase it.e.ring it.g p)
      some (p, ((c.scale (sq + a.storedShift a.kv.kShift it.e.ring it.g p)).r32).mul (ofBits32 a.pb.scale))
    else none)

/-- A value rounded into a format and read back. -/
def roundTo (f : Fmt) (v : FVal) : FVal := decodeElem f (convert f v).bits

/-- The probabilities of a block as they enter the array, with the shift of the row and block (R127). -/
def Attn.probs (a : Attn) (p : List FVal) (sv : List Int) : List FVal × Int :=
  match a.fmt with
  | .bf16 => (p.map (roundTo .bf16), 0)
  | .fp16 => (p.map (roundTo .fp16), 0)
  | _ =>
    let x := List.zipWith (fun v k => v.scale k) p sv
    let s := blockShift .e4m3 x
    (x.map (fun v => decodeElem .e4m3 (convertCode .e4m3 (v.scale (-s))).bits), s)

/-- The running state of one query row (R128). -/
structure RowAcc where
  m : FVal := .inf true
  l : FVal := .zero
  acc : List FVal
  bad : Bool := false

/-- One key block of one row. -/
def Attn.rowBlock (a : Attn) (it : Item) (q : List FVal) (sq : Int) (adm : Nat × Nat) (st : RowAcc) (b : Nat) : RowAcc :=
  let sc := a.scores it q sq adm b
  let bad := st.bad || sc.any (fun x => x.2.isNan || x.2 == .inf false)
  let mb := sc.foldl (fun m x => if m.lt x.2 then x.2 else m) (FVal.inf true)
  let st := if st.m.lt mb then
      let alpha := (((st.m.sub mb).mul log2e)).exp2
      { st with acc := st.acc.map (fun v => v.mul alpha), l := st.l.mul alpha, m := mb }
    else st
  let resident := ((List.range 128).map (· + 128 * b)).filter (fun p => decide (a.resLo it.e ≤ p) && decide (p < it.e.kvLen))
  let pAt (p : Nat) : FVal :=
    match sc.find? (fun x => x.1 == p) with
    | none => .zero
    | some x => if x.2 = .inf true then .zero else (((x.2.sub st.m).mul log2e)).exp2
  let l := st.l.add (sumRow ((List.range 128).map (fun k => pAt (128 * b + k))))
  let pr := a.probs (resident.map pAt) (resident.map (fun p => a.storedShift a.kv.vShift it.e.ring it.g p))
  let vs := resident.map (fun p => a.stored a.kv.vBase it.e.ring it.g p)
  let acc := st.acc.mapIdx (fun k v =>
    let c := colSum pr.1 (vs.map (fun r => r.getD k .zero))
    v.add (if pr.2 = 0 then c else (c.scale pr.2).r32))
  { st with l := l, acc := acc, bad := bad }
where
  /-- The sum of a block in the order of R108. -/
  sumRow (r : List FVal) : FVal := pairTree 7 (r.map (fun v => FVal.zero.add v))
  /-- Adjacent pairs, then pairs of those. -/
  pairTree : Nat → List FVal → FVal
    | 0, l => l.headD .zero
    | n + 1, l => pairTree n ((List.range (l.length / 2)).map (fun k => (l.getD (2 * k) .zero).add (l.getD (2 * k + 1) .zero)))

/-- What one query row comes to: its output values, its statistic, and whether it is empty (R126, R128, R129). -/
structure RowResult where
  out : List FVal
  lse : Nat
  empty : Bool

/-- The running state of a row after some blocks of its walk, from a running state (R128). -/
def Attn.fwdState (a : Attn) (it : Item) (blocks : List Nat) (i h : Nat) (st : RowAcc) : RowAcc :=
  let row := it.e.qStart + i
  let q := a.rowOf a.x row h
  let sq := if a.x.d.scaleMode = 3 then a.x.shift a.s [0, h, row, 0] else 0
  blocks.foldl (a.rowBlock it q sq (a.admitted it.e (qPos it.e i))) st

def Attn.newRow (a : Attn) : RowAcc := { acc := List.replicate a.d .zero }

/-- The row's results once its walk has ended. -/
def Attn.fwdRow (a : Attn) (st : RowAcc) : RowResult :=
  if st.bad then { out := List.replicate a.d .nan, lse := 0x7FC00000, empty := false }
  else if st.m = .inf true then { out := List.replicate a.d .zero, lse := 0xFF800000, empty := true }
  else
    let r := attnRecip st.l
    { out := st.acc.map (fun v => v.mul r), lse := (st.m.add (attnLn st.l)).bits32, empty := false }

/-- Writes one row of a tensor as its descriptor says: R97, or R100 with the row as one block. -/
def writeRow (s : State) (o : Operand) (h row : Nat) (vals : List FVal) : TensorOut :=
  let i := [0, h, row, 0]
  let at_ := o.rowAddr i
  if o.d.scaleMode = 0 then
    let c := vals.map (convert o.fmt)
    { writes := [(at_, packRow o.fmt (c.map (·.bits)) (s.numAt (at_ + o.rowBytes - 1) 1))], sat := (c.filter (·.sat)).length, nan := (c.filter (·.nanInt)).length }
  else
    let sh := blockShift o.fmt vals
    let c := vals.map (fun v => convertCode o.fmt (v.scale (-sh)))
    { writes := [(at_, packRow o.fmt (c.map (·.bits)) 0), (o.d.scaleBase + o.scaleOff i, [BitVec.ofNat 8 (ofSigned 8 sh)])],
      sat := (c.filter (·.sat)).length, nan := (c.filter (·.nanInt)).length }

/-- Several writes as one. -/
def joinOuts (l : List TensorOut) : TensorOut :=
  { writes := (l.map (·.writes)).flatten, sat := (l.map (·.sat)).foldl (· + ·) 0, nan := (l.map (·.nan)).foldl (· + ·) 0 }

/-! ## Placement checks (R136) -/

/-- A byte range as base and length. -/
abbrev Span := Nat × Nat

def Attn.kvSpans (a : Attn) : List Span :=
  let n := a.areaRows
  let rb := a.d * a.fmt.bytes
  [(a.kv.kBase, n * rb), (a.kv.vBase, n * rb)] ++ (if a.kv.kShift = 0 then [] else [(a.kv.kShift, n)]) ++ (if a.kv.vShift = 0 then [] else [(a.kv.vShift, n)])

def Attn.rows (a : Attn) : Nat := a.x.e 2

def Attn.tableSpan (a : Attn) : Span := (a.pb.lenTable, 16 * a.pb.entries)

def Attn.lseSpan (a : Attn) : List Span := if a.pb.lse = 0 then [] else [(a.pb.lse, a.rows * a.pb.hq * 4)]

def Attn.oOp (a : Attn) : Operand := a.s.operandSeen a.j a.t.structs a.pb.oDesc
def Attn.dqOp (a : Attn) : Operand := a.s.operandSeen a.j a.t.structs a.pb.dqDesc

/-- The descriptors of a stroke, with the extent of dimension 1 of each. -/
def Attn.descs (a : Attn) (op : Nat) : List (Operand × Nat) :=
  match op with
  | 1 => [(a.x, a.pb.hq), (a.y, a.pb.hq)]
  | 2 => [(a.x, a.pb.hq), (a.y, a.pb.hq), (a.oOp, a.pb.hq), (a.dqOp, a.pb.hq)]
  | _ => [(a.x, a.pb.hkv), (a.y, a.pb.hkv)]

def opSpans (o : Operand) : List Span := [o.span] ++ (if o.d.scaleMode = 0 then [] else [o.scaleSpan])

/-- What a stroke writes, and what it reads (R136 check 23). -/
def Attn.written (a : Attn) (op : Nat) : List Span :=
  match op with
  | 1 => opSpans a.y ++ a.lseSpan
  | 2 => opSpans a.dqOp ++ [(a.pb.dkBase, a.areaRows * a.d * 4), (a.pb.dvBase, a.areaRows * a.d * 4)]
  | _ => a.kvSpans

def Attn.readSpans (a : Attn) (op : Nat) : List Span :=
  [a.tableSpan, (a.t.opnds.getD 3 0, 64), (a.t.opnds.getD 1 0, 64)] ++ ((a.descs op).map (fun o => o.1.descRanges a.j)).flatten ++
  match op with
  | 1 => opSpans a.x ++ a.kvSpans
  | 2 => opSpans a.x ++ opSpans a.y ++ opSpans a.oOp ++ a.kvSpans ++ a.lseSpan
  | _ => opSpans a.x ++ opSpans a.y

def spansMeet (x y : Span) : Bool := overlaps x.1 x.2 y.1 y.2

def selfMeet : List Span → Bool
  | [] => false
  | x :: xs => xs.any (spansMeet x) || selfMeet xs

/-- Rows of two entries overlap. -/
def entriesOverlap : List LenEntry → Bool
  | [] => false
  | e :: es => es.any (fun f => overlaps e.qStart e.qLen f.qStart f.qLen) || entriesOverlap es

/-- A format or shift outside R127. -/
def Attn.badFormat (a : Attn) (op : Nat) : Bool :=
  let half (o : Operand) : Bool := (o.fmt == .bf16 || o.fmt == .fp16) && o.d.scaleMode == 0
  let f8 (o : Operand) : Bool := o.fmt == .e4m3 || o.fmt == .e5m2
  let sc (o : Operand) (narrow : Bool) : Bool := o.d.scaleMode == 0 || (narrow && o.d.scaleMode == 3 && o.d.scaleAxis == 0)
  match op with
  | 1 => !((f8 a.x || a.x.fmt == .bf16 || a.x.fmt == .fp16) && sc a.x (f8 a.x)) ||
         !((f8 a.y || a.y.fmt == .int8 || a.y.fmt == .bf16 || a.y.fmt == .fp16 || a.y.fmt == .fp32) && sc a.y (f8 a.y || a.y.fmt == .int8))
  | 2 => !half a.x || !half a.y || !half a.oOp || !(a.fmt == .bf16 || a.fmt == .fp16) || a.kv.kShift != 0 || a.kv.vShift != 0 ||
         a.dqOp.fmt != .fp32 || a.dqOp.d.scaleMode != 0
  | _ => a.x.badScale || a.y.badScale

/-- The bytes that DESC_CRC covers (R137). -/
def Attn.structs (a : Attn) (op : Nat) : List Byte :=
  let seen := a.t.structs
  a.s.structAt seen (a.t.opnds.getD 3 0) 64 ++ a.s.structAt seen (a.t.opnds.getD 1 0) 64 ++
    ((a.descs op).map (fun o => descBytes a.s a.j seen o.1.addr)).flatten ++ a.s.structAt seen a.pb.lenTable a.pb.tableBytes

/-- The structures of an attn stroke: addresses and lengths (R78, R120). -/
def attnAddrs (s : State) (j : Job) (t : Stroke) : List Span :=
  let a := attnOf s j t
  [(t.opnds.getD 3 0, 64), (t.opnds.getD 1 0, 64), (a.pb.lenTable, a.pb.tableBytes)] ++ ((a.descs t.op).map (fun o => o.1.descRanges j)).flatten

def powerOfTwo (n : Nat) : Bool := n != 0 && 2 ^ Nat.log2 n == n

/-- The lowest failing check of an attn stroke (R136, R402). -/
def Attn.check (a : Attn) (op : Nat) : Option Nat :=
  let ds := a.descs op
  let dyn := ds.any (fun o => o.1.dynBad)
  let p := a.j.part
  let dsts := match op with | 1 => [a.y] | 2 => [a.dqOp] | _ => []
  let sc := ofBits32 a.pb.scale
  lowest [
    failIf (ds.any (fun o => o.1.bad2)) 2,
    failIf (!dyn && dsts.any (fun o => o.bad10)) 10,
    failIf dyn 11,
    failIf (fld a.t.param 7 5 != 0 || fld a.t.param 31 12 != 0 || a.parts == 0 || decide (16 < a.parts) || decide (a.parts ≤ a.part) || a.pb.mask == 3 ||
      a.pb.dsel == 3 || a.pb.hq == 0 || decide (128 < a.pb.hq) || a.pb.hkv == 0 || decide (128 < a.pb.hkv) || a.pb.hq % (max 1 a.pb.hkv) != 0) 16,
    failIf (a.pb.entries == 0 || decide (16384 < a.pb.entries) || a.pb.lenTable % 16 != 0) 17,
    failIf (!dyn && (a.working.any (fun e => decide (a.rows < e.qStart + e.qLen)) || entriesOverlap a.live)) 18,
    failIf (a.live.any (fun e => decide (a.kv.rings ≤ e.ring) || decide (16777216 < e.kvLen) || (a.kv.contiguous && decide (a.kv.slots < e.kvLen)))) 19,
    failIf (decide (a.kv.fmtCode < 3) || decide (6 < a.kv.fmtCode) || a.kv.rings == 0 || decide (65536 < a.kv.rings) ||
      (if a.kv.contiguous then a.kv.slots == 0 || decide (16777216 < a.kv.slots) else !(powerOfTwo a.kv.slots && decide (128 ≤ a.kv.slots) && decide (a.kv.slots ≤ 65536))) ||
      ((a.kv.kShift != 0 || a.kv.vShift != 0) && decide (4 < a.kv.fmtCode))) 20,
    failIf ((!dyn && ds.any (fun o => o.1.e 0 != a.d || o.1.e 1 != o.2 || o.1.e 2 != a.rows)) ||
      ds.any (fun o => o.1.d.rank != 3 || decide (3 < o.1.d.dynDim) || (Fmt.ofCode o.1.d.fmtCode).isNone || decide (4 < o.1.d.scaleMode)) || a.badFormat op) 21,
    failIf (!a.s.placeOk p a.tableSpan.1 a.tableSpan.2 || (!dyn && ds.any (fun o => o.1.bad3 a.s p)) || a.kvSpans.any (fun x => !a.s.placeOk p x.1 x.2) ||
      (!dyn && a.lseSpan.any (fun x => !a.s.placeOk p x.1 x.2)) ||
      (op == 2 && [a.pb.dkBase, a.pb.dvBase].any (fun b => !a.s.placeOk p b (a.areaRows * a.d * 4)))) 22,
    failIf (!dyn && (selfMeet (a.written op) || (a.written op).any (fun x => (a.readSpans op).any (spansMeet x)))) 23,
    failIf ((op == 2 && (a.pb.lse == 0 || !(a.live.map (·.ring)).Nodup)) || (op == 3 && !(a.live.map (·.ring)).Nodup)) 24,
    failIf (!sc.isFinite || !FVal.zero.lt sc || sc.eqNum .zero || (a.pb.mask == 2 && a.pb.win == 0)) 25,
    failIf (a.t.resumed && a.t.descCrc != some (crc32c (a.structs op))) 26]

/-! ## The operations -/

/-- The reads that every attn stroke makes before its work. -/
def Attn.headReads (a : Attn) (op : Nat) : List Span :=
  [(a.t.opnds.getD 3 0, 64), (a.t.opnds.getD 1 0, 64), a.tableSpan] ++ ((a.descs op).map (fun o => o.1.descRanges a.j)).flatten

/-- The stored rows of the blocks of a walk that an item reads: in a ring the consecutive rows of a block together, so that they come as whole 128 B accesses; each row by itself in the other layout (R122, R123). -/
def Attn.kvReads (a : Attn) (it : Item) : List Span :=
  let bs := ((List.range (a.tileCount it)).flatMap (a.walk it)).dedup
  let rb := a.d * a.fmt.bytes
  let read (k n : Nat) : List Span :=
    [(a.kv.kBase + k * rb, n * rb), (a.kv.vBase + k * rb, n * rb)] ++ (if a.kv.kShift = 0 then [] else [(a.kv.kShift + k, n)]) ++
      (if a.kv.vShift = 0 then [] else [(a.kv.vShift + k, n)])
  bs.flatMap (fun b =>
    let lo := max (128 * b) (a.resLo it.e)
    let n := min (128 * b + 128) it.e.kvLen - lo
    if n = 0 then []
    else if a.kv.contiguous then (List.range n).flatMap (fun q => read (a.rowIndex it.e.ring it.g (lo + q)) 1)
    else read (a.rowIndex it.e.ring it.g lo) n)

/-- The query rows of an item, as query, head and row. -/
def Attn.itemRows (a : Attn) (it : Item) : List (Nat × Nat) := (List.range (a.tileCount it)).flatMap (a.tileRows it)

def Attn.rowSpan (a : Attn) (o : Operand) (it : Item) (r : Nat × Nat) : Span := (o.rowAddr [0, r.2, it.e.qStart + r.1, 0], a.d * o.fmt.bytes)

/-- The counters of a cluster after an attn stroke. -/
def attnCounters (n units empty trunc : Nat) (o : TensorOut) : Plan :=
  Plan.seq [bumpWrap (pgBC n) 0x148 units, bump (pgBC n) 0x14C empty, bump (pgBC n) 0x150 trunc, bump (pgBC n) 0x134 o.sat, bump (pgBC n) 0x138 o.nan]

def Attn.units (a : Attn) (l : List Item) : Nat := (l.map a.cost).foldl (· + ·) 0

/-- Rows of a list of items that lose keys to residency, counted per head (R124). -/
def Attn.truncRows (a : Attn) (l : List Item) : Nat :=
  (l.map (fun it => ((a.itemRows it).filter (fun r => a.truncated it.e (qPos it.e r.1))).length)).foldl (· + ·) 0

/-! ## Level-2 tiles (R137) -/

/-- Cuts a list into runs of 16, keeping the first of each and its length. -/
def runs16 : Nat → List Nat → List (Nat × Nat)
  | 0, _ => []
  | fuel + 1, l =>
    match l with
    | [] => []
    | x :: _ => (x, min 16 l.length) :: runs16 fuel (l.drop 16)

/-- The level-2 tiles of a share: item position, row tile or key block, next block or row tile, and units (R137). -/
def Attn.levelTiles (a : Attn) : List (Nat × Nat × Nat × Nat) :=
  (a.share.mapIdx (fun i it =>
    if a.t.op = 1 then
      (List.range (a.tileCount it)).flatMap (fun tile => let w := a.walk it tile; (runs16 (w.length + 1) w).map (fun r => (i, tile, r.1, r.2)))
    else if a.t.op = 2 then
      (List.range (cdiv it.e.kvLen 128)).flatMap (fun b =>
        let w := (List.range (a.tileCount it)).filter (fun tile => (a.walk it tile).contains b)
        (runs16 (w.length + 1) w).map (fun r => (i, b, r.1, r.2)))
    else [])).flatten

/-- Where a stroke stands: the item, its row tile or key block, and the next block or row tile of that. -/
structure AttnPos where
  item : Nat
  tile : Nat
  next : Nat

/-- The position when `done` level-2 tiles have ended. -/
def Attn.posAt (a : Attn) (done : Nat) : AttnPos :=
  if done = 0 then { item := 0, tile := 0, next := 0 }
  else match a.levelTiles[done]? with
    | some x => { item := x.1, tile := x.2.1, next := x.2.2.1 }
    | none => { item := a.share.length, tile := 0, next := 0 }

/-- A row tile or key block of an item lies before a position. -/
def AttnPos.after (p : AttnPos) (item tile : Nat) : Bool := decide (item < p.item) || (item == p.item && decide (tile < p.tile))

/-- Units completed when `done` level-2 tiles have ended. -/
def Attn.unitsAt (a : Attn) (done : Nat) : Nat := ((a.levelTiles.take done).map (fun y => y.2.2.2)).foldl (· + ·) 0

/-- Units between the boundary at which the stroke was placed and another, or its end. -/
def Attn.unitsTo (a : Attn) (hi : Option Nat) : Nat :=
  (match hi with | none => a.units a.share | some d => a.unitsAt d) - a.unitsAt a.t.tilesDone

/-- The 96 B of sequencer state after `done` level-2 tiles (R137). -/
def Attn.seqBytes (a : Attn) (done : Nat) : List Byte :=
  let x := a.posAt done
  leBytes 1 2 ++ leBytes 1 a.t.op ++ leBytes 1 (a.parts % 32) ++ leBytes 1 (a.part % 16) ++ leBytes 4 x.item ++ leBytes 4 x.tile ++ leBytes 4 x.next ++
    leBytes 4 (a.unitsAt done) ++ leBytes 4 (a.t.descCrc.getD 0) ++ zeros 72

/-- A word of the accumulator tiles read back at the resumption: tile, row and word (R49, R137). -/
def Attn.loaded (a : Attn) (tile row word : Nat) : FVal := ofBits32 (rdN a.t.loaded (tile * 65536 + row * 512 + word * 4) 4)

/-- The bytes of saved accumulator tiles: 128 rows of 128 words each; a word that the stroke has not written is a free value (R49). -/
def accTileBytes (f ncol : Nat) (word : Nat → Nat → Option Nat) : List Byte :=
  (List.range 128).flatMap (fun r => (List.range ncol).flatMap (fun c => leBytes 4 ((word r c).getD (f / 2 ^ (32 * (r * ncol + c)) % 2 ^ 32))))

/-- The parity paths that a stroke with work meets checks of (R71). -/
def Attn.paths (a : Attn) : List Nat := if a.share.isEmpty then [] else [4, 1, 2, 0, 3]

/-! ## The forward pass -/

/-- The row of a row tile at the position at which the stroke was placed: as read back, or new; a NaN maximum marks a row with a NaN or +∞ score (R129, R137). -/
def Attn.startRow (a : Attn) (item tile row : Nat) : RowAcc :=
  let p := a.posAt a.t.tilesDone
  if a.t.tilesDone ≠ 0 ∧ item = p.item ∧ tile = p.tile then
    let c := cdiv a.d 128
    { acc := (List.range a.d).map (fun e => a.loaded (e / 128) row (e % 128)), m := a.loaded c row 0, l := a.loaded c row 1, bad := (a.loaded c row 0).isNan }
  else a.newRow

/-- The blocks of a row tile's walk that are left, up to a limit. -/
def Attn.blocksLeft (a : Attn) (item : Nat) (it : Item) (tile : Nat) (limit : Option Nat) : List Nat :=
  let p := a.posAt a.t.tilesDone
  (a.walk it tile).filter (fun b =>
    (a.t.tilesDone == 0 || item != p.item || tile != p.tile || decide (p.next ≤ b)) && (match limit with | none => true | some n => decide (b < n)))

/-- The row tiles that end between the position at which the stroke was placed and a boundary, or its end, with their items. -/
def Attn.tilesTo (a : Attn) (hi : Option Nat) : List (Nat × Item × Nat) :=
  let p := a.posAt a.t.tilesDone
  ((a.share.mapIdx (fun i it => (List.range (a.tileCount it)).map (fun tile => (i, it, tile)))).flatten).filter (fun x =>
    !p.after x.1 x.2.2 && (match hi with | none => true | some d => (a.posAt d).after x.1 x.2.2))

/-- attn.fwd from where it was placed to a boundary, or to its end (R126-R129, R137). -/
def Attn.fwdTo (a : Attn) (hi : Option Nat) : OpOut :=
  let n := (a.t.place.map Place.cluster).getD 0
  let tiles := a.tilesTo hi
  let res := tiles.flatMap (fun x =>
    let w := a.blocksLeft x.1 x.2.1 x.2.2 none
    (a.tileRows x.2.1 x.2.2).mapIdx (fun k r => (x.2.1, r, a.fwdRow (a.fwdState x.2.1 w r.1 r.2 (a.startRow x.1 x.2.2 k)))))
  let o := joinOuts (res.map (fun x => writeRow a.s a.y x.2.1.2 (x.1.e.qStart + x.2.1.1) x.2.2.out))
  let stats := if a.pb.lse = 0 then [] else res.map (fun x => (a.pb.lse + ((x.1.e.qStart + x.2.1.1) * a.pb.hq + x.2.1.2) * 4, leBytes 4 x.2.2.lse))
  { reads := a.headReads 1 ++ a.share.flatMap (fun it => (a.itemRows it).map (a.rowSpan a.x it) ++ a.kvReads it),
    writes := o.writes ++ stats, paths := a.paths, next := true,
    more := attnCounters n (a.unitsTo hi) (res.filter (fun x => x.2.2.empty)).length
      (res.filter (fun x => a.truncated x.1.e (qPos x.1.e x.2.1.1))).length o }

/-- The accumulator tiles that attn.fwd saves: acc, then m in word 0 and l in word 1 of each row (R137). -/
def Attn.fwdSaved (a : Attn) (done f : Nat) : List Byte :=
  let p := a.posAt done
  let c := cdiv a.d 128
  match a.share[p.item]? with
  | none => (List.range (c + 1)).flatMap (fun q => accTileBytes (f / 2 ^ (600000 * q)) 128 (fun _ _ => none))
  | some it =>
    let w := a.blocksLeft p.item it p.tile (some p.next)
    let rows := (a.tileRows it p.tile).mapIdx (fun k r => a.fwdState it w r.1 r.2 (a.startRow p.item p.tile k))
    (List.range (c + 1)).flatMap (fun q => accTileBytes (f / 2 ^ (600000 * q)) 128 (fun r e =>
      match rows[r]? with
      | none => none
      | some st =>
        if q < c then (if 128 * q + e < a.d then some (st.acc.getD (128 * q + e) .zero).bits32 else none)
        else if e = 0 then some (if st.bad then FVal.nan else st.m).bits32
        else if e = 1 then some st.l.bits32
        else none))

/-- attn.fwd as an operation. -/
def fwdOp (s : State) (j : Job) (t : Stroke) : OpOut :=
  let a := attnOf s j t
  match a.check 1 with
  | some c => { check := some c }
  | none => a.fwdTo none

/-- attn.kvwrite (R131). -/
def kvwriteOp (s : State) (j : Job) (t : Stroke) : OpOut :=
  let a := attnOf s j t
  match a.check 3 with
  | some c => { check := some c }
  | none =>
    let share := a.share
    let n := (t.place.map Place.cluster).getD 0
    let one (src : Operand) (base shift : Nat) (it : Item) (i : Nat) : TensorOut :=
      let p := qPos it.e i
      if p < 0 then {}
      else
        let k := a.rowIndex it.e.ring it.g p.toNat
        let vals := (List.range a.d).map (fun c => src.value s [c, it.g, it.e.qStart + i, 0])
        let at_ := base + k * a.d * a.fmt.bytes
        if shift = 0 then
          let c := vals.map (convert a.fmt)
          { writes := [(at_, packRow a.fmt (c.map (·.bits)) 0)], sat := (c.filter (·.sat)).length }
        else
          let sh := blockShift a.fmt vals
          let c := vals.map (fun v => convertCode a.fmt (v.scale (-sh)))
          { writes := [(at_, packRow a.fmt (c.map (·.bits)) 0), (shift + k, [BitVec.ofNat 8 (ofSigned 8 sh)])], sat := (c.filter (·.sat)).length }
    let o := joinOuts (share.flatMap (fun it => (List.range it.e.qLen).flatMap (fun i =>
      [one a.x a.kv.kBase a.kv.kShift it i, one a.y a.kv.vBase a.kv.vShift it i])))
    { reads := a.headReads 3 ++ share.flatMap (fun it => (List.range it.e.qLen).flatMap (fun i =>
        [(a.x.rowAddr [0, it.g, it.e.qStart + i, 0], a.x.rowBytes), (a.y.rowAddr [0, it.g, it.e.qStart + i, 0], a.y.rowBytes)])),
      writes := o.writes, paths := a.paths, next := true, more := attnCounters n (a.units share) 0 0 o }

/-- What the backward pass knows of one query row (R134, R135). -/
structure BwdRow where
  i : Nat
  h : Nat
  q : List FVal
  dO : List FVal
  lse : Nat
  dd : FVal
  adm : Nat × Nat
  dq : List FVal

def Attn.bwdRow (a : Attn) (it : Item) (r : Nat × Nat) : BwdRow :=
  let row := it.e.qStart + r.1
  let dO := a.rowOf a.y row r.2
  let o := a.rowOf a.oOp row r.2
  let prods := List.zipWith FVal.mul dO o
  { i := r.1, h := r.2, q := a.rowOf a.x row r.2, dO := dO, lse := a.s.numAt (a.pb.lse + (row * a.pb.hq + r.2) * 4) 4,
    dd := lanes prods, adm := a.admitted it.e (qPos it.e r.1), dq := List.replicate a.d .zero }
where
  /-- The sum over a row in the order of R108. -/
  lanes (r : List FVal) : FVal :=
    let l := (List.range 128).map (fun j => ((List.range (cdiv (r.length - j) 128)).map (fun k => r.getD (j + 128 * k) .zero)).foldl FVal.add FVal.zero)
    Attn.rowBlock.pairTree 7 l

/-- The probability and the score gradient of a row at one admitted position (R134). -/
def Attn.bwdElem (a : Attn) (it : Item) (r : BwdRow) (p : Nat) (v : List FVal) : FVal × FVal :=
  let sc := ((a.scores it r.q 0 (p, p + 1) (p / 128)).headD (p, .zero)).2
  let pr := (((sc.sub (ofBits32 r.lse)).mul log2e)).exp2
  let dp := dotChunks r.dO v
  (pr, pr.mul (dp.sub r.dd))

/-- A value rounded into a format and read back, and whether it saturated (R97). -/
def roundSat (f : Fmt) (v : FVal) : FVal × Nat := let c := convert f v; (decodeElem f c.bits, if c.sat then 1 else 0)

/-- The running state of an item's walk: its rows with their dQ, by row tile, the dK and dV rows of finished blocks, and the elements of P and dS that saturated. -/
structure BwdAcc where
  rows : List (List BwdRow)
  outs : List (Nat × List FVal × List FVal)
  sat : Nat

/-- The dK and dV rows of a block while its row tiles run. -/
structure BwdBlk where
  rows : List (List BwdRow)
  dk : List (List FVal)
  dv : List (List FVal)
  sat : Nat

/-- The resident positions of a block. -/
def Attn.blockPos (a : Attn) (it : Item) (b : Nat) : List Nat :=
  ((List.range 128).map (· + 128 * b)).filter (fun p => decide (a.resLo it.e ≤ p) && decide (p < it.e.kvLen))

/-- One row tile within a block: P and dS rounded to Q's format as they enter the array, their saturations counted (R97, R134, R135). -/
def Attn.bwdTile (a : Attn) (it : Item) (b : Nat) (ps : List Nat) (ks vs : List (List FVal)) (st : BwdBlk) (tile : List BwdRow) : BwdBlk :=
  let f := a.x.fmt
  let el := tile.map (fun r =>
    let on := r.lse != 0xFF800000 && meetsBlock r.adm b
    (r, on, List.zipWith (fun p v =>
      if on && decide (r.adm.1 ≤ p) && decide (p < r.adm.2) then
        let e := a.bwdElem it r p v
        let x := roundSat f e.1
        let y := roundSat f e.2
        (x.1, y.1, x.2 + y.2)
      else (FVal.zero, FVal.zero, 0)) ps vs))
  let on := el.filter (fun x => x.2.1)
  let add (old : List FVal) (c : Nat) (pick : FVal × FVal × Nat → FVal) (src : BwdRow → List FVal) : List FVal :=
    if on.isEmpty then old
    else old.mapIdx (fun e v => v.add (colSum (on.map (fun x => pick (x.2.2.getD c (.zero, .zero, 0)))) (on.map (fun x => (src x.1).getD e .zero))))
  { rows := st.rows ++ [el.map (fun x =>
      if x.2.1 then { x.1 with dq := x.1.dq.mapIdx (fun e v => v.add (colSum (x.2.2.map (·.2.1)) (ks.map (fun k => k.getD e .zero)))) } else x.1)],
    dv := st.dv.mapIdx (fun c old => add old c (·.1) (·.dO)), dk := st.dk.mapIdx (fun c old => add old c (·.2.1) (·.q)),
    sat := st.sat + ((el.map (fun x => (x.2.2.map (·.2.2)).foldl (· + ·) 0)).foldl (· + ·) 0) }

/-- The row tiles from `r0` up to before `r1` of a block, from its dK and dV rows so far; the others keep their rows (R134). -/
def Attn.bwdBlock (a : Attn) (it : Item) (b r0 r1 : Nat) (rows : List (List BwdRow)) (dk dv : List (List FVal)) : BwdBlk :=
  let ps := a.blockPos it b
  let ks := ps.map (fun p => a.stored a.kv.kBase it.e.ring it.g p)
  let vs := ps.map (fun p => a.stored a.kv.vBase it.e.ring it.g p)
  let run := ((rows.take r1).drop r0).foldl (a.bwdTile it b ps ks vs) { rows := [], dk := dk, dv := dv, sat := 0 }
  { run with rows := rows.take r0 ++ run.rows ++ rows.drop (max r0 r1) }

/-- The dK and dV rows of a block at the position at which the stroke was placed: as read back, or +0 (R137). -/
def Attn.startBlock (a : Attn) (it : Item) (item b : Nat) : List (List FVal) × List (List FVal) :=
  let p := a.posAt a.t.tilesDone
  let c := cdiv a.d 128
  let z := (a.blockPos it b).map (fun _ => List.replicate a.d FVal.zero)
  if a.t.tilesDone ≠ 0 ∧ item = p.item ∧ b = p.tile then
    let rd (q : Nat) : List (List FVal) := (a.blockPos it b).map (fun y => (List.range a.d).map (fun e => a.loaded (q + e / 128) (y - 128 * b) (e % 128)))
    (rd 0, rd c)
  else (z, z)

/-- The rows of an item at the position at which the stroke was placed; dQ of an item begun is in memory (R134, R137). -/
def Attn.startItem (a : Attn) (it : Item) (item : Nat) : List (List BwdRow) :=
  let p := a.posAt a.t.tilesDone
  (List.range (a.tileCount it)).map (fun tile => (a.tileRows it tile).map (fun r =>
    let x := a.bwdRow it r
    if a.t.tilesDone ≠ 0 ∧ item = p.item then { x with dq := a.rowOf a.dqOp (it.e.qStart + r.1) r.2 } else x))

/-- An item's walk from the position at which the stroke was placed: whole blocks up to before `b1`; the position's row tiles of a block begun are not run again. -/
def Attn.bwdWalk (a : Attn) (it : Item) (item b1 : Nat) : BwdAcc :=
  let p := a.posAt a.t.tilesDone
  let began := decide (a.t.tilesDone ≠ 0) && item == p.item
  let blocks := (List.range (min b1 (cdiv it.e.kvLen 128))).filter (fun b => decide (a.resLo it.e < 128 * b + 128) && (!began || decide (p.tile ≤ b)))
  blocks.foldl (fun st b =>
    let z := a.startBlock it item b
    let r := a.bwdBlock it b (if began && b == p.tile then p.next else 0) st.rows.length st.rows z.1 z.2
    { rows := r.rows, outs := st.outs ++ (a.blockPos it b).mapIdx (fun c y => (y, (r.dk.getD c []).map (fun v => (ofBits32 a.pb.scale).mul v), r.dv.getD c [])),
      sat := st.sat + r.sat }) { rows := a.startItem it item, outs := [], sat := 0 }

/-- The block in which a boundary lies, as far as it has run: from the end of the whole blocks before it. -/
def Attn.bwdPart (a : Attn) (it : Item) (hi : AttnPos) (st : BwdAcc) : BwdBlk :=
  let p := a.posAt a.t.tilesDone
  let z := a.startBlock it hi.item hi.tile
  a.bwdBlock it hi.tile (if a.t.tilesDone ≠ 0 ∧ hi.item = p.item ∧ hi.tile = p.tile then p.next else 0) hi.next st.rows z.1 z.2

/-- attn.bwd from where it was placed to a boundary, or to its end (R134, R135, R137): at a boundary the item's dQ is in memory as it has come to. -/
def Attn.bwdTo (a : Attn) (hi : Option Nat) : OpOut :=
  let n := (a.t.place.map Place.cluster).getD 0
  let sc := ofBits32 a.pb.scale
  let p := a.posAt a.t.tilesDone
  let top := hi.map a.posAt
  let res := ((a.share.mapIdx (fun i it => (i, it))).filter (fun x => decide (p.item ≤ x.1) && (match top with | none => true | some q => decide (x.1 ≤ q.item)))).map (fun x =>
    match top with
    | some q =>
      if x.1 = q.item then
        let st := a.bwdWalk x.2 x.1 q.tile
        let b := a.bwdPart x.2 q st
        (x.2, { st with rows := b.rows, sat := st.sat + b.sat }, false)
      else (x.2, a.bwdWalk x.2 x.1 (cdiv x.2.e.kvLen 128), true)
    | none => (x.2, a.bwdWalk x.2 x.1 (cdiv x.2.e.kvLen 128), true))
  let fp (vals : List FVal) : List Byte := (vals.map (fun v => leBytes 4 v.bits32)).flatten
  let writes := res.flatMap (fun x =>
    x.2.1.rows.flatten.map (fun r => (a.dqOp.rowAddr [0, r.h, x.1.e.qStart + r.i, 0], fp (if x.2.2 then r.dq.map (fun v => sc.mul v) else r.dq))) ++
    x.2.1.outs.flatMap (fun y =>
      let k := a.rowIndex x.1.e.ring x.1.g y.1
      [(a.pb.dkBase + k * a.d * 4, fp y.2.1), (a.pb.dvBase + k * a.d * 4, fp y.2.2)]))
  { reads := a.headReads 2 ++ a.share.flatMap (fun it =>
      (a.itemRows it).flatMap (fun r => [a.rowSpan a.x it r, a.rowSpan a.y it r, a.rowSpan a.oOp it r,
        (a.pb.lse + ((it.e.qStart + r.1) * a.pb.hq + r.2) * 4, 4)]) ++ a.kvReads it),
    writes := writes, paths := a.paths, next := true,
    more := attnCounters n (a.unitsTo hi) 0 (a.truncRows ((res.filter (fun x => x.2.2)).map (·.1))) { sat := (res.map (fun x => x.2.1.sat)).foldl (· + ·) 0 } }

/-- The accumulator tiles that attn.bwd saves: the block's dK, then its dV (R137). -/
def Attn.bwdSaved (a : Attn) (done f : Nat) : List Byte :=
  let q := a.posAt done
  let c := cdiv a.d 128
  match a.share[q.item]? with
  | none => (List.range (2 * c)).flatMap (fun k => accTileBytes (f / 2 ^ (600000 * k)) 128 (fun _ _ => none))
  | some it =>
    let b := a.bwdPart it q (a.bwdWalk it q.item q.tile)
    let ps := a.blockPos it q.tile
    (List.range (2 * c)).flatMap (fun k => accTileBytes (f / 2 ^ (600000 * k)) 128 (fun r e =>
      match ps.findIdx? (· == 128 * q.tile + r) with
      | none => none
      | some y =>
        if 128 * (k % c) + e < a.d then some ((((if k < c then b.dk else b.dv).getD y []).getD (128 * (k % c) + e) .zero)).bits32 else none))

/-- attn.bwd as an operation. -/
def bwdOp (s : State) (j : Job) (t : Stroke) : OpOut :=
  let a := attnOf s j t
  match a.check 2 with
  | some c => { check := some c }
  | none => a.bwdTo none

/-- What an attn stroke does up to a boundary, and the tiles that it saves there: their number and their bytes (R137). -/
def Attn.saveAt (a : Attn) (done f : Nat) : Nat × List Byte :=
  match a.t.op with
  | 1 => (cdiv a.d 128 + 1, a.fwdSaved done f)
  | 2 => (2 * cdiv a.d 128, a.bwdSaved done f)
  | _ => (0, [])

def Attn.runTo (a : Attn) (done : Nat) : OpOut :=
  match a.check a.t.op with
  | some c => { check := some c }
  | none => match a.t.op with
    | 1 => a.fwdTo (some done)
    | 2 => a.bwdTo (some done)
    | _ => {}

/-- ATTN_FWD (R128). -/
def execAttnFwd (job idx : Nat) (s : State) : Host.Outcome State Fault Refusal := Plan.done (runOp 0x02 0x01 job idx fwdOp) s

/-- ATTN_BWD (R134). -/
def execAttnBwd (job idx : Nat) (s : State) : Host.Outcome State Fault Refusal := Plan.done (runOp 0x02 0x02 job idx bwdOp) s

/-- ATTN_KVWRITE (R131). -/
def execAttnKvwrite (job idx : Nat) (s : State) : Host.Outcome State Fault Refusal := Plan.done (runOp 0x02 0x03 job idx kvwriteOp) s

end Sys2Proof.Machine
end

