-- ==== Sys2Proof/Machine/Links.lean ====
section
/-! DEFINITION. The Ulzia links (16_ulzia_links.md): ports, training, flits and packets, virtual channels, remote operations and collectives (R310-R326). -/
namespace Sys2Proof.Machine

def State.port (s : State) (p : Nat) : Port := Tab.get {} s.ports p
/-- Devices in the ring, and this node (R311). -/
def State.ring (s : State) : Nat := fld (s.reg 0 pgULZ 0x100) 11 8 + 1
def State.node (s : State) : Nat := fld (s.reg 0 pgULZ 0x100) 3 0
def modPort (p : Nat) (f : Port → Port) : Plan := fun s => [.ports p (f (s.port p))]

/-- A partner violation: the count, the latest code, the flag and the event (R325). -/
def linkViolation (p code : Nat) : Plan := fun s =>
  Plan.seq [
    setReg 0 (pgU p) 0x110 (satAdd 0xFFFFFF (fld (s.reg 0 (pgU p) 0x110) 31 8) 1 * 256 + code),
    raiseErr (pgU p) 3 [],
    event { cls := 6, code := code, page := pgU p, detail := leBytes 1 p }] s

/-! ## Packets (R317) -/

/-- The units of a packet: its header and its data in whole units. -/
def Packet.bytes (k : Packet) : List Byte :=
  leBytes 1 k.typ ++ leBytes 1 (k.dst % 16 + k.src % 16 * 16) ++ leBytes 1 (k.vc % 8 + k.len % 32 * 8) ++ leBytes 1 k.status ++
  leBytes 2 k.tag ++ zeros 2 ++ leBytes 8 k.arg ++ k.data ++ zeros (16 * k.len - k.data.length)

/-- Units that a packet takes of its VC (R318). -/
def Packet.units (k : Packet) : Nat := 1 + k.len

def parsePacket (b : List Byte) (tick : Nat) : Packet :=
  let len := fld (rdN b 2 1) 7 3
  { typ := rdN b 0 1, dst := fld (rdN b 1 1) 3 0, src := fld (rdN b 1 1) 7 4, vc := fld (rdN b 2 1) 2 0, len := len, status := rdN b 3 1,
    tag := rdN b 4 2, arg := rdN b 8 8, data := (b.drop 16).take (16 * len), tick := tick }

/-- ADDR of a WRITE or READ, and the bytes that a READ asks for. -/
def Packet.addr (k : Packet) : Nat := fld k.arg 39 0
def Packet.want (k : Packet) : Nat := fld k.arg 44 40 + 1

/-- Bytes of the last unit of a WRITE that are padding; no field of the header is given for them (PRESUMED, log entry 123). -/
def Packet.pad (k : Packet) : Nat := fld k.arg 43 40

/-- The type of the answer to a packet, 0 when it takes none. -/
def Packet.answerType (k : Packet) : Nat := match k.typ with | 1 => 4 | 2 => 3 | 5 => 6 | _ => 0

/-! ## Sending (R313, R317-R319) -/

/-- A port that carries traffic or will again when its retraining ends. -/
def Port.alive (x : Port) : Bool := x.state == 2 || x.state == 3

/-- The port a packet leaves by: the shorter way round, the granules alternating at half the ring; a port that is DOWN sends the other way (R313). -/
def route (s : State) (dst granule : Nat) : Nat :=
  let d := (dst + s.ring - s.node) % s.ring
  let p := if 2 * d < s.ring then 0 else if s.ring < 2 * d then 1 else granule % 2
  if !(s.port p).alive && (s.port (1 - p)).alive then 1 - p else p

/-- A packet of another device passes through (R313). -/
def forwarded (s : State) (k : Packet) : Bool := k.src != s.node

/-- A packet can leave: the port is UP with no mode change pending, its VC has the units, the replay buffer has room, and its partition's link bucket admits it;
packets being forwarded are never held by a bucket (R272, R315, R318, R319, R326). -/
def sendable (s : State) (p : Nat) (k : Packet) : Bool :=
  let x := s.port p
  x.state == 2 && (Tab.get {} s.modeUnits (pgU p)).pending == 0 && decide (k.units ≤ Tab.get 0 x.held k.vc) &&
  decide (x.replay.length + cdiv k.units 15 ≤ 64) &&
  (forwarded s k || (s.part k.vc).measure || !(s.part k.vc).link.empty (16 * k.units))

/-- CRC-64 with the ECMA-182 polynomial, highest bit first (R317; start value 0: log entry 134). -/
def crc64 (bs : List Byte) : Nat :=
  bs.foldl (fun c b => (List.range 8).foldl (fun c _ => if bit c 63 then Nat.xor (c * 2 % 2 ^ 64) 0x42F0E1EBA9EA3693 else c * 2) (Nat.xor c (b.toNat * 2 ^ 56))) 0

/-- The 256 bytes of a flit; unused units hold NOP headers, which are zeros (R317). -/
def Flit.bytes (f : Flit) : List Byte :=
  let b := leBytes 4 (f.seq % 4096 + f.ack % 4096 * 2 ^ 12 + bitAt f.nak 24 + f.creditVc % 8 * 2 ^ 25) ++ leBytes 2 f.credit ++ zeros 2 ++
    f.units ++ zeros (240 - f.units.length)
  b ++ leBytes 8 (crc64 b)

/-- Cuts the units of a packet into those of its flits (R317). -/
def flitUnits : Nat → List Byte → List (List Byte)
  | 0, _ => []
  | _, [] => []
  | fuel + 1, b :: bs => (b :: bs).take 240 :: flitUnits fuel ((b :: bs).drop 240)

/-- A flit is sent: it acknowledges what came in sequence, returns the units owed to one VC, the lowest that has any, and waits in the replay buffer (R317; log entry 134). -/
def Port.addFlit (x : Port) (units : List Byte) : Port :=
  let vc := ((List.range 8).find? (fun v => Tab.get 0 x.owed v != 0)).getD 0
  { x with replay := x.replay ++ [{ seq := x.txSeq, ack := x.rxSeq, nak := x.nak, creditVc := vc, credit := Tab.get 0 x.owed vc, units := units }],
           txSeq := (x.txSeq + 1) % 4096, owed := Tab.put 0 x.owed vc 0 }

/-- Units of a packet that has left the receive buffer are owed to the partner, and a grant that waited takes effect once the VC holds none (R318). -/
def Port.freeUnits (x : Port) (vc n : Nat) : Port :=
  let left := Tab.get 0 x.used vc - n
  let x := { x with used := Tab.put 0 x.used vc left, owed := Tab.put 0 x.owed vc (Tab.get 0 x.owed vc + n) }
  if left = 0 ∧ Tab.get 0 x.grantNext vc ≠ 0 then
    { x with grant := Tab.put 0x200 x.grant vc (Tab.get 0 x.grantNext vc - 1), grantNext := Tab.put 0 x.grantNext vc 0 }
  else x

/-- A packet leaves the receive buffer that holds it, if one does. -/
def freePacket (k : Packet) : Plan := if k.via = 0 then Plan.skip else modPort (k.via - 1) (fun x => x.freeUnits k.vc k.units)

/-- A packet leaves: its VC's units are used and its flits wait in the replay buffer for acknowledgement; in LOOPBACK it comes back at once (R317, R318, R326). -/
def transmit (p : Nat) (k : Packet) : Plan := fun s =>
  let x := s.port p
  let q := s.part k.vc
  Plan.seq [
    Plan.when (!q.measure && q.link.rate != 0) (Plan.act (.parts k.vc { q with link := q.link.debit (16 * k.units) })),
    (if s.mode (pgU p) = 1 then Plan.act (.ports p { x with inbox := x.inbox ++ [{ k with tick := s.ticks, via := 0 }] })
     else Plan.act (.ports p ((flitUnits 3 k.bytes).foldl Port.addFlit { x with held := Tab.put 0 x.held k.vc (Tab.get 0 x.held k.vc - k.units) }))),
    freePacket k] s

/-- Sends a packet, or leaves it waiting behind the packets of its VC; one that the link bucket holds counts in PAR_REG_HELD (R272, R317, R318). -/
def sendOn (p : Nat) (k : Packet) : Plan := fun s =>
  let x := s.port p
  let q := s.part k.vc
  if sendable s p k && !x.waiting.any (fun w => w.vc == k.vc) then transmit p k s
  else Plan.andThen (Plan.when (!forwarded s k && !q.measure && q.link.empty (16 * k.units)) (Plan.act (.parts k.vc { q with link := { q.link with held := true } })))
    (Plan.act (.ports p { x with waiting := x.waiting ++ [k] })) s

/-- Sends a packet the way R313 gives. -/
def sendPacket (k : Packet) : Plan := fun s => sendOn (route s k.dst (if k.typ = 6 then 0 else k.addr / 256)) k s

/-- Sends what waits, in order within each VC. -/
def drainWaiting (p : Nat) : Plan := fun s =>
  let l := (s.port p).waiting
  if l.isEmpty then [] else Plan.andThen (modPort p (fun x => { x with waiting := [] })) (Plan.each l (sendOn p)) s

/-- An answer to a packet (R321). -/
def answerPacket (k : Packet) (status : Nat) (data : List Byte) : Plan := fun s =>
  if k.answerType = 0 then []
  else sendPacket { typ := k.answerType, dst := k.src, src := s.node, vc := k.vc, len := cdiv data.length 16, status := status, tag := k.tag,
                    arg := k.arg, data := data, tick := s.ticks } s

/-! ## Training and retraining (R314-R316) -/

/-- The physical lanes of the logical lanes: the good ones, lowest first (R314). -/
def laneMap (good : List Bool) : List Nat := ((List.range 5).filter (fun k => good.getD k false)).take 4

/-- The width that a number of lanes makes. -/
def widthOf (n : Nat) : Nat := if 4 ≤ n then 4 else if 2 ≤ n then 2 else n

/-- Takes a lane map and a width, and notes a lane replaced or a width reduced in the flags and the ledger (R314, R315, R376). -/
def takeLanes (p cause : Nat) (good : List Bool) (peerWidth : Nat) : Plan := fun s =>
  let x := s.port p
  let m := laneMap good
  let lanes := (List.range 4).map (fun k => m.getD k (x.lanes.getD k k))
  let w := min (widthOf m.length) (widthOf peerWidth)
  let spare := if m.length < 4 then 2 else if m.contains 4 then 1 else 0
  let moved := ((List.range 4).find? (fun k => lanes.getD k 0 != x.lanes.getD k 0)).getD 0
  Plan.seq [
    Plan.act (.ports p { x with good := good, lanes := lanes, width := w, spare := spare, laneErrs := [] }),
    Plan.when (spare != x.spare && spare != 0) (Plan.andThen (raiseErr (pgU p) 2 [])
      (ledgerWrite 4 (if spare = 1 then 4 else 5) (p + moved * 2) (x.lanes.getD moved 0) (if spare = 1 then 4 else 0xFF) cause (pgU p)))] s

/-- The lanes that may still be used: those that were good and are found good. -/
def andLanes (a b : List Bool) : List Bool := (List.range 5).map (fun k => a.getD k false && b.getD k true)

/-- The NODE that the partner of a port must have (R311). -/
def State.neighbour (s : State) (p : Nat) : Nat := if p = 0 then (s.node + 1) % s.ring else (s.node + s.ring - 1) % s.ring

/-- ULZ_TRAIN: a port that is DOWN ends a training with the lanes found good and the partner's NODE, RING (minus 1) and width, if there is one; while the PF is in D3hot it stays
DOWN (R314, R335). -/
def ulzTrain (p : Nat) (good : List Bool) (peer : Option (Nat × Nat × Nat)) : Plan := fun s =>
  let x := s.port p
  if 2 ≤ p || 2 ≤ x.state || s.ring = 1 || (s.func 0).d3hot then []
  else match peer with
    | none => [.ports p { x with state := 0, tried := s.ticks }]
    | some (node, ring, width) =>
      let g := andLanes x.good good
      if ring + 1 ≠ s.ring || node ≠ s.neighbour p then
        Plan.andThen (Plan.act (.ports p { x with state := 0, tried := s.ticks })) (linkViolation p 1) s
      else if (laneMap g).isEmpty || width = 0 then [.ports p { x with state := 0, tried := s.ticks }]
      else Plan.seq [
        takeLanes p 4 g width,
        modPort p (fun x => { x with state := 2, partner := node, txSeq := 0, rxSeq := 4095, nak := false, replay := [], replays := 0, part := [], owed := [],
                                     held := (List.range 8).map (fun v => (v, 0x200)), failed := 0 }),
        drainWaiting p] s

def execUlzTrain (port : Nat) (good : List Bool) (peer : Option (Nat × Nat × Nat)) (s : State) : Host.Outcome State Fault Refusal :=
  Plan.done (ulzTrain port good peer) s

/-- ULZ_TRAIN_RETRY: 100 ms after a training without success a port that is DOWN trains again (R314). -/
def execUlzTrainRetry (port : Nat) (s : State) : Host.Outcome State Fault Refusal :=
  Plan.done (fun s => let x := s.port port
    if decide (port < 2) && x.state == 0 && s.ring != 1 && !(s.func 0).d3hot && decide (x.tried + 100000 ≤ s.ticks) then [.ports port { x with state := 1 }] else []) s

/-- The jobs with a transfer in flight on a port, or with a collective (R316, R323). -/
def jobsOnPort (s : State) (p : Nat) : List Nat :=
  (((s.xfers.filter (fun x => x.port == p)).map (·.job)) ++ s.colls.map (·.job)).dedup

/-- A port is taken DOWN: its replay buffer and its packets are discarded and its jobs killed with FAULT_LINK; answers that it had not begun to send take the other way (R313, R316, R335). -/
def takeDown (p : Nat) : Plan := fun s =>
  Plan.seq [
    modPort p (fun x => { x with state := 0, width := 0, replay := [], replays := 0, part := [], waiting := [], owed := [], failed := 0, tried := s.ticks }),
    Plan.each ((s.port p).waiting.filter (forwarded s)) freePacket,
    Plan.each ((s.port p).waiting.filter (fun k => !forwarded s k && (k.typ == 3 || k.typ == 4 || k.typ == 6))) sendPacket,
    Plan.each (jobsOnPort s p) (fun id => killJob id 0x33),
    (fun s => [.xfers (s.xfers.filter (fun x => x.port != p))])] s

/-- A port goes DOWN after three failed retrainings (R316). -/
def portDown (p : Nat) : Plan :=
  Plan.seq [raiseErr (pgU p) 0 [], event { cls := 6, code := 0x10, page := pgU p, detail := leBytes 1 p }, takeDown p]

/-- A port starts to retrain (R315). -/
def startRetrain (p : Nat) : Plan := fun s => if (s.port p).state = 2 then modPort p (fun x => { x with state := 3 }) s else []

/-- The cause of a lane change: what the running spare-in of a lane of the port gives, else the lane limit (R315, R376). -/
def laneCause (s : State) (p : Nat) : Nat :=
  match s.reserve.running with | some t => if t.kind = 4 ∧ t.index % 2 = p then t.cause else 1 | none => 1

/-- The PLL of a port loses lock: counted, flagged and recorded with its number in CLK_STATUS (R329, R361). -/
def portPllLoss (p : Nat) : Plan :=
  Plan.seq [bumpField pgCLK 0x110 15 8 1, raiseErr pgCLK 1 [], event { cls := 0x0C, code := 3, page := pgCLK, detail := [BitVec.ofNat 8 (12 + p)] }]

/-- ULZ_RETRAIN: a retraining, which a loss of lock starts when `pll` says so, ends with the lanes found good; three failures in a row take the port DOWN (R315, R316, R329). -/
def ulzRetrain (p : Nat) (good : List Bool) (peerWidth : Nat) (ok pll : Bool) : Plan := fun s =>
  let x := s.port p
  let g := andLanes x.good good
  if 2 ≤ p || !(x.state == 3 || (pll && x.state == 2)) then []
  else
    Plan.seq [
      Plan.when pll (portPllLoss p),
      bumpField (pgU p) 0x104 31 16 1, raiseErr (pgU p) 1 [], event { cls := 6, code := 0x11, page := pgU p, detail := leBytes 1 p },
      (if ok && !(laneMap g).isEmpty && peerWidth != 0 then
         Plan.seq [takeLanes p (laneCause s p) g peerWidth, modPort p (fun x => { x with state := 2, failed := 0, replays := 0 }), drainWaiting p]
       else if 2 ≤ x.failed then portDown p
       else modPort p (fun x => { x with state := 3, failed := x.failed + 1 }))] s

def execUlzRetrain (port : Nat) (good : List Bool) (peerWidth : Nat) (ok pll : Bool) (s : State) : Host.Outcome State Fault Refusal :=
  Plan.done (ulzRetrain port good peerWidth ok pll) s

/-! ## Receiving (R317, R318, R325) -/

def Port.grantOf (x : Port) (vc : Nat) : Nat := Tab.get 0x200 x.grant vc

/-- A packet crosses a 256 B granule (R317). -/
def Packet.crosses (k : Packet) : Bool :=
  (k.typ == 1 && decide (256 < k.addr % 256 + 16 * k.len)) || (k.typ == 2 && decide (256 < k.addr % 256 + k.want))

/-- A packet has arrived whole (R313, R318, R325). -/
def takePacket (p : Nat) (k : Packet) : Plan := fun s =>
  let x := s.port p
  if 7 < k.typ || 16 < k.len || k.crosses then Plan.andThen (linkViolation p 3) (answerPacket k 1 []) s
  else if x.grantOf k.vc < Tab.get 0 x.used k.vc + k.units then Plan.andThen (linkViolation p 2) (answerPacket k 1 []) s
  else if s.ring ≤ k.dst then Plan.andThen (linkViolation p 4) (answerPacket k 1 []) s
  else
    let k := { k with via := p + 1 }
    let x := { x with used := Tab.put 0 x.used k.vc (Tab.get 0 x.used k.vc + k.units) }
    if k.dst ≠ s.node then Plan.andThen (Plan.act (.ports p x)) (sendOn (if !(s.port (1 - p)).alive && x.alive then p else 1 - p) k) s
    else [.ports p { x with inbox := x.inbox ++ [k] }]

/-- Takes the whole packets out of the units received (R317). -/
def parseUnits (p : Nat) : Nat → Plan
  | 0 => Plan.skip
  | fuel + 1 => fun s =>
    let b := (s.port p).part
    if b.length < 16 then []
    else if rdN b 0 1 = 0 then Plan.andThen (modPort p (fun x => { x with part := b.drop 16 })) (parseUnits p fuel) s
    else
      let k := parsePacket b s.ticks
      if b.length < 16 * k.units then []
      else Plan.seq [modPort p (fun x => { x with part := b.drop (16 * k.units) }), takePacket p k, parseUnits p fuel] s

/-- The acknowledgement of a flit received: flits up to ACK leave the replay buffer; 8 replays without success retrain the port (R315, R317). -/
def takeAck (p ack : Nat) (nak : Bool) : Plan := fun s =>
  let x := s.port p
  let kept := x.replay.filter (fun f => decide ((f.seq + 4096 - (ack + 1)) % 4096 < 2048))
  let moved := decide (kept.length < x.replay.length)
  let n := if moved then 0 else if nak && !kept.isEmpty then x.replays + 1 else x.replays
  Plan.andThen (Plan.act (.ports p { x with replay := kept, replays := n })) (Plan.when (decide (8 ≤ n)) (startRetrain p)) s

/-- Units returned to a VC; more than the partner's buffer can hold is capped (R318, R325 code 0x07; log entry 24). -/
def takeCredit (p vc n : Nat) : Plan := fun s =>
  let x := s.port p
  let t := Tab.get 0 x.held vc + n
  Plan.andThen (Plan.act (.ports p { x with held := Tab.put 0 x.held vc (min 4096 t) })) (Plan.when (decide (4096 < t)) (linkViolation p 7)) s

/-- A flit that fails its CRC is counted against a lane; at ULZ_LANE_LIMIT within a second the lane is given up and the port retrains (R315, R317). -/
def flitBad (p lane : Nat) : Plan := fun s =>
  let x := s.port p
  let sec := s.ticks / 1000000
  let errs := if x.laneSecond = sec then x.laneErrs else []
  let n := Tab.get 0 errs lane + 1
  let lim := s.reg 0 pgULZ 0x108 % 256
  let hit := lim != 0 && decide (lim ≤ n)
  Plan.seq [
    bumpField (pgU p) 0x104 15 0 1,
    Plan.act (.ports p { x with nak := true, laneSecond := sec, laneErrs := Tab.put 0 errs lane n,
                                good := if hit then x.good.set (x.lanes.getD lane 0) false else x.good }),
    Plan.when hit (startRetrain p)] s

/-- FLIT_RECEIVE: a flit with its 248 bytes before the CRC, whether the CRC holds, and the lane charged when it does not (R317). -/
def flitReceive (p : Nat) (body : List Byte) (crcOk : Bool) (lane : Nat) : Plan := fun s =>
  let x := s.port p
  if 2 ≤ p || !x.alive || body.length ≠ 0xF8 then []
  else if !crcOk then flitBad p lane s
  else
    let w := rdN body 0 4
    let d := (fld w 11 0 + 4096 - (x.rxSeq + 1)) % 4096
    if d ≠ 0 then (if d < 2048 then [.ports p { x with nak := true }] else [])
    else Plan.seq [
      Plan.act (.ports p { x with rxSeq := fld w 11 0, nak := false, part := x.part ++ body.drop 8 }),
      takeAck p (fld w 23 12) (bit w 24), takeCredit p (fld w 27 25) (rdN body 4 2), parseUnits p 64, drainWaiting p] s

def execFlitReceive (port : Nat) (body : List Byte) (crcOk : Bool) (lane : Nat) (s : State) : Host.Outcome State Fault Refusal :=
  Plan.done (flitReceive port body crcOk lane) s

/-! ## Remote operations (R312, R321, R322) -/

/-- The local address of an offset of R312, for regions 0 and 1. -/
def localOf (off : Nat) : Option Nat :=
  match fld off 39 38 with
  | 0 => some (fld off 37 0)
  | 1 => some (plateBase + fld off 37 0)
  | _ => none

/-- The first packet of a type in a port's receive buffer that no earlier packet of its VC precedes (R322). -/
def nextOf (l : List Packet) (ok : Packet → Bool) : Option Packet :=
  let heads := (List.range 8).filterMap (fun v => l.find? (fun k => k.vc == v))
  l.find? (fun k => ok k && heads.contains k)

/-- A packet has been served. -/
def servePacket (p : Nat) (k : Packet) : Plan := Plan.andThen (modPort p (fun x => { x with inbox := x.inbox.erase k })) (freePacket k)

/-- Partition `p` is ACTIVE and not resetting, and the device is not in D3hot (R321, R335). -/
def partServes (s : State) (p : Nat) : Bool :=
  decide ((s.part p).state = .active) && !(s.func (s.part p).fn).flr && !(s.func (s.part p).fn).resetting && !(s.func 0).d3hot

/-- How a WRITE or READ on this node is answered, and the local address of its range (R321, R379). -/
def remoteRange (s : State) (vc off n : Nat) : Nat × Access :=
  match localOf off with
  | none => (0, .refused none)
  | some a => (a, if !partServes s vc || (s.gddr.frozen && regionOf a n = .gddr) then .refused none else s.judge vc false a n)

/-- An operation refused under R321. -/
def refuseRemote (p : Nat) (k : Packet) : Plan := Plan.seq [servePacket p k, linkViolation p 5, answerPacket k 1 []]

/-- A remote operation that reaches a segment that is OFF: LATE_ACCESS, the count and an event that names the segment; it is not carried out (R155, R321). -/
def lateRemote (p seg : Nat) (k : Packet) : Plan := fun s =>
  Plan.seq [raiseErr (pgPS seg) 3 [], bump pgPLT 0x118 1,
    event { cls := 2, code := 0x30, part := k.vc, charged := true, fn := (s.part k.vc).fn, page := pgPS seg }, refuseRemote p k] s

/-- A remote request is charged to the partition of its VC, and held while its bucket is empty (R272, R273). -/
def chargeRemote (vc : Nat) (isWrite : Bool) (a n : Nat) (go : Plan) : Plan := fun s =>
  if s.held vc [(a, n)] then noteHeld vc [(a, n)] s else Plan.seq [chargeTo vc [(a, n)], memRequests { cls := 7 } isWrite a n, go] s

/-- A WRITE or READ that this node serves: refused, late, waiting for a segment in transition or a block under burnish, or carried out (R152, R155, R321). -/
def serveRemote (p : Nat) (k : Packet) (n : Nat) (isWrite : Bool) (go : Nat → Plan) : Plan := fun s =>
  let r := remoteRange s k.vc k.addr n
  match r.2 with
  | .refused _ => refuseRemote p k s
  | .late g => lateRemote p g k s
  | .retry _ => []
  | .ok => if isWrite && (s.burnishOf [(r.1, zeros n)]).isSome then [] else go r.1 s

/-- REMOTE_WRITE (R321). -/
def remoteWrite (p : Nat) : Plan := fun s =>
  match nextOf (s.port p).inbox (fun k => k.typ == 1) with
  | none => []
  | some k =>
    let n := k.data.length - k.pad
    serveRemote p k n true (fun a s =>
      match s.foreign false a n with
      | some pg => Plan.seq [servePacket p k, noteForeign pg, answerPacket k 1 []] s
      | none =>
        chargeRemote k.vc true a n (fun s =>
          if s.partialOnPoison a n then Plan.seq [servePacket p k, poisonRead { cls := 7 } a, answerPacket k 2 []] s
          else Plan.seq [servePacket p k, (if regionOf a n = .gddr then gddrStore 0 a (k.data.take n) else plateStore a (k.data.take n)), answerPacket k 0 []] s) s) s

def execRemoteWrite (port : Nat) (s : State) : Host.Outcome State Fault Refusal := Plan.done (remoteWrite port) s

/-- REMOTE_READ (R294, R321). -/
def remoteRead (p : Nat) : Plan := fun s =>
  match nextOf (s.port p).inbox (fun k => k.typ == 2) with
  | none => []
  | some k =>
    serveRemote p k k.want false (fun a => chargeRemote k.vc false a k.want (fun s =>
      match s.badWordIn a k.want with
      | some w => Plan.seq [servePacket p k, plateDetect (segOf w) (w - plateBase - segOf w * segSize) 2 0 0 k.vc false false 0, answerPacket k 2 []] s
      | none =>
        cachedRead (lineDetect 2 0 0 k.vc false) (Plan.andThen (servePacket p k) (answerPacket k 2 []))
          (fun s => if s.meetsPoison a k.want then Plan.seq [servePacket p k, poisonRead { cls := 7 } a, answerPacket k 2 []] s
            else Plan.seq [servePacket p k, gddrTouch a (if regionOf a k.want = .gddr then k.want else 0), answerPacket k 0 (s.bytesAt a k.want)] s) a k.want s)) s

def execRemoteRead (port : Nat) (s : State) : Host.Outcome State Fault Refusal := Plan.done (remoteRead port) s

/-- Adds to a counter semaphore, saturating, or sets it (R42, R320, R321). -/
def semChange (m : Sem) (set : Bool) (v : Nat) : Sem := { m with value := if set then v else satAdd 0xFFFF m.value v }

/-- REMOTE_SEM (R321). -/
def remoteSem (p : Nat) : Plan := fun s =>
  match nextOf (s.port p).inbox (fun k => k.typ == 5) with
  | none => []
  | some k =>
    let n := fld k.arg 11 0
    let m := s.semOf k.vc n
    if !partServes s k.vc || decide ((s.part k.vc).semCount ≤ n) || m.mutex then refuseRemote p k s
    else Plan.seq [servePacket p k, Plan.act (.sems ((s.part k.vc).semFirst + n) (semChange m (bit k.arg 16) (fld k.arg 47 32))), settle, answerPacket k 0 []] s

def execRemoteSem (port : Nat) (s : State) : Host.Outcome State Fault Refusal := Plan.done (remoteSem port) s

/-- A transfer has been answered: the stroke ends with its last one (R322). -/
def endXfer (x : Xfer) : Plan := fun s =>
  let rest := s.xfers.erase x
  Plan.andThen (Plan.act (.xfers rest))
    (Plan.when (!rest.any (fun y => y.job == x.job && y.idx == x.idx) && (s.job x.job).killed.isNone) (endOp x.job x.idx)) s

/-- LINK_ANSWER: an answer completes a transfer, or ends its job (R321, R322, R325 code 0x06). -/
def linkAnswer (p : Nat) : Plan := fun s =>
  match nextOf (s.port p).inbox (fun k => k.typ == 3 || k.typ == 4 || k.typ == 6) with
  | none => []
  | some k =>
    match s.xfers.find? (fun x => x.tag == k.tag && x.vc == k.vc && x.typ == k.typ) with
    | none => Plan.andThen (servePacket p k) (linkViolation p 6) s
    | some x =>
      let w := if k.status = 0 ∧ k.typ = 3 then [(x.addr, k.data.take x.len)] else []
      withAccess x.job x.idx { cls := 7 } [] w (Plan.seq [
        servePacket p k,
        Plan.each w (fun w => strokeWrite x.job x.idx false w.1 w.2),
        (match k.status with
         | 0 => Plan.skip
         | 2 => killJob x.job 0x30
         | _ => killJob x.job 0x33),
        endXfer x]) s

def execLinkAnswer (port : Nat) (s : State) : Host.Outcome State Fault Refusal := Plan.done (linkAnswer port) s

/-- ULZ_TIMEOUT_EXPIRY: an answer or a collective that is late ends its job with FAULT_LINK (R322, R323). -/
def ulzTimeoutExpiry (id i : Nat) : Plan := fun s =>
  let lim := (s.reg 0 pgULZ 0x104) % 65536 * 1000
  let late := s.xfers.any (fun x => x.job == id && x.idx == i && decide (x.start + lim ≤ s.ticks)) ||
    s.colls.any (fun c => c.job == id && c.idx == i && decide (c.start + lim ≤ s.ticks))
  if late then
    Plan.seq [killJob id 0x33, (fun s => [.xfers (s.xfers.filter (fun x => !(x.job == id && x.idx == i))),
      .colls (s.colls.filter (fun c => !(c.job == id && c.idx == i)))])] s
  else []

def execUlzTimeoutExpiry (job idx : Nat) (s : State) : Host.Outcome State Fault Refusal := Plan.done (ulzTimeoutExpiry job idx) s

/-! ## Link strokes (R312, R313, R320) -/

def remoteBase : Nat := 0x400000000000

/-- A remote address: node and offset (R312). -/
def remoteAddr (a : Nat) : Option (Nat × Nat) :=
  if remoteBase ≤ a ∧ a < remoteBase + 2 ^ 44 then some ((a - remoteBase) / 2 ^ 40, (a - remoteBase) % 2 ^ 40) else none

/-- A remote range stays within one node below RING and one defined region (R312, check 47). -/
def remoteOk (s : State) (x : Nat × Nat) (n : Nat) : Bool := decide (x.1 < s.ring) && (localOf x.2).isSome && decide (x.2 % 2 ^ 38 + n ≤ 2 ^ 38)

/-- Starts a transfer: the packet is sent with a fresh tag and its answer awaited (R317, R322). -/
def startXfer (id i typ dst arg addr len : Nat) (data : List Byte) : Plan := fun s =>
  let vc := (s.job id).part
  let p := route s dst (if typ = 5 then 0 else fld arg 39 0 / 256)
  let k : Packet := { typ := typ, dst := dst, src := s.node, vc := vc, len := cdiv data.length 16, status := 0, tag := s.nextTag % 65536, arg := arg, data := data, tick := s.ticks }
  Plan.andThen (fun s => [.nextTag (s.nextTag + 1), .xfers (s.xfers ++
      [{ tag := s.nextTag % 65536, port := p, vc := vc, job := id, idx := i, typ := k.answerType, addr := addr, len := len, start := s.ticks }])])
    (sendOn p k) s

/-- The sides of a link.copy: which is remote. -/
inductive CopySides
  | push (dst : Nat × Nat) (src : Nat)
  | pull (src : Nat × Nat) (dst : Nat)
  | wrong

def copySides (t : Stroke) : CopySides :=
  match remoteAddr (t.opnds.getD 0 0), remoteAddr (t.opnds.getD 1 0) with
  | none, some d => .push d (t.opnds.getD 0 0)
  | some x, none => .pull x (t.opnds.getD 1 0)
  | _, _ => .wrong

def copyLinkOp (id i : Nat) (s : State) (j : Job) (t : Stroke) : OpOut :=
  let n := t.param
  let lenOk := n != 0 && decide (n ≤ 2 ^ 31)
  match copySides t with
  | .wrong => { check := some 47 }
  | .push d a =>
    let bytes := s.bytesAt a n
    { reads := [(a, n)], check := failIf (!lenOk || !remoteOk s d n || !s.placeOk j.part a n) 47,
      writes := if d.1 = s.node then [((localOf d.2).getD 0, bytes)] else [],
      more := if d.1 = s.node then endOp id i
              else Plan.each (pieces 256 d.2 bytes (n / 256 + 2)) (fun x => startXfer id i 1 d.1 (x.1 + (cdiv x.2.length 16 * 16 - x.2.length) * 2 ^ 40) 0 0 x.2) }
  | .pull x a =>
    let b := (localOf x.2).getD 0
    { check := failIf (!lenOk || !remoteOk s x n || !s.placeOk j.part a n) 47,
      reads := if x.1 = s.node then [(b, n)] else [], writes := if x.1 = s.node then [(a, s.bytesAt b n)] else [],
      more := if x.1 = s.node then endOp id i
              else Plan.each (pieces 32 x.2 (zeros n) (n / 32 + 2)) (fun q =>
                startXfer id i 2 x.1 (q.1 + (q.2.length - 1) * 2 ^ 40) (a + (q.1 - x.2)) q.2.length []) }

/-- LINK_COPY (R320). -/
def execLinkCopy (job idx : Nat) (s : State) : Host.Outcome State Fault Refusal := Plan.done (runOpOpen 0x09 0x01 job idx (copyLinkOp job idx)) s

def semLinkOp (id i : Nat) (s : State) (j : Job) (t : Stroke) : OpOut :=
  let dst := fld (t.opnds.getD 0 0) 3 0
  let n := fld t.param 27 16
  let v := fld t.param 15 0
  { check := failIf (decide (s.ring ≤ dst)) 47,
    more := if dst = s.node then
              (if decide ((s.part j.part).semCount ≤ n) || (s.semOf j.part n).mutex then killJob id 0x33
               else Plan.seq [Plan.act (.sems ((s.part j.part).semFirst + n) (semChange (s.semOf j.part n) (bit t.param 31) v)), settle, endOp id i])
            else startXfer id i 5 dst (n + bitAt (bit t.param 31) 16 + v * 2 ^ 32) 0 0 [] }

/-- LINK_SEM (R320). -/
def execLinkSem (job idx : Nat) (s : State) : Host.Outcome State Fault Refusal := Plan.done (runOpOpen 0x09 0x02 job idx (semLinkOp job idx)) s

/-! ## Collectives (R323, R324; the steps and the form of a chunk on the wire are PRESUMED: log entry 25) -/

/-- A tensor whose elements lie without gaps. -/
def Operand.dense (o : Operand) : Bool :=
  (o.d.rank < 2 || o.st 0 == o.rowBytes) && (o.d.rank < 3 || o.st 1 == o.st 0 * o.e 1) && (o.d.rank < 4 || o.st 2 == o.st 1 * o.e 2)

def Operand.bytesAll (o : Operand) : Nat := o.rowBytes * o.e 1 * o.e 2 * o.e 3

/-- The part of the source that a direction carries of a chunk, in bytes: the first half of a chunk goes by U0, the second by U1 (R324). -/
def Coll.part (c : Coll) (dir chunk : Nat) : Nat × Nat :=
  let e := if c.bf16 then 2 else 4
  if c.reduce then
    let n := c.size / e
    let q := cdiv n c.ring
    let len := min q (n - chunk * q)
    let h := cdiv len 2
    if dir = 0 then (chunk * q * e, h * e) else ((chunk * q + h) * e, (len - h) * e)
  else
    let h := cdiv c.size 2
    if dir = 0 then (0, h) else (h, c.size - h)

/-- Bytes of a part on the wire: sums travel as FP32. -/
def Coll.wire (c : Coll) (n : Nat) : Nat := if c.reduce && c.bf16 then 2 * n else n

/-- The last step of a collective: RING − 1 hops of sums and as many of results, or RING − 1 hops of a gather. -/
def Coll.lastStep (c : Coll) : Nat := if c.reduce then 2 * c.ring - 3 else c.ring - 2

/-- Sends bytes of a part on to the next node of a direction. -/
def collSend (c : Coll) (dir step chunk : Nat) (data : List Byte) : Plan := fun s =>
  Plan.each ((pieces 256 0 data (data.length / 256 + 2)).map (·.2)) (fun b =>
    sendOn dir { typ := 7, dst := s.neighbour dir, src := s.node, vc := c.vc, len := cdiv b.length 16, status := 0, tag := 0,
                 arg := c.id + step * 2 ^ 16 + chunk * 2 ^ 32, data := b, tick := s.ticks }) s

/-- FP32 values of elements in memory, and their bytes from FP32 values. -/
def collRead (bf16 : Bool) (bs : List Byte) : List FVal :=
  if bf16 then (List.range (bs.length / 2)).map (fun k => decodeElem .bf16 (rdN bs (2 * k) 2))
  else (List.range (bs.length / 4)).map (fun k => ofBits32 (rdN bs (4 * k) 4))
def collPack (bf16 : Bool) (v : List FVal) : List Byte :=
  if bf16 then (v.map (fun x => leBytes 2 (convert .bf16 x).bits)).flatten else (v.map (fun x => leBytes 4 x.bits32)).flatten

/-- A collective at its start: each node sends its own part (R324). A ring of one node ends at once. -/
def collStart (c : Coll) : Plan := fun s =>
  let own (dir : Nat) : List Byte := let p := c.part dir c.node; s.bytesAt (c.src + p.1) p.2
  if c.ring ≤ 1 then endOp c.job c.idx s
  else Plan.seq [
    Plan.act (.colls (s.colls ++ [if c.reduce then c else { c with done := c.size }])),
    Plan.each [0, 1] (fun dir => collSend c dir 0 c.node (if c.reduce then collPack false (collRead c.bf16 (own dir)) else own dir))] s

/-- Ends the job of a collective with FAULT_LINK and tells every other node of the ring (R323). -/
def collMismatch (c : Coll) : Plan := fun s =>
  Plan.seq [
    killJob c.job 0x33,
    (fun s => [.colls (s.colls.filter (fun x => !(x.job == c.job && x.idx == c.idx)))]),
    Plan.each ((List.range c.ring).filter (· != c.node)) (fun n => fun s =>
      sendOn (route s n 0) { typ := 7, dst := n, src := s.node, vc := c.vc, len := 0, status := 1, tag := 0, arg := c.id, data := [], tick := s.ticks } s)] s

/-- Replaces a collective, or ends its stroke when every byte of the destination is final. -/
def collNote (c : Coll) : Plan := fun s =>
  let rest := s.colls.filter (fun x => !(x.job == c.job && x.idx == c.idx))
  let total := if c.reduce then c.size else c.size * c.ring
  if total ≤ c.done then Plan.andThen (Plan.act (.colls rest)) (endOp c.job c.idx) s else [.colls (rest ++ [c])]

/-- What the bytes of a COLL packet come to in a collective: what is read, what is written, what goes on, and the collective afterwards; `none` where they do not fit it (R324). -/
structure CollStep where
  reads : List (Nat × Nat)
  writes : List (Nat × List Byte)
  send : List Byte
  next : Coll

def collStep (c : Coll) (dir step chunk : Nat) (data : List Byte) (s : State) : Option CollStep :=
  let p := c.part dir chunk
  let key := dir * 2 ^ 32 + step * 2 ^ 16 + chunk
  let g := Tab.get 0 c.got key
  let d := data.take (c.wire p.2 - g)
  let c1 : Coll := { c with got := Tab.put 0 c.got key (g + d.length) }
  if c.ring ≤ chunk || c.lastStep < step || d.isEmpty then none
  else if c.reduce then
    let e := if c.bf16 then 2 else 4
    let at_ := p.1 + g / 4 * e
    let n := d.length / 4 * e
    let adds := decide (step + 2 ≤ c.ring)
    let last := decide (c.ring ≤ step + 2)
    let sums := if adds then List.zipWith FVal.add (collRead false d) (collRead c.bf16 (s.bytesAt (c.src + at_) n)) else collRead false d
    some { reads := if adds then [(c.src + at_, n)] else [], writes := if last then [(c.dst + at_, collPack c.bf16 sums)] else [],
           send := collPack false sums, next := if last then { c1 with done := c.done + n } else c1 }
  else some { reads := [], writes := [(c.dst + chunk * c.size + p.1 + g, d)], send := d, next := { c1 with done := c.done + d.length } }

/-- The bytes of a COLL packet reach a collective, once its accesses are admitted; `served` frees the packet (R324). -/
def collTake (c : Coll) (dir step chunk : Nat) (data : List Byte) (served : Plan) : Plan := fun s =>
  match collStep c dir step chunk data s with
  | none => Plan.andThen served (collMismatch c) s
  | some x =>
    withAccess c.job c.idx { cls := 7 } x.reads x.writes (Plan.seq [
      served,
      Plan.each x.reads (fun r => strokeRead c.job c.idx false false r.1 r.2),
      Plan.each x.writes (fun w => strokeWrite c.job c.idx false w.1 w.2),
      Plan.when (step < c.lastStep) (collSend c dir (step + 1) chunk x.send),
      collNote x.next]) s

/-- COLL_PACKET: a packet of a collective; with no local collective it waits for ULZ_TIMEOUT and is then dropped (R323-R325 code 0x08). -/
def collPacket (p : Nat) : Plan := fun s =>
  match nextOf (s.port p).inbox (fun k => k.typ == 7) with
  | none => []
  | some k =>
    match s.colls.find? (fun c => c.id == fld k.arg 15 0 && c.vc == k.vc) with
    | none => if k.tick + s.reg 0 pgULZ 0x104 % 65536 * 1000 ≤ s.ticks then Plan.andThen (servePacket p k) (linkViolation p 8) s else []
    | some c =>
      if (s.job c.job).killed.isSome then servePacket p k s
      else if k.status ≠ 0 then
        Plan.seq [servePacket p k, killJob c.job 0x33, (fun s => [.colls (s.colls.filter (fun x => !(x.job == c.job && x.idx == c.idx)))])] s
      else collTake c (1 - p) (fld k.arg 31 16) (fld k.arg 47 32) k.data (servePacket p k) s

def execCollPacket (port : Nat) (s : State) : Host.Outcome State Fault Refusal := Plan.done (collPacket port) s

/-- A collective may not open: one is open under the same COLL_ID, or a port is DOWN (R323). -/
def State.collBlocked (s : State) (c : Coll) : Bool := s.colls.any (fun x => x.id == c.id && x.vc == c.vc) || !(s.port 0).alive || !(s.port 1).alive

/-- A collective opens on its node, or ends its job (R323). -/
def collOpen (c : Coll) : Plan := fun s => if s.collBlocked c then killJob c.job 0x33 s else collStart c s

/-- What a collective stores at its start: a gather its own part, and a ring of one node the whole result (R323, R324). -/
def collFirst (s : State) (c : Coll) : List (Nat × List Byte) :=
  if s.collBlocked c then []
  else if c.ring ≤ 1 then [(c.dst, s.bytesAt c.src c.size)]
  else if c.reduce then [] else [(c.dst + c.node * c.size, s.bytesAt c.src c.size)]

/-- A descriptor fits a collective (R323). -/
def badColl (s : State) (j : Job) (o : Operand) : Bool :=
  o.bad1 || o.bad2 || o.dynBad || o.d.scaleMode != 0 || !o.dense || o.count == 0 || !s.placeOk j.part o.span.1 o.span.2

def allreduceOp (id i : Nat) (s : State) (j : Job) (t : Stroke) : OpOut :=
  let o := s.operand j (t.opnds.getD 0 0)
  let c : Coll := { job := id, idx := i, id := fld t.param 15 0, vc := j.part, reduce := true, bf16 := o.fmt == .bf16, ring := s.ring, node := s.node,
                    src := o.d.base, dst := o.d.base, size := o.bytesAll, start := s.ticks }
  { reads := o.readRanges j, check := failIf (badColl s j o || !(o.fmt == .fp32 || o.fmt == .bf16)) 47, writes := collFirst s c, more := collOpen c }

/-- LINK_ALLREDUCE (R324). -/
def execLinkAllreduce (job idx : Nat) (s : State) : Host.Outcome State Fault Refusal := Plan.done (runOpOpen 0x09 0x03 job idx (allreduceOp job idx)) s

def allgatherOp (id i : Nat) (s : State) (j : Job) (t : Stroke) : OpOut :=
  let o := s.operand j (t.opnds.getD 0 0)
  let d := s.operand j (t.opnds.getD 1 0)
  let want := o.ext.set (o.d.rank - 1) (o.e (o.d.rank - 1) * s.ring)
  let c : Coll := { job := id, idx := i, id := fld t.param 15 0, vc := j.part, reduce := false, bf16 := false, ring := s.ring, node := s.node,
                    src := o.d.base, dst := d.d.base, size := o.bytesAll, start := s.ticks }
  { reads := o.readRanges j ++ d.descRanges j,
    check := failIf (badColl s j o || badColl s j d || decide (o.d.fmtCode ≠ d.d.fmtCode) || decide (d.ext ≠ want)) 47,
    writes := collFirst s c, more := collOpen c }

/-- LINK_ALLGATHER (R323). -/
def execLinkAllgather (job idx : Nat) (s : State) : Host.Outcome State Fault Refusal := Plan.done (runOpOpen 0x09 0x04 job idx (allgatherOp job idx)) s

/-! ## Register writes -/

/-- U_VC_CREDIT_WRITE: a grant of the selected VC is taken while the port's grants sum to at most 4,096, and applies once the VC holds no packet (R318). -/
def uVcCreditWrite (p v : Nat) : Plan := fun s =>
  let x := s.port p
  let vc := s.reg 0 (pgU p) 0x108 % 8
  let g := fld v 12 0
  let sum := ((List.range 8).map (fun k => if k = vc then g else if Tab.get 0 x.grantNext k = 0 then x.grantOf k else Tab.get 0 x.grantNext k - 1)).foldl (· + ·) 0
  if 2 ≤ p || 4096 < sum then []
  else if Tab.get 0 x.used vc = 0 then [.ports p { x with grant := Tab.put 0x200 x.grant vc g, grantNext := Tab.put 0 x.grantNext vc 0 }]
  else [.ports p { x with grantNext := Tab.put 0 x.grantNext vc (g + 1) }]

def execUVcCreditWrite (port value : Nat) (s : State) : Host.Outcome State Fault Refusal := Plan.done (pageGate 0 (uVcCreditWrite port value)) s

/-- ULZ_NODE_WRITE: NODE and RING take writes only while both ports are DOWN (R311). -/
def ulzNodeWrite (v : Nat) : Plan := fun s => if (s.port 0).state = 0 ∧ (s.port 1).state = 0 then setReg 0 pgULZ 0x100 (Nat.land v 0xF0F) s else []

def execUlzNodeWrite (value : Nat) (s : State) : Host.Outcome State Fault Refusal := Plan.done (pageGate 0 (ulzNodeWrite value)) s

end Sys2Proof.Machine
end

