-- ==== Sys2Proof/Machine/Gddr.lean ====
section
/-! DEFINITION. The GDDR6 subsystem (15_gddr6_memory.md): errors, retries, scrubbing, refresh, training, retirement and migration, freeze and dump (R288-R309). -/
namespace Sys2Proof.Machine

/-! ## Where an address lies -/

/-- The subsystem serves requests: it is not frozen, not in self-refresh (R306, R335). -/
def State.memServes (s : State) : Bool := !s.gddr.frozen && !(s.func 0).d3hot

/-- Pages of a channel: 1 GiB of a 16 Gb device, 512 MiB of an 8 Gb one. -/
def Gddr.pages (g : Gddr) : Nat := if g.dense then 524288 else 262144

/-- The requester that an error is answered to (R299). -/
def agentWho (by_ : MemAgent) (s : State) : MemWho :=
  match by_ with
  | .stroke j i => (s.job j).who i
  | .bar4 => { cls := 7 }
  | .link _ => { cls := 7 }
  | .unit c => { cls := c % 8 }

/-! ## Errors (R293, R294, R296) -/

/-- An error of a position: its flag with the capture, and the dump's log, which holds the first 256 (R307). -/
def noteMem (w : MemWho) (n kind b a syndrome : Nat) : Plan := fun s =>
  let cap := s.memCapture w kind a syndrome
  Plan.andThen (raiseErr (pgM n) b cap)
    (fun s => if s.gddr.log.length < 256 then [.gddr { s.gddr with log := s.gddr.log ++ [cap] }] else []) s

/-- The MEMORY event of an error (R361). -/
def memEvent (by_ : MemAgent) (w : MemWho) (n kind a syndrome : Nat) : Plan := fun s =>
  let part := match by_ with | .stroke j _ => some (s.job j).part | _ => none
  event { cls := 4, code := kind, stroke := w.stroke, part := part.getD 0, charged := part.isSome, fn := w.fn, page := pgM n,
          detail := ((s.memCapture w kind a syndrome).map (leBytes 4)).flatten } s

/-- A read that cannot be served is answered to its requester (R294, R296). -/
def answerUe (by_ : MemAgent) : Plan := fun s =>
  match by_ with
  | .stroke j _ => killJob j 0x30 s
  | .bar4 => Plan.andThen raiseAer (answerRead [] true false) s
  | .link p => (match nextOf (s.port p).inbox (fun k => k.typ == 2) with
    | none => []
    | some k => Plan.andThen (servePacket p k) (answerPacket k 2 []) s)
  | .unit _ => []

/-- CORRECTABLE_ERROR: corrected and counted, not reported (R293). -/
def correctable (a syndrome : Nat) (w : MemWho) : Plan := fun s =>
  let n := s.servingPage a
  Plan.seq [bump (pgM n) 0x104 1, bump pgMEM 0x114 1, noteMem w n 1 0 a syndrome, countMetric 3 2 (s.posOf a)] s

/-- An uncorrectable block: POISONED, counted and recorded with a KIND; then the position's retirement, or the end of a migration whose M8 failed (R294, R305). -/
def uncorrectable (a kind syndrome : Nat) (by_ : MemAgent) (w : MemWho) : Plan := fun s =>
  let n := s.servingPage a
  let p := s.posOf a
  let m8 := s.servedByM8 a
  Plan.seq [
    Plan.act (.poisoned (a / 64) true),
    bumpField (pgM n) 0x108 15 0 1, bump pgMEM 0x118 1,
    noteMem w n kind 1 a syndrome, memEvent by_ w n kind a syndrome,
    answerUe by_,
    (if m8 then freeze 2 p 3 else retirePosition p 3)] s

/-- A block is read with an error: the decoder recognises POISONED first, corrects, or detects; of an error that R291 promises nothing of, the command tells what became (R291-R294). -/
def blockRead (a : Nat) (err : BlockErr) (kind syndrome : Nat) (told : Decoded64) (by_ : MemAgent) (w : MemWho) : Plan := fun s =>
  if Tab.get false s.poisoned (a / 64) then poisonRead w (a / 64 * 64) s
  else match (if decodeBlock err = .unstated then told else decodeBlock err) with
    | .corrected => correctable a syndrome w s
    | .detected => uncorrectable a kind syndrome by_ w s
    | _ => []

/-- A POISONED block that a requester reads is answered to it like an uncorrectable one (R294). -/
def memoryError (addr : Nat) (err : BlockErr) (syndrome : Nat) (told : Decoded64) (agent : MemAgent) : Plan := fun s =>
  if s.memServes && decide (addr < s.usable) then
    Plan.andThen (blockRead addr err 2 syndrome told agent (agentWho agent s)) (Plan.when (Tab.get false s.poisoned (addr / 64)) (answerUe agent)) s
  else []

def execCorrectableError (addr : Nat) (err : BlockErr) (syndrome : Nat) (agent : MemAgent) (s : State) : Host.Outcome State Fault Refusal :=
  Plan.done (memoryError addr err syndrome .corrected agent) s

def execUncorrectableError (addr : Nat) (err : BlockErr) (syndrome : Nat) (agent : MemAgent) (s : State) : Host.Outcome State Fault Refusal :=
  Plan.done (memoryError addr err syndrome .detected agent) s

/-- An on-demand retraining of a position begins (R302). -/
def startRetraining (p : Nat) : Plan := fun s => [.positions p { s.pos p with retraining := true }]

/-- Retries of a position: counted, and more of them in one second than the profile's limit start a retraining (R296). -/
def edcRetries (p n : Nat) (write : Bool) : Plan := fun s =>
  let x := s.pos p
  let sec := s.ticks / 1000000
  let c := if x.edcSecond = sec then x.edcCount + 3 else 3
  Plan.seq [
    (if write then bumpField (pgM n) 0x10C 31 16 3 else bumpField (pgM n) 0x10C 15 0 3),
    Plan.act (.positions p { x with edcSecond := sec, edcCount := c }),
    Plan.when (decide (s.gddr.edcLimit < c)) (startRetraining p),
    countMetric 3 3 p, countMetric 3 3 p, countMetric 3 3 p] s

/-- EDC_RETRY_EXHAUSTED: the fourth attempt of a burst has failed (R296); in a migration `spare` says that the failing write is the one to M8 (R305). -/
def edcExhausted (a : Nat) (write spare : Bool) (by_ : MemAgent) : Plan := fun s =>
  let w := agentWho by_ s
  let p := s.posOf a
  let m8 := if write then spare && s.gddr.copying && s.gddr.source == p else s.servedByM8 a
  let n := if m8 then 8 else p
  if write then
    Plan.seq [edcRetries p n true, Plan.act (.poisoned (a / 64) true), noteMem w n 5 4 a 0,
      (match by_ with | .stroke j _ => killJob j 0x30 | _ => Plan.skip), Plan.when m8 (freeze 2 p 3)] s
  else Plan.seq [edcRetries p n false, noteMem w n 4 3 a 0, answerUe by_] s

def execEdcRetryExhausted (addr : Nat) (write spare : Bool) (agent : MemAgent) (s : State) : Host.Outcome State Fault Refusal :=
  Plan.done (fun s => if s.memServes && decide (addr < s.usable) then edcExhausted addr write spare agent s else []) s

/-- PATROL_SCRUB: the next block in order is read; of an error that R291 promises nothing of, `found` tells whether it was seen as correctable (1), uncorrectable (2) or not at all;
a POISONED block counts as a poison read (R291, R294, R295). -/
def patrolScrub (err : BlockErr) (found syndrome : Nat) : Plan := fun s =>
  if !s.memServes || s.reg 0 pgMEM 0x10C % 65536 = 0 then []
  else
    let b := s.gddr.scrub
    withFree (fun c =>
      let w : MemWho := { cls := c % 8 }
      Plan.andThen (Plan.act (.gddr { s.gddr with scrub := if s.usable / 64 ≤ b + 1 then 0 else b + 1 }))
        (blockRead (b * 64) err 6 syndrome (if found = 1 then .corrected else if found = 2 then .detected else .clean) (.unit (c % 8)) w)) s

def execPatrolScrub (err : BlockErr) (found syndrome : Nat) (s : State) : Host.Outcome State Fault Refusal := Plan.done (patrolScrub err found syndrome) s

/-! ## Refresh and temperature (R301) -/

/-- Reads that wait in a channel of a position for a bank. -/
def State.readsQueued (s : State) (p channel bank : Nat) : Bool :=
  (s.channel (2 * p + channel % 2)).reads.any (fun r => (s.bankRow r.addr).1 == bank % 16)

/-- REFRESH_INTERVAL: a bank with queued reads may postpone its refresh by at most 8 intervals; otherwise it issues, with those postponed. `queued` says that the controller does postpone. -/
def refreshInterval (p channel bank : Nat) (queued : Bool) : Plan := fun s =>
  let x := s.pos p
  let k := channel % 2 * 16 + bank % 16
  let n := Tab.get 0 x.postponed k
  if p < 8 ∧ !x.withdrawn ∧ s.memServes then [.positions p { x with postponed := Tab.put 0 x.postponed k (if queued && s.readsQueued p channel bank && decide (n < 8) then n + 1 else 0) }]
  else []

def execRefreshInterval (position channel bank : Nat) (queued : Bool) (s : State) : Host.Outcome State Fault Refusal :=
  Plan.done (refreshInterval position channel bank queued) s

/-- A position whose device is powered: in service, or M8 as the target of a migration (R303, R304). -/
def State.powered (s : State) (n : Nat) : Bool := if n = 8 then s.gddr.migrating else decide (n < 8) && !(s.pos n).withdrawn

/-- GDDR6_TEMPERATURE_READ: the readings of the positions M0 to M8; above 85 degrees the refresh period is halved. -/
def temperatureRead (temps : List Nat) : Plan := fun s =>
  Plan.each (List.range 9) (fun n => fun s =>
    match temps[n]? with
    | none => []
    | some t => if s.powered n then [.positions n { s.pos n with temp := t % 256, hot := decide (85 < t % 256) }] else []) s

def execGddr6TemperatureRead (temps : List Nat) (s : State) : Host.Outcome State Fault Refusal := Plan.done (temperatureRead temps) s

/-! ## Training (R302, R303) -/

/-- Both margins reach the profile's minimum. -/
def Gddr.marginsOk (g : Gddr) (read write : Nat) : Bool := decide (g.minRead ≤ read) && decide (g.minWrite ≤ write)

/-- The end of a periodic or an on-demand run: margins and result; a position that fails starts retirement (R302, R303). -/
def trainingEnds (p read write : Nat) (ok : Bool) : Plan := fun s =>
  let pass := ok && s.gddr.marginsOk read write
  Plan.seq [
    Plan.act (.positions p { s.pos p with result := if pass then 1 else 3, readMargin := read % 256, writeMargin := write % 256, retraining := false, locked := true }),
    Plan.when (!pass) (raiseErr (pgM p) 5 []),
    Plan.when (s.mbxRuns 0x11 && s.svc.retrain == p) (mbxEnd 0 []),
    Plan.when (!pass) (retirePosition p 4)] s

/-- PERIODIC_RETRAIN (R302). -/
def execPeriodicRetrain (position readMargin writeMargin : Nat) (s : State) : Host.Outcome State Fault Refusal :=
  Plan.done (fun s => if position < 8 ∧ s.powered position ∧ s.memServes ∧ !(s.pos position).retraining then trainingEnds position readMargin writeMargin true s else []) s

/-- GDDR6_RETRAIN_DONE (R302). -/
def execGddr6RetrainDone (position readMargin writeMargin : Nat) (ok : Bool) (s : State) : Host.Outcome State Fault Refusal :=
  Plan.done (fun s => if position < 8 ∧ (s.pos position).retraining ∧ s.memServes then trainingEnds position readMargin writeMargin ok s else []) s

/-- MBX_GDDR6_RETRAIN: ARG0 names the position 0-7 (R302). -/
def mbxRetrain : Plan := fun s =>
  let p := s.arg 0
  if 8 ≤ p ∨ (s.pos p).withdrawn then mbxEnd 2 [] s
  else Plan.andThen (Plan.act (.svc { s.svc with retrain := p })) (startRetraining p) s

def execMbxGddr6Retrain (tag : Nat) (s : State) : Host.Outcome State Fault Refusal := Plan.done (hostGate 0 (mbxCommand 0x11 tag mbxRetrain)) s

/-- GDDR6_PLL_LOCK_LOSS: the loss is counted and recorded; after the relock the position is retrained (R329, R361). -/
def gddrPllLoss (p : Nat) : Plan := fun s =>
  if p < 9 ∧ s.powered p ∧ s.memServes then
    Plan.seq [bumpField pgCLK 0x110 31 16 1, raiseErr pgCLK 1 [],
      event { cls := 0x0C, code := 3, page := pgCLK, detail := [BitVec.ofNat 8 (2 + s.physOf 3 p)] },
      Plan.act (.positions p { s.pos p with locked := false }), Plan.when (decide (p < 8)) (startRetraining p)] s
  else []

def execGddr6PllLockLoss (position : Nat) (s : State) : Host.Outcome State Fault Refusal := Plan.done (gddrPllLoss position) s

/-! ## Migration (R304, R305) -/

/-- The copy begins: M8 is trained; a failure of its training fails the migration. -/
def copyBegins (trained : Bool) : Plan := fun s =>
  let g := s.gddr
  if !trained then Plan.andThen (raiseErr (pgM 8) 5 []) (freeze 2 g.source 4) s
  else [.gddr { g with copying := true, page := 0 }, .positions 8 { s.pos 8 with state := 4 }, .positions g.source { s.pos g.source with state := 3 },
        .reserve { s.reserve with phase := 3 }]

/-- An uncorrectable block met by the copy: POISONED in M8 too, counted and recorded, and no job is killed (R304 step 2). -/
def copyUe (a : Nat) : Plan := fun s =>
  withFree (fun c =>
    let w : MemWho := { cls := c % 8 }
    Plan.seq [Plan.act (.poisoned (a / 64) true), bumpField (pgM s.gddr.source) 0x108 15 0 1, bump pgMEM 0x118 1,
      noteMem w s.gddr.source 7 1 a 0, memEvent (.unit (c % 8)) w s.gddr.source 7 a 0]) s

/-- MIGRATION_PAGE_COPY: training of M8 first, then one page on both channels; `bad` are the addresses of its blocks that cannot be corrected (R304). -/
def migrationPageCopy (trained : Bool) (bad : List Nat) : Plan := fun s =>
  let g := s.gddr
  if !g.migrating || !s.memServes then []
  else if !g.copying then copyBegins trained s
  else if g.page < g.pages then
    Plan.andThen (Plan.each (bad.filter (fun a => decide (a < s.usable) && s.posOf a == g.source && s.dramPage a == g.page && !Tab.get false s.poisoned (a / 64))) copyUe)
      (fun s => [.gddr { s.gddr with page := g.page + 1 }]) s
  else []

def execMigrationPageCopy (trained : Bool) (bad : List Nat) (s : State) : Host.Outcome State Fault Refusal := Plan.done (migrationPageCopy trained bad) s

/-- Two pages exchange the registers that follow the physical position. -/
def swapCounters (p : Nat) : Plan := fun s =>
  Plan.each [0x104, 0x108, 0x10C] (fun o => Plan.andThen (setReg 0 (pgM p) o (s.reg 0 (pgM 8) o)) (setReg 0 (pgM 8) o (s.reg 0 (pgM p) o))) s

/-- The name of a position moves to the physical M8, and the position that had it is RETIRED (R304 step 4). -/
def moveName (p : Nat) (state8 : Nat) : Plan := fun s =>
  let old := s.pos p
  let m8 := s.pos 8
  Plan.andThen (fun _ => [.positions p { m8 with phys := s.physOf 3 8 + 1, state := 2, locked := true },
      .positions 8 { old with phys := s.physOf 3 p + 1, state := state8, retired := true, retraining := false }])
    (swapCounters p) s

/-- MIGRATION_DONE (R304 step 4). -/
def migrationDone : Plan := fun s =>
  let g := s.gddr
  if !g.migrating || !g.copying || decide (g.page < g.pages) || !s.memServes then []
  else
    let p := g.source
    let from_ := s.physOf 3 p
    let t := s.reserve.running
    let mine := match t with | some t => t.kind == 3 && t.index == p | none => false
    Plan.seq [
      (fun s => [.channels (2 * p) (s.channel 16), .channels (2 * p + 1) (s.channel 17), .channels 16 {}, .channels 17 {}]),
      moveName p 0,
      (fun s => [.gddr { s.gddr with migrating := false, copying := false, page := 0, source := 0, spare := false }]),
      ledgerWrite 3 1 p from_ (s.physOf 3 8) (match t with | some t => if t.kind = 3 ∧ t.index = p then t.cause else 3 | none => 3) (pgM p),
      Plan.when mine spareIdle,
      Plan.when (mine && (t.map (·.byMailbox)).getD false) (mbxEnd 0 [1, s.physOf 3 8]),
      nextTrigger] s

def execMigrationDone (s : State) : Host.Outcome State Fault Refusal := Plan.done migrationDone s

/-- POSITION_NOT_ANSWERING: the controllers freeze; no CAUSE of the ledger entry is stated for it, so it is a free value (R306). -/
def execPositionNotAnswering (position : Nat) (s : State) : Host.Outcome State Fault Refusal :=
  Plan.done (fun s => if position < 8 ∧ s.powered position ∧ s.memServes then withFree (fun f => freeze 3 position (f % 256)) s else []) s

/-! ## Cold-boot training (R289, R302, R303) -/

/-- The factory end of partition 0's GDDR6 where the usable size is below 15,872 MiB: 384 MiB below the stroke table, in units of 16 MiB (R289). -/
def factoryEnd (usableMib : Nat) : Nat := if usableMib < 15872 then (usableMib - 512) / 16 else 960

/-- The density of the lowest-numbered position that answers (R289). -/
def bootDensity (results : List TrainRun) : Bool := match results.find? (·.answers) with | some r => r.dense | none => false

/-- RESULT of a position's cold-boot training: no answer, another density than that of the lowest-numbered position that answers, or pass and fail by its eyes and margins (R289, R302). -/
def coldResult (g : Gddr) (dense : Bool) (r : TrainRun) : Nat :=
  if !r.answers then 5 else if r.dense != dense then 4 else if r.ok && g.marginsOk r.read r.write then 1 else 2

/-- A logical position after cold-boot training: ACTIVE when it passed, else replaced by a working M8, else withdrawn (R303). -/
def coldDecision (p : Nat) : Plan := fun s =>
  let x := s.pos p
  if x.withdrawn || x.result == 1 then []
  else
    let from_ := s.physOf 3 p
    if s.gddr.spare then
      Plan.seq [moveName p 5, (fun s => [.gddr { s.gddr with spare := false }]), ledgerWrite 3 1 p from_ (s.physOf 3 8) 4 (pgM p)] s
    else Plan.andThen (Plan.act (.positions p { x with withdrawn := true, retired := true, state := 5 })) (ledgerWrite 3 2 p from_ 0xFF 4 (pgM p)) s

/-- GDDR6_TRAINING_DONE: training of the nine physical positions ends; spare decisions, the capacity, and M8 powered down (R289, R303). -/
def trainingDone (results : List TrainRun) : Plan := fun s =>
  if s.gddr.trained || s.svc.stage = 3 || s.gddr.frozen then []
  else
    let dense := bootDensity (results.take 9)
    let res (n : Nat) : TrainRun := results.getD (s.physOf 3 n) { answers := false, dense := false, ok := false, read := 0, write := 0 }
    Plan.seq [
      Plan.each (List.range 9) (fun n => fun s =>
        let r := res n
        let c := coldResult s.gddr dense r
        Plan.andThen (Plan.act (.positions n { s.pos n with state := if c = 1 then 2 else 5, result := c, readMargin := r.read % 256, writeMargin := r.write % 256 }))
          (Plan.when (c != 1 && !(s.pos n).withdrawn) (raiseErr (pgM n) 5 [])) s),
      (fun s => [.gddr { s.gddr with trained := true, dense := dense, rate := s.gddr.cfgRate, spare := (s.pos 8).result == 1 && !(s.pos 8).retired }]),
      Plan.each (List.range 8) coldDecision,
      (fun s => [.positions 8 (if s.gddr.spare then { s.pos 8 with state := 0, result := 0, readMargin := 0, writeMargin := 0 } else s.pos 8),
                 .gddr { s.gddr with inService := s.inService.length }]),
      (fun s => setReg 0 pgMEM 0x108 (s.gddr.inService * (if dense then 1984 else 992)) s),
      (fun s => if s.svc.layoutOwn then [] else
        let q := s.part 0
        [.parts 0 { q with gSize := min q.gSize (factoryEnd (s.reg 0 pgMEM 0x108)) }])] s

def execGddr6TrainingDone (results : List TrainRun) (s : State) : Host.Outcome State Fault Refusal := Plan.done (trainingDone results) s

/-! ## The dump on the mailbox (R307) -/

/-- DUMP_READ: ARG0 is a byte offset, a multiple of 32. -/
def mbxDump : Plan := fun s =>
  let off := s.arg 0
  if off % 32 ≠ 0 then mbxEnd 2 [] s
  else
    let d := if s.gddr.frozen then s.gddr.dump else s.dumpNow
    mbxEnd 0 ((List.range 8).map (fun k => rdN d (off + 4 * k) 4)) s

def execMbxDumpRead (tag : Nat) (s : State) : Host.Outcome State Fault Refusal := Plan.done (hostGate 0 (mbxCommand 0x04 tag mbxDump)) s

end Sys2Proof.Machine
end

