-- ==== Sys2Proof/Machine/Pools.lean ====
section
/-! DEFINITION. The buffer pool manager (14_buffer_pools.md): pools, slices and handles, choosing a pool, reference counts, free lists and their links (R277-R287). -/
namespace Sys2Proof.Machine

/-- Builds the free list of a slice from the counts, in ascending index, and increments its generation (R284). -/
def buildList (pool part : Nat) : Plan := fun s =>
  let x := s.pool pool
  let sl := x.slice part
  let f := x.firstIndex part
  let free := ((List.range sl.count).map (· + f)).filter (fun i => s.refCount pool i == 0)
  let gen := (sl.gen + 1) % 2 ^ 32
  Plan.andThen
    (Plan.seq (free.mapIdx (fun k i => unitStore pgPOL (x.bufAddr part i) (linkBytes (free.getD (k + 1) 0) (k + 1 == free.length) i pool part gen))))
    (modSlice pool part (fun sl => { sl with state := 1, head := free.headD 0, free := free.length, gen := gen })) s

/-- SLICE_REBUILD_DONE: the list is built and the slice is ACTIVE (R284, R287). -/
def rebuildDone (pool part : Nat) : Plan := fun s => if ((s.pool pool).slice part).state = 3 then buildList pool part s else []

/-- A rebuild of an enabled slice starts. -/
def startRebuild (pool part : Nat) : Plan := fun s =>
  if (s.pool pool).enable && ((s.pool pool).slice part).enable then modSlice pool part (fun sl => { sl with state := 3, free := 0 }) s else []

/-- The link of the buffer at the head of a slice is corrupt (R285). -/
def linkCorrupt (s : State) (pool part : Nat) : Bool :=
  let x := s.pool pool
  let sl := x.slice part
  let f := x.firstIndex part
  let b := s.bytesAt (x.bufAddr part sl.head) 16
  let w0 := rdN b 0 4
  let next := fld w0 19 0
  let last := bit w0 31
  rdN b 12 4 != crc32c (b.take 12) || fld (rdN b 4 4) 19 0 != sl.head || fld (rdN b 4 4) 23 20 != pool || fld (rdN b 4 4) 26 24 != part ||
  rdN b 8 4 != sl.gen || (!last && (decide (next < f) || decide (f + sl.count ≤ next))) || (decide (1 < sl.free) && last) || s.refCount pool sl.head != 0

/-- A quarantine: the flag, the event, and the end of every job of the partition (R285). -/
def quarantine (pool part : Nat) : Plan := fun s =>
  let sl := (s.pool pool).slice part
  Plan.seq [
    modSlice pool part (fun sl => { sl with state := 2 }),
    raiseErr pgPOL 1 [],
    event { cls := 8, code := 1, part := part, charged := true, fn := (s.part part).fn, page := pgPOL, detail := leBytes 4 (handleOf pool sl.head) },
    Plan.each (s.jobIds.filter (fun id => (s.job id).part == part)) (fun id => killJob id 0x10)] s

/-! ## Allocation (R280, R281) -/

/-- What the manager answers. -/
inductive AllocAns
  | got (handle addr : Nat)
  | empty
  | noFit
  /-- The slice is under rebuild: the allocation waits (R287). -/
  | wait
  deriving DecidableEq, Repr

/-- An allocation from one slice (R279, R284, R285). -/
def takeFrom (s : State) (pool part : Nat) : AllocAns × Plan :=
  let x := s.pool pool
  let sl := x.slice part
  if !x.enable || !sl.enable || sl.count = 0 || sl.state = 2 then (.empty, Plan.skip)
  else if sl.state = 3 then (.wait, Plan.skip)
  else if !s.inPartGddr part sl.base (sl.count * x.bufBytes) then (.empty, raiseErr pgPOL 3 [])
  else if sl.free = 0 then (.empty, Plan.skip)
  else if linkCorrupt s pool part then (.empty, quarantine pool part)
  else
    let i := sl.head
    let next := fld (s.numAt (x.bufAddr part i) 4) 19 0
    (.got (handleOf pool i) (x.bufAddr part i),
     Plan.andThen (modSlice pool part (fun sl => { sl with head := next, free := sl.free - 1 })) (setRef pool i 1))

/-- The first pool of a chain whose buffers hold `size` bytes (R280). -/
def fitPool (s : State) (size : Nat) : Nat → Nat → Option Nat
  | 0, _ => none
  | fuel + 1, p =>
    let x := s.pool p
    if size ≤ x.bufBytes then some p else if x.nextEn then fitPool s size fuel x.next else none

/-- An allocation of a partition: the smallest fit of the chain, and one step up when its slice has nothing (R280, R281). -/
def allocate (s : State) (part pool size : Nat) : AllocAns × Plan :=
  match fitPool s size 16 pool with
  | none => (.noFit, Plan.skip)
  | some p =>
    let sl := (s.pool p).slice part
    let nothing := !sl.enable || sl.count = 0 || sl.state = 2 || (sl.state = 1 && sl.free = 0)
    if nothing && (s.pool p).stepUp && ((s.pool (s.pool p).next).slice part).state != 2 then takeFrom s (s.pool p).next part else takeFrom s p part

/-- A pool is within a partition's quota (R278). -/
def State.inQuota (s : State) (part pool : Nat) : Bool :=
  (s.pool pool).enable && ((s.pool pool).slice part).enable && ((s.pool pool).slice part).count != 0

/-! ## Reference counts (R283) -/

/-- A count operation of a function is refused: counted in its own slice of the pool, if it has one (R283). -/
def refRefused (part : Option Nat) (pool : Nat) : Plan := fun s =>
  match part with
  | none => []
  | some p => if ((s.pool pool).slice p).enable then modSlice pool p (fun sl => { sl with refused := satAdd 0xFFFF sl.refused 1 }) s else []

/-- POL_REF: the host adds or releases a reference (R283). -/
def polRef (fn v : Nat) : Plan := fun s =>
  let h := fld v 23 0
  let pool := fld h 23 20
  let part := s.partOf fn
  if !(s.pool pool).enable || ((s.pool pool).sliceOf (fld h 19 0)).isNone || (s.pool pool).sliceOf (fld h 19 0) != part then refRefused part pool s
  else if bit v 31 then (if (addRef s h).1 then (addRef s h).2 s else refRefused part pool s)
  else releaseRef h s

def execPolRef (fn value : Nat) (s : State) : Host.Outcome State Fault Refusal := Plan.done (pageGate fn (polRef fn value)) s

/-- The answer to a host allocation (R281). -/
def answerAlloc (fn v : Nat) : Plan := fun s =>
  match s.partOf fn with
  | none => setReg fn pgPOL 0x138 (2 * 2 ^ 30 + fld v 5 0 * 2 ^ 24) s
  | some p =>
    let a := allocate s p (fld v 31 28) (fld v 25 8 * 4096)
    let res (r h : Nat) : Plan := setReg fn pgPOL 0x138 (r * 2 ^ 30 + fld v 5 0 * 2 ^ 24 + h)
    Plan.andThen a.2
      (match a.1 with
       | .wait => Plan.act (.polWaits fn (v + 1))
       | .empty => Plan.andThen (res 2 0) (Plan.act (.polWaits fn 0))
       | .noFit => Plan.andThen (res 3 0) (Plan.act (.polWaits fn 0))
       | .got h addr => Plan.seq [res 1 h, setReg fn pgPOL 0x13C (addr % 2 ^ 32), setReg fn pgPOL 0x140 (addr / 2 ^ 32), Plan.act (.polWaits fn 0)]) s

/-- POL_ALLOC: ignored while the function's previous allocation is unanswered (R280). -/
def polAlloc (fn v : Nat) : Plan := fun s => if Tab.get 0 s.polWaits fn != 0 then [] else answerAlloc fn (v % 2 ^ 32) s

def execPolAlloc (fn value : Nat) (s : State) : Host.Outcome State Fault Refusal := Plan.done (pageGate fn (polAlloc fn value)) s

/-- SLICE_REBUILD_DONE also answers the host allocations that waited (R287). -/
def execSliceRebuildDone (pool part : Nat) (s : State) : Host.Outcome State Fault Refusal :=
  Plan.done (Plan.andThen (rebuildDone pool part) (fun s => Plan.each (Tab.keys s.polWaits) (fun fn => answerAlloc fn (Tab.get 0 s.polWaits fn - 1)) s)) s

/-! ## Configuration (R279) -/

/-- A pool may not be enabled. -/
def poolRefused (s : State) (n : Nat) : Bool :=
  let x := s.pool n
  let slices := (List.range 8).filter (fun p => (x.slice p).enable)
  let others := (List.range 16).filter (fun m => m != n && (s.pool m).enable)
  let span (x : Pool) (p : Nat) : Nat × Nat := ((x.slice p).base, (x.slice p).count * x.bufBytes)
  x.size4k == 0 || decide (1048576 < x.first + x.total) ||
  others.any (fun m => overlaps x.first x.total (s.pool m).first (s.pool m).total) ||
  slices.any (fun p => decide ((s.part p).state = .unused) || (x.slice p).base % 4096 != 0 || !s.inPartGddr p (span x p).1 (span x p).2 ||
    slices.any (fun q => q != p && overlaps (span x p).1 (span x p).2 (span x q).1 (span x q).2) ||
    others.any (fun m => (List.range 8).any (fun q => ((s.pool m).slice q).enable &&
      overlaps (span x p).1 (span x p).2 (span (s.pool m) q).1 (span (s.pool m) q).2))) ||
  (x.nextEn && (!(s.pool x.next).enable || decide ((s.pool x.next).size4k ≤ x.size4k)))

/-- A pool comes into use: every enabled slice builds its list (R279, R284). -/
def enablePool (n : Nat) : Plan := fun s =>
  Plan.andThen (Plan.act (.pools n { s.pool n with enable := true })) (Plan.each (List.range 8) (startRebuild n)) s

/-- POL_POOL_ENABLE: a write of POL_POOL_CFG of the selected pool (R279). -/
def polPoolEnable (v : Nat) : Plan := fun s =>
  let n := s.reg 0 pgPOL 0x108 % 16
  let x := s.pool n
  if x.enable then
    if bit v 31 || !(List.range 8).all (fun p => (x.slice p).free == (x.slice p).count) then []
    else [.pools n { x with enable := false, slices := x.slices.map (fun e => (e.1, { e.2 with state := 0 })) }]
  else
    let y := { x with stepUp := bit v 30, nextEn := bit v 29, next := fld v 27 24, size4k := fld v 17 0 }
    Plan.andThen (Plan.act (.pools n y))
      (fun s => if !bit v 31 then [] else if poolRefused s n then (raiseErr pgPOL 0 []) s else enablePool n s) s

def execPolPoolEnable (value : Nat) (s : State) : Host.Outcome State Fault Refusal := Plan.done (pageGate 0 (polPoolEnable value)) s

/-- POL_INIT: the selected slice is rebuilt from the side table (R285). -/
def polInit (v : Nat) : Plan := fun s => if bit v 0 then startRebuild (s.reg 0 pgPOL 0x108 % 16) (s.reg 0 pgPOL 0x114 % 8) s else []

def execPolInit (value : Nat) (s : State) : Host.Outcome State Fault Refusal := Plan.done (pageGate 0 (polInit value)) s

/-! ## Resets (R286) -/

/-- Every count of a partition's slices becomes 0, and their lists are rebuilt. -/
def resetSlices (part : Nat) : Plan := fun s =>
  Plan.each (List.range 16) (fun n => fun s =>
    let x := s.pool n
    let lo := x.first + x.firstIndex part
    if x.enable && (x.slice part).enable then Plan.andThen (Plan.act (.refsClear lo (x.slice part).count)) (startRebuild n part) s else []) s

end Sys2Proof.Machine
end

