-- ==== Sys2Proof/Machine/Hatch.lean ====
section
/-! DEFINITION. The hatch unit's macro-operations (06_formats_quantisation_hatch.md, R105-R115): each a function on tensors of FP32 values. -/
namespace Sys2Proof.Machine

/-- The operands of a hatch stroke (R106). -/
structure HatchIn where
  s : State
  t : Stroke
  job : Job
  x : Operand
  y : Operand
  z : Operand
  /-- P0-P7 as 32-bit words. -/
  p : List Nat
  /-- E0-E3: device addresses of further descriptors, 0 when absent. -/
  e : List Nat

def HatchIn.pw (h : HatchIn) (k : Nat) : Nat := h.p.getD k 0
/-- A parameter as an FP32 value. -/
def HatchIn.pf (h : HatchIn) (k : Nat) : FVal := ofBits32 (h.pw k)
def HatchIn.axis (h : HatchIn) : Nat := fld h.t.param 1 0
def HatchIn.sub (h : HatchIn) : Nat := fld h.t.param 15 8
def HatchIn.cnt (h : HatchIn) : Nat := fld h.t.param 31 16
def HatchIn.eOp (h : HatchIn) (k : Nat) : Operand := h.s.operand h.job (h.e.getD k 0)
def HatchIn.hasE (h : HatchIn) (k : Nat) : Bool := h.e.getD k 0 != 0

/-- A tensor as the hatch unit reads it: every element in FP32 (R106). -/
def Operand.fp (o : Operand) (s : State) : Tensor := { ext := o.ext, vals := (indices o.ext).map (fun i => (o.value s i).r32) }

/-- An INT32 tensor as integers. -/
def Operand.ints (o : Operand) (s : State) : List Int := (indices o.ext).map (fun i => toSigned 32 (o.code s i))

def HatchIn.xt (h : HatchIn) : Tensor := h.x.fp h.s
def HatchIn.yt (h : HatchIn) : Tensor := h.y.fp h.s

/-- What a hatch operation computes: the tensors it writes, the further tensors it reads, a limit of the catalogue that fails,
the labels and indices it ignores, and its catalogue cost in half cycles. -/
structure HatchOut where
  outs : List (Operand × Tensor) := []
  also : List Operand := []
  bad : Bool := false
  ignored : Nat := 0
  cost : Nat := 0

/-- The hatch operations that take no X (R110). -/
def hatchNoX (op : Nat) : Bool := op == 0x0A || op == 0x0B || op == 0x3C

/-- The hatch operations that take Y. -/
def hatchHasY (op : Nat) : Bool :=
  [0x01, 0x02, 0x03, 0x04, 0x05, 0x06, 0x1A, 0x25, 0x26, 0x27, 0x28, 0x2A, 0x30, 0x31, 0x32, 0x38, 0x39, 0x40, 0x41].contains op

/-- Elementwise operations, whose Z may coincide with X (R106). -/
def hatchElementwise (op : Nat) : Bool := decide (op ≤ 0x1A) && !hatchNoX op || op == 0x3D

/-- A destination's scaling is one R106 allows. -/
def badZScale (z : Operand) : Bool :=
  z.badScale || z.d.scaleMode == 4 || (z.d.scaleMode != 0 && z.d.scaleAxis != 0) || (z.d.scaleMode == 3 && decide (65536 < z.e 0))

/-- Whether any two tensors of a list meet. -/
def anyMeet (f : Operand → Operand → Bool) : List Operand → Bool
  | [] => false
  | o :: os => os.any (f o) || anyMeet f os

/-- The operations that update tensors in place: hatch.sgdm, hatch.adamw and hatch.scatter_add (R110, R114). -/
def hatchInPlace (op : Nat) : Bool := [0x38, 0x39, 0x41].contains op

/-- The tensors of a stroke that meet though they may not (R106): each tensor counts once, one that is updated in place as a destination, and X not beside the Z of an elementwise operation that coincides with it. -/
def hatchOverlap (op : Nat) (x y z : Operand) (also dests : List Operand) : Bool :=
  let xIn := !hatchNoX op && op != 0x38 && op != 0x39 && !(z.coincides x && hatchElementwise op)
  let ins := (if xIn then [x] else []) ++ (if hatchHasY op then [y] else []) ++ (if hatchInPlace op then [] else also)
  anyMeet Operand.meets ins || dests.any (fun d => ins.any d.meetsScaled) || anyMeet Operand.meetsScaled dests

/-- The bytes of a tensor that the hatch unit reads: whole rows, and the shifts within the actual extents (R107). -/
def Operand.bytesRead (o : Operand) : Nat := (o.rowSpans ++ o.scaleRows).foldl (fun n r => n + r.2) 0

/-- A hatch operation as an operation of its stroke: the placement checks of R107, the tensors written under R97 and R100, the counters of the cluster. -/
def hatchOp (op : Nat) (f : HatchIn → HatchOut) (s : State) (j : Job) (t : Stroke) : OpOut :=
  let pb := t.opnds.getD 3 0
  let blk := if pb = 0 then zeros 64 else s.bytesAt pb 64
  let h : HatchIn :=
    { s := s, t := t, job := j, x := s.operand j (t.opnds.getD 0 0), y := s.operand j (t.opnds.getD 1 0), z := s.operand j (t.opnds.getD 2 0),
      p := (List.range 8).map (fun k => rdN blk (4 * k) 4), e := (List.range 4).map (fun k => rdN blk (0x20 + 8 * k) 6) }
  let ins := (if hatchNoX op then [] else [h.x]) ++ (if hatchHasY op then [h.y] else [])
  let o := f h
  let zIsX := h.z.coincides h.x && !hatchNoX op
  let dests := o.outs.map (·.1)
  let dyn := (ins ++ o.also ++ dests).any Operand.dynBad
  let bad := o.bad || (ins ++ o.also).any (fun a => (a.checks s j.part false dyn).isSome || a.badScale) ||
    dests.any (fun d => (d.checks s j.part true dyn).isSome || badZScale d) || hatchOverlap op h.x h.y h.z o.also dests ||
    (pb != 0 && !s.placeOk j.part pb 64)
  let outs := o.outs.map (fun x => x.1.write s x.2)
  let writes := (outs.map (·.writes)).flatten
  let n := ((t.place.map Place.cluster).getD 0)
  let rd := (ins ++ o.also).foldl (fun a x => a + x.bytesRead) 0
  let wr := writes.foldl (fun a x => a + x.2.length) 0
  let w := if (s.cluster n).mover.isSome then 128 else 256
  if bad then { check := some 15 }
  else
    { reads := (if pb = 0 then [] else [(pb, 64)]) ++ ((ins ++ o.also).map (fun x => x.readRanges j)).flatten ++ (dests.map (fun x => x.descRanges j)).flatten,
      writes := writes, zIsX := zIsX || hatchInPlace op, paths := [4],
      more := Plan.seq [
        bump (pgBC n) 0x134 ((outs.map (·.sat)).foldl (· + ·) 0), bump (pgBC n) 0x138 ((outs.map (·.nan)).foldl (· + ·) 0),
        bump (pgBC n) 0x144 o.ignored, bumpWrap (pgBC n) 0x13C 1,
        bumpWrap (pgBC n) 0x140 (300 + max (cdiv o.cost 2) (max (cdiv rd w) (cdiv wr w)))] }

/-- A hatch command: the stroke's operation carried out. -/
def hatchRun (op id i : Nat) (f : HatchIn → HatchOut) : Plan := runOp 0x03 op id i (hatchOp op f)

/-! ## Elementwise operations (R106, R110) -/

/-- An extent of an input equals Z's or is 1 (R106). -/
def fits (z a : Operand) : Bool := (List.range 4).all (fun k => a.e k == z.e k || a.e k == 1)

/-- Half cycles at `c` cycles per 128 elements of a count. -/
def perBlock (halfCycles count : Nat) : Nat := cdiv count 128 * halfCycles

def map1 (cost : Nat) (f : FVal → FVal) (h : HatchIn) : HatchOut :=
  let x := h.xt
  { outs := [(h.z, Tensor.build h.z.ext (fun i => f (x.bcast i)))], bad := !fits h.z h.x, cost := perBlock (2 * cost) h.z.count }

def map2 (cost : Nat) (f : FVal → FVal → FVal) (h : HatchIn) : HatchOut :=
  let x := h.xt
  let y := h.yt
  { outs := [(h.z, Tensor.build h.z.ext (fun i => f (x.bcast i) (y.bcast i)))], bad := !fits h.z h.x || !fits h.z h.y,
    cost := perBlock (2 * cost) h.z.count }

def hatchAdd : HatchIn → HatchOut := map2 1 FVal.add
def hatchSub : HatchIn → HatchOut := map2 1 FVal.sub
def hatchMul : HatchIn → HatchOut := map2 1 FVal.mul
def hatchAxpby (h : HatchIn) : HatchOut := map2 1 (fun a b => ((h.pf 0).mul a).add ((h.pf 1).mul b)) h
def hatchMax : HatchIn → HatchOut := map2 1 FVal.max
def hatchMin : HatchIn → HatchOut := map2 1 FVal.min
def hatchAffine (h : HatchIn) : HatchOut := map1 1 (fun a => ((h.pf 0).mul a).add (h.pf 1)) h
def hatchCast : HatchIn → HatchOut := map1 1 id

/-- hatch.clamp needs P0 ≤ P1 (R110). -/
def hatchClamp (h : HatchIn) : HatchOut :=
  let o := map1 1 (fun a => FVal.min (FVal.max a (h.pf 0)) (h.pf 1)) h
  { o with bad := o.bad || !(h.pf 1).ge (h.pf 0) }

/-- hatch.fill: P0 is INT32 when Z is an integer format, and FP32 otherwise. -/
def hatchFill (h : HatchIn) : HatchOut :=
  let v := if h.z.fmt.isInt then FVal.ofInt (toSigned 32 (h.pw 0)) else h.pf 0
  { outs := [(h.z, Tensor.build h.z.ext (fun _ => v))], cost := perBlock 2 h.z.count }

def hatchIota (h : HatchIn) : HatchOut :=
  { outs := [(h.z, Tensor.build h.z.ext (fun i => FVal.ofInt (linear h.z.ext i)))],
    bad := !(h.z.fmt == .int32 || h.z.fmt == .fp32), cost := perBlock 2 h.z.count }

def hatchRelu : HatchIn → HatchOut := map1 1 (fun a => FVal.max a .zero)
def hatchGelu : HatchIn → HatchOut := map1 6 FVal.gelu
def hatchSilu : HatchIn → HatchOut := map1 5 FVal.silu
def hatchSigmoid : HatchIn → HatchOut := map1 4 FVal.sigmoid
def hatchTanh : HatchIn → HatchOut := map1 4 FVal.tanh
def hatchExp : HatchIn → HatchOut := map1 4 FVal.exp
def hatchLog : HatchIn → HatchOut := map1 4 FVal.log
def hatchSqrt : HatchIn → HatchOut := map1 2 FVal.sqrt
def hatchRsqrt : HatchIn → HatchOut := map1 2 FVal.rsqrt
def hatchRecip : HatchIn → HatchOut := map1 2 FVal.recip

/-- f′(X): 0 or 1 for relu with f′(0) = 0; the derivative of the others, within a bound that no rule states (R110, log entry 11). -/
def actDeriv (sub : Nat) (x : FVal) : FVal :=
  if x.isNan then .nan
  else match sub with
    | 0 => if FVal.zero.lt x then .fin false 1 0 else .zero
    | 1 => x.geluD
    | 2 => x.siluD
    | 3 => x.sigmoidD
    | _ => x.tanhD

def hatchActBwd (h : HatchIn) : HatchOut :=
  let o := map2 6 (fun a b => b.mul (actDeriv h.sub a)) h
  { o with bad := o.bad || decide (4 < h.sub) }

/-! ## Reductions along AXIS (R108, R110, R111) -/

/-- The row of values along an axis at an index. -/
def Tensor.row (t : Tensor) (axis : Nat) (i : List Nat) : List FVal :=
  (List.range (t.e axis)).map (fun k => t.at (i.set axis k))

/-- Every 128th value of a row from lane `j` on. -/
def lane (r : List FVal) (j : Nat) : List FVal :=
  (List.range (cdiv (r.length - j) 128)).map (fun k => r.getD (j + 128 * k) .zero)

/-- Combines adjacent pairs, `n` times: the binary tree of R108. -/
def tree (f : FVal → FVal → FVal) : Nat → List FVal → List FVal
  | 0, l => l
  | n + 1, l => tree f n ((List.range (l.length / 2)).map (fun k => f (l.getD (2 * k) .zero) (l.getD (2 * k + 1) .zero)))

/-- The fixed order of R108: 128 lanes in ascending order, then the tree. -/
def reduce (f : FVal → FVal → FVal) (init : FVal) (r : List FVal) : FVal :=
  (tree f 7 ((List.range 128).map (fun j => (lane r j).foldl f init))).headD init

def sumRow (r : List FVal) : FVal := reduce FVal.add .zero r
def maxRow (r : List FVal) : FVal := reduce FVal.max (.inf true) r

/-- A row operation that gives one value for each row; Z has extent 1 along AXIS. -/
def rowOp (cost limit : Nat) (f : List FVal → FVal) (h : HatchIn) : HatchOut :=
  let x := h.xt
  { outs := [(h.z, Tensor.build h.z.ext (fun i => f (x.row h.axis i)))],
    bad := decide (h.z.ext ≠ h.x.ext.set h.axis 1) || decide (limit < h.x.e h.axis), cost := perBlock (2 * cost) h.x.count }

def hatchSum : HatchIn → HatchOut := rowOp 1 65536 sumRow
def hatchRowmax : HatchIn → HatchOut := rowOp 1 65536 maxRow

/-- The lowest index of the maximum, NaN ignored; −1 if all are NaN (R110). -/
def argmax (r : List FVal) : Int :=
  ((r.mapIdx (fun k v => (k, v))).foldl (fun (b : Int × FVal) kv =>
    if kv.2.isNan then b else if b.1 < 0 || b.2.lt kv.2 then ((kv.1 : Int), kv.2) else b) (-1, .zero)).1

def hatchArgmax (h : HatchIn) : HatchOut :=
  let o := rowOp 1 65536 (fun r => FVal.ofInt (argmax r)) h
  { o with bad := o.bad || h.z.fmt != .int32 }

/-- A row operation whose result has the shape of X. -/
def rowMap (cost : Nat) (f : List Nat → List FVal → List FVal) (h : HatchIn) : HatchOut :=
  let x := h.xt
  let rows := (indices (h.x.ext.set h.axis 1)).map (fun i => (i, f i (x.row h.axis i)))
  { outs := [(h.z, Tensor.build h.z.ext (fun i =>
      (((rows.find? (fun r => r.1 == i.set h.axis 0)).map (·.2)).getD []).getD (i.getD h.axis 0) .zero))],
    bad := decide (h.z.ext ≠ h.x.ext), cost := perBlock (2 * cost) h.x.count }

/-- The exponentials of a scaled row against its maximum, and their sum (R111). -/
def expRow (p0 : FVal) (r : List FVal) : FVal × List FVal × FVal :=
  let x := r.map (fun v => p0.mul v)
  let m := maxRow x
  let e := x.map (fun v => (v.sub m).exp)
  (m, e, sumRow e)

def softmaxRow (p0 : FVal) (r : List FVal) : List FVal :=
  let (m, e, sm) := expRow p0 r
  if m = .inf true then r.map (fun _ => .zero) else let q := sm.recip; e.map (fun v => v.mul q)

def logSoftmaxRow (p0 : FVal) (r : List FVal) : List FVal :=
  let (m, _, sm) := expRow p0 r
  if m = .inf true then r.map (fun _ => .inf true)
  else let l := sm.log; r.map (fun v => ((p0.mul v).sub m).sub l)

/-- P0 of the softmax operations is finite and above 0 (R110). -/
def badP0 (h : HatchIn) : Bool := !(h.pf 0).isFinite || !FVal.zero.lt (h.pf 0) || (h.pf 0).eqNum .zero

def hatchSoftmax (h : HatchIn) : HatchOut :=
  let o := rowMap 6 (fun _ r => softmaxRow (h.pf 0) r) h
  { o with bad := o.bad || badP0 h }
def hatchLogsoftmax (h : HatchIn) : HatchOut :=
  let o := rowMap 6 (fun _ r => logSoftmaxRow (h.pf 0) r) h
  { o with bad := o.bad || badP0 h }

def recipLen (r : List FVal) : FVal := ((FVal.ofInt r.length).r32).recip
def meanRow (r : List FVal) : FVal := (sumRow r).mul (recipLen r)

/-- μ and ρ of a layer norm (R111). -/
def layerStats (eps : FVal) (r : List FVal) : FVal × FVal :=
  let mu := meanRow r
  let q := (sumRow (r.map (fun v => let d := v.sub mu; d.mul d))).mul (recipLen r)
  (mu, (q.add eps).rsqrt)

/-- ρ of an RMS norm (R111). -/
def rmsRho (eps : FVal) (r : List FVal) : FVal := (((sumRow (r.map (fun v => v.mul v))).mul (recipLen r)).add eps).rsqrt

def hatchLayernorm (h : HatchIn) : HatchOut :=
  let y := h.yt
  let o := rowMap 5 (fun _ r =>
    let (mu, rho) := layerStats (h.pf 0) r
    r.mapIdx (fun k v => (((v.sub mu).mul rho).mul (y.at [k, 0, 0, 0])).add (y.at [k, 1, 0, 0]))) h
  { o with bad := o.bad || decide (h.y.ext ≠ [h.x.e h.axis, 2, 1, 1]) }

def hatchRmsnorm (h : HatchIn) : HatchOut :=
  let y := h.yt
  let o := rowMap 4 (fun _ r =>
    let rho := rmsRho (h.pf 0) r
    r.mapIdx (fun k v => (v.mul rho).mul (y.at [k, 0, 0, 0]))) h
  { o with bad := o.bad || decide (h.y.ext ≠ [h.x.e h.axis, 1, 1, 1]) }

/-- x̂ and ρ of a row (R111): SUB 0 layer, 1 RMS. -/
def normHat (sub : Nat) (eps : FVal) (r : List FVal) : List FVal × FVal :=
  if sub = 0 then let (mu, rho) := layerStats eps r; (r.map (fun v => (v.sub mu).mul rho), rho)
  else let rho := rmsRho eps r; (r.map (fun v => v.mul rho), rho)

/-- The input gradient of one row (R111). -/
def normBwdRow (sub : Nat) (eps : FVal) (gamma : List FVal) (x dy : List FVal) : List FVal :=
  let (xh, rho) := normHat sub eps x
  let g := List.zipWith FVal.mul dy gamma
  let mg := meanRow g
  let mgx := meanRow (List.zipWith FVal.mul g xh)
  List.zipWith (fun gi xi => rho.mul (((if sub = 0 then gi.sub mg else gi)).sub (xi.mul mgx))) g xh

/-- hatch.norm_bwd (R110, R111). E1 is read as [2][L], γ gradient first, then β, as Y of hatch.layernorm is; the rule gives E1 no shape (DESIGN CHOICE, log entry 117). -/
def hatchNormBwd (h : HatchIn) : HatchOut :=
  let x := h.xt
  let dy := h.yt
  let g := (h.eOp 0).fp h.s
  let l := h.x.e h.axis
  let gamma := (List.range l).map (fun k => g.at [k, 0, 0, 0])
  let o := rowMap 8 (fun i r => normBwdRow h.sub (h.pf 0) gamma r (dy.row h.axis i)) h
  let rows := (indices (h.x.ext.set h.axis 1)).map (fun i => (dy.row h.axis i, (normHat h.sub (h.pf 0) (x.row h.axis i)).1))
  let gg := (List.range l).map (fun k => rows.foldl (fun a r => a.add ((r.1.getD k .zero).mul (r.2.getD k .zero))) FVal.zero)
  let gb := (List.range l).map (fun k => rows.foldl (fun a r => a.add (r.1.getD k .zero)) FVal.zero)
  let e1 := h.eOp 1
  { o with
    outs := o.outs ++ (if h.hasE 1 then [(e1, Tensor.build e1.ext (fun i => (if i.getD 1 0 = 0 then gg else gb).getD (i.getD 0 0) .zero))] else []),
    also := [h.eOp 0],
    bad := o.bad || decide (1 < h.sub) || decide (h.y.ext ≠ h.x.ext) || !h.hasE 0 || decide ((h.eOp 0).e 0 ≠ l) ||
      (h.hasE 1 && decide (e1.e 0 ≠ l)) }

def hatchSoftmaxBwd (h : HatchIn) : HatchOut :=
  let y := h.yt
  let o := rowMap 3 (fun i r =>
    let dy := y.row h.axis i
    let d := sumRow (List.zipWith FVal.mul r dy)
    List.zipWith (fun a b => a.mul (b.sub d)) r dy) h
  { o with bad := o.bad || decide (h.y.ext ≠ h.x.ext) }

/-- Whether an entry comes before another in descending order: higher value first, NaN below −∞, lower index first on ties (R110). -/
def before (a b : Nat × FVal) : Bool :=
  if a.2.isNan then b.2.isNan && decide (a.1 ≤ b.1)
  else if b.2.isNan then true
  else if b.2.lt a.2 then true else if a.2.lt b.2 then false else decide (a.1 ≤ b.1)

/-- A row sorted in descending order with its indices. -/
def sortDesc (r : List FVal) : List (Nat × FVal) :=
  (r.mapIdx (fun k v => (k, v))).foldr (fun x l => (l.takeWhile (fun y => before y x)) ++ x :: l.dropWhile (fun y => before y x)) []

def hatchTopk (h : HatchIn) : HatchOut :=
  let x := h.xt
  let e0 := h.eOp 0
  let rows := (indices (h.x.ext.set h.axis 1)).map (fun i => (i, (sortDesc (x.row h.axis i)).take h.cnt))
  let pick (i : List Nat) : Nat × FVal := (((rows.find? (fun r => r.1 == i.set h.axis 0)).map (·.2)).getD []).getD (i.getD h.axis 0) (0, .zero)
  { outs := [(h.z, Tensor.build h.z.ext (fun i => (pick i).2)), (e0, Tensor.build e0.ext (fun i => FVal.ofInt (pick i).1))],
    bad := decide (h.cnt = 0) || decide (1024 < h.cnt) || decide (h.x.e h.axis < h.cnt) || decide (h.z.ext ≠ h.x.ext.set h.axis h.cnt) ||
      !h.hasE 0 || decide (e0.ext ≠ h.z.ext) || e0.fmt != .int32,
    cost := perBlock 4 h.x.count + 8 * h.cnt * rows.length }

/-- hatch.xent: loss of one row, log-sum-exp minus the value at the label; gradient softmax minus one-hot (R110).
The steps of the log-sum-exp are the softmax's, (m + ln s) − x: the rule gives no order of them (DESIGN CHOICE, log entry 116). -/
def hatchXent (h : HatchIn) : HatchOut :=
  let x := h.xt
  let labels := h.y.ints h.s
  let l := h.x.e h.axis
  let one : FVal := .fin false 1 0
  let lab (i : List Nat) : Int := labels.getD (linear h.y.ext (i.set h.axis 0)) (-1)
  let okl (i : List Nat) : Bool := decide (0 ≤ lab i) && decide (lab i < l)
  let loss (i : List Nat) : FVal :=
    if okl i then
      let r := x.row h.axis i
      let (m, _, sm) := expRow one r
      (m.add sm.log).sub (r.getD (lab i).toNat .zero)
    else .zero
  let grad (i : List Nat) : FVal :=
    if okl i then
      let p := (softmaxRow one (x.row h.axis i)).getD (i.getD h.axis 0) .zero
      if (i.getD h.axis 0 : Int) = lab i then p.sub one else p
    else .zero
  let e0 := h.eOp 0
  { outs := (h.z, Tensor.build h.z.ext loss) :: (if h.hasE 0 then [(e0, Tensor.build e0.ext grad)] else []),
    bad := decide (h.z.ext ≠ h.x.ext.set h.axis 1) || decide (h.y.ext ≠ h.z.ext) || h.y.fmt != .int32 || (h.hasE 0 && decide (e0.ext ≠ h.x.ext)),
    ignored := ((indices h.z.ext).filter (fun i => !okl i)).length, cost := perBlock 14 h.x.count }

/-! ## Boxes, pairs and association (R112, R113) -/

/-- A box: x0, y0, x1, y1. -/
def boxOf (t : Tensor) (n : Nat) : List FVal := (List.range 4).map (fun k => t.at [k, n, 0, 0])

def boxArea (b : List FVal) : FVal :=
  (FVal.max .zero ((b.getD 2 .zero).sub (b.getD 0 .zero))).mul (FVal.max .zero ((b.getD 3 .zero).sub (b.getD 1 .zero)))

def boxMeet (a b : List FVal) : List FVal :=
  [FVal.max (a.getD 0 .zero) (b.getD 0 .zero), FVal.max (a.getD 1 .zero) (b.getD 1 .zero),
   FVal.min (a.getD 2 .zero) (b.getD 2 .zero), FVal.min (a.getD 3 .zero) (b.getD 3 .zero)]

/-- I / (A + B − I), and 0 when A + B − I is 0 (R112). -/
def iou (a b : List FVal) : FVal :=
  let i := boxArea (boxMeet a b)
  let u := ((boxArea a).add (boxArea b)).sub i
  if u.eqNum .zero then .zero else i.div u

def hatchIou (h : HatchIn) : HatchOut :=
  let x := h.xt
  let y := h.yt
  { outs := [(h.z, Tensor.build h.z.ext (fun i => iou (boxOf x (i.getD 1 0)) (boxOf y (i.getD 0 0))))],
    bad := h.x.e 0 != 4 || h.y.e 0 != 4 || decide (h.z.ext ≠ [h.y.e 1, h.x.e 1, 1, 1]) || decide (16384 < h.x.e 1) || decide (16384 < h.y.e 1),
    cost := perBlock 16 h.z.count }

/-- The cosine of two rows: their dot product over the product of their norms, within a bound that no rule states; free where a norm is 0 (R110, log entry 12). -/
def cosineOf (a b : List FVal) : FVal :=
  let dot := (List.zipWith FVal.mulX a b).foldl FVal.addX .zero
  let sq (l : List FVal) : FVal := (List.zipWith FVal.mulX l l).foldl FVal.addX .zero
  let n := (sq a).mulX (sq b)
  match dot, n with
  | .fin _ _ _, .fin _ m e =>
    if m = 0 then ofBits32 (Config.cosine (a.map FVal.bits32) (b.map FVal.bits32))
    else nudge 0x31 (Config.openBound 0x31) (FVal.fin false m e) (dot.div (FVal.rootX m e))
  | _, _ => .nan

def hatchCosine (h : HatchIn) : HatchOut :=
  let x := h.xt
  let y := h.yt
  let d := h.x.e 0
  { outs := [(h.z, Tensor.build h.z.ext (fun i =>
      cosineOf (x.row 0 [0, i.getD 1 0, 0, 0]) (y.row 0 [0, i.getD 0 0, 0, 0])))],
    bad := decide (h.y.e 0 ≠ d) || decide (1024 < d) || decide (h.z.ext ≠ [h.y.e 1, h.x.e 1, 1, 1]), cost := perBlock (2 * d) h.z.count }

/-- The walk of R112: candidates in order, kept boxes newest first, how many may still be kept. -/
def nmsWalk (box : Nat → List FVal) (cls : Nat → Int) (perClass : Bool) (limit : FVal) : List Nat → List Nat → Nat → List Nat
  | [], kept, _ => kept.reverse
  | c :: cs, kept, k =>
    match k with
    | 0 => kept.reverse
    | k' + 1 =>
      if kept.all (fun q => (perClass && cls q != cls c) || limit.ge (iou (box c) (box q))) then nmsWalk box cls perClass limit cs (c :: kept) k'
      else nmsWalk box cls perClass limit cs kept (k' + 1)

def hatchNms (h : HatchIn) : HatchOut :=
  let x := h.xt
  let y := h.yt
  let n := h.x.e 1
  let e0 := h.eOp 0
  let classes := e0.ints h.s
  let cand := ((sortDesc (y.vals.map (fun v => if v.eqNum .zero then .zero else v))).filter (fun kv => kv.2.ge (h.pf 1))).map (·.1)
  let kept := nmsWalk (boxOf x) (fun k => classes.getD k 0) (bit h.sub 0) (h.pf 0) cand [] h.cnt
  { outs := [(h.z, Tensor.build h.z.ext (fun i => FVal.ofInt (match kept[i.getD 0 0]? with | some k => (k : Int) | none => -1)))],
    also := if h.hasE 0 then [e0] else [],
    bad := h.x.e 0 != 4 || decide (h.y.ext ≠ [n, 1, 1, 1]) || decide (16384 < n) || decide (h.cnt = 0) || decide (4096 < h.cnt) ||
      decide (h.z.e 0 ≠ h.cnt) || h.z.fmt != .int32 || (bit h.sub 0 && !h.hasE 0) || (h.hasE 0 && e0.fmt != .int32),
    cost := 8 * cand.length + 2 * cdiv (cand.length * kept.length) 32 }

/-- The best pair left: largest score, lower row then lower column on ties (R113). -/
def bestPair (x : Tensor) (p0 : FVal) (rows cols : List Nat) : Option (Nat × Nat) :=
  (rows.flatMap (fun r => cols.map (fun c => (r, c)))).foldl (fun b rc =>
    let v := x.at [rc.2, rc.1, 0, 0]
    if !v.ge p0 then b else match b with
      | none => some rc
      | some q => if (x.at [q.2, q.1, 0, 0]).lt v && !(x.at [q.2, q.1, 0, 0]).eqNum v then some rc else b) none

/-- The greedy assignment: pairs in the order in which they are made. -/
def assocWalk (x : Tensor) (p0 : FVal) : Nat → List Nat → List Nat → List (Nat × Nat)
  | 0, _, _ => []
  | fuel + 1, rows, cols =>
    match bestPair x p0 rows cols with
    | none => []
    | some (r, c) => (r, c) :: assocWalk x p0 fuel (rows.filter (· != r)) (cols.filter (· != c))

def hatchAssoc (h : HatchIn) : HatchOut :=
  let x := h.xt
  let rn := h.x.e 1
  let cn := h.x.e 0
  let pairs := assocWalk x (h.pf 0) (min rn cn) (List.range rn) (List.range cn)
  let e0 := h.eOp 0
  let col (r : Nat) : Int := ((pairs.find? (fun p => p.1 == r)).map (fun p => (p.2 : Int))).getD (-1)
  let row (c : Nat) : Int := ((pairs.find? (fun p => p.2 == c)).map (fun p => (p.1 : Int))).getD (-1)
  { outs := (h.z, Tensor.build h.z.ext (fun i => FVal.ofInt (col (i.getD 0 0)))) ::
      (if h.hasE 0 then [(e0, Tensor.build e0.ext (fun i => FVal.ofInt (row (i.getD 0 0))))] else []),
    bad := decide (1024 < rn) || decide (4096 < cn) || decide (h.z.ext ≠ [rn, 1, 1, 1]) || h.z.fmt != .int32 ||
      (h.hasE 0 && (e0.fmt != .int32 || decide (e0.ext ≠ [cn, 1, 1, 1]))),
    cost := 2 * cdiv (rn * cn) 32 * (pairs.length + 1) + 8 * pairs.length }

/-! ## Optimiser updates (R114) -/

def hatchSgdm (h : HatchIn) : HatchOut :=
  let w := h.xt
  let g := h.yt
  let v := h.z.fp h.s
  let v' (i : List Nat) : FVal := (((h.pf 1).mul (v.at i)).add (g.bcast i)).add ((h.pf 2).mul (w.at i))
  { outs := [(h.z, Tensor.build h.z.ext v'), (h.x, Tensor.build h.x.ext (fun i => (w.at i).sub ((h.pf 0).mul (v' i))))],
    also := [h.z],
    bad := !(h.x.fmt == .fp32 || h.x.fmt == .bf16) || h.z.fmt != .fp32 || decide (h.z.ext ≠ h.x.ext) || !fits h.x h.y,
    cost := perBlock 6 h.x.count }

def hatchAdamw (h : HatchIn) : HatchOut :=
  let one : FVal := .fin false 1 0
  let w := h.xt
  let g := h.yt
  let m := h.z.fp h.s
  let e0 := h.eOp 0
  let v := e0.fp h.s
  let m' (i : List Nat) : FVal := ((h.pf 1).mul (m.at i)).add ((one.sub (h.pf 1)).mul (g.bcast i))
  let v' (i : List Nat) : FVal := ((h.pf 2).mul (v.at i)).add ((one.sub (h.pf 2)).mul ((g.bcast i).mul (g.bcast i)))
  let d (i : List Nat) : FVal := ((m' i).mul (h.pf 5)).div ((((v' i).mul (h.pf 6)).sqrt).add (h.pf 3))
  { outs := [(h.z, Tensor.build h.z.ext m'), (e0, Tensor.build e0.ext v'),
      (h.x, Tensor.build h.x.ext (fun i => (w.at i).sub ((h.pf 0).mul ((d i).add ((h.pf 4).mul (w.at i))))))],
    also := [e0, h.z],
    bad := !(h.x.fmt == .fp32 || h.x.fmt == .bf16) || h.z.fmt != .fp32 || e0.fmt != .fp32 || !h.hasE 0 ||
      decide (h.z.ext ≠ h.x.ext) || decide (e0.ext ≠ h.x.ext) || !fits h.x h.y,
    cost := perBlock 20 h.x.count }

/-- The sum of squares of the whole tensor, element i to lane i mod 128 (R110). -/
def hatchSumsq (h : HatchIn) : HatchOut :=
  { outs := [(h.z, Tensor.build h.z.ext (fun _ => sumRow (h.xt.vals.map (fun v => v.mul v))))],
    bad := h.z.count != 1, cost := perBlock 2 h.x.count }

/-! ## Random numbers (R115) -/

/-- One round of Philox-4x32. -/
def philoxRound (k : Nat × Nat) (c : Nat × Nat × Nat × Nat) : Nat × Nat × Nat × Nat :=
  let p0 := 0xD2511F53 * c.1
  let p1 := 0xCD9E8D57 * c.2.2.1
  (Nat.xor (Nat.xor (p1 / 2 ^ 32) c.2.1) k.1, p1 % 2 ^ 32, Nat.xor (Nat.xor (p0 / 2 ^ 32) c.2.2.2) k.2, p0 % 2 ^ 32)

/-- Rounds of Philox with the key bumped before each round but the first. -/
def philoxRounds : Nat → Nat × Nat → Nat × Nat × Nat × Nat → Nat × Nat × Nat × Nat
  | 0, _, c => c
  | n + 1, k, c => philoxRounds n ((k.1 + 0x9E3779B9) % 2 ^ 32, (k.2 + 0xBB67AE85) % 2 ^ 32) (philoxRound k c)

/-- The random word of the element with linear index `i` (R115). -/
def philoxWord (h : HatchIn) (i : Nat) : Nat :=
  let q := i / 4
  let r := philoxRounds 10 (h.pw 0, h.pw 1) (q % 2 ^ 32, q / 2 ^ 32, h.pw 2, h.pw 3)
  match i % 4 with
  | 0 => r.1
  | 1 => r.2.1
  | 2 => r.2.2.1
  | _ => r.2.2.2

/-- u := (word >> 8) × 2^−24. -/
def philoxUnit (h : HatchIn) (i : Nat) : FVal := .fin false (philoxWord h i / 256) (-24)

def hatchPhilox (h : HatchIn) : HatchOut :=
  { outs := [(h.z, Tensor.build h.z.ext (fun i =>
      let k := linear h.z.ext i
      if h.z.fmt = .int32 then FVal.ofInt (toSigned 32 (philoxWord h k)) else philoxUnit h k))],
    bad := !(h.z.fmt == .int32 || h.z.fmt == .fp32), cost := perBlock 5 h.z.count }

def hatchDropout (h : HatchIn) : HatchOut :=
  let x := h.xt
  let e0 := h.eOp 0
  let drop (i : List Nat) : Bool := (philoxUnit h (linear h.z.ext i)).lt (h.pf 4) && !(philoxUnit h (linear h.z.ext i)).eqNum (h.pf 4)
  { outs := (h.z, Tensor.build h.z.ext (fun i => if drop i then .zero else (x.bcast i).mul (h.pf 5))) ::
      (if h.hasE 0 then [(e0, Tensor.build e0.ext (fun i => FVal.ofInt (if drop i then 0 else 1)))] else []),
    bad := !fits h.z h.x || !(h.pf 4).ge .zero || (h.pf 4).ge (.fin false 1 0) || (h.pf 4).isNan || (h.hasE 0 && (e0.fmt != .int8 || decide (e0.ext ≠ h.z.ext))),
    cost := perBlock 7 h.z.count }

/-! ## Gather and scatter (R110) -/

def hatchGather (h : HatchIn) : HatchOut :=
  let x := h.xt
  let idx := h.y.ints h.s
  let okIdx (j : Nat) : Bool := decide (0 ≤ idx.getD j (-1)) && decide (idx.getD j (-1) < (h.x.e 1 : Int))
  { outs := [(h.z, Tensor.build h.z.ext (fun i => let j := i.getD 1 0
      if okIdx j then x.at (i.set 1 (idx.getD j 0).toNat) else .zero))],
    bad := h.y.fmt != .int32 || decide (h.y.e 0 ≠ h.z.e 1) || h.y.count != h.y.e 0 || decide (h.z.ext.set 1 1 ≠ h.x.ext.set 1 1),
    ignored := ((List.range (h.z.e 1)).filter (fun j => !okIdx j)).length, cost := perBlock 2 h.z.count }

def hatchScatterAdd (h : HatchIn) : HatchOut :=
  let x := h.xt
  let z := h.z.fp h.s
  let idx := h.y.ints h.s
  let okIdx (j : Nat) : Bool := decide (0 ≤ idx.getD j (-1)) && decide (idx.getD j (-1) < (h.z.e 1 : Int))
  { outs := [(h.z, Tensor.build h.z.ext (fun i =>
      (List.range (h.x.e 1)).foldl (fun a j => if okIdx j && idx.getD j (-1) == (i.getD 1 0 : Int) then a.add (x.at (i.set 1 j)) else a) (z.at i)))],
    also := [h.z],
    bad := h.y.fmt != .int32 || h.z.fmt != .fp32 || decide (h.y.e 0 ≠ h.x.e 1) || h.y.count != h.y.e 0 || decide (h.z.ext.set 1 1 ≠ h.x.ext.set 1 1),
    ignored := ((List.range (h.x.e 1)).filter (fun j => !okIdx j)).length, cost := perBlock 2 h.z.count }

/-! ## The commands -/

/-- HATCH_ADD: hatch.add, OP 0x01 of CLASS 0x03 (R110). -/
def execHatchAdd (job idx : Nat) (s : State) : Host.Outcome State Fault Refusal := Plan.done (hatchRun 0x01 job idx hatchAdd) s

/-- HATCH_SUB: hatch.sub, OP 0x02 of CLASS 0x03 (R110). -/
def execHatchSub (job idx : Nat) (s : State) : Host.Outcome State Fault Refusal := Plan.done (hatchRun 0x02 job idx hatchSub) s

/-- HATCH_MUL: hatch.mul, OP 0x03 of CLASS 0x03 (R110). -/
def execHatchMul (job idx : Nat) (s : State) : Host.Outcome State Fault Refusal := Plan.done (hatchRun 0x03 job idx hatchMul) s

/-- HATCH_AXPBY: hatch.axpby, OP 0x04 of CLASS 0x03 (R110). -/
def execHatchAxpby (job idx : Nat) (s : State) : Host.Outcome State Fault Refusal := Plan.done (hatchRun 0x04 job idx hatchAxpby) s

/-- HATCH_MAX: hatch.max, OP 0x05 of CLASS 0x03 (R110). -/
def execHatchMax (job idx : Nat) (s : State) : Host.Outcome State Fault Refusal := Plan.done (hatchRun 0x05 job idx hatchMax) s

/-- HATCH_MIN: hatch.min, OP 0x06 of CLASS 0x03 (R110). -/
def execHatchMin (job idx : Nat) (s : State) : Host.Outcome State Fault Refusal := Plan.done (hatchRun 0x06 job idx hatchMin) s

/-- HATCH_AFFINE: hatch.affine, OP 0x07 of CLASS 0x03 (R110). -/
def execHatchAffine (job idx : Nat) (s : State) : Host.Outcome State Fault Refusal := Plan.done (hatchRun 0x07 job idx hatchAffine) s

/-- HATCH_CAST: hatch.cast, OP 0x08 of CLASS 0x03 (R110). -/
def execHatchCast (job idx : Nat) (s : State) : Host.Outcome State Fault Refusal := Plan.done (hatchRun 0x08 job idx hatchCast) s

/-- HATCH_CLAMP: hatch.clamp, OP 0x09 of CLASS 0x03 (R110). -/
def execHatchClamp (job idx : Nat) (s : State) : Host.Outcome State Fault Refusal := Plan.done (hatchRun 0x09 job idx hatchClamp) s

/-- HATCH_FILL: hatch.fill, OP 0x0A of CLASS 0x03 (R110). -/
def execHatchFill (job idx : Nat) (s : State) : Host.Outcome State Fault Refusal := Plan.done (hatchRun 0x0A job idx hatchFill) s

/-- HATCH_IOTA: hatch.iota, OP 0x0B of CLASS 0x03 (R110). -/
def execHatchIota (job idx : Nat) (s : State) : Host.Outcome State Fault Refusal := Plan.done (hatchRun 0x0B job idx hatchIota) s

/-- HATCH_RELU: hatch.relu, OP 0x10 of CLASS 0x03 (R110). -/
def execHatchRelu (job idx : Nat) (s : State) : Host.Outcome State Fault Refusal := Plan.done (hatchRun 0x10 job idx hatchRelu) s

/-- HATCH_GELU: hatch.gelu, OP 0x11 of CLASS 0x03 (R110). -/
def execHatchGelu (job idx : Nat) (s : State) : Host.Outcome State Fault Refusal := Plan.done (hatchRun 0x11 job idx hatchGelu) s

/-- HATCH_SILU: hatch.silu, OP 0x12 of CLASS 0x03 (R110). -/
def execHatchSilu (job idx : Nat) (s : State) : Host.Outcome State Fault Refusal := Plan.done (hatchRun 0x12 job idx hatchSilu) s

/-- HATCH_SIGMOID: hatch.sigmoid, OP 0x13 of CLASS 0x03 (R110). -/
def execHatchSigmoid (job idx : Nat) (s : State) : Host.Outcome State Fault Refusal := Plan.done (hatchRun 0x13 job idx hatchSigmoid) s

/-- HATCH_TANH: hatch.tanh, OP 0x14 of CLASS 0x03 (R110). -/
def execHatchTanh (job idx : Nat) (s : State) : Host.Outcome State Fault Refusal := Plan.done (hatchRun 0x14 job idx hatchTanh) s

/-- HATCH_EXP: hatch.exp, OP 0x15 of CLASS 0x03 (R110). -/
def execHatchExp (job idx : Nat) (s : State) : Host.Outcome State Fault Refusal := Plan.done (hatchRun 0x15 job idx hatchExp) s

/-- HATCH_LOG: hatch.log, OP 0x16 of CLASS 0x03 (R110). -/
def execHatchLog (job idx : Nat) (s : State) : Host.Outcome State Fault Refusal := Plan.done (hatchRun 0x16 job idx hatchLog) s

/-- HATCH_SQRT: hatch.sqrt, OP 0x17 of CLASS 0x03 (R110). -/
def execHatchSqrt (job idx : Nat) (s : State) : Host.Outcome State Fault Refusal := Plan.done (hatchRun 0x17 job idx hatchSqrt) s

/-- HATCH_RSQRT: hatch.rsqrt, OP 0x18 of CLASS 0x03 (R110). -/
def execHatchRsqrt (job idx : Nat) (s : State) : Host.Outcome State Fault Refusal := Plan.done (hatchRun 0x18 job idx hatchRsqrt) s

/-- HATCH_RECIP: hatch.recip, OP 0x19 of CLASS 0x03 (R110). -/
def execHatchRecip (job idx : Nat) (s : State) : Host.Outcome State Fault Refusal := Plan.done (hatchRun 0x19 job idx hatchRecip) s

/-- HATCH_ACT_BWD: hatch.act_bwd, OP 0x1A of CLASS 0x03 (R110). -/
def execHatchActBwd (job idx : Nat) (s : State) : Host.Outcome State Fault Refusal := Plan.done (hatchRun 0x1A job idx hatchActBwd) s

/-- HATCH_SUM: hatch.sum, OP 0x20 of CLASS 0x03 (R110). -/
def execHatchSum (job idx : Nat) (s : State) : Host.Outcome State Fault Refusal := Plan.done (hatchRun 0x20 job idx hatchSum) s

/-- HATCH_ROWMAX: hatch.rowmax, OP 0x21 of CLASS 0x03 (R110). -/
def execHatchRowmax (job idx : Nat) (s : State) : Host.Outcome State Fault Refusal := Plan.done (hatchRun 0x21 job idx hatchRowmax) s

/-- HATCH_ARGMAX: hatch.argmax, OP 0x22 of CLASS 0x03 (R110). -/
def execHatchArgmax (job idx : Nat) (s : State) : Host.Outcome State Fault Refusal := Plan.done (hatchRun 0x22 job idx hatchArgmax) s

/-- HATCH_SOFTMAX: hatch.softmax, OP 0x23 of CLASS 0x03 (R110). -/
def execHatchSoftmax (job idx : Nat) (s : State) : Host.Outcome State Fault Refusal := Plan.done (hatchRun 0x23 job idx hatchSoftmax) s

/-- HATCH_LOGSOFTMAX: hatch.logsoftmax, OP 0x24 of CLASS 0x03 (R110). -/
def execHatchLogsoftmax (job idx : Nat) (s : State) : Host.Outcome State Fault Refusal := Plan.done (hatchRun 0x24 job idx hatchLogsoftmax) s

/-- HATCH_LAYERNORM: hatch.layernorm, OP 0x25 of CLASS 0x03 (R110). -/
def execHatchLayernorm (job idx : Nat) (s : State) : Host.Outcome State Fault Refusal := Plan.done (hatchRun 0x25 job idx hatchLayernorm) s

/-- HATCH_RMSNORM: hatch.rmsnorm, OP 0x26 of CLASS 0x03 (R110). -/
def execHatchRmsnorm (job idx : Nat) (s : State) : Host.Outcome State Fault Refusal := Plan.done (hatchRun 0x26 job idx hatchRmsnorm) s

/-- HATCH_NORM_BWD: hatch.norm_bwd, OP 0x27 of CLASS 0x03 (R110). -/
def execHatchNormBwd (job idx : Nat) (s : State) : Host.Outcome State Fault Refusal := Plan.done (hatchRun 0x27 job idx hatchNormBwd) s

/-- HATCH_SOFTMAX_BWD: hatch.softmax_bwd, OP 0x28 of CLASS 0x03 (R110). -/
def execHatchSoftmaxBwd (job idx : Nat) (s : State) : Host.Outcome State Fault Refusal := Plan.done (hatchRun 0x28 job idx hatchSoftmaxBwd) s

/-- HATCH_TOPK: hatch.topk, OP 0x29 of CLASS 0x03 (R110). -/
def execHatchTopk (job idx : Nat) (s : State) : Host.Outcome State Fault Refusal := Plan.done (hatchRun 0x29 job idx hatchTopk) s

/-- HATCH_XENT: hatch.xent, OP 0x2A of CLASS 0x03 (R110). -/
def execHatchXent (job idx : Nat) (s : State) : Host.Outcome State Fault Refusal := Plan.done (hatchRun 0x2A job idx hatchXent) s

/-- HATCH_IOU: hatch.iou, OP 0x30 of CLASS 0x03 (R110). -/
def execHatchIou (job idx : Nat) (s : State) : Host.Outcome State Fault Refusal := Plan.done (hatchRun 0x30 job idx hatchIou) s

/-- HATCH_COSINE: hatch.cosine, OP 0x31 of CLASS 0x03 (R110). -/
def execHatchCosine (job idx : Nat) (s : State) : Host.Outcome State Fault Refusal := Plan.done (hatchRun 0x31 job idx hatchCosine) s

/-- HATCH_NMS: hatch.nms, OP 0x32 of CLASS 0x03 (R110). -/
def execHatchNms (job idx : Nat) (s : State) : Host.Outcome State Fault Refusal := Plan.done (hatchRun 0x32 job idx hatchNms) s

/-- HATCH_ASSOC: hatch.assoc, OP 0x33 of CLASS 0x03 (R110). -/
def execHatchAssoc (job idx : Nat) (s : State) : Host.Outcome State Fault Refusal := Plan.done (hatchRun 0x33 job idx hatchAssoc) s

/-- HATCH_SGDM: hatch.sgdm, OP 0x38 of CLASS 0x03 (R110). -/
def execHatchSgdm (job idx : Nat) (s : State) : Host.Outcome State Fault Refusal := Plan.done (hatchRun 0x38 job idx hatchSgdm) s

/-- HATCH_ADAMW: hatch.adamw, OP 0x39 of CLASS 0x03 (R110). -/
def execHatchAdamw (job idx : Nat) (s : State) : Host.Outcome State Fault Refusal := Plan.done (hatchRun 0x39 job idx hatchAdamw) s

/-- HATCH_SUMSQ: hatch.sumsq, OP 0x3A of CLASS 0x03 (R110). -/
def execHatchSumsq (job idx : Nat) (s : State) : Host.Outcome State Fault Refusal := Plan.done (hatchRun 0x3A job idx hatchSumsq) s

/-- HATCH_PHILOX: hatch.philox, OP 0x3C of CLASS 0x03 (R110). -/
def execHatchPhilox (job idx : Nat) (s : State) : Host.Outcome State Fault Refusal := Plan.done (hatchRun 0x3C job idx hatchPhilox) s

/-- HATCH_DROPOUT: hatch.dropout, OP 0x3D of CLASS 0x03 (R110). -/
def execHatchDropout (job idx : Nat) (s : State) : Host.Outcome State Fault Refusal := Plan.done (hatchRun 0x3D job idx hatchDropout) s

/-- HATCH_GATHER: hatch.gather, OP 0x40 of CLASS 0x03 (R110). -/
def execHatchGather (job idx : Nat) (s : State) : Host.Outcome State Fault Refusal := Plan.done (hatchRun 0x40 job idx hatchGather) s

/-- HATCH_SCATTER_ADD: hatch.scatter_add, OP 0x41 of CLASS 0x03 (R110). -/
def execHatchScatterAdd (job idx : Nat) (s : State) : Host.Outcome State Fault Refusal := Plan.done (hatchRun 0x41 job idx hatchScatterAdd) s

end Sys2Proof.Machine
end

