-- ==== Sys2Proof/Machine/Lettering.lean ====
section
/-! DEFINITION. The lettering engine's data (09_lettering_engine.md): vocabulary and grammar images and their verification (R161-R163, R168), UTF-8 and tokenising (R164-R167),
the automaton and the mask (R169, R170), sampling (R184), stop strings and released text (R185, R186). -/
namespace Sys2Proof.Machine

/-! ## Vocabulary images (R161, R162) -/

/-- The header of a vocabulary image and where the image lies. -/
structure Vocab where
  base : Nat
  magic : Nat
  version : Nat
  tokens : Nat
  nodes : Nat
  table : Nat
  pool : Nat
  poolLen : Nat
  trie : Nat
  byteTokens : Nat
  eos : Nat
  len : Nat
  crc : Nat
  deriving DecidableEq, Repr

def State.vocabAt (s : State) (a : Nat) : Vocab :=
  let b := s.bytesAt a 64
  { base := a, magic := rdN b 0 4, version := rdN b 4 2, tokens := rdN b 8 4, nodes := rdN b 0xC 4, table := rdN b 0x10 4, pool := rdN b 0x14 4,
    poolLen := rdN b 0x18 4, trie := rdN b 0x1C 4, byteTokens := rdN b 0x20 4, eos := rdN b 0x24 4, len := rdN b 0x28 4, crc := rdN b 0x2C 4 }

/-- A token table entry. -/
structure TokEntry where
  off : Nat
  len : Nat
  special : Bool
  noSample : Bool

def Vocab.token (v : Vocab) (s : State) (t : Nat) : TokEntry :=
  let w := s.numAt (v.base + v.table + 8 * t) 8
  { off := fld w 23 0, len := fld w 31 24, special := bit w 32, noSample := bit w 33 }

/-- The string of a token. -/
def Vocab.str (v : Vocab) (s : State) (t : Nat) : List Byte :=
  let e := v.token s t
  s.bytesAt (v.base + v.pool + e.off) e.len

/-- A trie node. -/
structure TrieNode where
  byte : Nat
  tok : Option Nat
  first : Nat
  count : Nat

def Vocab.node (v : Vocab) (s : State) (n : Nat) : TrieNode :=
  let w := s.numAt (v.base + v.trie + 8 * n) 8
  { byte := fld w 7 0, tok := if bit w 8 then some (fld w 26 9) else none, first := fld w 46 27, count := fld w 55 47 }

def TrieNode.children (n : TrieNode) : List Nat := (List.range n.count).map (· + n.first)

/-- The child of a node on a byte. -/
def Vocab.child (v : Vocab) (s : State) (n : Nat) (b : Byte) : Option Nat :=
  ((v.node s n).children).find? (fun c => (v.node s c).byte == b.toNat)

/-- The node that a string leads to from a node. -/
def Vocab.walk (v : Vocab) (s : State) : Nat → List Byte → Option Nat
  | n, [] => some n
  | n, b :: bs => match v.child s n b with
    | none => none
    | some c => Vocab.walk v s c bs

/-- The token of a byte value. -/
def Vocab.byteToken (v : Vocab) (s : State) (b : Byte) : Nat := s.numAt (v.base + v.byteTokens + 4 * b.toNat) 4

/-- The nodes met from a frontier on, breadth first, at most `fuel` of them. -/
def Vocab.reach (v : Vocab) (s : State) : Nat → List Nat → List Nat
  | 0, _ => []
  | _, [] => []
  | fuel + 1, n :: rest => n :: Vocab.reach v s fuel (rest ++ (v.node s n).children)

/-- A list rises strictly. -/
def rising : List Nat → Bool
  | a :: b :: l => decide (a < b) && rising (b :: l)
  | _ => true

/-- A section lies within an image. -/
def within (off n len : Nat) : Bool := decide (off + n ≤ len)

/-- CRC-32C of an image with its CRC field, at offset `o`, taken as zero. -/
def State.imageCrc (s : State) (a len o : Nat) : Nat := crc32c (ovl (s.bytesAt a len) o (zeros 4))

/-- The checks of R163 on a vocabulary image. -/
def Vocab.ok (v : Vocab) (s : State) : Bool :=
  v.magic == 0x42434F56 && v.version == 1 && decide (257 ≤ v.tokens) && decide (v.tokens ≤ 262144) &&
  decide (1 ≤ v.nodes) && decide (v.nodes ≤ 1048576) && decide (v.poolLen ≤ 16777216) &&
  within 0 64 v.len && within v.table (8 * v.tokens) v.len && within v.pool v.poolLen v.len && within v.trie (8 * v.nodes) v.len &&
  within v.byteTokens 1024 v.len && v.crc == s.imageCrc v.base v.len 0x2C &&
  (let r := v.reach s (v.nodes + 1) [0]
   r.length == v.nodes && decide r.Nodup && r.all (fun n => decide (n < v.nodes) && decide ((v.node s n).count ≤ 256) &&
     rising ((v.node s n).children.map (fun c => (v.node s c).byte)))) &&
  (List.range v.tokens).all (fun t =>
    let e := v.token s t
    decide (e.off + e.len ≤ v.poolLen) &&
      (e.special || (e.len != 0 && (match v.walk s 0 (v.str s t) with | none => false | some n => (v.node s n).tok == some t)))) &&
  ((List.range v.nodes).filter (fun n => (v.node s n).tok.isSome)).length == ((List.range v.tokens).filter (fun t => !(v.token s t).special)).length &&
  (List.range 256).all (fun b =>
    let t := v.byteToken s (BitVec.ofNat 8 b)
    decide (t < v.tokens) && !(v.token s t).special && v.str s t == [BitVec.ofNat 8 b]) &&
  decide (v.eos < v.tokens) && (v.token s v.eos).special

/-! ## Grammar images (R168, R169) -/

/-- The header of a grammar image and where the image lies. -/
structure Gram where
  base : Nat
  magic : Nat
  version : Nat
  states : Nat
  transitions : Nat
  start : Nat
  classTable : Nat
  stateTable : Nat
  transTable : Nat
  len : Nat
  crc : Nat
  deriving DecidableEq, Repr

def State.gramAt (s : State) (a : Nat) : Gram :=
  let b := s.bytesAt a 64
  { base := a, magic := rdN b 0 4, version := rdN b 4 2, states := rdN b 8 4, transitions := rdN b 0xC 4, start := rdN b 0x10 2,
    classTable := rdN b 0x14 4, stateTable := rdN b 0x18 4, transTable := rdN b 0x1C 4, len := rdN b 0x20 4, crc := rdN b 0x24 4 }

/-- FIRST, COUNT and ACCEPT of a state. -/
def Gram.state (g : Gram) (s : State) (n : Nat) : Nat × Nat × Bool :=
  let w := s.numAt (g.base + g.stateTable + 8 * n) 4
  (fld w 19 0, fld w 28 20, bit w 29)

/-- A transition. -/
structure Trans where
  cls : Nat
  op : Nat
  target : Nat
  ret : Nat

def Gram.trans (g : Gram) (s : State) (n : Nat) : Trans :=
  let w := s.numAt (g.base + g.transTable + 8 * n) 8
  { cls := fld w 7 0, op := fld w 9 8, target := fld w 31 16, ret := fld w 47 32 }

/-- The checks of R168. -/
def Gram.ok (g : Gram) (s : State) : Bool :=
  g.magic == 0x4D524147 && g.version == 1 && decide (1 ≤ g.states) && decide (g.states ≤ 65536) &&
  decide (1 ≤ g.transitions) && decide (g.transitions ≤ 1048576) && within 0 64 g.len && within g.classTable 256 g.len &&
  within g.stateTable (8 * g.states) g.len && within g.transTable (8 * g.transitions) g.len && g.crc == s.imageCrc g.base g.len 0x24 &&
  (List.range g.states).all (fun n =>
    let x := g.state s n
    decide (x.2.1 ≤ 256) && decide (x.1 + x.2.1 ≤ g.transitions) && rising ((List.range x.2.1).map (fun k => (g.trans s (x.1 + k)).cls))) &&
  (List.range g.transitions).all (fun k =>
    let t := g.trans s k
    decide (t.target < g.states) && decide (t.ret < g.states) && decide (t.op ≤ 2))

/-- A configuration: a state and the stack, bottom first. -/
structure PdaConf where
  state : Nat
  stack : List Nat
  deriving DecidableEq, Repr

/-- One byte accepted from a configuration (R169). -/
def Gram.step (g : Gram) (s : State) (c : PdaConf) (b : Byte) : Option PdaConf :=
  let cls := s.numAt (g.base + g.classTable + b.toNat) 1
  let x := g.state s c.state
  match ((List.range x.2.1).map (fun k => g.trans s (x.1 + k))).find? (fun t => t.cls == cls) with
  | none => none
  | some t =>
    match t.op with
    | 0 => some { c with state := t.target }
    | 1 => if c.stack.length = 64 then none else some { state := t.target, stack := c.stack ++ [t.ret] }
    | _ => match c.stack.getLast? with
      | none => none
      | some r => some { state := r, stack := c.stack.dropLast }

/-- Bytes accepted in turn; the second part is the least depth that a stack entry was read at. -/
def Gram.run (g : Gram) (s : State) : PdaConf → Nat → List Byte → Option PdaConf × Nat
  | c, low, [] => (some c, low)
  | c, low, b :: bs =>
    match g.step s c b with
    | none => (none, low)
    | some c' => Gram.run g s c' (min low c'.stack.length) bs

/-- The state has ACCEPT set at depth 0 (R170). -/
def Gram.accepts (g : Gram) (s : State) (c : PdaConf) : Bool := (g.state s c.state).2.2 && c.stack.isEmpty

/-- The mask of a configuration admits a token (R170). -/
def admits (s : State) (v : Vocab) (g : Option Gram) (ignoreEos : Bool) (c : PdaConf) (t : Nat) : Bool :=
  let e := v.token s t
  if e.noSample then false
  else if t = v.eos then !ignoreEos && (match g with | none => true | some g => g.accepts s c)
  else if e.special then false
  else match g with
    | none => true
    | some g => (g.run s c 64 (v.str s t)).1.isSome

/-- The tokens that a mask admits, ascending. -/
def maskTokens (s : State) (v : Vocab) (g : Option Gram) (ignoreEos : Bool) (c : PdaConf) : List Nat :=
  (List.range v.tokens).filter (admits s v g ignoreEos c)

/-- No token's bytes read a stack entry below the top four (R181). -/
def maskCacheable (s : State) (v : Vocab) (g : Gram) (c : PdaConf) : Bool :=
  (List.range v.tokens).all (fun t => (v.token s t).special || decide (c.stack.length ≤ (g.run s c c.stack.length (v.str s t)).2 + 4))

/-- The mask, one bit for each token, token 0 in bit 0 of byte 0 (R181). -/
def maskBytes (n : Nat) (toks : List Nat) : List Byte :=
  (List.range (cdiv n 8)).map (fun k =>
    BitVec.ofNat 8 ((List.range 8).foldl (fun w i => if toks.contains (8 * k + i) then w + 2 ^ i else w) 0))

/-! ## UTF-8 (R164) -/

/-- What the bytes at the head of a list are. -/
inductive Utf8
  /-- A valid sequence of so many bytes. -/
  | valid (n : Nat)
  | invalid
  /-- The list ends inside a sequence that is valid so far. -/
  | short
  deriving DecidableEq, Repr

/-- The length that a lead byte announces (0: none) and the range of the byte after it (RFC 3629). -/
def utf8Lead (b : Nat) : Nat × Nat × Nat :=
  if b ≤ 0x7F then (1, 0, 0)
  else if b < 0xC2 then (0, 0, 0)
  else if b ≤ 0xDF then (2, 0x80, 0xBF)
  else if b = 0xE0 then (3, 0xA0, 0xBF)
  else if b = 0xED then (3, 0x80, 0x9F)
  else if b ≤ 0xEF then (3, 0x80, 0xBF)
  else if b = 0xF0 then (4, 0x90, 0xBF)
  else if b ≤ 0xF3 then (4, 0x80, 0xBF)
  else if b = 0xF4 then (4, 0x80, 0x8F)
  else (0, 0, 0)

def utf8Head : List Byte → Utf8
  | [] => .short
  | b :: bs =>
    let l := utf8Lead b.toNat
    if l.1 = 0 then .invalid
    else
      let rest := bs.take (l.1 - 1)
      let good := (rest.mapIdx (fun i c => if i = 0 then decide (l.2.1 ≤ c.toNat) && decide (c.toNat ≤ l.2.2) else decide (0x80 ≤ c.toNat) && decide (c.toNat ≤ 0xBF))).all id
      if !good then .invalid else if rest.length + 1 = l.1 then .valid l.1 else .short

/-- A stretch of input: valid bytes, or one invalid byte. -/
inductive Chunk
  | text (bs : List Byte)
  | bad (b : Byte)

/-- Divides input into runs of valid bytes and invalid bytes; the second part is an incomplete sequence at the end, kept apart when `hold`. -/
def divide (hold : Bool) : Nat → List Byte → List Chunk × List Byte
  | 0, _ => ([], [])
  | _, [] => ([], [])
  | fuel + 1, b :: bs =>
    match utf8Head (b :: bs) with
    | .short => if hold then ([], b :: bs) else let r := divide hold fuel bs; (.bad b :: r.1, r.2)
    | .invalid => let r := divide hold fuel bs; (.bad b :: r.1, r.2)
    | .valid n =>
      let r := divide hold fuel ((b :: bs).drop n)
      let c := (b :: bs).take n
      (match r.1 with
       | .text t :: rest => .text (c ++ t) :: rest
       | l => .text c :: l, r.2)

/-- The longest match from a node: the deepest token and how many bytes it takes (R165). -/
def Vocab.deepest (v : Vocab) (s : State) : Nat → Nat → List Byte → Option (Nat × Nat) → Option (Nat × Nat)
  | _, _, [], best => best
  | n, k, b :: bs, best =>
    match v.child s n b with
    | none => best
    | some c => Vocab.deepest v s c (k + 1) bs (match (v.node s c).tok with | some t => some (t, k + 1) | none => best)

/-- The tokens of a run of valid bytes (R165). -/
def Vocab.tokenise (v : Vocab) (s : State) : Nat → List Byte → List Nat
  | 0, _ => []
  | _, [] => []
  | fuel + 1, b :: bs =>
    match v.deepest s 0 0 (b :: bs) none with
    | some (t, n) => t :: Vocab.tokenise v s fuel ((b :: bs).drop n)
    | none =>
      let n := match utf8Head (b :: bs) with | .valid n => n | _ => 1
      ((b :: bs).take n).map (v.byteToken s) ++ Vocab.tokenise v s fuel ((b :: bs).drop n)

def Vocab.chunkTokens (v : Vocab) (s : State) : Chunk → List Nat
  | .text bs => v.tokenise s bs.length bs
  | .bad b => [v.byteToken s b]

/-- A text ends inside a UTF-8 sequence (R174). -/
def endsInside (tail : List Byte) : Bool :=
  (List.range tail.length).any (fun k => utf8Head (tail.drop k) == .short)

/-! ## Sampling (R184) -/

/-- Higher logit first, lower id first on ties. -/
def logitBefore (a b : Nat × FVal) : Bool :=
  if a.2.eqNum b.2 then decide (a.1 ≤ b.1) else b.2.lt a.2

def sortLogits (l : List (Nat × FVal)) : List (Nat × FVal) :=
  l.foldr (fun x l => (l.takeWhile (fun y => logitBefore y x)) ++ x :: l.dropWhile (fun y => logitBefore y x)) []

/-- The running sums of a list of weights, in order. -/
def runningSums (l : List FVal) : List FVal :=
  (l.foldl (fun a w => let t := a.1.add w; (t, a.2 ++ [t])) (FVal.zero, [])).2

/-- What a session draws with. -/
structure Draw where
  sample : Bool
  topK : Nat
  topP : FVal
  temp : FVal
  seed : Nat
  generated : Nat

/-- TOP_P truncates. -/
def Draw.nucleus (d : Draw) : Bool := FVal.zero.lt d.topP && d.topP.lt (.fin false 1 0)

def Draw.trunc (d : Draw) : Bool := d.sample && (d.topK != 0 || d.nucleus)

/-- u of R184. -/
def Draw.unit (d : Draw) : FVal :=
  .fin false ((philoxRounds 10 (d.seed % 2 ^ 32, d.seed / 2 ^ 32) (d.generated, 0, 0, 0)).1 / 256) (-24)

/-- The token drawn from the admitted tokens and their logits, ascending (R184); none when nothing is admitted. -/
def Draw.token (d : Draw) (adm : List (Nat × FVal)) : Option Nat :=
  let sorted := sortLogits adm
  let c := if d.trunc then sorted.take (if d.topK = 0 then 1024 else d.topK) else adm
  match sortLogits c with
  | [] => none
  | (t0, z0) :: _ =>
    if !d.sample || !z0.isFinite then some t0
    else
      let r := d.temp.recip
      let w := c.map (fun e => (((e.2.sub z0).mul r).mul log2eConst).exp2)
      let all := (runningSums w).getLast?.getD .zero
      let n := if d.trunc && d.nucleus then ((runningSums w).findIdx (fun x => x.ge (d.topP.mul all))) + 1 else w.length
      let kept := (c.zip w).take n
      let sums := runningSums (kept.map (·.2))
      let lim := d.unit.mul (sums.getLast?.getD .zero)
      let k := sums.findIdx (fun x => lim.lt x && !lim.eqNum x)
      some ((kept.getD (min k (kept.length - 1)) ((t0, z0), .zero)).1.1)
where
  /-- LOG2E of R128. -/
  log2eConst : FVal := ofBits32 0x3FB8AA3B

/-! ## Stop strings (R185-R187) -/

/-- A stop set: no strings when its count or a length is out of range; the second part says that it is bad (R187). -/
def State.stopSet (s : State) (n : Nat) : List (List Byte) × Bool :=
  let b := s.bytesAt (s.base pgLET 0x118 + n * 288) 288
  let cnt := rdN b 0 1
  let lens := (List.range cnt).map (fun j => rdN b (1 + j) 1)
  if cnt = 0 || decide (8 < cnt) || lens.any (fun l => l == 0 || decide (32 < l)) then ([], true)
  else (lens.mapIdx (fun j l => (b.drop (32 + 32 * j)).take l), false)

def endsWith (h w : List Byte) : Bool := decide (w.length ≤ h.length) && h.drop (h.length - w.length) == w

/-- The longest stop string that ends a history. -/
def stopHit (stops : List (List Byte)) (h : List Byte) : Nat :=
  (stops.filter (endsWith h)).foldl (fun m w => max m w.length) 0

/-- The longest suffix of a history, at most 31 bytes, that is a proper prefix of a stop string (R186). -/
def holdLen (stops : List (List Byte)) (h : List Byte) : Nat :=
  stops.foldl (fun m w => (List.range w.length).foldl (fun m k => if decide (k ≤ 31) && endsWith h (w.take k) then max m k else m) m) 0

/-- The text state of a session within a step. -/
structure TextState where
  tail : List Byte
  held : List Byte
  out : List Byte := []
  hit : Bool := false
  deriving DecidableEq, Repr

/-- The bytes of a token, in order (R185, R186). -/
def textRun (stops : List (List Byte)) (keep : Bool) : TextState → List Byte → TextState
  | x, [] => x
  | x, b :: bs =>
    let h := x.tail ++ [b]
    let pend := x.held ++ [b]
    let n := stopHit stops h
    let tail := h.drop (h.length - 31)
    if n ≠ 0 then { tail := tail, held := [], out := x.out ++ (if keep then pend else pend.take (pend.length - n)), hit := true }
    else
      let k := if keep then 0 else min (holdLen stops h) pend.length
      textRun stops keep { tail := tail, held := pend.drop (pend.length - k), out := x.out ++ pend.take (pend.length - k) } bs

end Sys2Proof.Machine
end

