-- ==== Sys2Proof/Machine/Matrix.lean ====
section
/-! DEFINITION. The mm operations (04_matrix_array.md, 05_tiling_sequencer.md): the arithmetic of passes in its fixed order (R59-R61, R81, R82), the output path (R102),
mm.gemm, mm.conv and mm.pass with their placement checks (R58, R79-R92), the tile sizes and the demotion of loop orders (R85, R87, R88), the stretch of work between two level-2 tile boundaries (R93),
and the passes: their order, their timing, the stationary registers and the gated columns (R57, R62-R68). -/
namespace Sys2Proof.Machine

/-! ## Arithmetic -/

/-- The control block (R80). -/
structure CtlBlock where
  bias : Nat
  stageBase : Nat
  stageSize : Nat
  kr : Nat
  ks : Nat
  strideH : Nat
  strideW : Nat
  dilH : Nat
  dilW : Nat
  padT : Nat
  padB : Nat
  padL : Nat
  padR : Nat

def parseCtl (b : List Byte) : CtlBlock :=
  let w := rdN b 0x14 4
  { bias := rdN b 0 6, stageBase := rdN b 8 6, stageSize := rdN b 0x10 4, kr := fld w 3 0, ks := fld w 7 4,
    strideH := fld w 11 8, strideW := fld w 15 12, dilH := fld w 19 16, dilW := fld w 23 20,
    padT := rdN b 0x18 1, padB := rdN b 0x19 1, padL := rdN b 0x1A 1, padR := rdN b 0x1B 1 }

/-- A product as the sequencer sees it: extents, virtual operands, the shifts of R82, the starting value, the bias and where each output element lies. -/
structure Product where
  m : Nat
  n : Nat
  k : Nat
  isInt : Bool
  bFmt : Fmt
  a : List Nat → Nat → Nat → FVal
  /-- The code of B as the stationary registers hold it (R57, R63). -/
  bCode : List Nat → Nat → Nat → Nat
  /-- Shift of one chunk, when an operand carries block-128 shifts (R82). -/
  chunkShift : Option (List Nat → Nat → Nat → Nat → Int)
  /-- Shift of the output path: sa[m] + sb[n] (R82). -/
  outShift : List Nat → Nat → Nat → Int
  start : List Nat → Nat → Nat → FVal
  accumulate : Bool
  bias : Option (Nat → FVal)

/-- An element of B as the array takes it (R57, R63). -/
def Product.b (p : Product) (bi : List Nat) (k n : Nat) : FVal := decodeElem p.bFmt (p.bCode bi k n)

/-- A saturating INT32 addition, and whether it saturated (R61). -/
def satAdd32 (x y : Int) : Int × Bool :=
  let z := x + y
  if 2147483647 < z then (2147483647, true) else if z < -2147483648 then (-2147483648, true) else (z, false)

/-- The integer of a finite value with exponent 0 or more. -/
def FVal.toInt : FVal → Int
  | .fin n m e => roundInt n m e
  | _ => 0

/-- The column sum of a float chunk: products rounded to binary32 and added in ascending k from +0; padded rows add +0 (R59, R60). -/
def chunkF (p : Product) (bi : List Nat) (i n k0 len : Nat) : FVal :=
  let x := (List.range len).foldl (fun acc k => acc.add ((p.a bi i (k0 + k)).mul (p.b bi (k0 + k) n))) FVal.zero
  if len < 128 then x.add .zero else x

/-- The exact column sum of an integer chunk (R61). -/
def chunkI (p : Product) (bi : List Nat) (i n k0 len : Nat) : Int :=
  (List.range len).foldl (fun acc k => acc + (p.a bi i (k0 + k)).toInt * (p.b bi (k0 + k) n).toInt) 0

/-- Chunks of k: start and length, ascending (R81). -/
def chunks (k : Nat) : List (Nat × Nat) := (List.range (cdiv k 128)).map (fun c => (128 * c, min 128 (k - 128 * c)))

/-- One chunk added to an accumulator, and whether the addition saturated (R61, R81, R82). -/
def Product.addChunk (p : Product) (bi : List Nat) (i n : Nat) (x : FVal) (c : Nat × Nat) : FVal × Bool :=
  if p.isInt then
    let z := satAdd32 x.toInt (chunkI p bi i n c.1 c.2)
    (FVal.ofInt z.1, z.2)
  else
    let y := chunkF p bi i n c.1 c.2
    (x.add (match p.chunkShift with | none => y | some f => (y.scale (f bi i n c.1)).r32), false)

/-- The accumulator before the first chunk: S of R79, as an exact integer for integer products. -/
def Product.init (p : Product) (bi : List Nat) (i n : Nat) : FVal :=
  if !p.accumulate then .zero else if p.isInt then FVal.ofInt (p.start bi i n).toInt else p.start bi i n

/-- An accumulator after the chunks that begin at `k0` or later and before `k1`, and how many of their additions saturated (R81). -/
def Product.stretch (p : Product) (bi : List Nat) (i n : Nat) (x : FVal) (k0 k1 : Nat) : FVal × Nat :=
  ((chunks p.k).filter (fun c => decide (k0 ≤ c.1) && decide (c.1 < k1))).foldl (fun acc c =>
    let z := p.addChunk bi i n acc.1 c
    (z.1, acc.2 + if z.2 then 1 else 0)) (x, 0)

/-- The bias, added once after the last chunk, and whether the addition saturated (R81). -/
def Product.addBias (p : Product) (n : Nat) (x : FVal) : FVal × Nat :=
  match p.bias with
  | none => (x, 0)
  | some b =>
    if p.isInt then let z := satAdd32 x.toInt (b n).toInt; (FVal.ofInt z.1, if z.2 then 1 else 0)
    else (x.add (b n), 0)

/-- The accumulator of one output element after the chunks and the bias, and how many of its additions saturated (R81). -/
def accumulateElem (p : Product) (bi : List Nat) (i n : Nat) : FVal × Nat :=
  let r := p.stretch bi i n (p.init bi i n) 0 p.k
  let z := p.addBias n r.1
  (z.1, r.2 + z.2)

/-- The output-path product by 2^k: exact for a scaled C; otherwise rounded to binary32 only where it leaves the binary32 normal range (R82, R102). -/
def outScale (scaledC : Bool) (k : Int) (v : FVal) : FVal :=
  match v with
  | .fin n m e =>
    let x := FVal.fin n m (e + k)
    if scaledC || k = 0 || m = 0 then x
    else if magGt m (e + k) (2 ^ 24 - 1) 104 || !(magGt m (e + k) 1 (-126) || (Nat.log2 m : Int) + e + k = -126) then x.r32 else x
  | v => v

/-! ## Tile sizes and loop orders (R84-R88) -/

/-- Level-2 sizes and accumulator tiles (R85). -/
structure Tiles where
  n2 : Nat
  m2 : Nat
  k2 : Nat
  t2 : Nat
  deriving DecidableEq, Repr

def roundUp (x q : Nat) : Nat := cdiv x q * q

/-- The sizes of R85; `ea` and `eb` are the bits of an element, 4 for INT4. -/
def tilesOf (m n k ea eb : Nat) (split : Bool) : Tiles :=
  let ncol := if split then 64 else 128
  let buffer := if split then 786432 else 1572864
  let n2 := min (roundUp n ncol) (2 * ncol)
  let m2 := min (roundUp m 128) (128 * (8 / (n2 / ncol)))
  let perK := m2 * ea + n2 * eb
  let k2 := min (roundUp k 128) (128 * (8 * buffer / (128 * perK)))
  { n2 := n2, m2 := m2, k2 := k2, t2 := cdiv m2 128 * (n2 / ncol) }

/-- The loop orders (R76), outermost letter first. -/
inductive Order
  | mnk | mkn | nmk | nkm | kmn | knm
  deriving DecidableEq, Repr

/-- An ORDER field resolved; AUTO is NMK when `autoN` holds, else MNK (R87). -/
def Order.ofCode (c : Nat) (autoN : Bool) : Order :=
  match c with
  | 0 => .mnk | 1 => .mkn | 2 => .nmk | 3 => .nkm | 4 => .kmn | 5 => .knm
  | _ => if autoN then .nmk else .mnk

def Order.code : Order → Nat
  | .mnk => 0 | .mkn => 1 | .nmk => 2 | .nkm => 3 | .kmn => 4 | .knm => 5

/-- Which of M and N the order places inside K. -/
def Order.insideK : Order → Bool × Bool
  | .mnk => (false, false) | .mkn => (false, true) | .nmk => (false, false) | .nkm => (true, false) | .kmn => (true, true) | .knm => (true, true)

/-- The K-innermost order with the same relative order of M and N (R88). -/
def Order.demote : Order → Order
  | .mkn => .mnk | .kmn => .mnk | .nkm => .nmk | .knm => .nmk | o => o

/-- Level-1 orders that place K inside N (R88). -/
def Order.kInsideN : Order → Bool
  | .mnk => true | .nmk => true | .nkm => true | _ => false

/-- LIVE of R88 for the resolved orders, over the rows `m` and columns `n` that the level-2 loops run through. -/
def liveTiles (t : Tiles) (m n k : Nat) (o1 o2 : Order) : Nat :=
  let trips (x y : Nat) : Nat := if y = 0 then 0 else cdiv x y
  let i2 := if trips k t.k2 ≤ 1 then 1
    else (if o2.insideK.1 then trips m t.m2 else 1) * (if o2.insideK.2 then trips n t.n2 else 1)
  let d := if o1.kInsideN then cdiv t.m2 128 else t.t2
  t.t2 * i2 + d

/-- ORDER2 in force and whether it was demoted (R88). -/
def order2InForce (t : Tiles) (m n k : Nat) (o1 o2 : Order) : Order × Bool :=
  if 16 < liveTiles t m n k o1 o2 then (o2.demote, true) else (o2, false)

/-! ## The operands of a stroke (R58, R78-R80, R91) -/

/-- Whether a place is a half of a split cluster. -/
def Place.isHalf : Place → Bool
  | .half .. => true
  | _ => false

/-- Everything an mm stroke works from: its operands, its control block and the roles of their dimensions. -/
structure Mm where
  A : Operand
  B : Operand
  C : Operand
  bias : Operand
  hasBias : Bool
  cb : Nat
  ctl : CtlBlock
  half : Bool
  /-- Extents of the product, and the batch extents of C (R79, R91). -/
  m : Nat
  n : Nat
  k : Nat
  b0 : Nat
  b1 : Nat

def Mm.ncol (x : Mm) : Nat := if x.half then 64 else 128
def Stroke.isConv (t : Stroke) : Bool := t.op == 0x02
def Stroke.isPass (t : Stroke) : Bool := t.op == 0x20
def Stroke.transA (t : Stroke) : Bool := t.op == 0x01 && bit t.param 9
def Stroke.transB (t : Stroke) : Bool := if t.isPass then bit t.param 1 else bit t.param 10
def Stroke.accum (t : Stroke) : Bool := if t.isPass then bit t.param 0 else bit t.param 11

/-- The operands, from what the sequencer read at placement (R78). -/
def mmOf (s : State) (j : Job) (t : Stroke) : Mm :=
  let op (a : Nat) : Operand := s.operandSeen j t.structs a
  let A := op (t.opnds.getD 0 0)
  let C := op (t.opnds.getD 2 0)
  let cb := if t.isPass then 0 else t.opnds.getD 3 0
  let ctl := parseCtl (if cb = 0 then zeros 32 else s.structAt t.structs cb 32)
  { A := A, B := op (t.opnds.getD 1 0), C := C, bias := op ctl.bias, hasBias := ctl.bias != 0, cb := cb, ctl := ctl,
    half := (t.place.map Place.isHalf).getD false,
    m := if t.isConv then C.e 3 * C.e 2 * C.e 1 else C.e 1, n := C.e 0,
    k := if t.isConv then ctl.kr * ctl.ks * A.e 0 else if t.transA then A.e 1 else A.e 0,
    b0 := if t.op = 0x01 then C.e 2 else 1, b1 := if t.op = 0x01 then C.e 3 else 1 }

/-- The operands that the placement checks look at. -/
def Mm.ops (x : Mm) : List Operand := [x.A, x.B, x.C] ++ if x.hasBias then [x.bias] else []

/-- The structures of an mm stroke: addresses and lengths, those of absent ones omitted, tensor descriptors inside the argument block excepted (R78, R92). -/
def mmAddrs (s : State) (j : Job) (t : Stroke) : List (Nat × Nat) :=
  let x := mmOf s j t
  (if x.cb = 0 then [] else [(x.cb, 32)]) ++ (x.ops.map (fun o => o.descRanges j)).flatten

/-- A, B, C, bias and control block of an mm stroke as its sequencer reads them, absent structures omitted: what DESC_CRC covers (R93). -/
def mmStructs (s : State) (j : Job) (t : Stroke) : List Byte :=
  let x := mmOf s j t
  (x.ops.map (fun o => descBytes s j t.structs o.addr)).flatten ++ (if x.cb = 0 then [] else s.structAt t.structs x.cb 32)

/-- Check 13 of R83: a resumed stroke whose structures are not those of its first placement. -/
def mmChanged (s : State) (j : Job) (t : Stroke) : Option Nat := failIf (t.resumed && t.descCrc != some (crc32c (mmStructs s j t))) 13

/-! ## Tile sequencing (R84-R93) -/

/-- What the tile sequencer works on (R84-R88): extents, batches, tile sizes, orders and level 3. -/
structure MmPlan where
  m : Nat
  n : Nat
  k : Nat
  b0 : Nat
  b1 : Nat
  ncol : Nat
  tl : Tiles
  o1 : Order
  o2 : Order
  o3 : Order
  demoted : Bool
  live : Nat
  staged : Bool
  m3 : Nat
  n3 : Nat

/-- The largest multiple of `q`, at most `q * n`, that satisfies a test; 0 when none does. -/
def largestMultiple (q : Nat) (ok : Nat → Bool) : Nat → Nat
  | 0 => 0
  | n + 1 => if ok (q * (n + 1)) then q * (n + 1) else largestMultiple q ok n

/-- The plan of a stroke. A panel pair counts the operands in GDDR6 alone, the only ones staged (R86; log entry 111). mm.pass is one tile of one pass (R58). -/
def Mm.plan (x : Mm) (t : Stroke) : MmPlan :=
  let tl := if t.isPass then { n2 := roundUp x.n x.ncol, m2 := roundUp x.m 128, k2 := 128, t2 := cdiv x.m 128 }
    else tilesOf x.m x.n x.k x.A.fmt.bits x.B.fmt.bits x.half
  let code (c : Nat) : Nat := if t.isPass then 0 else c
  let o1 := Order.ofCode (code (fld t.param 2 0)) false
  let r2 := Order.ofCode (code (fld t.param 5 3)) (decide (x.m < x.n))
  let aG := regionOf x.A.d.base 1 == .gddr
  let bG := regionOf x.B.d.base 1 == .gddr
  let need (r c : Nat) : Nat := ((if aG then r * x.A.fmt.bits else 0) + (if bG then c * x.B.fmt.bits else 0)) * x.k
  let fits (r c : Nat) : Bool := decide (need r c ≤ x.ctl.stageSize / 2 * 8)
  let on := !t.isPass && x.ctl.stageSize != 0 && x.ctl.stageBase != 0 && (aG || bG) && fits tl.m2 tl.n2
  let m3 := if on then largestMultiple tl.m2 (fun r => fits r tl.n2) (cdiv x.m tl.m2) else roundUp x.m tl.m2
  let n3 := if on then largestMultiple tl.n2 (fun c => fits m3 c) (cdiv x.n tl.n2) else roundUp x.n tl.n2
  let f := order2InForce tl (min m3 x.m) (min n3 x.n) x.k o1 r2
  { m := x.m, n := x.n, k := x.k, b0 := x.b0, b1 := x.b1, ncol := x.ncol, tl := tl, o1 := o1, o2 := f.1,
    o3 := Order.ofCode (code (fld t.param 8 6)) (decide (x.m < x.n)),
    demoted := f.2, live := liveTiles tl (min m3 x.m) (min n3 x.n) x.k o1 f.1, staged := on, m3 := m3, n3 := n3 }

/-- Starts 0, q, 2q … below a limit. -/
def starts (lim q : Nat) : List Nat := if q = 0 then [] else (List.range (cdiv lim q)).map (· * q)

/-- The nest of three loops in an order, each index ascending (R87). -/
def Order.nest (o : Order) (ms ns ks : List Nat) : List (Nat × Nat × Nat) :=
  match o with
  | .mnk => ms.flatMap (fun m => ns.flatMap (fun n => ks.map (fun k => (m, n, k))))
  | .mkn => ms.flatMap (fun m => ks.flatMap (fun k => ns.map (fun n => (m, n, k))))
  | .nmk => ns.flatMap (fun n => ms.flatMap (fun m => ks.map (fun k => (m, n, k))))
  | .nkm => ns.flatMap (fun n => ks.flatMap (fun k => ms.map (fun m => (m, n, k))))
  | .kmn => ks.flatMap (fun k => ms.flatMap (fun m => ns.map (fun n => (m, n, k))))
  | .knm => ks.flatMap (fun k => ns.flatMap (fun n => ms.map (fun m => (m, n, k))))

/-- A level-2 tile: the level-3 tile it lies in and its first row, column and k. -/
structure L2Tile where
  im3 : Nat
  in3 : Nat
  im2 : Nat
  in2 : Nat
  ik2 : Nat
  deriving DecidableEq, Repr

/-- The level-2 tiles of one batch index in their order: level 3 outside level 2 (R87). -/
def MmPlan.tiles (p : MmPlan) : List L2Tile :=
  (p.o3.nest (starts p.m p.m3) (starts p.n p.n3) [0]).flatMap (fun x =>
    (p.o2.nest ((starts (min p.m3 (p.m - x.1)) p.tl.m2).map (· + x.1)) ((starts (min p.n3 (p.n - x.2.1)) p.tl.n2).map (· + x.2.1)) (starts p.k p.tl.k2)).map
      (fun y => { im3 := x.1, in3 := x.2.1, im2 := y.1, in2 := y.2.1, ik2 := y.2.2 }))

/-- One pass: its batch index, its rows of A and its columns and rows of the stationary tile (R57, R84). -/
structure PassGeom where
  b : Nat
  m0 : Nat
  m : Nat
  n0 : Nat
  n : Nat
  k0 : Nat
  k : Nat
  deriving DecidableEq, Repr

/-- The passes of a level-2 tile in the level-1 order: all its rows, Ncol columns and 128 rows of the stationary tile at a time, cut to the actual extents (R84, R87, R89). -/
def MmPlan.tilePasses (p : MmPlan) (b : Nat) (x : L2Tile) : List PassGeom :=
  let nn := min p.tl.n2 (p.n - x.in2)
  let kk := min p.tl.k2 (p.k - x.ik2)
  (p.o1.nest [0] (starts nn p.ncol) (starts kk 128)).map (fun y =>
    { b := b, m0 := x.im2, m := min p.tl.m2 (p.m - x.im2), n0 := x.in2 + y.2.1, n := min p.ncol (nn - y.2.1), k0 := x.ik2 + y.2.2, k := min 128 (kk - y.2.2) })

/-- Every pass of a stroke in its order: batches outside level 3, b1 outermost (R87, R90). -/
def MmPlan.passes (p : MmPlan) : List PassGeom := (List.range (p.b0 * p.b1)).flatMap (fun b => p.tiles.flatMap (p.tilePasses b))

/-- Level-2 tiles of a stroke. -/
def MmPlan.total (p : MmPlan) : Nat := p.tiles.length * (p.b0 * p.b1)

/-- Passes issued when `done` level-2 tiles have ended. -/
def MmPlan.passesAt (p : MmPlan) (done : Nat) : Nat :=
  let per := p.tiles.length
  if per = 0 then 0
  else (((List.range (done / per)).flatMap (fun b => p.tiles.flatMap (p.tilePasses b))) ++ (p.tiles.take (done % per)).flatMap (p.tilePasses 0)).length

/-- The k that an output element has reached when `done` level-2 tiles have ended (R84, R90). -/
def MmPlan.kDone (p : MmPlan) (done b i n : Nat) : Nat :=
  if done = 0 then 0
  else
    let per := p.tiles.length
    if b < done / per then p.k
    else if done / per < b then 0
    else (((p.tiles.take (done % per)).filter (fun x => decide (x.im2 ≤ i) && decide (i < x.im2 + p.tl.m2) && decide (x.in2 ≤ n) && decide (n < x.in2 + p.tl.n2))).map
      (fun x => min p.k (x.ik2 + p.tl.k2))).foldl max 0

/-- An output element has all its products (R93). -/
def MmPlan.complete (p : MmPlan) (done b i n : Nat) : Bool := p.k != 0 && p.kDone done b i n == p.k

/-- First row and column of the accumulator tiles that hold partial sums when `done` level-2 tiles have ended: output blocks begun and not ended in K. -/
def MmPlan.partials (p : MmPlan) (done : Nat) : List (Nat × Nat) :=
  let per := p.tiles.length
  let b := if per = 0 then 0 else done / per
  let open_ := (if per = 0 then [] else p.tiles.take (done % per)).filter (fun x => x.ik2 == 0 && !p.complete done b x.im2 x.in2)
  open_.flatMap (fun x => (starts (min p.tl.n2 (p.n - x.in2)) p.ncol).flatMap (fun c =>
    (starts (min p.tl.m2 (p.m - x.im2)) 128).map (fun r => (x.im2 + r, x.in2 + c))))

/-- The least number of ended level-2 tiles at which no pass of the first `passes` is unfinished: the boundary that a stroke reaches next (R49). -/
def MmPlan.boundary (p : MmPlan) (passes : Nat) : Nat :=
  ((List.range (p.total + 1)).find? (fun d => decide (passes ≤ p.passesAt d))).getD p.total

/-- The 96 B of sequencer state of an mm stroke after `done` level-2 tiles (R93). `accHead` is not told by any rule. -/
def mmSeq (p : MmPlan) (t : Stroke) (done accHead : Nat) : List Byte :=
  let per := p.tiles.length
  let b := if per = 0 then 0 else done / per
  let x := p.tiles.getD (if per = 0 then 0 else done % per) { im3 := 0, in3 := 0, im2 := 0, in2 := 0, ik2 := 0 }
  leBytes 1 1 ++ leBytes 1 (p.o1.code + p.o2.code * 8) ++ leBytes 1 (p.o3.code + bitAt p.demoted 3 + bitAt (p.ncol == 64) 4 + bitAt p.staged 5) ++ leBytes 1 p.live ++
    leBytes 4 p.m ++ leBytes 4 p.n ++ leBytes 4 p.k ++ leBytes 2 p.b0 ++ leBytes 2 p.b1 ++
    leBytes 2 (if p.b0 = 0 then 0 else b % p.b0) ++ leBytes 2 (if p.b0 = 0 then 0 else b / p.b0) ++ leBytes 4 p.m3 ++ leBytes 4 p.n3 ++
    leBytes 2 p.tl.m2 ++ leBytes 2 p.tl.n2 ++ leBytes 4 p.tl.k2 ++ leBytes 4 x.im3 ++ leBytes 4 x.in3 ++ leBytes 4 x.im2 ++ leBytes 4 x.in2 ++ leBytes 4 x.ik2 ++
    leBytes 4 (accHead % 16) ++ leBytes 4 (p.passesAt done) ++ leBytes 4 (t.descCrc.getD 0) ++ zeros 24

/-! ## Placement checks (R58, R62, R82, R83, R98, R102) -/

/-- Formats the array takes (R62): integer A is INT8, integer B INT8 or INT4; floats are the four narrow ones. -/
def badFormats (a b c : Fmt) (bias : Option Fmt) : Bool :=
  let fl (f : Fmt) : Bool := f == .e4m3 || f == .e5m2 || f == .bf16 || f == .fp16
  let intPair := a == .int8 && (b == .int8 || b == .int4)
  let floatPair := fl a && fl b
  !(intPair || floatPair) ||
  (intPair && !c.isInt) || (floatPair && c.isInt) ||
  (match bias with | none => false | some f => (intPair && f != .int32) || (floatPair && f != .fp32))

/-- Input scaling of R82 for one operand whose K dimension is `kd`. -/
def badInputScale (o : Operand) (kd : Nat) : Bool :=
  match o.d.scaleMode with
  | 0 => false
  | 4 => o.badScale
  | 3 => o.badScale || o.d.scaleAxis != kd
  | 2 => !(o.fmt == .e4m3 || o.fmt == .e5m2) || o.d.scaleAxis != kd
  | _ => true

/-- Output scaling of R102. -/
def badOutputScale (c : Operand) (n ncol : Nat) : Bool :=
  c.d.scaleMode != 0 &&
  (c.badScale || c.d.scaleAxis != 0 || decide (3 < c.d.scaleMode) || (c.d.scaleMode == 3 && decide (2 * ncol < n)))

/-- An output extent of a convolution: the floor formula of R91, which a small input makes 0 or negative. -/
def convExtent (x p q d f st : Nat) : Int := ((x : Int) + p + q - (d : Int) * ((f : Int) - 1) - 1) / (st : Int) + 1

/-- The control block and the staging area lie where check 3 asks. A control block outside the partition fails the check too, which R83 does not list (log entry 112). -/
def Mm.badAreas (x : Mm) (s : State) (p : Nat) : Bool :=
  (x.cb != 0 && !s.placeOk p x.cb 32) || (x.ctl.stageSize != 0 && x.ctl.stageBase != 0 && !s.placeOk p x.ctl.stageBase x.ctl.stageSize)

/-- Check 4: the extents of the operands disagree. Of filters each extent is compared by itself, where R83 speaks of their product K (log entry 113);
without a control block their height and width are not known. -/
def Mm.badShape (x : Mm) (t : Stroke) : Bool :=
  let tb := t.transB
  (if t.isConv then
    (if tb then x.B.e 0 else x.B.e 1) != x.A.e 0 || (if tb then x.B.e 3 else x.B.e 0) != x.n ||
      (x.cb != 0 && ((if tb then x.B.e 1 else x.B.e 2) != x.ctl.ks || (if tb then x.B.e 2 else x.B.e 3) != x.ctl.kr))
  else
    x.k != (if tb then x.B.e 0 else x.B.e 1) || (if tb then x.B.e 1 else x.B.e 0) != x.n || (if t.transA then x.A.e 0 else x.A.e 1) != x.m) ||
  (x.hasBias && (x.bias.d.rank != 1 || x.bias.e 0 != x.n))

/-- Check 5: a batch extent neither 1 nor C's. -/
def Mm.badBatch (x : Mm) (t : Stroke) : Bool :=
  if t.isPass then false
  else if t.isConv then x.A.e 3 != 1 && x.A.e 3 != x.C.e 3
  else [x.A, x.B].any (fun o => (o.e 2 != 1 && o.e 2 != x.C.e 2) || (o.e 3 != 1 && o.e 3 != x.C.e 3))

/-- Check 12: a convolution without its fields or with other output extents. -/
def Mm.badConv (x : Mm) (t : Stroke) : Bool :=
  t.isConv && (x.cb == 0 || [x.ctl.kr, x.ctl.ks, x.ctl.strideH, x.ctl.strideW, x.ctl.dilH, x.ctl.dilW].contains 0 || bit t.param 9 ||
    convExtent (x.A.e 2) x.ctl.padT x.ctl.padB x.ctl.dilH x.ctl.kr x.ctl.strideH != (x.C.e 2 : Int) ||
    convExtent (x.A.e 1) x.ctl.padL x.ctl.padR x.ctl.dilW x.ctl.ks x.ctl.strideW != (x.C.e 1 : Int))

/-- The K dimension of A, and of B. The K of a convolution spans three dimensions of the filters, of which C_in is taken (log entry 114). -/
def Stroke.kDimA (t : Stroke) : Nat := if t.transA then 1 else 0
def Stroke.kDimB (t : Stroke) : Nat := if t.transB then 0 else 1

/-- The lowest check of R83 or R102 that fails; a pass whose shape breaks R57 fails without a number. -/
def mmCheck (s : State) (j : Job) (t : Stroke) : Option Nat :=
  let x := mmOf s j t
  let dyn := x.ops.any (·.dynBad)
  let chk := lowest ((x.ops.map (fun o => o.checks s j.part false dyn)) ++ [
    mmChanged s j t,
    failIf (x.ctl.stageBase % 128 != 0) 2,
    failIf (!dyn && x.badAreas s j.part) 3,
    failIf (!dyn && x.badShape t) 4,
    failIf (!dyn && x.badBatch t) 5,
    failIf (badFormats x.A.fmt x.B.fmt x.C.fmt (if x.hasBias then some x.bias.fmt else none)) 6,
    failIf (t.accum && x.C.fmt != .fp32 && x.C.fmt != .int32) 7,
    failIf (badInputScale x.A t.kDimA || badInputScale x.B t.kDimB || (x.hasBias && x.bias.badScale)) 8,
    failIf (!dyn && (x.C.meets x.A || x.C.meets x.B || (x.hasBias && x.C.meets x.bias))) 9,
    failIf (!dyn && x.C.bad10) 10,
    failIf (!dyn && x.badConv t) 12,
    failIf (badOutputScale x.C x.n x.ncol) 14])
  match chk with
  | some c => some c
  | none =>
    if t.isPass && (x.k == 0 || x.n == 0 || x.m == 0 || decide (128 < x.k) || decide (x.ncol < x.n) || decide (2048 < x.m) ||
      [x.A, x.B, x.C].any (fun o => o.e 2 != 1 || o.e 3 != 1)) then some 0 else none

/-! ## The product of a stroke -/

/-- An index with batch broadcast: an extent of 1 uses index 0 (R79). -/
def batchIdx (o : Operand) (d0 d1 : Nat) (bi : List Nat) : List Nat :=
  [d0, d1, if o.e 2 = 1 then 0 else bi.getD 0 0, if o.e 3 = 1 then 0 else bi.getD 1 0]

/-- The element as the array takes it: the code's own value (R82). -/
def Operand.raw (o : Operand) (s : State) (i : List Nat) : FVal := decodeElem o.fmt (o.code s i)

/-- The shift that an operand adds on the output path (modes 3 and 4), and per chunk (mode 2). -/
def Operand.outSh (o : Operand) (s : State) (i : List Nat) : Int := if o.d.scaleMode = 3 ∨ o.d.scaleMode = 4 then o.shift s i else 0
def Operand.chunkSh (o : Operand) (s : State) (i : List Nat) : Int := if o.d.scaleMode = 2 then o.shift s i else 0

/-- Where element k of row m of the virtual A of a convolution lies; none in the padding (R91). -/
def Mm.convPos (x : Mm) (i kk : Nat) : Option (List Nat) :=
  let cin := x.A.e 0
  let px := i % x.C.e 1 * x.ctl.strideW + kk / cin % x.ctl.ks * x.ctl.dilW
  let py := i / x.C.e 1 % x.C.e 2 * x.ctl.strideH + kk / (cin * x.ctl.ks) * x.ctl.dilH
  if x.ctl.padL ≤ px ∧ px - x.ctl.padL < x.A.e 1 ∧ x.ctl.padT ≤ py ∧ py - x.ctl.padT < x.A.e 2 then
    some [kk % cin, px - x.ctl.padL, py - x.ctl.padT, if x.A.e 3 = 1 then 0 else i / (x.C.e 1 * x.C.e 2)]
  else none

/-- Index of element (m, k) of A; none where it is padding. -/
def Mm.aIdx (x : Mm) (t : Stroke) (bi : List Nat) (i kk : Nat) : Option (List Nat) :=
  if t.isConv then x.convPos i kk else some (if t.transA then batchIdx x.A i kk bi else batchIdx x.A kk i bi)

/-- Index of element (k, n) of B. -/
def Mm.bIdx (x : Mm) (t : Stroke) (bi : List Nat) (kk nn : Nat) : List Nat :=
  if t.isConv then
    let cin := x.A.e 0
    let sx := kk / cin % x.ctl.ks
    let r := kk / (cin * x.ctl.ks)
    if t.transB then [kk % cin, sx, r, nn] else [nn, kk % cin, sx, r]
  else if t.transB then batchIdx x.B kk nn bi else batchIdx x.B nn kk bi

/-- Index of element (m, n) of C. -/
def Mm.cIdx (x : Mm) (t : Stroke) (bi : List Nat) (i nn : Nat) : List Nat :=
  if t.isConv then [nn, i % x.C.e 1, i / x.C.e 1 % x.C.e 2, i / (x.C.e 1 * x.C.e 2)] else [nn, i, bi.getD 0 0, bi.getD 1 0]

/-- Batch number, row and column of an index of C. -/
def Mm.place (x : Mm) (t : Stroke) (i : List Nat) : Nat × Nat × Nat :=
  if t.isConv then (0, (i.getD 3 0 * x.C.e 2 + i.getD 2 0) * x.C.e 1 + i.getD 1 0, i.getD 0 0)
  else (i.getD 3 0 * x.b0 + i.getD 2 0, i.getD 1 0, i.getD 0 0)

/-- The batch indices b0 and b1 of a batch number: b1 is the outer loop (R90). -/
def Mm.batch (x : Mm) (b : Nat) : List Nat := [b % max 1 x.b0, b / max 1 x.b0]

/-- The product of a stroke. A shift of A along the K of a convolution is that of the first k of the row or chunk (log entry 114). -/
def Mm.product (x : Mm) (s : State) (t : Stroke) : Product :=
  { m := x.m, n := x.n, k := x.k, isInt := x.A.fmt.isInt, bFmt := x.B.fmt,
    a := fun bi i kk => match x.aIdx t bi i kk with | some y => x.A.raw s y | none => .zero,
    bCode := fun bi kk nn => x.B.code s (x.bIdx t bi kk nn),
    chunkShift := if x.A.d.scaleMode = 2 ∨ x.B.d.scaleMode = 2 then
      some (fun bi i nn k0 => (match x.aIdx t bi i k0 with | some y => x.A.chunkSh s y | none => 0) + x.B.chunkSh s (x.bIdx t bi k0 nn)) else none,
    outShift := fun bi i nn => (match x.aIdx t bi i 0 with | some y => x.A.outSh s y | none => x.A.outSh s [0, 0, 0, 0]) + x.B.outSh s (x.bIdx t bi 0 nn),
    start := fun bi i nn => x.C.raw s (x.cIdx t bi i nn), accumulate := t.accum,
    bias := if x.hasBias then some (fun nn => x.bias.raw s [nn, 0, 0, 0]) else none }

/-! ## The work between two level-2 tile boundaries (R81, R93) -/

/-- The bits of an accumulator word, and the value they spell (R59). -/
def Product.word (p : Product) (v : FVal) : Nat := if p.isInt then ofSigned 32 v.toInt else v.bits32
def Product.ofWord (p : Product) (w : Nat) : FVal := decodeElem (if p.isInt then .int32 else .fp32) w

/-- Bytes of one accumulator tile in a save frame: a full-mode tile fills a 64 KiB slot, of a half's two lie in each (R49, R70). -/
def slotOffset (ncol q : Nat) : Nat := if ncol = 64 then q * 32768 else q * 65536

/-- The accumulator that a resumed stroke read back for an element: its tile's place in the frame, then its row and word (R49, R93). -/
def loadedWord (p : MmPlan) (t : Stroke) (i n : Nat) : Nat :=
  let q := (p.partials t.tilesDone).findIdx (fun x => x.1 == i / 128 * 128 && x.2 == n / p.ncol * p.ncol)
  let slot := t.accOrder.findIdx (· == q)
  rdN t.loaded (slotOffset p.ncol slot + (i % 128) * (4 * p.ncol) + n % p.ncol * 4) 4

/-- What a stretch of work did for one output element: its accumulator, the additions that saturated, and whether the element is written. -/
structure Elem where
  acc : FVal
  sat : Nat
  ends : Bool

/-- The accumulator of an element from where the stroke was placed or resumed up to k, without the bias. -/
def mmPartial (p : MmPlan) (pr : Product) (t : Stroke) (b : Nat) (bi : List Nat) (i n k1 : Nat) : FVal × Nat :=
  let k0 := p.kDone t.tilesDone b i n
  pr.stretch bi i n (if k0 = 0 then pr.init bi i n else pr.ofWord (loadedWord p t i n)) k0 k1

/-- One output element from the boundary at which the stroke was placed to another, or to its end (none). -/
def mmElem (p : MmPlan) (pr : Product) (t : Stroke) (hi : Option Nat) (b : Nat) (bi : List Nat) (i n : Nat) : Elem :=
  if p.complete t.tilesDone b i n then { acc := .zero, sat := 0, ends := false }
  else
    let r := mmPartial p pr t b bi i n (match hi with | none => pr.k | some d => p.kDone d b i n)
    if (match hi with | none => true | some d => p.complete d b i n) then
      let z := pr.addBias n r.1
      { acc := z.1, sat := r.2 + z.2, ends := true }
    else { acc := r.1, sat := r.2, ends := false }

/-- The output of a stretch: the elements that end in it go through the output path (R93, R102). -/
structure MmOut where
  out : TensorOut
  accSat : Nat

def mmOutput (s : State) (x : Mm) (p : MmPlan) (pr : Product) (t : Stroke) (hi : Option Nat) : MmOut :=
  let el := (indices x.C.ext).map (fun i => let q := x.place t i; (q, mmElem p pr t hi q.1 (x.batch q.1) q.2.1 q.2.2))
  let vals := el.map (fun e => outScale (x.C.d.scaleMode != 0) (pr.outShift (x.batch e.1.1) e.1.2.1 e.1.2.2) e.2.acc)
  let ends (i : List Nat) : Bool := let q := x.place t i
    !p.complete t.tilesDone q.1 q.2.1 q.2.2 && (match hi with | none => true | some d => p.complete d q.1 q.2.1 q.2.2)
  { out := x.C.writeSome s { ext := x.C.ext, vals := vals } (if t.tilesDone = 0 ∧ hi.isNone then max 1 (x.C.e 0) else max 1 p.tl.n2) ends,
    accSat := (el.map (fun e => e.2.sat)).foldl (· + ·) 0 }

/-- The counters of a cluster after a stretch of an mm stroke (R61, R81, R97). -/
def mmCounters (n : Nat) (o : MmOut) : Plan :=
  Plan.seq [bump (pgBC n) 0x11C o.accSat, Plan.when (o.accSat != 0) (raiseErr (pgBC n) 8 [] 0),
    bump (pgBC n) 0x134 o.out.sat, bump (pgBC n) 0x138 o.out.nan]

/-- The numbers below `n` in an order that the free value decides: the spec does not say which accumulator tile holds which block. -/
def freeOrder (f n : Nat) : List Nat :=
  if n < 2 then List.range n
  else
    let key (q : Nat) : Nat := f / 2 ^ (64 * q) % 2 ^ 64
    (List.range n).foldr (fun q acc => acc.takeWhile (fun y => decide (key y < key q)) ++ q :: acc.dropWhile (fun y => decide (key y < key q))) []

/-- The accumulator tiles that a stroke saves at a boundary, in the order given (R49, R93). -/
def mmSaved (p : MmPlan) (pr : Product) (x : Mm) (t : Stroke) (done f : Nat) (order : List Nat) : List Byte :=
  let per := p.tiles.length
  let b := if per = 0 then 0 else done / per
  let l := p.partials done
  order.flatMap (fun q =>
    let y := l.getD q (0, 0)
    accTileBytes (f / 2 ^ (600000 * q)) p.ncol (fun r c =>
      if y.1 + r < p.m ∧ y.2 + c < p.n then
        some (pr.word (mmPartial p pr t b (x.batch b) (y.1 + r) (y.2 + c) (p.kDone done b (y.1 + r) (y.2 + c))).1)
      else none))

/-! ## Registers that show the sequencer -/

/-- BC_SEQ_TILE of the stroke (05_tiling_sequencer.md). -/
def seqTile (t : Tiles) (o2 : Order) (ncol : Nat) : Nat :=
  o2.code * 2 ^ 24 + cdiv t.m2 128 * 2 ^ 20 + t.n2 / ncol * 2 ^ 18 + t.k2 / 128

/-- BC_SEQ_TILE shows the stroke of the whole cluster or of its left half. -/
def noteSeqTile (n : Nat) (t : Stroke) (w : Nat) : Plan :=
  match t.place with
  | some (.half _ true) => Plan.skip
  | _ => setReg 0 (pgBC n) 0x130 w

/-- BC_SEQ_TILE as it reads: the tile of the mm.gemm or mm.conv stroke that runs, 0 when none does; from what its sequencer read, until the stroke has been carried out. -/
def seqTileOf (s : State) (n : Nat) (r : Option StrokeRef) : Nat :=
  match r with
  | none => 0
  | some r =>
    let j := s.job r.job
    let t := j.stroke r.idx
    if t.cls = 1 ∧ (t.op = 1 ∨ t.op = 2) then
      if t.ran then s.reg 0 (pgBC n) 0x130 else let p := (mmOf s j t).plan t; seqTile p.tl p.o2 p.ncol
    else 0

/-- ORDER_DEMOTION: the job completes with OK_REORDERED, and the count of the cluster (R88). -/
def noteDemotion (id n : Nat) (demoted : Bool) : Plan :=
  Plan.when demoted (Plan.andThen (modJob id (fun j => { j with reordered := true })) (bump (pgBC n) 0x12C 1))

/-! ## Passes (R57, R62-R68) -/

/-- The cycle at which output element `n` of a row presented at cycle `c` is committed to the accumulator store; in a split half `n` counts from the half's first column (R64). -/
def commitCycle (c n : Nat) (wide : Bool) : Nat := c + (if wide then 146 else 145) + n

/-- The issue cycle of a pass, and the stall cycles counted. `last` and `rows` are the preceding pass's issue cycle and the cycles its rows take; the stationary rows of the
pass are in the operand store at `wAt` and its input rows at `aAt` (R65, R67). On an idle array, whose rows have all been presented when the stationary rows arrive, the full load is waited for and
not counted; otherwise the load begins at the preceding issue or when they arrive, and the drain that delays the issue is counted. -/
def issueCycle (last rows wAt aAt load : Nat) : Nat × Nat :=
  if last + rows ≤ wAt then (max (wAt + load) aAt, 0)
  else (max (max (last + rows) (max last wAt + load)) aAt, last + load - max (last + rows) aAt)

/-- The array, or the half of it, that a place is. -/
def Place.right : Place → Bool
  | .half _ r => r
  | _ => false

/-- What the array is given with a pass: its rate, its stationary tile, its rows, and those of them that hold neither an infinity nor a NaN. -/
structure PassIn where
  wide : Bool
  tile : Stationary
  rows : Nat
  finite : Nat

def FVal.isZero : FVal → Bool
  | .fin _ m _ => m == 0
  | _ => false

/-- Columns whose stationary values are all zero, those at or beyond N among them (R68). -/
def Stationary.gatedCols (x : Stationary) (ncol : Nat) : Nat :=
  ncol - x.n + ((List.range x.n).filter (fun n => (List.range x.k).all (fun k => (decodeElem ((Fmt.ofCode x.fmt).getD .int8) (x.at k n)).isZero))).length

/-- Marks passes of a stroke as issued. -/
def countPasses (id i n : Nat) : Plan := modJob id (fun j => { j with strokes := j.strokes.modify i (fun t => { t with passes := n }) })

/-- A pass issues: it is counted with the cycles of its rows, its stall and its gated columns; its tile becomes active, the other register set takes the tile of the next pass, or holds the old one (R65-R68). -/
def issuePass (n : Nat) (right : Bool) (ncol wAt aAt gated : Nat) (x : PassIn) (next : Option Stationary) : Plan := fun s =>
  let c := s.cluster n
  let r := if x.wide then 2 else 1
  let y := issueCycle (if right then c.issueR else c.issueL) (if right then c.rowsR else c.rowsL) wAt aAt (128 * r)
  let old := if right then c.tilesR else c.tilesL
  let tiles : ArrayTiles := { active := x.tile, shadow := next.getD old.active }
  Plan.seq [
    bumpWrap (pgBC n) 0x10C 1, bumpWrap (pgBC n) 0x110 (r * x.rows), bumpWrap (pgBC n) 0x114 y.2,
    bumpWrap (pgBC n) 0x118 (r * (x.finite * x.tile.gatedCols ncol + gated)),
    Plan.act (.clusters n (if right then { c with issueR := y.1, rowsR := r * x.rows, tilesR := tiles } else { c with issueL := y.1, rowsL := r * x.rows, tilesL := tiles }))] s

/-- The stationary tile of a pass, as the load writes it (R57, R65). -/
def Product.tile (p : Product) (bi : List Nat) (fmt : Nat) (g : PassGeom) : Stationary :=
  { fmt := fmt, k := g.k, n := g.n, codes := (List.range g.k).flatMap (fun k => (List.range g.n).map (fun c => p.bCode bi (g.k0 + k) (g.n0 + c))) }

/-- The rate of a pair of formats: 16-bit when either operand is (R62). -/
def widePair (a b : Fmt) : Bool := a.bits == 16 || b.bits == 16

/-- One pass of an mm stroke as the array is given it. -/
def Mm.passIn (x : Mm) (pr : Product) (g : PassGeom) : PassIn :=
  let bi := x.batch g.b
  { wide := widePair x.A.fmt x.B.fmt, tile := pr.tile bi x.B.d.fmtCode g, rows := g.m,
    finite := ((List.range g.m).filter (fun i => (List.range g.k).all (fun k => (pr.a bi (g.m0 + i) (g.k0 + k)).isFinite))).length }

/-- Consecutive passes of an mm stroke, each with its operand rows in the operand store in time, the first one's from `now` on (R67; log entry 110). -/
def issueAll (n : Nat) (right : Bool) (x : Mm) (pr : Product) (now : Nat) : List PassGeom → Plan
  | [] => Plan.skip
  | g :: gs => Plan.andThen
      (issuePass n right x.ncol now 0 0 (x.passIn pr g) ((gs.head?).map (fun h => pr.tile (x.batch h.b) x.B.d.fmtCode h)))
      (issueAll n right x pr 0 gs)

/-- The passes of a stroke that are left up to a boundary, or to its end. -/
def MmPlan.left (p : MmPlan) (t : Stroke) (hi : Option Nat) : List PassGeom :=
  let l := p.passes.drop t.passes
  match hi with | none => l | some d => l.take (p.passesAt d - t.passes)

/-- The words that a pass leaves in the accumulator store, its row i in accumulator row `r0` + i; elements at or beyond N are not written (R57). -/
def accWrites (n : Nat) (right : Bool) (r0 : Nat) (p : MmPlan) (pr : Product) (x : Mm) (t : Stroke) (g : PassGeom) : List Eff :=
  (List.range g.m).flatMap (fun i => (List.range g.n).map (fun c =>
    Eff.localStore (accKey n (r0 + i) (c + if right then 64 else 0))
      (leBytes 4 (pr.word (mmPartial p pr t g.b (x.batch g.b) (g.m0 + i) (g.n0 + c) (g.k0 + g.k)).1))))

/-! ## The strokes -/

/-- The staging area holds panels of A and B as it works; their arrangement in it is not told, so it holds free values from then on (R80, R84, R86; log entry 110). -/
def stageWrites (s : State) (x : Mm) (p : MmPlan) : List (Nat × List Byte) :=
  if p.staged then [(x.ctl.stageBase, leBytes x.ctl.stageSize (Config.freeValue s.fresh / 2 ^ (8 * 0x400000)))] else []

/-- What an mm stroke that passes its checks comes to from where it stands to its end; `last` adds to its effects (R79-R92). -/
def mmRun (id i now : Nat) (s : State) (j : Job) (t : Stroke) (last : Mm → MmPlan → Product → Plan) : OpOut :=
  match mmCheck s j t with
  | some c => { check := some c }
  | none =>
    let x := mmOf s j t
    let p := x.plan t
    let pr := x.product s t
    let o := mmOutput s x p pr t none
    let pl := t.place.getD .sched
    let cl := pl.cluster
    let gs := p.left t none
    { reads := (if x.cb = 0 then [] else [(x.cb, 32)]) ++ x.A.readRanges j ++ x.B.readRanges j ++ (if x.hasBias then x.bias.readRanges j else []) ++
        (if t.accum then x.C.readRanges j else x.C.descRanges j),
      writes := stageWrites s x p ++ o.out.writes,
      paths := if gs.isEmpty then (if o.out.writes.isEmpty then [] else [3]) else [4, 1, 2, 0, 3], next := !gs.isEmpty,
      more := Plan.seq [issueAll cl pl.right x pr now gs, mmCounters cl o,
        Plan.when (!t.isPass) (Plan.andThen (noteDemotion id cl (p.demoted && x.k != 0 && x.m != 0 && x.n != 0)) (noteSeqTile cl t (seqTile p.tl p.o2 x.ncol))),
        countPasses id i (t.passes + gs.length), last x p pr] }

/-- mm.gemm (R79-R90) and mm.conv (R91) as operations. -/
def gemmOp (id i now : Nat) (s : State) (j : Job) (t : Stroke) : OpOut := mmRun id i now s j t (fun _ _ _ => Plan.skip)
def convOp (id i now : Nat) (s : State) (j : Job) (t : Stroke) : OpOut := mmRun id i now s j t (fun _ _ _ => Plan.skip)

/-- mm.pass as an operation: one pass of at most 2,048 × 128 × 128, N at most 64 in a half, whose output rows stay in the accumulator store from row `accRow` on,
or from the last at which they fit (R57, R58; log entry 110). -/
def passOp (id i now accRow : Nat) (s : State) (j : Job) (t : Stroke) : OpOut :=
  mmRun id i now s j t (fun x p pr _ =>
    let pl := t.place.getD .sched
    p.passes.flatMap (fun g => accWrites pl.cluster pl.right (min accRow (2048 - g.m)) p pr x t g))

/-- MM_GEMM (R79). -/
def execMmGemm (job idx now : Nat) (s : State) : Host.Outcome State Fault Refusal := Plan.done (runOp 0x01 0x01 job idx (gemmOp job idx now)) s

/-- MM_CONV (R91). -/
def execMmConv (job idx now : Nat) (s : State) : Host.Outcome State Fault Refusal := Plan.done (runOp 0x01 0x02 job idx (convOp job idx now)) s

/-- MM_PASS (R58). -/
def execMmPass (job idx now accRow : Nat) (s : State) : Host.Outcome State Fault Refusal := Plan.done (runOp 0x01 0x20 job idx (passOp job idx now accRow)) s

/-! ## A pass by itself (R57, R64-R68) -/

/-- The next pass of a running mm stroke: it issues, its output rows land from accumulator row `accRow` on, and the operand store holds its tiles (R57, R84). -/
def issueNext (r : StrokeRef) (pl : Place) (accRow wAt aAt : Nat) : Plan := fun s =>
  let j := s.job r.job
  let t := j.stroke r.idx
  let x := mmOf s j t
  let p := x.plan t
  let pr := x.product s t
  match (p.passes.drop t.passes) with
  | [] => []
  | g :: gs =>
    if (mmCheck s j t).isSome || (t.preempting && p.passesAt (p.boundary t.passes) == t.passes) then []
    else match s.firesOn pl [4, 1, 2, 0, 3] with
    | some y => fireInjection t true y s
    | none =>
      Plan.seq [workSpace pl true,
        issuePass pl.cluster pl.right x.ncol wAt aAt 0 (x.passIn pr g) ((gs.head?).map (fun h => pr.tile (x.batch h.b) x.B.d.fmtCode h)),
        (fun _ => accWrites pl.cluster pl.right (min accRow (2048 - g.m)) p pr x t g), countPasses r.job r.idx (t.passes + 1)] s

/-- A pass of a running attn stroke: its shape comes from outside, its operands are free values (R57, R133; log entry 110). -/
def issueAttn (r : StrokeRef) (pl : Place) (accRow wAt aAt : Nat) (h : PassShape) : Plan := fun s =>
  let j := s.job r.job
  let t := j.stroke r.idx
  let a := attnOf s j t
  if (a.check t.op).isSome || h.k == 0 || h.n == 0 || h.m == 0 || decide (128 < h.k) || decide (128 < h.n) || decide (2048 < h.m) || decide (128 * h.m < h.gated) then []
  else match s.firesOn pl [4, 1, 2, 0, 3] with
  | some y => fireInjection t true y s
  | none =>
    Plan.seq [workSpace pl true,
      withFree (fun f =>
        let r0 := min accRow (2048 - h.m)
        Plan.seq [
          issuePass pl.cluster false 128 wAt aAt h.gated
            { wide := h.wide, rows := h.m, finite := 0,
              tile := { fmt := a.kv.fmtCode, k := h.k, n := h.n, codes := (List.range (h.k * h.n)).map (fun q => f / 2 ^ (16 * q) % 2 ^ (8 * a.fmt.bytes)) } } none,
          (fun _ => (List.range h.m).map (fun i => Eff.localStore (accKey pl.cluster (r0 + i) 0) (leBytes (4 * min 64 h.n) (f / 2 ^ (300000 + 4096 * i))))),
          (fun _ => if h.n ≤ 64 then [] else (List.range h.m).map (fun i => Eff.localStore (accKey pl.cluster (r0 + i) 64) (leBytes (4 * (h.n - 64)) (f / 2 ^ (302048 + 4096 * i)))))]),
      countPasses r.job r.idx (t.passes + 1)] s

/-- PASS_ISSUE: the next pass of the stroke that runs on the cluster or in the half; its stationary rows are in the operand store at cycle `weightsAt`, its input rows at `rowsAt` (R57-R68). -/
def passIssue (cluster : Nat) (right : Bool) (accRow wAt aAt : Nat) (shape : PassShape) : Plan := fun s =>
  let c := s.cluster cluster
  match (if right then c.right else c.left) with
  | none => []
  | some r =>
    let j := s.job r.job
    let t := j.stroke r.idx
    match t.place with
    | none => []
    | some pl =>
      if j.phase ≠ .running ∨ j.killed.isSome ∨ t.state ≠ .running ∨ t.ran then []
      else if t.cls = 1 then issueNext r pl accRow wAt aAt s
      else if t.cls = 2 then issueAttn r pl accRow wAt aAt shape s
      else []

/-- PASS_ISSUE (R67). -/
def execPassIssue (cluster : Nat) (right : Bool) (accRow weightsAt rowsAt : Nat) (shape : PassShape) (s : State) : Host.Outcome State Fault Refusal :=
  Plan.done (passIssue cluster right accRow weightsAt rowsAt shape) s

end Sys2Proof.Machine
end

