-- ==== Sys2Proof/Machine/Sched.lean ====
section
/-! DEFINITION. The scheduler (R39-R53, R93, R137, R271): placement on the first free suitable unit, pre-emption and its save frames, completion of strokes and their signals,
the limits of jobs, the scheduler's own operations and the semaphore register. -/
namespace Sys2Proof.Machine

/-! ## Clusters that may take a stroke (R46, R47, R271) -/

/-- The partition for which the ruling slot in force reserves a cluster, when that partition owns it (R268, R269, R271). -/
def State.reservedFor (s : State) (n : Nat) : Option Nat :=
  if !s.ruling.enable then none
  else match s.ruling.table[s.ruling.entry]? with
    | none => none
    | some e =>
      let own (en : Bool) (set p : Nat) : Bool := en && bit set n && (s.cluster n).owner == p
      if own e.enA e.clustersA e.partA then some e.partA else if own e.enB e.clustersB e.partB then some e.partB else none

/-- The ruling table lets a stroke be placed on a cluster. -/
def State.rulingAllows (s : State) (n p : Nat) (rt : Bool) : Bool :=
  match s.reservedFor n with
  | none => true
  | some q => q == p && rt

/-- New strokes are held from a cluster: a mode change, a move or a spare-in is under way (R55, R268, R373). -/
def State.clusterHeld (s : State) (n : Nat) : Bool :=
  (Tab.get {} s.modeUnits (pgBC n)).pending != 0 || (s.unitMove.status == 1 && s.unitMove.kind == 0 && s.unitMove.index == n) ||
    (match s.reserve.running with | some t => t.kind == 0 && t.index == n && decide (2 ≤ s.reserve.phase) | none => false)

/-- Clusters of a partition open to a stroke, ascending. -/
def State.openClusters (s : State) (p : Nat) (rt : Bool) : List Nat :=
  (s.ownClusters p).filter (fun n => !s.clusterHeld n && s.rulingAllows n p rt)

/-- The session slots of a partition that are neither held nor promised to a placed let.join. -/
def State.freeSession (s : State) (p : Nat) : Option Nat :=
  let q := s.part p
  ((List.range q.sessCount).map (· + q.sessFirst)).find? (fun n =>
    decide ((s.session n).state = .free) && !s.jobs.any (fun e => e.2.strokes.any (fun t => t.state = .running && t.place = some (.session n))))

/-- The port that a link stroke takes its place on; a collective takes both (R313, R320). -/
def linkPlace (s : State) (t : Stroke) : Place :=
  if t.op = 3 ∨ t.op = 4 then .links
  else if t.op = 2 then .link (route s (fld (t.opnds.getD 0 0) 3 0) 0)
  else match copySides t with
    | .push d _ => .link (route s d.1 (d.2 / 256))
    | .pull x _ => .link (route s x.1 (x.2 / 256))
    | .wrong => .link 0

/-- The units suitable for a stroke, in the order in which they are tried; of the session slots of its partition, a let.join is tried on the first free one, or where none is free waits for the first (R46, R47, R160, R192, R320). -/
def suitable (s : State) (id i : Nat) : List Place :=
  let j := s.job id
  let t := j.stroke i
  let cl := s.openClusters j.part t.rt
  let saved := t.state = .preempted
  match t.cls with
  | 0x01 => cl.flatMap (fun n =>
      if s.splitMode n then (if t.splitOk && (!saved || t.savedSplit) then [.half n false, .half n true] else [])
      else if saved && t.savedSplit then [] else [.whole n])
  | 0x02 => (cl.filter (fun n => !s.splitMode n)).map .whole
  | 0x03 => (cl.filter (fun n => !s.splitMode n)).map .hatch
  | 0x04 => (cl.filter (fun n => !s.splitMode n)).map .mover
  | 0x05 =>
    if t.op = 1 then (if (s.part j.part).sessCount = 0 then [] else [.session ((s.freeSession j.part).getD (s.part j.part).sessFirst)])
    else if t.op = 3 ∨ t.op = 4 then [.letBulk] else [.letStep]
  | 0x06 => [.media]
  | 0x07 => [.intake]
  | 0x08 => [.trk]
  | 0x09 => [linkPlace s t]
  | _ => [.sched]

/-! ## Free units -/

/-- The places that running strokes hold. -/
def State.placesHeld (s : State) : List Place :=
  s.jobs.flatMap (fun e => e.2.strokes.filterMap (fun t => if t.state = .running then t.place else none))

/-- Link strokes that hold a place on a port (R320). -/
def State.linksOn (s : State) (p : Nat) : Nat := (s.placesHeld.filter (fun x => x = .link p || x = .links)).length

/-- A unit is free for a stroke of a partition. -/
def State.isFree (s : State) (p : Nat) : Place → Bool
  | .whole n => let c := s.cluster n
    c.left.isNone && c.right.isNone && c.hatch.isNone && c.mover.isNone && !c.burnishL && !c.burnishR && !c.burnishW && !c.burnishH && !c.burnishM
  | .half n false => let c := s.cluster n; c.left.isNone && !c.burnishL && !c.burnishW && !c.burnishH && !c.burnishM
  | .half n true => let c := s.cluster n; c.right.isNone && !c.burnishR && !c.burnishW && !c.burnishH && !c.burnishM
  | .hatch n => let c := s.cluster n; c.left.isNone && c.right.isNone && c.hatch.isNone && !c.burnishL && !c.burnishW && !c.burnishH
  | .mover n => let c := s.cluster n; c.left.isNone && c.right.isNone && c.mover.isNone && !c.burnishR && !c.burnishW && !c.burnishM
  | .session _ => (s.freeSession p).isSome
  | .letStep => !s.placesHeld.contains .letStep && (Tab.get {} s.modeUnits pgLET).pending == 0
  | .letBulk => !s.placesHeld.contains .letBulk
  | .media => decide ((s.placesHeld.filter (· = .media)).length < 1024)
  | .link k => decide (s.linksOn k < 32)
  | .links => decide (s.linksOn 0 < 32) && decide (s.linksOn 1 < 32)
  | _ => true

/-- Two strokes that want these units stand in each other's way (R45). -/
def Place.conflicts : Place → Place → Bool
  | .session a, .session b => a == b
  | .link a, .link b => a == b
  | .links, .link _ => true
  | .link _, .links => true
  | .half n a, .half m b => n == m && a == b
  | .hatch n, .hatch m => n == m
  | .mover n, .mover m => n == m
  | .hatch _, .mover _ => false
  | .mover _, .hatch _ => false
  | .whole n, .whole m => n == m
  | .whole n, .half m _ => n == m
  | .whole n, .hatch m => n == m
  | .whole n, .mover m => n == m
  | .half n _, .whole m => n == m
  | .hatch n, .whole m => n == m
  | .mover n, .whole m => n == m
  | a, b => a == b

/-! ## The order of placement (R45) -/

/-- A stroke that may be placed: effective priority and admission order of its job, its job and its index. -/
structure Candidate where
  eff : Nat
  entry : Nat
  job : Nat
  idx : Nat

def Candidate.before (a b : Candidate) : Bool :=
  decide (b.eff < a.eff) || (a.eff == b.eff && (decide (a.entry < b.entry) || (a.entry == b.entry && decide (a.idx ≤ b.idx))))

def insertCandidate (c : Candidate) : List Candidate → List Candidate
  | [] => [c]
  | d :: ds => if c.before d then c :: d :: ds else d :: insertCandidate c ds

/-- A stroke that waits for a unit: READY, or PREEMPTED and not held back by the mode change that pre-empted it (R45, R47, R55). -/
def State.wantsUnit (s : State) (t : Stroke) : Bool :=
  t.state = .ready || (t.state = .preempted && (t.afterChange == 0 || decide ((s.change (t.afterChange - 1)).state ≠ .pending)))

/-- READY and PREEMPTED strokes of the running jobs, in the order of R45. -/
def State.candidates (s : State) : List Candidate :=
  ((s.jobs.filter (fun e => e.2.phase = .running && e.2.killed.isNone)).flatMap (fun e =>
    ((e.2.strokes.mapIdx (fun i t => (i, t))).filter (fun x => s.wantsUnit x.2)).map (fun x =>
      ({ eff := e.2.eff, entry := e.2.entry, job := e.1, idx := x.1 } : Candidate)))).foldl (fun l c => insertCandidate c l) []

/-! ## Pre-emption (R48, R49) -/

/-- The lowest save frame of a partition that is free. -/
def Part.freeFrame (p : Part) : Option Nat := (List.range p.frames).find? (fun k => !p.framesUsed.any (fun f => f.1 == k))

/-- A running mm or attn stroke that can still be pre-empted. -/
def Stroke.canPreempt (t : Stroke) : Bool := t.state = .running && !t.ran && !t.preempting && (t.cls == 1 || t.cls == 2)

/-- Starts the pre-emption of a stroke and reserves its save frame; without a free frame nothing starts. `after` is the function, plus 1, whose mode change starts it. -/
def startPreempt (id i : Nat) (for_ : Option (Nat × Nat)) (after : Nat) : Plan := fun s =>
  let j := s.job id
  let p := s.part j.part
  match p.freeFrame with
  | none => []
  | some k =>
    if (j.stroke i).canPreempt && j.killed.isNone then
      [.parts j.part { p with framesUsed := p.framesUsed ++ [(k, id)] },
       .jobs id { j with strokes := j.strokes.modify i (fun t => { t with preempting := true, preemptFor := for_, frame := some k, afterChange := after }) }]
    else []

/-- The mm and attn strokes on a cluster. -/
def State.arrayStrokes (s : State) (n : Nat) : List StrokeRef :=
  let c := s.cluster n
  c.left.toList ++ c.right.toList

/-- Starts the pre-emption of every mm and attn stroke on a cluster, for the mode change of a function (plus 1), or 0 for a move or a spare-in (R55, R268, R373). -/
def preemptCluster (n after : Nat) : Plan := fun s =>
  Plan.each (s.arrayStrokes n) (fun r => startPreempt r.job r.idx none after) s

/-- The strokes on the units suitable for a stroke that it may displace: effective priority, order of start, cluster and half, and the stroke itself. -/
def victims (s : State) (id i : Nat) : List (Nat × Nat × Nat × StrokeRef) :=
  let e := (s.job id).eff
  (suitable s id i).filterMap (fun pl =>
    let r := match pl with | .whole n => (s.cluster n).left | .half n false => (s.cluster n).left | .half n true => (s.cluster n).right | _ => none
    match r with
    | none => none
    | some r =>
      let v := s.job r.job
      let t := v.stroke r.idx
      if t.canPreempt && v.killed.isNone && decide (v.eff < e) && (s.part v.part).freeFrame.isSome then
        some (v.eff, t.started, 2 * pl.cluster + (match pl with | .half _ true => 1 | _ => 0), r)
      else none)

/-- The victim of R48: lowest effective priority, then most recently started, then lowest cluster. -/
def bestVictim : List (Nat × Nat × Nat × StrokeRef) → Option StrokeRef
  | [] => none
  | x :: xs =>
    let y := xs.foldl (fun b c =>
      if c.1 < b.1 || (c.1 == b.1 && (decide (b.2.1 < c.2.1) || (c.2.1 == b.2.1 && decide (c.2.2.1 < b.2.2.1)))) then c else b) x
    some y.2.2.2

/-- A pre-emption for a stroke is under way (R48). -/
def State.preemptsFor (s : State) (id i : Nat) : Bool :=
  s.jobs.any (fun e => e.2.strokes.any (fun t => t.preempting && t.preemptFor == some (id, i)))

/-- Starts a pre-emption for a stroke that found no free unit: for a READY one, and for a PREEMPTED one of a job whose priority is raised (R48, R50). -/
def tryPreempt (id i : Nat) : Plan := fun s =>
  let j := s.job id
  let t := j.stroke i
  if (t.cls == 1 || t.cls == 2) && (t.state = .ready || decide (j.base < j.eff)) && !s.preemptsFor id i then
    match bestVictim (victims s id i) with
    | some r => startPreempt r.job r.idx (some (id, i)) 0 s
    | none => []
  else []

/-! ## Placement (R39, R45, R93, R137) -/

/-- CRC-32C of the structures of an mm or attn stroke as it first reads them (R93, R137). -/
def structsCrc (s : State) (j : Job) (t : Stroke) : Option Nat :=
  if t.cls = 1 then some (crc32c (mmStructs s j t)) else if t.cls = 2 then some (crc32c ((attnOf s j t).structs t.op)) else none

/-- The structures that an mm or attn stroke reads when it is placed, and does not read again until it resumes (R78, R93, R120). -/
def structsRead (s : State) (j : Job) (t : Stroke) : List (Nat × List Byte) :=
  (if t.cls = 1 then mmAddrs s j t else if t.cls = 2 then attnAddrs s j t else []).map (fun x => (x.1, s.bytesAt x.1 x.2))

/-- Bytes of accumulator tiles that a stroke saved: whole slots of its frame (R49, R70). -/
def Stroke.savedBytes (s : State) (j : Job) (t : Stroke) (k : Nat) : List Byte :=
  let a := (s.part j.part).saveBase + k * 0x101000
  s.bytesAt (a + 0x1000) (t.savedSlots * 65536)

/-- The unit takes the stroke. -/
def takeUnit (r : StrokeRef) (pl : Place) : Plan := fun s =>
  match pl with
  | .whole n => [.clusters n { s.cluster n with left := some r }]
  | .half n false => [.clusters n { s.cluster n with left := some r }]
  | .half n true => [.clusters n { s.cluster n with right := some r }]
  | .hatch n => [.clusters n { s.cluster n with hatch := some r }]
  | .mover n => [.clusters n { s.cluster n with mover := some r }]
  | _ => []

/-- A stroke is placed: its job takes every mutex it acquires, and its save frame is free again when it resumes (R39, R43, R49). -/
def placeStroke (id i : Nat) (pl : Place) : Plan := fun s =>
  let j := s.job id
  let t := j.stroke i
  let p := s.part j.part
  let back := decide (t.state = .preempted)
  let frames := p.framesUsed.filter (fun f => some f.1 != t.frame)
  Plan.seq [
    Plan.when (!back) (Plan.each (t.waits.filter (fun w => w.kind = .mutex)) (fun w => fun s =>
      [.sems ((s.part j.part).semFirst + w.id) { s.semOf j.part w.id with holder := id + 1 }])),
    Plan.when (back && frames != p.framesUsed) (Plan.act (.parts j.part { p with framesUsed := frames })),
    takeUnit { job := id, idx := i } pl,
    modStroke id i (fun t =>
      let t := { t with place := some pl, structs := [] }
      { t with state := .running, begun := false, ran := false, frame := none, afterChange := 0, started := s.starts, startTick := s.ticks, resumed := back,
               descCrc := if back then t.descCrc else structsCrc s j t, structs := structsRead s j t,
               loaded := match back, t.frame with | true, some k => Stroke.savedBytes s j t k | _, _ => [] }),
    Plan.act (.starts (s.starts + 1)),
    settle] s

/-- A stroke in its turn: placed on the first free suitable unit that no earlier stroke waits for; else it may pre-empt, and the units it waits for are kept from later strokes (R45). -/
def placeTurn (c : Candidate) (blocked : List Place) : State → List Eff × List Place := fun s =>
  let t := (s.job c.job).stroke c.idx
  if !s.wantsUnit t then ([], blocked)
  else
    let units := suitable s c.job c.idx
    match units.find? (fun pl => s.isFree (s.job c.job).part pl && !blocked.any (fun b => b.conflicts pl)) with
    | some pl => (placeStroke c.job c.idx pl s, blocked)
    | none => (tryPreempt c.job c.idx s, blocked ++ units)

/-- The strokes in their order (R45). -/
def placeAll : List Candidate → List Place → Plan
  | [], _ => Plan.skip
  | c :: cs, blocked => fun s =>
    let r := placeTurn c blocked s
    r.1 ++ placeAll cs r.2 (s.applyAll r.1)

/-- STROKE_PLACE: one pass over the strokes that are READY or wait to resume (R45-R48). A failed scheduler places nothing (R31). -/
def strokePlace : Plan := fun s => if s.pcie.schedFailed then [] else placeAll s.candidates [] s

def execStrokePlace (s : State) : Host.Outcome State Fault Refusal := Plan.done strokePlace s

/-- What a pre-empted stroke comes to at its next level-2 tile boundary: the tiles ended there, what it reads and writes up to there, the sequencer state, the save frame's
tile slots, their bytes, and which partial tile each holds (R49, R93, R137). -/
structure SaveOut where
  done : Nat
  out : OpOut
  seq : List Byte
  slots : Nat
  acc : List Byte
  order : List Nat

/-- The boundary of an mm stroke: never before the passes already issued. The order of the saved tiles, ACC_HEAD and unwritten words are free values (R49, R93; log entry 56). -/
def mmSave (id i now tilesDone f g : Nat) (s : State) (j : Job) (t : Stroke) : SaveOut :=
  let x := mmOf s j t
  let p := x.plan t
  let pr := x.product s t
  let pl := t.place.getD .sched
  let d := min p.total (max (max tilesDone t.tilesDone) (p.boundary t.passes))
  let o := mmOutput s x p pr t (some d)
  let gs := p.left t (some d)
  let n := (p.partials d).length
  let order := freeOrder f n
  { done := d,
    out := match mmCheck s j t with
      | some c => { check := some c }
      | none =>
        { reads := (if x.cb = 0 then [] else [(x.cb, 32)]) ++ x.A.readRanges j ++ x.B.readRanges j ++ (if x.hasBias then x.bias.readRanges j else []) ++
            (if t.accum then x.C.readRanges j else x.C.descRanges j),
          writes := stageWrites s x p ++ o.out.writes, paths := if gs.isEmpty then [] else [4, 1, 2, 0, 3], next := !gs.isEmpty,
          more := Plan.seq [issueAll pl.cluster pl.right x pr now gs, mmCounters pl.cluster o, countPasses id i (t.passes + gs.length)] },
    seq := mmSeq p t d (f / 2 ^ 2048), slots := if x.half then cdiv n 2 else n, acc := mmSaved p pr x t d g order, order := order }

/-- The boundary of an attn stroke. -/
def attnSave (tilesDone g : Nat) (s : State) (j : Job) (t : Stroke) : SaveOut :=
  let a := attnOf s j t
  let d := min a.levelTiles.length (max tilesDone t.tilesDone)
  let x := a.saveAt d g
  { done := d, out := a.runTo d, seq := a.seqBytes d, slots := x.1, acc := x.2, order := [] }

/-- A save frame is written for a stroke; one that reaches into an area of a unit is dropped and kills the job (R49, R171, R282, R292). -/
def saveFrame (id i a : Nat) (seq acc : List Byte) : Plan := fun s =>
  if regionOf a 0x101000 ≠ .gddr || s.gddr.frozen then []
  else match s.foreign false a 0x101000 with
    | some pg => Plan.andThen (noteForeign pg) (faultStroke id i 0x30 0 pg) s
    | none =>
      if s.partialOnPoison a seq.length || s.partialOnPoison (a + 0x1000) acc.length then Plan.andThen (poisonRead ((s.job id).who i) a) (killJob id 0x30) s
      else Plan.andThen (gddrStore 0 a seq) (gddrStore 0 (a + 0x1000) acc) s

/-- PREEMPT_SAVE: at its next level-2 tile boundary, `tilesDone` tiles in, the stroke has written out what it completed; its sequencer state and live accumulator tiles go to its
save frame, wherever in GDDR6 that lies (log entry 115), and the cluster is free (R49, R93, R137). -/
def preemptSave (id i tilesDone now : Nat) : Plan := fun s =>
  let j := s.job id
  let t := j.stroke i
  let on (s : State) : Bool := let j := s.job id; let t := j.stroke i
    j.phase = .running && j.killed.isNone && t.state = .running && t.preempting && !t.ran
  match t.frame, t.place with
  | some k, some pl =>
    if on s && !s.hasRetry id i then
      withFree (fun f => withFree (fun g s =>
        let q := if t.cls = 1 then mmSave id i now tilesDone f g s j t else attnSave tilesDone g s j t
        let a := (s.part j.part).saveBase + k * 0x101000
        carryOut id i q.out on (Plan.seq [
          saveFrame id i a (q.seq ++ leBytes 1 q.slots) q.acc,
          Plan.look (fun s1 => Plan.when ((s1.job id).killed.isNone) (Plan.seq [
            leaveUnit id i pl,
            modStroke id i (fun t => { t with state := .preempted, place := none, preempting := false, preemptFor := none, tilesDone := q.done, begun := false,
                                              savedSplit := pl.isHalf, savedSlots := q.slots, accOrder := q.order }),
            (fun s => [.parts j.part { s.part j.part with preempts := satAdd 0xFFFFFFFF (s.part j.part).preempts 1 }]),
            settle]))]) s)) s
    else []
  | _, _ => []

def execPreemptSave (job idx tilesDone now : Nat) (s : State) : Host.Outcome State Fault Refusal := Plan.done (preemptSave job idx tilesDone now) s

/-! ## Completion (R40, R41-R43, R275) -/

/-- One signal of a completed stroke (R37, R41-R43). -/
def applySignal (id i : Nat) (g : Signal) : Plan := fun s =>
  let j := s.job id
  let k := (s.part j.part).semFirst + g.id
  let m := s.semOf j.part g.id
  match g.kind with
  | .none => []
  | .token => [.jobs id { j with tokens := Tab.put 0 j.tokens g.id (satAdd 131071 (Tab.get 0 j.tokens g.id) 1) }]
  | .release =>
    if !m.mutex then schedEvent j 4 (j.tableIndex i) g.id s
    else if m.holder ≠ id + 1 then schedEvent j 1 (j.tableIndex i) g.id s
    else Plan.andThen (Plan.act (.sems k { m with holder := 0 })) (dropInherit id) s
  | .add =>
    if m.mutex then schedEvent j 4 (j.tableIndex i) g.id s
    else [.sems k { m with value := satAdd 0xFFFF m.value 1 }]

/-- The classes whose strokes are timed (R275). -/
def timedClass (c : Nat) : Bool := (decide (1 ≤ c) && decide (c ≤ 4)) || c == 9

/-- STROKE_COMPLETE: the last write is visible; signals in order, the times of R275, and the job's completion when every stroke has ended; `ans` is how the read of its payload is answered. -/
def strokeComplete (id i active stall : Nat) (ans : HostAnswer) : Plan := fun s =>
  let j := s.job id
  let t := j.stroke i
  if j.phase = .running ∧ j.killed.isNone ∧ t.state = .running ∧ t.ran then
    let p := s.part j.part
    let frames := p.framesUsed.filter (fun f => some f.1 != t.frame)
    Plan.seq [
      Plan.when (t.frame.isSome && frames != p.framesUsed) (Plan.act (.parts j.part { p with framesUsed := frames })),
      (match t.place with | some pl => leaveUnit id i pl | none => Plan.skip),
      modStroke id i (fun t => { t with state := .done, place := none, preempting := false, preemptFor := none, frame := none }),
      Plan.each t.signals (applySignal id i),
      Plan.when (timedClass t.cls) (modJob id (fun j => { j with active := j.active + active, stall := j.stall + stall, timed := j.timed + 1 })),
      settle,
      checkJobDone id ans] s
  else []

def execStrokeComplete (job idx active stall : Nat) (ans : HostAnswer) (s : State) : Host.Outcome State Fault Refusal := Plan.done (strokeComplete job idx active stall ans) s

/-! ## Limits and kills (R19, R44, R53) -/

/-- WAIT_LIMIT_EXPIRY (R44). -/
def waitLimitExpiry (id : Nat) : Plan := fun s =>
  let j := s.job id
  let ms := (s.part j.part).waitLimit
  if j.phase = .running ∧ j.killed.isNone ∧ ms ≠ 0 ∧ !j.strokes.any (fun t => t.state = .running || t.state = .ready) ∧ j.changed + ms * 1000 ≤ s.ticks then
    killJob id 0x32 s
  else []

def execWaitLimitExpiry (job : Nat) (s : State) : Host.Outcome State Fault Refusal := Plan.done (waitLimitExpiry job) s

/-- TIME_LIMIT_EXPIRY: TIME_LIMIT_US counts from the fetch; 0 is no limit (R19). -/
def timeLimitExpiry (id : Nat) : Plan := fun s =>
  let j := s.job id
  if j.phase ≠ .gone ∧ j.killed.isNone ∧ j.timeLimit ≠ 0 ∧ j.fetchTick + j.timeLimit ≤ s.ticks then killAndFinish id 0x32 s else []

def execTimeLimitExpiry (job : Nat) (s : State) : Host.Outcome State Fault Refusal := Plan.done (timeLimitExpiry job) s

/-- A unit still holds a killed job: a session that has not left its group, or a transfer without its answer (R53, R180, R322). -/
def State.stillHeld (s : State) (id : Nat) : Bool :=
  s.sessions.any (fun e => decide (e.2.state ≠ .free) && e.2.job == id) || s.xfers.any (fun x => x.job == id)

/-- JOB_KILL_RELEASE (R53 step 5). -/
def jobKillRelease (id : Nat) : Plan := fun s => if s.stillHeld id then [] else releaseKilled id s

def execJobKillRelease (job : Nat) (s : State) : Host.Outcome State Fault Refusal := Plan.done (jobKillRelease job) s

/-! ## The scheduler's operations (R51, R52, R43) -/

/-- sch.bucket: the entry with the smallest LIMIT not below the size; the strokes of the other ranges are SKIPPED (R52). -/
def bucketOp (id i : Nat) (s : State) (j : Job) (t : Stroke) : OpOut :=
  let actual := s.numAt (t.opnds.getD 0 0) 4
  match t.buckets.findIdx? (fun b => decide (actual ≤ b.1)) with
  | none => { reads := [(t.opnds.getD 0 0, 4)], more := Plan.andThen (schedEvent j 3 (j.tableIndex i) 0) (killJob id 0x30) }
  | some k =>
    let others := (t.buckets.mapIdx (fun n b => (n, b))).filter (fun x => x.1 != k)
    let skip (n : Nat) : Bool := others.any (fun x => decide (x.2.2.1 ≤ n) && decide (n < x.2.2.1 + x.2.2.2))
    { reads := [(t.opnds.getD 0 0, 4)], writes := if t.opnds.getD 2 0 = 0 then [] else [(t.opnds.getD 2 0, leBytes 4 actual ++ leBytes 4 k)],
      more := modJob id (fun j => { j with strokes := j.strokes.mapIdx (fun n t => if skip n then { t with state := .skipped } else t), changed := s.ticks }) }

def execSchBucket (job idx : Nat) (s : State) : Host.Outcome State Fault Refusal := Plan.done (runOp 0x0F 0x01 job idx (bucketOp job idx)) s

/-- SCH_NOP (R38). -/
def execSchNop (job idx : Nat) (s : State) : Host.Outcome State Fault Refusal := Plan.done (runOp 0x0F 0x03 job idx (fun _ _ _ => {})) s

/-- sch.semset: the counter takes PARAM[15:0]; a mutex is left alone, with an event (R43). -/
def semsetOp (i : Nat) (s : State) (j : Job) (t : Stroke) : OpOut :=
  let n := fld t.param 27 16
  let m := s.semOf j.part n
  { more := if m.mutex then schedEvent j 4 (j.tableIndex i) n
            else Plan.andThen (Plan.act (.sems ((s.part j.part).semFirst + n) { m with value := fld t.param 15 0 })) settle }

def execSchSemset (job idx : Nat) (s : State) : Host.Outcome State Fault Refusal := Plan.done (runOp 0x0F 0x04 job idx (semsetOp idx)) s

/-! ## SCH_SEM_CTRL (R42, R43) -/

/-- A WAITING stroke waits on a semaphore with an entry that is not satisfied (R43). -/
def State.semHasWaiter (s : State) (p n : Nat) : Bool :=
  s.jobs.any (fun e => e.2.phase = .running && e.2.killed.isNone && e.2.part == p && e.2.strokes.any (fun t => t.state = .waiting &&
    t.waits.any (fun w => (w.kind = .mutex || w.kind = .counter) && w.id == n && !waitOk s e.1 e.2 w)))

/-- SCH_SEM_CTRL_WRITE: a change of MODE is ignored while the semaphore is held or waited for; VALUE is taken in COUNTER mode (R42, R43). -/
def schSemCtrlWrite (fn v : Nat) : Plan := fun s =>
  match s.partOf fn with
  | none => []
  | some p =>
    let n := s.reg fn pgSCH 0x120
    if (s.part p).semCount ≤ n then []
    else
      let m := s.semOf p n
      let want := bit v 31
      let mutex := if want != m.mutex && (m.holder != 0 || s.semHasWaiter p n) then m.mutex else want
      let m' : Sem := if mutex then { mutex := true, value := 0, holder := m.holder } else { mutex := false, value := fld v 15 0, holder := 0 }
      Plan.andThen (Plan.act (.sems ((s.part p).semFirst + n) m')) settle s

def execSchSemCtrlWrite (fn value : Nat) (s : State) : Host.Outcome State Fault Refusal := Plan.done (pageGate fn (schSemCtrlWrite fn value)) s

end Sys2Proof.Machine
end

