-- ==== Sys2Proof/Machine/Sessions.lean ====
section
/-! DEFINITION. The lettering engine at work (09_lettering_engine.md): let.join, let.step, let.tok, let.detok and let.bind, sessions and step groups, masks and the deadline (R159-R189). -/
namespace Sys2Proof.Machine

/-! ## Names and areas -/

def State.vocabSlot (s : State) (n : Nat) : Bound := Tab.get {} s.vocabs n
def State.gramSlot (s : State) (n : Nat) : Bound := Tab.get {} s.grammars n
/-- The bound vocabulary, and the bound grammar of a session if it has one. -/
def State.vocab (s : State) (n : Nat) : Vocab := s.vocabAt (s.vocabSlot n).base
def State.gramOf (s : State) (x : Session) : Option Gram := if x.grammar = 0xFF then none else some (s.gramAt (s.gramSlot x.grammar).base)
def Session.conf (x : Session) : PdaConf := { state := x.pdaState, stack := x.stack }

/-- Node-cache hits and misses since cold reset: the spec fixes no replacement, so the counters hold free values after the engine has worked (log entry 21). -/
def nodeCache : Plan := Plan.andThen (withFree (setReg 0 pgLET (letCnt 6))) (withFree (setReg 0 pgLET (letCnt 7)))

/-! ## Groups -/

/-- A group with no session is released (Step groups). -/
def releaseGroup (g : Nat) : Plan := fun s =>
  let x := s.group g
  if x.slots.isEmpty && x.waiting.isEmpty then [.groups g { x with owner := 0 }] else []

/-! ## Masks (R181) -/

/-- The 16-byte key of a session's configuration (PRESUMED layout: log entry 22). -/
def maskKey (s : State) (x : Session) : List Byte :=
  let top := x.stack.drop (x.stack.length - 4)
  leBytes 1 x.vocab ++ leBytes 1 x.grammar ++ leBytes 1 (s.vocabSlot x.vocab).gen ++ leBytes 1 (s.gramSlot x.grammar).gen ++
  leBytes 2 x.pdaState ++ leBytes 2 x.stack.length ++ (top.map (leBytes 2)).flatten ++ zeros (8 - 2 * top.length)

/-- The mask cache may hold masks of a vocabulary of `n` tokens (R181, R190). -/
def State.maskUsable (s : State) (n : Nat) : Bool :=
  let w := s.reg 0 pgLET 0x114
  let kib := fld w 13 8
  let lg := fld w 4 0
  kib != 0 && decide (kib ≤ 33) && decide (8 ≤ lg) && decide (lg ≤ 16) && decide (n ≤ (kib * 1024 - 128) * 8) && !bit (s.mode pgLET) 1

def State.maskIndex (s : State) (key : List Byte) : Nat := crc32c key % 2 ^ fld (s.reg 0 pgLET 0x114) 4 0

/-- Mask work for a session begins: without a grammar its mask is ready; a lookup that hits makes it ready, one that misses leaves it to a walker (R170, R181). -/
def startMask (n : Nat) : Plan := fun s =>
  let x := s.session n
  if x.grammar = 0xFF then [.sessions n { x with ready := true, late := false }]
  else
    let key := maskKey s x
    let hit := s.maskUsable (s.vocab x.vocab).tokens && Tab.get [] s.maskTags (s.maskIndex key) == key
    Plan.andThen (Plan.act (.sessions n { x with ready := hit, late := false })) (bumpWrap pgLET (letCnt (if hit then 3 else 4)) 1) s

/-- MASK_WALK_DONE: the mask of a session's configuration is ready, and stored when it depends on the key alone (R181). -/
def maskWalkDone (n : Nat) : Plan := fun s =>
  let x := s.session n
  match s.gramOf x with
  | none => []
  | some g =>
    if x.ready || !(x.state = .waiting || x.state = .active) then []
    else
      let v := s.vocab x.vocab
      let key := maskKey s x
      let at_ := s.base pgLET 0x10C + s.maskIndex key * (fld (s.reg 0 pgLET 0x114) 13 8 * 1024)
      Plan.seq [
        Plan.act (.sessions n { x with ready := true }),
        (if !maskCacheable s v g x.conf then bump pgLET (letCnt 5) 1
         else if s.maskUsable v.tokens then
           Plan.seq [Plan.act (.maskTags (s.maskIndex key) key), withFree (fun f => ownStore at_ (leBytes 128 f)),
             ownStore (at_ + 128) (maskBytes v.tokens (maskTokens s v (some g) x.ignoreEos x.conf))]
         else Plan.skip),
        nodeCache] s

def execMaskWalkDone (session : Nat) (s : State) : Host.Outcome State Fault Refusal := Plan.done (maskWalkDone session) s

/-- LET_MASK_CFG_WRITE: a write of LET_MASK_BASE_LO, LET_MASK_BASE_HI or LET_MASK_CFG; the cache is emptied (R181). -/
def letMaskCfgWrite (off v : Nat) : Plan := fun s =>
  if off = 0x10C then
    Plan.seq [setReg 0 pgLET 0x10C (v / 0x10000 % 0x10000 * 0x10000),
      Plan.act (.bases (pgLET * 0x1000 + 0x10C) (v / 0x10000 % 0x10000 * 0x10000 + s.reg 0 pgLET 0x110 * 2 ^ 32)), emptyMasks] s
  else if off = 0x110 then Plan.andThen (setReg 0 pgLET 0x110 (v % 0x10000)) emptyMasks s
  else if off = 0x114 then Plan.andThen (setReg 0 pgLET 0x114 (Nat.land v 0xFFF03F1F)) emptyMasks s
  else []

def execLetMaskCfgWrite (off value : Nat) (s : State) : Host.Outcome State Fault Refusal := Plan.done (pageGate 0 (letMaskCfgWrite off value)) s

/-! ## Checks shared by the operations (R189) -/

/-- A slot is bound by a partition. -/
def Bound.by (b : Bound) (p : Nat) : Bool := b.owner == p + 1

/-! ## let.join (R172, R173) -/

/-- The session request block (R172). -/
structure JoinReq where
  group : Nat
  vocab : Nat
  grammar : Nat
  flags : Nat
  stopSet : Nat
  maxNew : Nat
  promptLen : Nat
  ring : Nat
  topK : Nat
  temp : Nat
  topP : Nat
  seed : Nat
  textBase : Nat
  textCap : Nat
  kvStart : Nat
  promptAddr : Nat

def parseJoin (b : List Byte) : JoinReq :=
  { group := fld (rdN b 0 1) 5 0, vocab := fld (rdN b 1 1) 1 0, grammar := rdN b 2 1, flags := fld (rdN b 3 1) 2 0, stopSet := rdN b 4 2,
    maxNew := rdN b 6 2, promptLen := rdN b 8 2, ring := rdN b 0xA 2, topK := fld (rdN b 0xC 2) 10 0, temp := rdN b 0x10 4, topP := rdN b 0x14 4,
    seed := rdN b 0x18 8, textBase := rdN b 0x20 6, textCap := rdN b 0x28 4, kvStart := fld (rdN b 0x2C 4) 23 0, promptAddr := rdN b 0x30 6 }

/-- A temperature is finite and above 0. -/
def tempOk (w : Nat) : Bool := (ofBits32 w).isFinite && FVal.zero.lt (ofBits32 w) && !(ofBits32 w).eqNum .zero
/-- A nucleus fraction is a number from 0 to 1. -/
def topPOk (w : Nat) : Bool := (ofBits32 w).ge .zero && (FVal.fin false 1 0).ge (ofBits32 w)

/-- Checks 28, 29, 30 and 32 of a let.join (R189; log entry 23 for 32). -/
def joinCheck (s : State) (j : Job) (t : Stroke) (r : JoinReq) : Option Nat :=
  let blk := t.opnds.getD 0 0
  if !s.placeOk j.part blk 64 then (if t.param != 0 then some 28 else some 29)
  else lowest [
    failIf (t.param != 0 || !(s.vocabSlot r.vocab).by j.part ||
      (r.grammar != 0xFF && (decide (32 ≤ r.grammar) || !(s.gramSlot r.grammar).by j.part)) || (decide (4095 < r.stopSet) && r.stopSet != 0xFFFF)) 28,
    failIf (badRanges s j.part [(t.opnds.getD 1 0, 32), (r.textBase, r.textCap)] [(blk, 64), (r.promptAddr, 4 * r.promptLen)]) 29,
    failIf (r.maxNew == 0 || r.promptLen == 0 || decide (16384 < r.promptLen) || decide (1024 < r.topK) ||
      (bit r.flags 2 && (!tempOk r.temp || !topPOk r.topP))) 30,
    failIf ((s.group r.group).owner != 0 && (s.group r.group).owner != j.part + 1) 32]

/-- The session that a request opens. -/
def JoinReq.session (r : JoinReq) (s : State) (id i : Nat) : Session :=
  { state := .waiting, group := r.group, stopKeep := bit r.flags 0, ignoreEos := bit r.flags 1, sample := bit r.flags 2, job := id, idx := i,
    vocab := r.vocab, grammar := r.grammar, stopSet := r.stopSet, ring := r.ring, maxNew := r.maxNew, kvLen := r.kvStart + r.promptLen,
    promptLen := r.promptLen, topK := r.topK, temp := r.temp, topP := r.topP, seed := r.seed,
    pdaState := if r.grammar = 0xFF then 0 else (s.gramAt (s.gramSlot r.grammar).base).start,
    textBase := r.textBase, textCap := r.textCap, promptAddr := r.promptAddr, kvStart := r.kvStart }

/-- Puts a session into a waiting list in the order of the placement of its let.join. -/
def insertWaiting (s : State) (n : Nat) (l : List Nat) : List Nat :=
  let at_ (k : Nat) : Nat := let x := s.session k; ((s.job x.job).stroke x.idx).started
  l.takeWhile (fun k => decide (at_ k < at_ n)) ++ n :: l.dropWhile (fun k => decide (at_ k < at_ n))

def joinOp (id i : Nat) (s : State) (j : Job) (t : Stroke) : OpOut :=
  let r := parseJoin (s.bytesAt (t.opnds.getD 0 0) 64)
  let n := match t.place with | some (.session n) => n | _ => 0
  { reads := [(t.opnds.getD 0 0, 64)], check := joinCheck s j t r,
    more := Plan.seq [
      Plan.act (.sessions n (r.session s id i)),
      (fun s => [.groups r.group { s.group r.group with owner := j.part + 1, waiting := insertWaiting s n (s.group r.group).waiting }]),
      writeWaiting r.group, startMask n] }

/-- LET_JOIN: a WAITING session holds its slot until it retires (R173). -/
def execLetJoin (job idx : Nat) (s : State) : Host.Outcome State Fault Refusal := Plan.done (runOpOpen 0x05 0x01 job idx (joinOp job idx)) s

/-! ## Retirement (R174, R180) -/

/-- The 32-byte session result record (R174). -/
def resultRecord (n : Nat) (x : Session) (ended : Nat) : List Byte :=
  leBytes 1 x.fin ++ leBytes 1 (bitAt x.utf8Open 0) ++ leBytes 2 n ++ leBytes 2 x.generated ++ leBytes 2 x.promptLen ++ leBytes 4 x.textLen ++
  leBytes 4 x.sitTotal ++ leBytes 4 (if x.state = .waiting then x.kvStart else x.kvLen) ++ leBytes 2 x.pdaState ++ leBytes 1 x.stack.length ++ zeros 1 ++
  leBytes 4 x.stepJoined ++ leBytes 4 ended

/-- Where the record of a session goes. -/
def recordAt (s : State) (x : Session) : Nat := ((s.job x.job).stroke x.idx).opnds.getD 1 0

/-- A session's END reaches its let.join: the record, the job's status, and the end of the stroke (R174). In a let.step, `admitted`, the record's place has been found open and charged. -/
def retire (n : Nat) (x : Session) (ended : Nat) (admitted : Bool) : Plan := fun s =>
  let rec_ := if admitted then Plan.andThen (strokeWrite x.job x.idx false (recordAt s x) (resultRecord n x ended)) (endOp x.job x.idx)
    else lastWrite x.job x.idx { cls := 5 } (recordAt s x) (resultRecord n x ended)
  match x.fin with
  | 5 => Plan.seq [bump pgLET (letCnt 8) 1, rec_, modJob x.job (fun j => { j with grammarDead := true })] s
  | 6 => Plan.andThen rec_ (modJob x.job (fun j => { j with sessionStopped := true })) s
  | 7 => []
  | 9 => Plan.seq [raiseErr pgLET 2 [], strokeWrite x.job x.idx false (recordAt s x) (resultRecord n x ended), killJob x.job 0x32] s
  | _ => rec_ s

/-- LET_SESSION_STOP: the session is marked STOPPED; a WAITING one leaves its list and ends at once (R180). -/
def letSessionStop (v : Nat) : Plan := fun s =>
  let n := v % 16384
  let x := s.session n
  match x.state with
  | .free => []
  | .waiting =>
    let g := s.group x.group
    Plan.seq [
      Plan.act (.groups x.group { g with waiting := g.waiting.filter (· != n) }),
      retire n { x with fin := 6 } g.step false,
      Plan.act (.sessions n {}),
      freeEntry s n, writeWaiting x.group, releaseGroup x.group] s
  | _ => [.sessions n { x with stopped := true }]

def execLetSessionStop (value : Nat) (s : State) : Host.Outcome State Fault Refusal := Plan.done (pageGate 0 (letSessionStop value)) s

/-! ## let.step (R175-R179, R182, R183) -/

/-- The step-group record (R175). -/
structure StepRec where
  group : Nat
  vocab : Nat
  maxSessions : Nat
  maxRows : Nat
  lenTable : Nat
  tokens : Nat
  lastRows : Nat
  record : Nat
  logits : Nat

def parseStep (b : List Byte) : StepRec :=
  { group := fld (rdN b 0 1) 5 0, vocab := fld (rdN b 1 1) 1 0, maxSessions := rdN b 2 2, maxRows := rdN b 4 4, lenTable := rdN b 8 6,
    tokens := rdN b 0x10 6, lastRows := rdN b 0x18 6, record := rdN b 0x20 6, logits := rdN b 0x28 6 }

/-- A session cannot generate in its group's next step because its job was killed or the host stopped it. -/
def Session.cut (x : Session) (s : State) : Bool := (s.job x.job).killed.isSome || x.stopped

/-- A session of a group whose mask the step still waits for. -/
def State.awaitsMask (s : State) (n : Nat) : Bool :=
  let x := s.session n
  x.state = .active && !x.cut s && !x.ready && !x.late

/-- What one session comes to in a step. -/
structure SessOut where
  n : Nat
  slot : Nat
  x : Session
  gone : Bool := false
  sat : Bool := false
  drew : Bool := false
  out : List Byte := []
  deriving DecidableEq, Repr

/-- Released bytes reach the text buffer up to TEXT_CAP. -/
def Session.release (x : Session) (out : List Byte) : Session × List Byte :=
  let w := out.take (x.textCap - x.textLen)
  let t := x.textTail ++ w
  let t := t.drop (t.length - 3)
  ({ x with textLen := x.textLen + w.length, textTail := t, utf8Open := endsInside t }, w)

def Session.heldBytes (x : Session) : List Byte := x.tail.drop (x.tail.length - x.holdLen)

/-- A session ends without a token: its held bytes are released, but for those of a killed job (R180, R186). -/
def endNow (o : SessOut) (x : Session) (fin : Nat) : SessOut :=
  let r := x.release (if fin = 7 then [] else x.heldBytes)
  { o with x := { r.1 with fin := fin, holdLen := if fin = 7 then x.holdLen else 0 }, out := r.2, gone := true }

/-- A session that drew a token (R177 step 4, R185, R186). -/
def drawn (s : State) (v : Vocab) (stops : List (List Byte)) (o : SessOut) (x : Session) (tok : Nat) : SessOut :=
  let isEos := tok == v.eos
  let bs := if isEos || (v.token s tok).special then [] else v.str s tok
  let t := textRun stops x.stopKeep { tail := x.tail, held := x.heldBytes } bs
  let c := match s.gramOf x with | none => x.conf | some g => ((g.run s x.conf 64 bs).1).getD x.conf
  let gEnd := match s.gramOf x with | none => false | some g => g.accepts s c && (g.state s c.state).2.1 == 0
  let room := x.textCap - x.textLen
  let n := x.generated + 1
  let fin :=
    if t.hit then 1 else if isEos then 2 else if gEnd then 4 else if room < t.out.length then 8
    else if x.maxNew ≤ n then (if room < (t.out ++ t.held).length then 8 else 3) else 0
  let r := x.release (if fin = 0 ∨ t.hit then t.out else t.out ++ t.held)
  { o with drew := true, out := r.2,
           x := { r.1 with state := if fin = 0 then .active else .closing, fin := fin, generated := n, input := tok, tail := t.tail,
                           holdLen := if fin = 0 then t.held.length else 0, pdaState := c.state, stack := c.stack,
                           sitRun := 0, satOut := false, qLen := 1, kvLen := x.kvLen + 1 } }

/-- One session of the group in a step, with its row of the logits (R177). -/
def stepSession (s : State) (v : Vocab) (lg : Operand) (row slot n : Nat) : SessOut :=
  let x := s.session n
  let o : SessOut := { n := n, slot := slot, x := x }
  if x.state = .closing then { o with gone := true }
  else if (s.job x.job).killed.isSome then endNow o x 7
  else if x.stopped then endNow o x 6
  else if !x.ready || x.late then
    let y := { x with sitRun := satAdd 255 x.sitRun 1, sitTotal := x.sitTotal + 1, satOut := true }
    let lim := s.reg 0 pgLET 0x120 % 256
    if lim ≠ 0 ∧ lim ≤ y.sitRun then { endNow o y 9 with sat := true } else { o with x := y, sat := true }
  else
    let z (t : Nat) : FVal := match lg.value s [t, row, 0, 0] with | .nan => .inf true | v => v
    let d : Draw := { sample := x.sample, topK := x.topK, topP := ofBits32 x.topP, temp := ofBits32 x.temp, seed := x.seed, generated := x.generated }
    match d.token ((maskTokens s v (s.gramOf x) x.ignoreEos x.conf).map (fun t => (t, z t))) with
    | none => endNow o x 5
    | some tok => drawn s v (if x.stopSet = 0xFFFF then [] else (s.stopSet x.stopSet).1) o x tok

/-- Admission fails for a session (R178, check 31). -/
def bad31 (s : State) (r : StepRec) (v : Vocab) (inSlots : List SessOut) (x : Session) : Bool :=
  x.vocab != r.vocab || (List.range x.promptLen).any (fun k => decide (v.tokens ≤ s.numAt (x.promptAddr + 4 * k) 4)) || decide (r.maxRows < x.promptLen) ||
  inSlots.any (fun o => o.x.ring == x.ring) || decide (16777216 < x.kvStart + x.promptLen + x.maxNew + 1)

/-- How far admission has come. -/
structure Admission where
  slots : List SessOut
  admitted : List Nat := []
  failed : List Nat := []

def rowsOf (l : List SessOut) : Nat := (l.map (fun o => o.x.qLen)).foldl (· + ·) 0

/-- Admission takes waiting sessions in order until one does not fit (R178). -/
def enterGroup (s : State) (r : StepRec) (v : Vocab) (step : Nat) : List Nat → Admission → Admission
  | [], a => a
  | n :: ns, a =>
    let x := s.session n
    if bad31 s r v a.slots x then enterGroup s r v step ns { a with failed := a.failed ++ [n] }
    else match (List.range r.maxSessions).find? (fun k => !a.slots.any (fun o => o.slot == k)) with
      | none => a
      | some k =>
        if r.maxRows < rowsOf a.slots + x.promptLen then a
        else
          let y := { x with state := .active, gslot := k + 1, qLen := x.promptLen, kvLen := x.kvStart + x.promptLen, stepJoined := step }
          enterGroup s r v step ns { a with slots := a.slots ++ [{ n := n, slot := k, x := y }], admitted := a.admitted ++ [n] }

/-- Waiting sessions in the order of admission: descending effective priority, then placement of the let.join (R178). -/
def admissionOrder (s : State) (l : List Nat) : List Nat :=
  (List.range 8).reverse.flatMap (fun p => l.filter (fun n => (s.job (s.session n).job).eff == p))

/-- What a let.step comes to. -/
structure StepOut where
  r : StepRec
  step : Nat
  /-- Every session that held a slot. -/
  old : List SessOut
  /-- Sessions in slots of the next step, in slot order. -/
  next : List SessOut
  admitted : List Nat
  failed : List Nat

def stepOut (s : State) (j : Job) (r : StepRec) : StepOut :=
  let g := s.group r.group
  let v := s.vocab r.vocab
  let lg := s.operand j r.logits
  let old := g.slots.map (fun e => stepSession s v lg ((g.rows.findIdx? (· == e.1)).getD 0) e.1 e.2)
  let a := enterGroup s r v (g.step + 1) (admissionOrder s g.waiting) { slots := old.filter (fun o => !o.gone) }
  { r := r, step := g.step + 1, old := old,
    next := (List.range 1024).filterMap (fun k => a.slots.find? (fun o => o.slot == k)),
    admitted := a.admitted, failed := a.failed }

/-- Sessions with a row in the next tables, in slot order, with their first row. -/
def StepOut.rows (o : StepOut) : List (SessOut × Nat) :=
  let l := o.next.filter (fun x => decide (x.slot < o.r.maxSessions))
  l.mapIdx (fun k x => (x, rowsOf (l.take k)))

/-- The input tokens of a session's rows: its prompt until it has drawn a token, then INPUT (R177). -/
def inputIds (s : State) (x : Session) : List Nat :=
  if x.generated = 0 then (List.range x.qLen).map (fun k => s.numAt (x.promptAddr + 4 * k) 4) else [x.input]

/-- The tables that a let.step writes (R119, R175, R177). -/
def StepOut.tables (o : StepOut) (s : State) : List (Nat × List Byte) :=
  let rows := o.rows
  let total := rowsOf (rows.map (·.1))
  let lens := (List.range o.r.maxSessions).map (fun k =>
    match rows.find? (fun e => e.1.slot == k) with
    | some e => leBytes 4 e.2 ++ leBytes 2 e.1.x.qLen ++ leBytes 2 e.1.x.ring ++ leBytes 4 e.1.x.kvLen ++ leBytes 4 0
    | none => leBytes 4 (rowsOf ((rows.filter (fun e => decide (e.1.slot < k))).map (·.1))) ++ zeros 8 ++ leBytes 4 1)
  [(o.r.lenTable, lens.flatten),
   (o.r.tokens, ((rows.flatMap (fun e => inputIds s e.1.x)).map (leBytes 4)).flatten),
   (o.r.lastRows, (rows.map (fun e => leBytes 4 (e.2 + e.1.x.qLen - 1))).flatten),
   (o.r.record, leBytes 4 total ++ leBytes 2 rows.length ++ leBytes 2 (o.old.filter (·.gone)).length ++ leBytes 4 o.step ++
      leBytes 2 o.admitted.length ++ leBytes 2 (o.old.filter (·.sat)).length)].filter (fun w => !w.2.isEmpty)

/-- The writes that a let.step makes for the let.joins of its sessions: released text before the commit, and the records of those that retire (R174, R179). -/
def StepOut.texts (o : StepOut) (s : State) : List (Nat × List Byte) :=
  (o.old.map (fun x => (x.x.textBase + (s.session x.n).textLen, x.out))).filter (fun w => !w.2.isEmpty)
def StepOut.records (o : StepOut) (s : State) : List (Nat × List Byte) :=
  (o.old.filter (fun x => x.gone && x.x.fin != 7)).map (fun x => (recordAt s x.x, resultRecord x.n x.x o.step))

/-- The stop sets that the step uses and that count as no set (R187). -/
def StepOut.badStops (o : StepOut) (s : State) : List Nat :=
  ((((o.old.filter (·.drew)).map (fun x => x.x.stopSet)).filter (· != 0xFFFF)).dedup).filter (fun n => (s.stopSet n).2)

/-- The commit of a let.step: entries, stacks and group state in the other copy, which becomes current; a retired session is FREE in both (R173, R179); then retirements, mask work and the counters. -/
def StepOut.commit (o : StepOut) : Plan := fun s =>
  let g := s.group o.r.group
  let c := 1 - g.copy
  let gone := o.old.filter (·.gone)
  Plan.seq [
    Plan.each o.old (fun x => strokeWrite x.x.job x.x.idx false (x.x.textBase + ((s.session x.n).textLen)) x.out),
    (fun s => [.groups o.r.group
      { g with copy := c, step := o.step, slots := o.next.map (fun x => (x.slot, x.n)),
               waiting := (s.group o.r.group).waiting.filter (fun n => !o.admitted.contains n && !o.failed.contains n), rows := o.rows.map (fun e => e.1.slot) }]),
    Plan.each o.next (fun x => Plan.andThen (Plan.act (.sessions x.n { x.x with late := false })) (writeEntry c x.n 0xFFFF)),
    Plan.each gone (fun x => Plan.andThen (Plan.act (.sessions x.n {})) (freeEntry s x.n)),
    withFree (fun f => ownStore (copyBase s c + 0x400000 + o.r.group * 256) (leBytes 256 f)),
    writeWaiting o.r.group,
    Plan.each gone (fun x => retire x.n x.x o.step true),
    Plan.each (o.admitted ++ o.failed) (fun n => let x := s.session n; strokeRead x.job x.idx false false x.promptAddr (4 * x.promptLen)),
    bumpWrap pgLET (letCnt 0) 1,
    bumpWrap pgLET (letCnt 1) (o.old.filter (·.drew)).length,
    bump pgLET (letCnt 2) (o.old.filter (·.sat)).length,
    Plan.each (o.badStops s) (fun _ => Plan.andThen (bump pgLET (letCnt 11) 1) (raiseErr pgLET 3 [])),
    nodeCache,
    Plan.each (o.next.filter (fun x => x.drew && x.x.state = .active)) (fun x => startMask x.n),
    Plan.each o.failed (fun n => let x := s.session n; failCheck x.job x.idx 31),
    releaseGroup o.r.group] s

/-- Checks 28, 29 and 32 of a let.step (R189). -/
def stepCheck (s : State) (j : Job) (t : Stroke) (r : StepRec) : Option Nat :=
  let blk := t.opnds.getD 0 0
  let g := s.group r.group
  let v := s.vocab r.vocab
  let lg := s.operand j r.logits
  if !s.placeOk j.part blk 64 then (if t.param != 0 then some 28 else some 29)
  else lowest [
    failIf (t.param != 0 || !(s.vocabSlot r.vocab).by j.part) 28,
    failIf (badRanges s j.part [(r.lenTable, 16 * r.maxSessions), (r.tokens, 4 * r.maxRows), (r.lastRows, 4 * r.maxSessions), (r.record, 16)]
      [(blk, 64), (r.logits, 64), lg.span, lg.scaleSpan]) 29,
    failIf (r.maxSessions == 0 || decide (1024 < r.maxSessions) || r.maxRows == 0 || decide (16384 < r.maxRows) ||
      (g.owner != 0 && g.owner != j.part + 1) || !(s.vocabSlot r.vocab).by j.part || lg.d.rank != 2 ||
      !(lg.d.fmtCode == 7 || lg.d.fmtCode == 5) || lg.e 0 != v.tokens || decide (lg.e 1 < g.rows.length)) 32]

def stepOp (s : State) (j : Job) (t : Stroke) : OpOut :=
  let r := parseStep (s.bytesAt (t.opnds.getD 0 0) 64)
  let o := stepOut s j r
  let lg := s.operand j r.logits
  let rows := (s.group r.group).rows.length
  { reads := (t.opnds.getD 0 0, 64) :: (if rows = 0 then [] else (r.logits, 64) :: (List.range rows).map (fun k => (lg.rowAddr [0, k, 0, 0], lg.rowBytes))),
    check := stepCheck s j t r, writes := o.tables s, more := o.commit, also := o.texts s ++ o.records s }

/-- LET_STEP: it waits until each session it could serve has its mask or has missed the deadline (R177, R182). -/
def letStep (id i : Nat) : Plan := fun s =>
  let r := parseStep (s.bytesAt (((s.job id).stroke i).opnds.getD 0 0) 64)
  if (s.group r.group).slots.any (fun e => s.awaitsMask e.2) then [] else runOp 0x05 0x02 id i stepOp s

def execLetStep (job idx : Nat) (s : State) : Host.Outcome State Fault Refusal := Plan.done (letStep job idx) s

/-- The running let.step that has not committed. -/
def State.runningStep (s : State) : Option (Nat × Nat) :=
  (s.jobs.flatMap (fun e => (List.range e.2.strokes.length).map (fun i => (e.1, i)))).find? (fun k => s.runnable k.1 k.2 0x05 0x02)

/-- STEP_DEADLINE: GRACE_US after the placement of a let.step, the sessions without a ready mask sit it out (R182). -/
def stepDeadline : Plan := fun s =>
  match s.runningStep with
  | none => []
  | some (id, i) =>
    let t := (s.job id).stroke i
    let r := parseStep (s.bytesAt (t.opnds.getD 0 0) 64)
    if s.ticks < t.startTick + fld (s.reg 0 pgLET 0x114) 31 20 then []
    else ((s.group r.group).slots.filter (fun e => s.awaitsMask e.2)).map (fun e => Eff.sessions e.2 { s.session e.2 with late := true })

def execStepDeadline (s : State) : Host.Outcome State Fault Refusal := Plan.done stepDeadline s

/-! ## let.tok and let.detok (R164-R167) -/

/-- Check 28 of the bulk lane: reserved PARAM bits, the vocabulary slot. -/
def bulkBad28 (s : State) (j : Job) (t : Stroke) : Bool := fld t.param 31 27 != 0 || !(s.vocabSlot (fld t.param 25 24)).by j.part

def tokOp (s : State) (j : Job) (t : Stroke) : OpOut :=
  let n := fld t.param 23 0
  let v := s.vocab (fld t.param 25 24)
  let fin := bit t.param 26
  let a := t.opnds
  let carry := s.bytesAt (a.getD 2 0) 8
  let input := ((carry.drop 1).take (rdN carry 0 1 % 4)) ++ s.bytesAt (a.getD 0 0) n
  let d := divide (!fin) (input.length + 1) input
  let ids := d.1.flatMap (v.chunkTokens s)
  { reads := [(a.getD 0 0, n), (a.getD 2 0, 8)],
    writes := [(a.getD 1 0, (ids.map (leBytes 4)).flatten), (a.getD 2 0, leBytes 1 d.2.length ++ d.2 ++ zeros (7 - d.2.length)),
               (a.getD 3 0, leBytes 4 ids.length)].filter (fun w => !w.2.isEmpty),
    check := lowest [failIf (bulkBad28 s j t) 28,
      failIf (badRanges s j.part [(a.getD 1 0, 4 * (n + 3)), (a.getD 2 0, 8), (a.getD 3 0, 4)] [(a.getD 0 0, n)]) 29],
    more := nodeCache }

/-- LET_TOK: one buffer of a stream, with its carry record (R164-R167). -/
def execLetTok (job idx : Nat) (s : State) : Host.Outcome State Fault Refusal := Plan.done (runOp 0x05 0x03 job idx tokOp) s

def detokOp (s : State) (j : Job) (t : Stroke) : OpOut :=
  let n := fld t.param 23 0
  let v := s.vocab (fld t.param 25 24)
  let a := t.opnds
  let ids := (List.range n).map (fun k => s.numAt (a.getD 0 0 + 4 * k) 4)
  let good := ids.filter (fun t => decide (t < v.tokens))
  let bs := good.flatMap (fun k => if bit t.param 26 && (v.token s k).special then [] else v.str s k)
  { reads := [(a.getD 0 0, 4 * n)],
    writes := [(a.getD 1 0, bs), (a.getD 2 0, leBytes 4 bs.length)].filter (fun w => !w.2.isEmpty),
    check := lowest [failIf (bulkBad28 s j t) 28,
      failIf (badRanges s j.part [(a.getD 1 0, 255 * n), (a.getD 2 0, 4)] [(a.getD 0 0, 4 * n)]) 29],
    more := Plan.andThen (bump pgLET (letCnt 10) (n - good.length)) nodeCache }

/-- LET_DETOK: the strings of the tokens in order (R167). -/
def execLetDetok (job idx : Nat) (s : State) : Host.Outcome State Fault Refusal := Plan.done (runOp 0x05 0x04 job idx detokOp) s

/-! ## let.bind (R163) -/

/-- A session or a running stroke uses a slot. -/
def State.slotUsed (s : State) (gram : Bool) (n : Nat) : Bool :=
  s.sessions.any (fun e => e.2.state ≠ .free && (if gram then e.2.grammar == n else e.2.vocab == n)) ||
  (!gram && s.jobs.any (fun e => e.2.strokes.any (fun t => t.state = .running && t.cls == 5 && (t.op == 3 || t.op == 4) && fld t.param 25 24 == n)))

/-- Binds a slot, or unbinds it at address 0, and drops the masks that name it (R163). -/
def bindSlot (gram : Bool) (n p a : Nat) : Plan := fun s =>
  let old := if gram then s.gramSlot n else s.vocabSlot n
  let b : Bound := { owner := if a = 0 then 0 else p + 1, base := a, gen := old.gen + 1 }
  Plan.seq [Plan.act (if gram then .grammars n b else .vocabs n b),
    (fun s => (s.maskTags.filter (fun e => rdN e.2 (if gram then 1 else 0) 1 == n)).map (fun e => Eff.maskTags e.1 [])), nodeCache] s

def bindOp (s : State) (j : Job) (t : Stroke) : OpOut :=
  let n := fld t.param 4 0
  let gram := bit t.param 8
  let a := t.opnds.getD 0 0
  let b := if gram then s.gramSlot n else s.vocabSlot n
  let len := if a = 0 then 0 else if gram then (s.gramAt a).len else (s.vocabAt a).len
  let good := a == 0 || (if gram then (s.gramAt a).ok s else (s.vocabAt a).ok s)
  let bad28 := fld t.param 7 5 != 0 || fld t.param 31 9 != 0 || (!gram && decide (3 < n))
  let badRanges' := a != 0 && (!s.placeOk j.part a 64 || !s.placeOk j.part a len)
  { reads := if a = 0 then [] else [(a, len)],
    check := lowest [failIf bad28 28, failIf badRanges' 29, failIf (!badRanges' && (!good || s.slotUsed gram n || (b.owner != 0 && b.owner != j.part + 1))) 33],
    more := bindSlot gram n j.part a }

/-- LET_BIND: a failed image also sets IMAGE_BAD (R163). -/
def letBind (id i : Nat) : Plan := fun s =>
  let j := s.job id
  let t := j.stroke i
  let a := t.opnds.getD 0 0
  let bad := s.runnable id i 0x05 0x08 && a != 0 && (bindOp s j t).check == some 33 && !(if bit t.param 8 then (s.gramAt a).ok s else (s.vocabAt a).ok s)
  Plan.andThen (Plan.when bad (raiseErr pgLET 0 [])) (runOp 0x05 0x08 id i bindOp) s

def execLetBind (job idx : Nat) (s : State) : Host.Outcome State Fault Refusal := Plan.done (letBind job idx) s

end Sys2Proof.Machine
end

