-- ==== Sys2Proof/Machine/Modes.lean ====
section
/-! DEFINITION. The two-phase mode change (R54-R56, R69, R145, R147, R190, R217, R308, R326): arming a unit, the commit, each unit's safe point, and the rollback. -/
namespace Sys2Proof.Machine

/-- NEW_MODE values that a kind of unit takes (R69, R147, R190, R217, R308, R326). -/
def modeLegal (kind v : Nat) : Bool := if kind = 3 ∨ kind = 5 then decide (v < 4) else decide (v < 2)

/-- A move of the unit is under way (R268). -/
def State.moving (s : State) (kind n : Nat) : Bool := s.unitMove.status == 1 && s.unitMove.kind == kind && s.unitMove.index == n

/-- MODE_STAGE_WRITE: the unit takes NEW_MODE and ARMED for the function, unless another armed it, its change is pending, or its page ignores the write (R54). -/
def modeStageWrite (fn page v : Nat) : Plan := fun s =>
  match modePage page with
  | none => []
  | some (kind, n) =>
    let m := s.modeUnit page
    let held := (m.armed && m.owner != fn) || m.pending != 0 || (decide (kind < 5) && s.withdrawn kind n) || (decide (kind < 2) && s.moving kind n) ||
      (kind == 3 && s.gddr.migrating && s.gddr.source == n)
    if !s.shows fn page || held || !modeLegal kind (fld v 15 0) then []
    else [.modeUnits page { m with armed := bit v 31, owner := fn, newMode := fld v 15 0 }]

def execModeStageWrite (fn page value : Nat) (s : State) : Host.Outcome State Fault Refusal := Plan.done (pageGate fn (modeStageWrite fn page value)) s

/-- The end of a change: the held work is evaluated again, and waiting spare-ins of its units begin (R55, R373). -/
def changeEnds : Plan := Plan.andThen settle nextTrigger

/-- COMMITTED: ARMED is cleared in every unit taken in, and the committing stroke has done its work (R55). -/
def commitEnds (fn : Nat) : Plan := fun s =>
  let c := s.change fn
  Plan.seq [
    Plan.each (s.takenIn fn) (fun p => fun s => [.modeUnits p { s.modeUnit p with armed := false, pending := 0 }]),
    (fun s => [.modeChanges fn { s.change fn with state := .committed, result := 0, byStroke := none }]),
    (match c.byStroke with | some (id, i) => endOp id i | none => Plan.skip),
    sendVec fn 0, changeEnds] s

/-- A commit takes in every unit that the function armed; clusters pre-empt what they run; without any unit it ends at once (R54, R55). -/
def commitChange (fn : Nat) (by_ : Option (Nat × Nat)) : Plan := fun s =>
  let pages := (s.modeUnits.filter (fun e => e.2.armed && e.2.owner == fn && e.2.pending == 0)).map (·.1)
  Plan.seq [
    (fun s => [.modeChanges fn { s.change fn with state := .pending, result := 0, armed := pages.length, applied := 0, start := s.ticks, byStroke := by_ }]),
    Plan.each pages (fun p => fun s => let m := s.modeUnit p; [.modeUnits p { m with applied := false, rolledBack := false, pending := fn + 1, old := m.current }]),
    Plan.each pages (fun p => match modePage p with | some (0, n) => preemptCluster n (fn + 1) | _ => Plan.skip),
    Plan.when pages.isEmpty (commitEnds fn)] s

/-- SCH_MODE_COMMIT: COMMIT = 1; refused while the function's change is pending (R54). -/
def schModeCommit (fn v : Nat) : Plan := fun s =>
  if !bit v 0 then []
  else if (s.change fn).state = .pending then [.modeChanges fn { s.change fn with refused := true }]
  else commitChange fn none s

def execSchModeCommit (fn value : Nat) (s : State) : Host.Outcome State Fault Refusal := Plan.done (pageGate fn (schModeCommit fn value)) s

/-- sch.mode: waits while the function's previous change is pending, then commits (R54). -/
def schMode (id i : Nat) : Plan := fun s =>
  let fn := (s.job id).fn
  if s.runnable id i 0x0F 0x02 && decide ((s.change fn).state ≠ .pending) then
    Plan.andThen (modStroke id i (fun t => { t with begun := true })) (commitChange fn (some (id, i))) s
  else []

def execSchMode (job idx : Nat) (s : State) : Host.Outcome State Fault Refusal := Plan.done (schMode job idx) s

/-! ## Applying (R55, R145, R147, R190) -/

/-- The lines of a segment that hold data not yet in GDDR6 are written back. -/
def writeBackAll (n : Nat) : Plan := fun s =>
  Plan.each ((s.lines.filter (fun e => decide (n * 65536 ≤ e.1) && decide (e.1 < (n + 1) * 65536) && e.2.valid && e.2.dirty)).map (·.1)) writeBack s

/-- The whole segment is burnished (R138, R152). -/
def burnishSegment (n : Nat) : Plan := fun _ => [.zero (plateBase + n * segSize) segSize, .badWordsClear ((plateBase + n * segSize) / 4) (segSize / 4)]

/-- A cache window lies wholly in the GDDR6 of a partition (R145). -/
def State.windowOk (s : State) (n p : Nat) : Bool := let g := s.seg n; s.inPartGddr p g.windowBase (2 ^ g.windowLog2)

/-- The unit stands at its safe point (R55 table, R308, R326). -/
def State.safePoint (s : State) (kind n : Nat) : Bool :=
  match kind with
  | 0 => let c := s.cluster n; c.left.isNone && c.right.isNone && c.hatch.isNone && c.mover.isNone
  | 1 => let g := s.seg n; decide (g.power = .on ∨ g.power = .off) && g.inReads == 0 && g.inWrites == 0
  | 2 => (s.core n).work == 0
  | 3 => s.queuesEmpty n
  | 5 => !s.placesHeld.any (fun x => x = .letStep)
  | _ => !s.xfers.any (fun x => x.port == n) && s.colls.isEmpty && (s.port n).replay.isEmpty && (s.port n).state != 3

/-- What a unit does as a mode comes into force, besides taking it. -/
def enterMode (kind n old new : Nat) : Plan :=
  match kind with
  | 1 => if old = new then Plan.skip
         else if new = 1 then coldCache n else Plan.seq [writeBackAll n, coldCache n, burnishSegment n]
  | 5 => Plan.when (bit old 1 && !bit new 1) emptyMasks
  | _ => Plan.skip

/-- MODE_UNIT_APPLY: at its safe point the unit applies NEW_MODE; a cache window outside the partition's GDDR6 is not applied (R55, R145). -/
def modeUnitApply (page : Nat) : Plan := fun s =>
  match modePage page with
  | none => []
  | some (kind, n) =>
    let m := s.modeUnit page
    if m.pending = 0 || m.applied || !s.safePoint kind n then []
    else
      let fn := m.pending - 1
      if kind = 1 ∧ m.newMode = 1 ∧ m.old ≠ 1 ∧ ((s.seg n).owner = 0 ∨ !s.windowOk n ((s.seg n).owner - 1)) then (raiseErr (pgPS n) 5 []) s
      else
        Plan.seq [
          enterMode kind n m.current m.newMode,
          (fun s => [.modeUnits page { s.modeUnit page with current := m.newMode, applied := true }]),
          (fun s => [.modeChanges fn { s.change fn with applied := (s.change fn).applied + 1 }]),
          Plan.look (fun s => Plan.when ((s.takenIn fn).all (fun p => (s.modeUnit p).applied)) (commitEnds fn))] s

def execModeUnitApply (page : Nat) (s : State) : Host.Outcome State Fault Refusal := Plan.done (modeUnitApply page) s

/-! ## Rollback (R55, R56) -/

/-- The pending change of a function is rolled back; what it held goes on (R55, R56). -/
def rollback (fn : Nat) (quiet : Bool) : Plan := rollbackThen changeEnds fn quiet

/-- The change that takes a unit in is rolled back at once, because the unit retires (R55, R373). -/
def rollbackOf (page : Nat) : Plan := fun s => if (s.modeUnit page).pending = 0 then [] else rollback ((s.modeUnit page).pending - 1) false s

/-- MODE_TIMEOUT_EXPIRY (R55). -/
def modeTimeoutExpiry (fn : Nat) : Plan := fun s =>
  let c := s.change fn
  if c.state = .pending ∧ c.start + c.timeout ≤ s.ticks then rollback fn false s else []

def execModeTimeoutExpiry (fn : Nat) (s : State) : Host.Outcome State Fault Refusal := Plan.done (modeTimeoutExpiry fn) s

/-- A reset of a function clears ARMED in every unit that it armed and had not committed (R56). -/
def disarm (fn : Nat) : Plan := fun s =>
  (s.modeUnits.filter (fun e => e.2.armed && e.2.owner == fn && e.2.pending == 0)).map (fun e => Eff.modeUnits e.1 { e.2 with armed := false })

end Sys2Proof.Machine
end

