-- ==== Sys2Proof/Machine/Cluster.lean ====
section
/-! DEFINITION. Cluster faults (R71-R74, R403, R404): parity detections real and injected, shared faults, the injection register, and the end of a local burnish. -/
namespace Sys2Proof.Machine

/-- CLUSTER_PARITY_DETECT: the detections of one cycle in a cluster, or in a half of it. Those that no stroke is charged with, or whose point its passes have not reached, are none;
an injected one needs BC_INJECT armed for its path and half, and is alone (R71-R74, R403, R404). -/
def clusterParityDetect (n : Nat) (right injected : Bool) (hits : List ParityHit) : Plan := fun s =>
  let split := s.splitMode n
  let real := hits.filter (fun h => decide (h.path ≤ 5) && (match faultedStrokes (s.cluster n) h.path right split with
    | [] => false
    | r :: _ => ((s.job r.job).stroke r.idx).reached h))
  let l := if injected then (real.filter (fun h => s.armed n h.path right)).take 1 else real
  if 16 ≤ n || l.isEmpty then [] else parityDetect n right injected l s

def execClusterParityDetect (cluster : Nat) (right injected : Bool) (hits : List ParityHit) (s : State) : Host.Outcome State Fault Refusal :=
  Plan.done (clusterParityDetect cluster right injected hits) s

/-- BC_INJECT_WRITE: HALF and PATH are taken, FIRED is cleared by a 1; ARM is set or stays set for a path that exists, since another value of PATH arms nothing; in a VF view nothing (R74). -/
def bcInjectWrite (fn n v : Nat) : Plan := fun s =>
  if fn ≠ 0 ∨ 16 < n ∨ (s.cluster n).withdrawn then []
  else
    let w := s.reg 0 (pgBC n) 0x128
    let path := fld v 3 1
    let arm := (bit w 0 || bit v 0) && decide (path ≤ 4)
    setReg 0 (pgBC n) 0x128 (bitAt (bit w 8 && !bit v 8) 8 + fld v 5 4 * 16 + path * 2 + bitAt arm 0) s

def execBcInjectWrite (fn cluster value : Nat) (s : State) : Host.Outcome State Fault Refusal := Plan.done (pageGate fn (bcInjectWrite fn cluster value)) s

/-- LOCAL_BURNISH_DONE: share 0 is the left half's or the whole, 1 the right half's, 2 the hatch unit's buffer, 3 the move engine's (R72, R73). -/
def localBurnishDone (n share : Nat) : Plan := fun s =>
  let c := s.cluster n
  if 16 ≤ n then []
  else match share with
    | 0 => if c.burnishL || c.burnishW then [.clusters n { c with burnishL := false, burnishW := false }] else []
    | 1 => if c.burnishR then [.clusters n { c with burnishR := false }] else []
    | 2 => if c.burnishH then [.clusters n { c with burnishH := false }] else []
    | 3 => if c.burnishM then [.clusters n { c with burnishM := false }] else []
    | _ => []

def execLocalBurnishDone (cluster share : Nat) (s : State) : Host.Outcome State Fault Refusal := Plan.done (localBurnishDone cluster share) s

end Sys2Proof.Machine
end

