-- ==== Sys2Proof/Machine/Plate.lean ====
section
/-! DEFINITION. Plate memory (R145-R157, R405): parity detections on stroke reads, the burnish of claimed blocks, retried accesses, power gating and the cache window. -/
namespace Sys2Proof.Machine

/-- A unit is under spare-in: its trigger runs (R373). -/
def State.sparing (s : State) (kind n : Nat) : Bool :=
  match s.reserve.running with | some t => t.kind == kind && t.index == n | none => false

/-! ## Parity (R148-R150) -/

/-- The Z of a hatch stroke coincides with its X (R149). -/
def inPlace (s : State) (j : Job) (t : Stroke) : Bool :=
  t.cls == 3 && t.opnds.getD 0 0 != 0 && (s.operand j (t.opnds.getD 0 0)).coincides (s.operand j (t.opnds.getD 2 0))

/-- PLATE_PARITY_DETECT: scratch words and dirty lines follow R149, a dirty line is marked; a clean line is invalidated and served again from GDDR6 (R150). `stored` holds for a bit flipped in the array,
which every later read of the word meets until it is written, and not for an upset on the read path (R149). A cache line lies at its set and way: the line of offset `off` is entry off / 128 (R143). -/
def plateParityDetect (id i seg off : Nat) (tagPar stored : Bool) : Plan := fun s =>
  let j := s.job id
  let t := j.stroke i
  let word := (plateBase + seg * segSize + off) / 4
  if j.phase = .running ∧ j.killed.isNone ∧ t.state = .running ∧ !t.ran ∧ seg < 32 ∧ off < segSize ∧ !s.withdrawn 1 seg then
    if s.mode (pgPS seg) = 1 then
      let k := seg * 65536 + off / 128
      let l := Tab.get {} s.lines k
      if !l.valid then []
      else
        let note := plateDetect seg off 0 j.fn (j.tableIndex i) j.part true tagPar (l.tag * 128)
        if !l.dirty then Plan.andThen note (Plan.act (.lines k {})) s
        else Plan.seq [note, Plan.act (.lines k { l with marked := true, badTag := l.badTag || (stored && tagPar) }),
          Plan.when (stored && !tagPar) (Plan.act (.badWords word true)), rerunOrKill id i (inPlace s j t)] s
    else if tagPar then []
    else Plan.seq [plateDetect seg off 0 j.fn (j.tableIndex i) j.part true false 0, Plan.when stored (Plan.act (.badWords word true)), rerunOrKill id i (inPlace s j t)] s
  else []

def execPlateParityDetect (job idx seg off : Nat) (tagPar stored : Bool) (s : State) : Host.Outcome State Fault Refusal :=
  Plan.done (plateParityDetect job idx seg off tagPar stored) s

/-! ## Burnish (R152) -/

/-- PLATE_BURNISH_DONE: the oldest block under burnish of the segment holds zeros, and its claim is released. -/
def plateBurnishDone (n : Nat) : Plan := fun s =>
  let g := s.seg n
  match g.burnish with
  | [] => []
  | b :: bs =>
    let a := plateBase + n * segSize + b * 0x10000
    [.zero a 0x10000, .badWordsClear (a / 4) 0x4000, .claims (n * 128 + b) 0, .segs n { g with burnish := bs }]

def execPlateBurnishDone (seg : Nat) (s : State) : Host.Outcome State Fault Refusal := Plan.done (plateBurnishDone seg) s

/-! ## Retried accesses (R155) -/

/-- PLATE_ACCESS_RETRY: access `i` of the waiting ones is presented again; it stays while the segment answers with a retry, is late at an OFF segment, and else its stroke goes on. -/
def plateAccessRetry (i : Nat) : Plan := fun s =>
  match s.retries[i]? with
  | none => []
  | some r =>
    let j := s.job r.who.job
    let t := j.stroke r.who.idx
    let gone := Plan.act (.retries (s.retries.eraseIdx i))
    let payload := decide (j.strokes.length ≤ r.who.idx)
    if j.phase = .gone || j.killed.isSome || (!payload && decide (t.state ≠ .running)) then gone s
    else if payload then
      (if (s.seg r.seg).power = .off then Plan.andThen gone (lateJob r.who.job r.seg) s
       else if s.segRetries r.seg then [] else Plan.andThen gone (checkJobDone r.who.job .ok) s)
    else if (s.seg r.seg).power = .off then Plan.andThen gone (lateStroke r.who.job r.who.idx r.seg) s
    else if s.segRetries r.seg then []
    else Plan.andThen gone (Plan.when (r.data != []) (lastWrite r.who.job r.who.idx { cls := memClass t.cls t.op } r.addr r.data)) s

def execPlateAccessRetry (i : Nat) (s : State) : Host.Outcome State Fault Refusal := Plan.done (plateAccessRetry i) s

/-! ## Power (R154-R156, R405) -/

/-- A segment that has come to rest starts the transition to the state that REQ names, if it is another (R405). -/
def seekPower (n : Nat) : Plan := fun s =>
  let g := s.seg n
  if g.power = .on ∧ g.req then [.segs n { g with power := .draining, drainStart := s.ticks }]
  else if g.power = .off ∧ !g.req then [.segs n { g with power := .waking }]
  else []

/-- PS_POWER_WRITE: DRAIN_LIMIT_US is taken; a change of REQ is a power request, refused under a pending mode change or a spare-in (R154, R405). The pages of the spare positions take it like any other (R400). -/
def psPowerWrite (n v : Nat) : Plan := fun s =>
  let g := s.seg n
  if 34 ≤ n || g.withdrawn || s.moving 1 n then []
  else
    let y := { g with drainLimit := fld v 31 16 }
    if bit v 0 == g.req then [.segs n y]
    else if (s.modeUnit (pgPS n)).pending != 0 || s.sparing 1 n then Plan.andThen (Plan.act (.segs n y)) (raiseErr (pgPS n) 6 []) s
    else Plan.andThen (Plan.act (.segs n { y with req := bit v 0 })) (seekPower n) s

def execPsPowerWrite (seg value : Nat) (s : State) : Host.Outcome State Fault Refusal := Plan.done (pageGate 0 (psPowerWrite seg value)) s

/-- PS_DRAIN_DONE: dirty lines are written back, the segment is OFF and its contents are lost (R154). -/
def psDrainDone (n : Nat) : Plan := fun s =>
  let g := s.seg n
  if g.power ≠ .draining || g.inReads != 0 || g.inWrites != 0 then []
  else Plan.seq [writeBackAll n, coldCache n, burnishSegment n, (fun s => [.segs n { s.seg n with power := .off }]), seekPower n] s

def execPsDrainDone (seg : Nat) (s : State) : Host.Outcome State Fault Refusal := Plan.done (psDrainDone seg) s

/-- PS_WAKE_DONE: the segment is burnished whole and ON, cold if it is a cache (R154). -/
def psWakeDone (n : Nat) : Plan := fun s =>
  if (s.seg n).power ≠ .waking then []
  else Plan.seq [burnishSegment n, coldCache n, (fun s => [.segs n { s.seg n with power := .on }]), seekPower n] s

def execPsWakeDone (seg : Nat) (s : State) : Host.Outcome State Fault Refusal := Plan.done (psWakeDone seg) s

/-- DRAIN_LIMIT_EXPIRY: the power-down is abandoned (R156). No class of R361 is stated for its event: CLASS and CODE are free values. -/
def drainLimitExpiry (n : Nat) : Plan := fun s =>
  let g := s.seg n
  if g.power = .draining ∧ g.drainStart + g.drainLimit ≤ s.ticks then
    Plan.seq [Plan.act (.segs n { g with power := .on, req := false }), raiseErr (pgPS n) 4 [],
      withFree (fun f => event { cls := f % 128, code := f / 128 % 65536, part := g.owner - 1, charged := g.owner != 0, fn := (s.part (g.owner - 1)).fn, page := pgPS n })] s
  else []

def execDrainLimitExpiry (seg : Nat) (s : State) : Host.Outcome State Fault Refusal := Plan.done (drainLimitExpiry seg) s

/-! ## The cache window (R145) -/

/-- The window registers of a segment take a write: it is in scratch mode, and no change that involves it is pending (R145). -/
def State.windowOpen (s : State) (fn n : Nat) : Bool :=
  decide (n < 34) && !(s.seg n).withdrawn && s.shows fn (pgPS n) && s.mode (pgPS n) == 0 && (s.modeUnit (pgPS n)).pending == 0

/-- PS_CACHE_BASE_WRITE: the window is taken only in scratch mode with no change pending, a size of 2^23 to 2^34 and an aligned base. -/
def psCacheBaseWrite (fn n v : Nat) : Plan := fun s =>
  let g := s.seg n
  let lg := fld v 5 0
  let base := fld v 31 23 * 2 ^ 23 + g.windowHiStaged * 2 ^ 32
  if !s.windowOpen fn n || decide (lg < 23) || decide (34 < lg) || base % 2 ^ lg != 0 then []
  else [.segs n { g with windowBase := base, windowLog2 := lg }]

def execPsCacheBaseWrite (fn seg value : Nat) (s : State) : Host.Outcome State Fault Refusal := Plan.done (pageGate fn (psCacheBaseWrite fn seg value)) s

end Sys2Proof.Machine
end

