-- ==== Sys2Proof/Machine/Partition.lean ====
section
/-! DEFINITION. Partitions (R262-R276): PAR_STATE, the move of units, the ruling table and its slots, and the tick that refills the regulators. -/
namespace Sys2Proof.Machine

/-! ## PAR_STATE (R264) -/

/-- Two ranges of numbers meet; an empty one meets none (R264). -/
def rangesMeet (a n b m : Nat) : Bool := overlaps a n b m

/-- The other partitions in CONFIG or ACTIVE. -/
def State.otherParts (s : State) (p : Nat) : List Part :=
  ((List.range 8).filter (fun q => q != p && decide ((s.part q).state ≠ .unused))).map s.part

/-- Every range is non-empty and within its limits, meets no other partition's, and the GDDR6 range lies below the stroke table (R264). -/
def rangesOk (s : State) (p : Nat) : Bool :=
  let x := s.part p
  x.qCount != 0 && x.sCount != 0 && x.semCount != 0 && x.sessCount != 0 && x.gSize != 0 &&
  decide (x.qFirst + x.qCount ≤ 4096) && decide (x.sFirst + x.sCount ≤ 32768) && decide (x.semFirst + x.semCount ≤ 4096) &&
  decide (x.sessFirst + x.sessCount ≤ 16384) && decide ((x.gBase + x.gSize) * gUnit ≤ s.tableBase) &&
  (s.otherParts p).all (fun y => !(rangesMeet x.qFirst x.qCount y.qFirst y.qCount || rangesMeet x.sFirst x.sCount y.sFirst y.sCount ||
    rangesMeet x.semFirst x.semCount y.semFirst y.semCount || rangesMeet x.sessFirst x.sessCount y.sessFirst y.sessCount ||
    rangesMeet x.gBase x.gSize y.gBase y.gSize))

/-- The partition owns no cluster, segment, context or group (R264). -/
def ownsNothing (s : State) (p : Nat) : Bool :=
  (s.ownClusters p).isEmpty && (s.ownSegs p).isEmpty && !(List.range 256).any (fun c => (Tab.get {} s.streams c : StreamCtx).owner == p + 1) &&
  !(List.range 8).any (fun c => (Tab.get {} s.intakes c : IntCtx).owner == p + 1) && !(List.range 16).any (fun g => (Tab.get {} s.regGroups g : RegGroup).owner == p + 1)

/-- The change of STATE that a write asks for is one of R264, and its condition holds; partition 0 is never UNUSED (R262). -/
def stateChangeOk (s : State) (p st : Nat) : Bool :=
  let x := s.part p
  match x.state, st with
  | .unused, 0 => true
  | .unused, 1 => true
  | .config, 1 => true
  | .config, 2 => rangesOk s p
  | .config, 0 => p != 0 && ownsNothing s p
  | .active, 2 => true
  | .active, 1 =>
    !(List.range x.qCount).any (fun k => (s.queue (x.qFirst + k)).enable) && !s.jobs.any (fun e => e.2.phase ≠ .gone && e.2.part == p)
  | _, _ => false

/-- A write takes FUNCTION: it goes from UNUSED to CONFIG or finds the partition in CONFIG (R264). -/
def takesFn (x : Part) (st : Nat) : Bool := decide (x.state = .config) || (decide (x.state = .unused) && st == 1)

/-- A PAR_STATE write is taken (R264). -/
def parStateOk (s : State) (p v : Nat) : Bool :=
  let x := s.part p
  let st := fld v 31 30
  let fn := fld v 27 24
  let w := fld v 10 0
  stateChangeOk s p st &&
  (if p = 0 then fn == 0
   else if takesFn x st then fn != 0 && decide (fn ≤ 8) && !(s.otherParts p).any (fun y => y.fn == fn)
   else fn == x.fn) &&
  decide (w ≤ 1024) && (st == 0 || decide (((s.otherParts p).map (·.window)).foldl (· + ·) w ≤ 1024)) &&
  !(decide (x.state = .active) && decide (w < s.chunksOf p))

def Bucket.fill (b : Bucket) : Bucket := { b with level := (b.depth * 64 : Nat) }
def Part.fillBuckets (x : Part) : Part := { x with gddr := x.gddr.fill, plate := x.plate.fill, link := x.link.fill }

/-- PAR_STATE_WRITE: taken whole or not at all (R264); MEASURE takes effect at the next tick (R274). -/
def parStateWrite (v : Nat) : Plan := fun s =>
  let p := fld (s.reg 0 pgPAR 0x100) 2 0
  let x := s.part p
  if !parStateOk s p v then (raiseErr pgPAR 0 []) s
  else
    let st : PartState := match fld v 31 30 with | 0 => .unused | 1 => .config | _ => .active
    let y := { x with state := st, fn := if p ≠ 0 ∧ takesFn x (fld v 31 30) then fld v 27 24 else x.fn, maxPriority := fld v 22 20,
                      measureNext := if bit v 16 = x.measure then none else some (bit v 16), window := fld v 10 0 }
    [.parts p (if st = .active ∧ x.state ≠ .active then y.fillBuckets else y)]

def execParStateWrite (value : Nat) (s : State) : Host.Outcome State Fault Refusal := Plan.done (pageGate 0 (parStateWrite value)) s

/-! ## Moving units (R268) -/

/-- Units of a KIND of PAR_MOVE. -/
def moveUnits (kind : Nat) : Nat := match kind with | 0 => 16 | 1 => 32 | 2 => 256 | 3 => 8 | 4 => 16 | _ => 0

/-- Owner of a unit plus 1; 0 is none. -/
def ownerOf (s : State) (kind n : Nat) : Nat :=
  match kind with
  | 0 => (s.cluster n).owner + 1
  | 1 => (s.seg n).owner
  | 2 => (Tab.get {} s.streams n : StreamCtx).owner
  | 3 => (Tab.get {} s.intakes n : IntCtx).owner
  | _ => (Tab.get {} s.regGroups n : RegGroup).owner

def setOwner (kind n p : Nat) : Plan := fun s =>
  match kind with
  | 0 => [.clusters n { s.cluster n with owner := p }]
  | 1 => [.segs n { s.seg n with owner := p + 1 }]
  | 2 => [.streams n { (Tab.get {} s.streams n : StreamCtx) with owner := p + 1 }]
  | 3 => [.intakes n { (Tab.get {} s.intakes n : IntCtx) with owner := p + 1 }]
  | _ => [.regGroups n { (Tab.get {} s.regGroups n : RegGroup) with owner := p + 1 }]

/-- The reason a move is refused for; 0 is none (R268, PAR_MOVE_STATUS). -/
def moveReason (s : State) (kind n dest : Nat) : Nat :=
  if moveUnits kind ≤ n then 5
  else if (s.part dest).state = .unused || ownerOf s kind n == dest + 1 then 1
  else if decide (kind < 2) &&
      ((s.modeUnit (unitPage kind n)).armed || (s.modeUnit (unitPage kind n)).pending != 0 || s.sparing kind n || s.withdrawn kind n ||
        (kind == 1 && decide ((s.seg n).power = .draining ∨ (s.seg n).power = .waking))) then 3
  else if (kind == 2 && ((Tab.get {} s.streams n : StreamCtx).state != 0 || (Tab.get {} s.tracks n : TrkStream).isOpen)) ||
      (kind == 3 && (Tab.get {} s.intakes n : IntCtx).state != 0) || (kind == 4 && (Tab.get {} s.regGroups n : RegGroup).isOpen) then 2
  else if kind == 1 && s.mode (pgPS n) == 1 && !s.windowOk n dest then 4
  else 0

/-- A move has ended: DONE, and vector 0 of the PF. -/
def moveEnds : Plan := fun s => Plan.andThen (Plan.act (.unitMove { s.unitMove with status := 2, reason := 0 })) (sendVec 0 0) s

/-- PAR_MOVE_WRITE (R268). -/
def parMoveWrite (v : Nat) : Plan := fun s =>
  let kind := fld v 18 16
  let n := fld v 7 0
  let dest := fld v 26 24
  if s.unitMove.status = 1 then []
  else
    let r := moveReason s kind n dest
    if r ≠ 0 then Plan.andThen (Plan.act (.unitMove { status := 3, reason := r, kind := kind, index := n, dest := dest })) (raiseErr pgPAR 1 []) s
    else
      Plan.andThen (Plan.act (.unitMove { status := 1, reason := 0, kind := kind, index := n, dest := dest }))
        (if kind = 0 then preemptCluster n 0 else if kind = 1 then Plan.skip else Plan.andThen (setOwner kind n dest) moveEnds) s

def execParMoveWrite (value : Nat) (s : State) : Host.Outcome State Fault Refusal := Plan.done (pageGate 0 (parMoveWrite value)) s

/-- The local memory of a cluster is burnished whole (R73). -/
def burnishCluster (n : Nat) : Plan := fun s =>
  [.localMemClear (n * 0x400000) 0x400000,
   .clusters n { s.cluster n with burnishL := false, burnishR := false, burnishW := false, burnishH := false, burnishM := false }]

/-- A segment drained for a move or a spare-in is burnished whole; its claims and its blocks under burnish go with it (R138, R268). -/
def clearSegment (n : Nat) : Plan := fun s =>
  Plan.seq [writeBackAll n, coldCache n, burnishSegment n, Plan.act (.claimsClear (n * 128) 128), Plan.act (.segs n { s.seg n with burnish := [] })] s

/-- MOVE_DONE: the cluster is free of strokes, or the segment drained; its memory is burnished and the owner changes (R268). -/
def moveDone : Plan := fun s =>
  let m := s.unitMove
  if m.status ≠ 1 then []
  else if m.kind = 0 then
    (if s.safePoint 0 m.index then Plan.seq [burnishCluster m.index, setOwner 0 m.index m.dest, moveEnds] s else [])
  else if s.safePoint 1 m.index then Plan.seq [clearSegment m.index, setOwner 1 m.index m.dest, moveEnds] s
  else []

def execMoveDone (s : State) : Host.Outcome State Fault Refusal := Plan.done moveDone s

/-! ## The ruling table (R269-R271) -/

/-- An entry from its 16 bytes (R269). -/
def parseRul (b : List Byte) : RulEntry :=
  { duration := rdN b 0 4, clustersA := rdN b 4 2, partA := fld (rdN b 6 1) 2 0, enA := bit (rdN b 6 1) 7,
    clustersB := rdN b 8 2, partB := fld (rdN b 0xA 1) 2 0, enB := bit (rdN b 0xA 1) 7 }

/-- A reserved bit of an entry is set. -/
def rulReserved (b : List Byte) : Bool := fld (rdN b 6 1) 6 3 != 0 || rdN b 7 1 != 0 || fld (rdN b 0xA 1) 6 3 != 0 || rdN b 0xB 5 != 0

/-- A reservation names a partition that is not ACTIVE or a cluster that it does not own (R270). -/
def badReservation (s : State) (en : Bool) (set p : Nat) : Bool :=
  en && (decide ((s.part p).state ≠ .active) || (List.range 16).any (fun n => bit set n && !(s.ownClusters p).contains n))

/-- An entry that R270 refuses. -/
def badRul (s : State) (b : List Byte) : Bool :=
  let e := parseRul b
  decide (e.duration < 100) || decide (10000 < e.duration) || rulReserved b ||
  badReservation s e.enA e.clustersA e.partA || badReservation s e.enB e.clustersB e.partB || (e.enA && e.enB && e.partA == e.partB)

/-- RULING_LOAD: LENGTH entries are read once and checked (R270). -/
def rulingLoad : Plan := fun s =>
  let l := fld (s.reg 0 pgPAR 0x148) 9 0
  let n := if l = 0 then 512 else l
  let base := s.reg 0 pgPAR 0x140 + s.reg 0 pgPAR 0x144 * 2 ^ 32
  let bytes (k : Nat) : List Byte := s.bytesAt (base + 16 * k) 16
  let ok (k : Nat) : Bool := decide (k < 512) && regionOf (base + 16 * k) 16 == .gddr && !s.meetsPoison (base + 16 * k) 16 && !badRul s (bytes k)
  match (List.range n).find? (fun k => !ok k) with
  | some k => Plan.andThen (Plan.act (.ruling { s.ruling with errEntry := k % 512 })) (raiseErr pgPAR 2 []) s
  | none =>
    let t := (List.range n).map (fun k => parseRul (bytes k))
    if s.ruling.enable then [.ruling { s.ruling with pendingTable := some t }]
    else [.ruling { s.ruling with table := t, pendingTable := none, entry := 0 }]

def execRulingLoad (s : State) : Host.Outcome State Fault Refusal := Plan.done (pageGate 0 rulingLoad) s

/-- A stroke that may not run on a cluster reserved for partition `p`: it is no RT stroke of `p` (R271). -/
def intrudes (s : State) (p : Nat) (r : StrokeRef) : Bool := !((s.job r.job).part == p && ((s.job r.job).stroke r.idx).rt)

/-- Every stroke on a cluster. -/
def State.strokesOn (s : State) (n : Nat) : List StrokeRef := let c := s.cluster n; s.arrayStrokes n ++ c.hatch.toList ++ c.mover.toList

/-- The start of a slot on one reserved cluster: mm and attn strokes of others are pre-empted; each that cannot be counts (R271). -/
def clearReserved (p n : Nat) : Plan := fun s =>
  Plan.each ((s.strokesOn n).filter (intrudes s p)) (fun r => Plan.andThen (startPreempt r.job r.idx none 0) (fun s =>
    if ((s.job r.job).stroke r.idx).preempting then [] else [.ruling { s.ruling with unpreempted := satAdd 0xFFFF s.ruling.unpreempted 1 }])) s

/-- The slot in force begins; `before` tells what the previous slot reserved (R271). -/
def slotBegins (before : List (Option Nat)) : Plan := fun s =>
  let fresh_ := (List.range 16).filter (fun n => (s.reservedFor n).isSome && before.getD n none != s.reservedFor n)
  Plan.andThen (Plan.each fresh_ (fun n => clearReserved ((s.reservedFor n).getD 0) n))
    (fun s => let l := fresh_.flatMap (fun n => ((s.strokesOn n).filter (intrudes s ((s.reservedFor n).getD 0))).map (fun r => (n, r)))
      if l.isEmpty then [] else [.ruling { s.ruling with awaiting := s.ruling.awaiting ++ [{ start := s.ruling.slotStart, strokes := l }] }]) s

/-- RULING_ENABLE: the table starts at its entry 0, or every reservation ends at once; a table still awaiting the end of the cycle is then in force (R270). -/
def rulingEnable (en : Bool) : Plan := fun s =>
  let r := s.ruling
  if en = r.enable then []
  else if en then Plan.andThen (Plan.act (.ruling { r with enable := true, entry := 0, slotStart := s.ticks })) (slotBegins []) s
  else [.ruling { r with enable := false, table := r.pendingTable.getD r.table, pendingTable := none }]

def execRulingEnable (enable : Bool) (s : State) : Host.Outcome State Fault Refusal := Plan.done (pageGate 0 (rulingEnable enable)) s

/-- RULING_SLOT_START: at the end of a slot the next entry takes force; a loaded table replaces the running one at the end of the cycle (R270, R271). -/
def rulingSlotStart : Plan := fun s =>
  let r := s.ruling
  match r.table[r.entry]? with
  | none => []
  | some e =>
    if r.enable ∧ r.slotStart + e.duration ≤ s.ticks then
      let before := (List.range 16).map s.reservedFor
      let start := r.slotStart + e.duration
      let next := if r.table.length ≤ r.entry + 1 then { r with entry := 0, table := r.pendingTable.getD r.table, pendingTable := none, slotStart := start }
        else { r with entry := r.entry + 1, slotStart := start }
      Plan.andThen (Plan.act (.ruling next)) (slotBegins before) s
    else []

def execRulingSlotStart (s : State) : Host.Outcome State Fault Refusal := Plan.done rulingSlotStart s

/-! ## The tick (R272, R274, R328) -/

def Bucket.refill (b : Bucket) : Bucket := if b.rate = 0 then { b with held := false } else { b with level := min (b.level + (b.rate * 64 : Nat)) ((b.depth * 64 : Nat) : Int), held := false }

/-- A partition at a tick: a changed MEASURE takes effect, the buckets gain their rate, and requests held since the last tick count 1,000 cycles (R272, R274). -/
def Part.tick (x : Part) : Part :=
  let heldAny := x.gddr.held || x.plate.held || x.link.held
  let y := { x with gddr := x.gddr.refill, plate := x.plate.refill, link := x.link.refill, regHeld := if heldAny then (x.regHeld + 1000) % 2 ^ 32 else x.regHeld,
                    measure := x.measureNext.getD x.measure, measureNext := none }
  if x.measure && !y.measure then y.fillBuckets else y

/-- Strokes that a slot found on its reserved clusters and that have left them; when none of a slot's is left its delay is known, though the slot may have ended before (R271). -/
def noteIntrusion : Plan := fun s =>
  let r := s.ruling
  if r.awaiting.isEmpty then []
  else
    let l := r.awaiting.map (fun w => { w with strokes := w.strokes.filter (fun x => (s.strokesOn x.1).contains x.2) })
    [.ruling { r with awaiting := l.filter (fun w => !w.strokes.isEmpty),
                      maxUs := (l.filter (fun w => w.strokes.isEmpty)).foldl (fun m w => min 0xFFFF (max m (s.ticks - w.start))) r.maxUs }]

/-- REGULATOR_TICK: one microsecond of device time (log entry 4). -/
def regulatorTick : Plan := fun s =>
  Plan.seq [
    Plan.act (.ticks (s.ticks + 1)), channelsEmpty,
    Plan.each (s.parts.map (·.1)) (fun p => fun s => [.parts p (s.part p).tick]),
    noteIntrusion, drainWaiting 0, drainWaiting 1] s

def execRegulatorTick (s : State) : Host.Outcome State Fault Refusal := Plan.done regulatorTick s

end Sys2Proof.Machine
end

