-- ==== Sys2Proof/Machine/Spares.lean ====
section
/-! DEFINITION. The reserve manager at work (R371-R377): triggers, the wear check, the spare-in of a cluster, a segment, a codec core or a lane, and the retirement of a unit. -/
namespace Sys2Proof.Machine

/-- SPARE_IN_TRIGGER: a unit's threshold, wear, error, training or self-test failure queues its spare-in (R371). -/
def spareInTrigger (kind n cause : Nat) : Plan := fun s =>
  if 3 < kind ∨ unitsOf kind ≤ n ∨ cause = 0 ∨ 5 < cause then []
  else queueTrigger { kind := kind, index := n, cause := cause, retire := true, byMailbox := false } s

def execSpareInTrigger (kind index cause : Nat) (s : State) : Host.Outcome State Fault Refusal := Plan.done (spareInTrigger kind index cause) s

/-- WEAR_CHECK: the margin measured on a cluster or a codec core; the smallest is kept, and one below the profile's threshold sets WEAR_LOW, is a shared fault of the
strokes that run on the cluster, and triggers the spare-in (R73, R371). -/
def wearCheck (kind n margin : Nat) : Plan := fun s =>
  if (kind ≠ 0 ∧ kind ≠ 2) ∨ unitsOf kind ≤ n ∨ s.withdrawn kind n then []
  else
    let limit := if kind = 0 then s.reserve.wearCluster else s.reserve.wearCore
    let old := fld (s.reg 0 (pgBC n) 0x124) 7 0
    Plan.seq [
      Plan.when (kind == 0) (setReg 0 (pgBC n) 0x124 (if old = 0 then margin % 256 else min old (margin % 256))),
      Plan.when (decide (margin < limit)) (Plan.seq [
        raiseErr (unitPage kind n) (if kind = 0 then 9 else 1) [],
        Plan.when (kind == 0) (clusterParityDetect n false false [{ path := 5, pass := 0, row := 0, column := 0, accRow := 0 }]),
        queueTrigger { kind := kind, index := n, cause := 2, retire := true, byMailbox := false }])] s

def execWearCheck (kind index margin : Nat) (s : State) : Host.Outcome State Fault Refusal := Plan.done (wearCheck kind index margin) s

/-- SPARE_IN: ARG0 KIND, INDEX and RETIRE (R372). -/
def mbxSpareIn : Plan := fun s =>
  let a := s.arg 0
  let kind := fld a 2 0
  let n := fld a 15 8
  let bad := if kind = 4 then decide (8 ≤ n) else decide (4 < kind) || decide (unitsOf kind ≤ n) || s.withdrawn kind n
  if bad then mbxEnd 2 [] s else queueTrigger { kind := kind, index := n, cause := 6, retire := bit a 16, byMailbox := true } s

def execMbxSpareIn (tag : Nat) (s : State) : Host.Outcome State Fault Refusal := Plan.done (hostGate 0 (mbxCommand 0x10 tag mbxSpareIn)) s

/-! ## The steps of a spare-in -/

/-- The page that shows the next spare of a kind. -/
def sparePage (s : State) (kind : Nat) : Nat := match kind with | 0 => 16 | 1 => if s.reserve.spareSegs = 2 then 32 else 33 | _ => 8

/-- One spare of a kind is used up. -/
def useSpare (kind : Nat) : Plan := fun s =>
  let r := s.reserve
  match kind with
  | 0 => [.reserve { r with spareCluster := false }]
  | 1 => [.reserve { r with spareSegs := r.spareSegs - 1 }]
  | 2 => [.reserve { r with spareCore := false }]
  | _ => []

/-- Counters that follow the physical unit change pages with it (R374, BC_PARITY_COUNT, BC_WEAR, PS_PARITY_COUNT, CC_PARITY_COUNT). -/
def swapPages (kind n m : Nat) : Plan := fun s =>
  Plan.each (match kind with | 0 => [0x120, 0x124] | 1 => [0x120] | _ => [0x10C]) (fun o =>
    Plan.andThen (setReg 0 (unitPage kind n) o (s.reg 0 (unitPage kind m) o)) (setReg 0 (unitPage kind m) o (s.reg 0 (unitPage kind n) o))) s

/-- Physical units of a name and of a spare page change places (R374). -/
def swapPhys (kind n m : Nat) : Plan := fun s =>
  let a := s.physOf kind n + 1
  let b := s.physOf kind m + 1
  match kind with
  | 0 => [.clusters n { s.cluster n with phys := b }, .clusters m { s.cluster m with phys := a }]
  | 1 => [.segs n { s.seg n with phys := b }, .segs m { s.seg m with phys := a }]
  | _ => [.cores n { s.core n with phys := b }, .cores m { s.core m with phys := a, retired := true }]

/-- The unit holds nothing that its leaving would lose: drained as in R374, at its picture boundary, or with its accesses done. -/
def State.drained (s : State) (kind n : Nat) : Bool := if kind < 3 then s.safePoint kind n else true

/-- A spare-in has ended: the mailbox answers when it waits, and the next trigger begins. -/
def spareEnds (t : Trigger) (result : Nat) (rsps : List Nat) : Plan := Plan.seq [spareIdle, Plan.when t.byMailbox (mbxEnd result rsps), settle, nextTrigger]

/-- The spare-in copy reads a whole scratch segment: each word with bad parity is a detection of the copy's, charged to no job, and is copied with its bad parity (R148, R157). -/
def copySegment (n : Nat) : Plan := fun s =>
  let base := (plateBase + n * segSize) / 4
  Plan.each (s.badWords.filter (fun e => e.2 && decide (base ≤ e.1) && decide (e.1 < base + segSize / 4))) (fun e =>
    plateDetect n (e.1 * 4 - plateBase - n * segSize) 3 0 0 0 false false 0) s

/-- The logical name moves to the spare (R157, R374). -/
def spareMoves (t : Trigger) : Plan := fun s =>
  let m := sparePage s t.kind
  let from_ := s.physOf t.kind t.index
  let to_ := s.physOf t.kind m
  Plan.seq [
    (match t.kind with
     | 0 => burnishCluster t.index
     | 1 => if s.mode (pgPS t.index) = 1 then Plan.andThen (writeBackAll t.index) (coldCache t.index) else copySegment t.index
     | _ => Plan.skip),
    swapPhys t.kind t.index m, swapPages t.kind t.index m, useSpare t.kind,
    ledgerWrite t.kind 1 t.index from_ to_ t.cause (unitPage t.kind t.index),
    spareEnds t 0 [1, to_]] s

/-- The unit is retired and its name withdrawn: it leaves its partition and its contents are lost (R375). -/
def unitRetires (t : Trigger) : Plan := fun s =>
  let n := t.index
  let page := unitPage t.kind n
  Plan.seq [
    rollbackOf page,
    (match t.kind with
     | 0 => Plan.andThen (burnishCluster n) (fun s => [.clusters n { s.cluster n with withdrawn := true, owner := 8 }])
     | 1 => Plan.andThen (clearSegment n) (fun s => [.segs n { s.seg n with withdrawn := true, owner := 0 }])
     | _ => fun s => [.cores n { s.core n with withdrawn := true }]),
    Plan.act (.modeUnits page {}),
    ledgerWrite t.kind 2 n (s.physOf t.kind n) 0xFF t.cause page,
    spareEnds t 0 [2, 0xFF]] s

/-- Draining begins: no new stroke is placed on a cluster, and its mm and attn strokes are pre-empted (R374). -/
def startDrain (t : Trigger) : Plan :=
  Plan.andThen (fun s => [.reserve { s.reserve with phase := 2 }]) (if t.kind = 0 then preemptCluster t.index 0 else Plan.skip)

/-- A spare that fails its self-test: ledger entry SPARE_FAILED, and the unit goes on as though no spare remained (R375). -/
def spareFails (t : Trigger) : Plan := fun s =>
  let m := sparePage s t.kind
  Plan.seq [
    useSpare t.kind,
    ledgerWrite t.kind 3 t.index (s.physOf t.kind m) 0xFF 5 (unitPage t.kind m),
    (if t.retire then Plan.seq [startDrain t, (fun s => [.reserve { s.reserve with phase := 6 }])] else spareEnds t 3 [])] s

/-- The logical lane of a port is mapped out and the port retrains; a port that is not UP takes the map when it next trains (R315, R374). -/
def mapLane (t : Trigger) : Plan := fun s =>
  let p := t.index % 2
  let x := s.port p
  Plan.seq [
    modPort p (fun x => { x with good := x.good.set (x.lanes.getD (t.index / 2) 0) false }),
    Plan.act (.reserve { s.reserve with phase := 4 }),
    Plan.when (x.state == 2) (startRetrain p)] s

/-- A spare-in of a lane ends when its port no longer retrains. -/
def laneStep (t : Trigger) : Plan := fun s =>
  let p := t.index % 2
  if s.reserve.phase ≠ 4 then mapLane t s
  else if (s.port p).state = 3 then []
  else
    let x := s.port p
    spareEnds t 0 (if x.lanes.getD (t.index / 2) 0 = 4 then [1, 4] else [2, 0xFF]) s

/-- The steps of a spare-in as far as they now go: the self-test of the spare, draining, and the move or the retirement. Phase 6 is the model's own, a drain without a spare. -/
def spareStep (t : Trigger) (spareOk : Bool) : Plan := fun s =>
  if t.kind = 4 then laneStep t s
  else
    let start : Plan :=
      if s.reserve.phase = 1 then (if spareOk then startDrain t else spareFails t)
      else if s.reserve.phase = 2 ∧ !s.hasSpare t.kind then Plan.seq [rollbackOf (unitPage t.kind t.index), startDrain t, (fun s => [.reserve { s.reserve with phase := 6 }])]
      else Plan.skip
    Plan.andThen start (Plan.look (fun s =>
      if s.reserve.running ≠ some t ∨ !s.drained t.kind t.index then Plan.skip
      else if s.reserve.phase = 6 then unitRetires t else spareMoves t)) s

/-- SPARE_IN_COMPLETE: the running spare-in of a cluster, segment, core or lane goes as far as it can; `spareOk` is the spare's self-test (R374, R375). -/
def spareInComplete (spareOk : Bool) : Plan := fun s =>
  match s.reserve.running with
  | none => []
  | some t => if t.kind = 3 then [] else spareStep t spareOk s

def execSpareInComplete (spareOk : Bool) (s : State) : Host.Outcome State Fault Refusal := Plan.done (spareInComplete spareOk) s

/-! ## RSV_CAPACITY -/

/-- Logical units of a kind in service. -/
def State.unitsIn (s : State) (kind : Nat) : Nat := ((List.range (unitsOf kind)).filter (fun n => !s.withdrawn kind n)).length

/-- RSV_CAPACITY as it reads. -/
def capacityWord (s : State) : Nat :=
  s.unitsIn 0 * 2 ^ 27 + s.unitsIn 1 * 2 ^ 21 + s.unitsIn 2 * 2 ^ 17 + s.unitsIn 3 * 2 ^ 13 + (s.port 0).width * 2 ^ 10 + (s.port 1).width * 2 ^ 7 + s.pcie.width * 8

end Sys2Proof.Machine
end

