-- ==== Sys2Proof/Machine/Events.lean ====
section
/-! DEFINITION. The event recorder's commands (R362-R368): commits, checkpoints, the selection window of a function, freezes and the summary. -/
namespace Sys2Proof.Machine

/-- EVENT_RECORD_COMMIT: the oldest open record has been open for 1 s (R364). -/
def eventRecordCommit : Plan := fun s =>
  match s.recorder.opened with
  | [] => []
  | l :: _ => if l.ev.tick + 1000000 ≤ s.ticks then commitOldest s else []

def execEventRecordCommit (s : State) : Host.Outcome State Fault Refusal := Plan.done eventRecordCommit s

/-- RECORDER_CHECKPOINT (R362). -/
def recorderCheckpoint : Plan := fun s =>
  if s.recorder.checkpoint + 3600000000 ≤ s.ticks then
    Plan.andThen (Plan.act (.recorder { s.recorder with checkpoint := s.ticks })) (event { cls := 0x10, code := 2 }) s
  else []

def execRecorderCheckpoint (s : State) : Host.Outcome State Fault Refusal := Plan.done recorderCheckpoint s

/-! ## The window of a function (R365, R366) -/

/-- Records present: in flash and open. -/
def Recorder.present (r : Recorder) : List LogRec := r.log ++ r.opened

/-- A function may read a record (R366). -/
def State.mayRead (s : State) (fn : Nat) (e : Event) : Bool := fn == 0 || (e.charged && s.partOf fn == some e.part)

/-- The next record number above one that a function may read; 0 is none (R365). -/
def State.nextRecord (s : State) (fn num : Nat) : Nat :=
  ((s.recorder.present.filter (fun l => decide (num < l.num) && s.mayRead fn l.ev)).map (·.num)).foldl (fun m n => if m = 0 then n else min m n) 0

/-- The selection of a record (R365, R366). -/
def State.select (s : State) (fn num : Nat) : EvtSel :=
  let r := s.recorder
  match r.present.find? (fun l => l.num == num) with
  | some l =>
    if s.mayRead fn l.ev then
      { num := num, state := 1, isOpen := r.opened.any (fun x => x.num == num), cycle := l.cycle, next := s.nextRecord fn num, data := l.ev.bytes }
    else { num := num, state := 2, next := s.nextRecord fn num }
  | none => { num := num, state := if fn = 0 ∧ 0 < num ∧ num < r.next then 3 else 2, next := s.nextRecord fn num }

/-- EVT_SEL_WRITE: the selected record is loaded into the function's window (R365). -/
def execEvtSelWrite (fn num : Nat) (s : State) : Host.Outcome State Fault Refusal :=
  Plan.done (pageGate fn (fun s => if 9 ≤ fn then [] else [.evtSels fn (s.select fn (num % 2 ^ 32))])) s

/-! ## Freezes (R367) -/

/-- Commits every open record. -/
def commitAll : Plan := fun s => Plan.each s.recorder.opened (fun _ => commitOldest) s

/-- With no freeze and no clear left, the staged records are appended in order, and a record of what was lost (R367, R370). -/
def appendStaged : Plan := fun s =>
  let r := s.recorder
  if !r.freezes.isEmpty || r.clearing.isSome then []
  else Plan.seq [
    Plan.act (.recorder { r with staged := [], lostNow := 0 }),
    Plan.each r.staged appendNow,
    Plan.when (r.lostNow != 0) (Plan.look (fun s => appendNow
      (({ cls := 0x10, code := 3, detail := leBytes 4 (min r.lostNow 0xFFFFFFFF) } : EvArgs).record s)))] s

/-- A function's freeze ends. -/
def thaw (fn : Nat) : Plan := fun s =>
  let r := s.recorder
  if r.freezes.any (fun f => f.1 == fn) then Plan.andThen (Plan.act (.recorder { r with freezes := r.freezes.filter (fun f => f.1 != fn) })) appendStaged s else []

/-- EVT_FREEZE_WRITE (R367). -/
def evtFreezeWrite (fn v : Nat) : Plan := fun s =>
  if 9 ≤ fn then []
  else if bit v 0 then
    (if s.recorder.freezes.any (fun f => f.1 == fn) then []
     else Plan.andThen commitAll (fun s => [.recorder { s.recorder with freezes := s.recorder.freezes ++ [(fn, s.ticks)] }]) s)
  else thaw fn s

def execEvtFreezeWrite (fn value : Nat) (s : State) : Host.Outcome State Fault Refusal := Plan.done (pageGate fn (evtFreezeWrite fn value)) s

/-- FREEZE_LIMIT_EXPIRY: a freeze held for EVT_FREEZE_LIMIT milliseconds ends by itself (R367). -/
def freezeLimitExpiry (fn : Nat) : Plan := fun s =>
  if s.recorder.freezes.any (fun f => f.1 == fn && decide (f.2 + s.recorder.freezeLimit * 1000 ≤ s.ticks)) then
    Plan.andThen (thaw fn) (raiseErr pgEVT 1 []) s
  else []

def execFreezeLimitExpiry (fn : Nat) (s : State) : Host.Outcome State Fault Refusal := Plan.done (freezeLimitExpiry fn) s

/-! ## EVENT_SUMMARY (R368) -/

/-- The eight words (R368). -/
def summaryWords (s : State) : List Nat :=
  let r := s.recorder
  [r.next - 1, (r.present.head?.map (·.num)).getD 0, r.cleared, r.powerCycles % 2 ^ 24, s.seconds, r.overflow, r.lostWrap, capacityWord s]

def execMbxEventSummary (tag : Nat) (s : State) : Host.Outcome State Fault Refusal :=
  Plan.done (hostGate 0 (mbxCommand 0x02 tag (fun s => mbxEnd 0 (summaryWords s) s))) s

end Sys2Proof.Machine
end

