-- ==== Sys2Proof/Machine/Sha256.lean ====
section
/-! DEFINITION. SHA-256 as published in FIPS 180-4 (R222, R343). -/
namespace Sys2Proof.Machine

/-- The largest `r` below `2 ^ n` with `r ^ k ≤ x`, its bits found from the highest. -/
def rootBelow (k x : Nat) : Nat → Nat → Nat
  | 0, r => r
  | n + 1, r => rootBelow k x n (if (r + 2 ^ n) ^ k ≤ x then r + 2 ^ n else r)

/-- The first `n` primes. -/
def firstPrimes (n : Nat) : List Nat :=
  ((List.range (8 * n)).filter (fun p => p > 1 && (List.range p).all (fun d => d < 2 || p % d != 0))).take n

/-- The first 32 bits of the fractional part of the `k`-th root of `p`. -/
def rootFraction (k p : Nat) : Nat := rootBelow k (p * 2 ^ (32 * k)) 40 0 % 2 ^ 32

/-- The 64 round constants: the fractional parts of the cube roots of the first 64 primes. -/
def shaK : List Nat := (firstPrimes 64).map (rootFraction 3)

/-- The initial hash value: the fractional parts of the square roots of the first eight primes. -/
def shaInit : List Word := (firstPrimes 8).map (fun p => BitVec.ofNat 32 (rootFraction 2 p))

/-- A word rotated right by each of the amounts given, the results combined by exclusive or: the shape that
the standard's four sigma functions share. -/
def turns (x : Word) (rs : List Nat) : Word := rs.foldl (fun y r => y ^^^ x.rotateRight r) 0

/-- The message schedule, newest word first, extended by `n` words. -/
def shaExtend : Nat → List Word → List Word
  | 0, w => w
  | n + 1, w =>
    let back (k : Nat) : Word := w.getD (k - 1) 0
    let next := back 16 + (turns (back 15) [7, 18] ^^^ (back 15 >>> 3)) + back 7
      + (turns (back 2) [17, 19] ^^^ (back 2 >>> 10))
    shaExtend n (next :: w)

/-- The eight working variables as two halves of four, `a b c d` and `e f g h`. -/
structure ShaHalves where
  upper : List Word
  lower : List Word

/-- One round: each half moves down one place, and the value that leaves the first enters the second with the
round's sum. -/
def shaRound (v : ShaHalves) (kw : Nat × Word) : ShaHalves :=
  match v.upper, v.lower with
  | [a, b, c, d], [e, f, g, h] =>
    let sum := h + turns e [6, 11, 25] + (g ^^^ (e &&& (f ^^^ g))) + (BitVec.ofNat 32 kw.1 + kw.2)
    { upper := [sum + turns a [2, 13, 22] + ((a &&& b) ||| (c &&& (a ||| b))), a, b, c], lower := [d + sum, e, f, g] }
  | _, _ => v

/-- The big-endian word of four bytes. -/
def beWord (b : List Byte) : Word := BitVec.ofNat 32 (leNat (b.take 4).reverse)

/-- The hash value after one 64-byte block. -/
def shaBlock (h : List Word) (block : List Byte) : List Word :=
  let w := (shaExtend 48 ((List.range 16).map (fun i => beWord (block.drop (4 * i)))).reverse).reverse
  let v := (List.zip shaK w).foldl shaRound { upper := h.take 4, lower := h.drop 4 }
  List.zipWith (· + ·) h (v.upper ++ v.lower)

/-- The digest of a byte string. -/
def sha256 (m : List Byte) : List Byte :=
  let p := m ++ [0x80] ++ zeros ((119 - m.length % 64) % 64) ++ (leBytes 8 (8 * m.length)).reverse
  let h := (List.range (p.length / 64)).foldl (fun h i => shaBlock h ((p.drop (64 * i)).take 64)) shaInit
  h.flatMap (fun w => (leBytes 4 w.toNat).reverse)

end Sys2Proof.Machine
end

