-- ==== Sys2Proof/Machine/Security.lean ====
section
/-! DEFINITION. Signed objects (18_boot_security_profile.md): signature blocks and owner slots (R343, R344), the firmware image (R345, R346),
the profile image and its entries (R350-R353). -/
namespace Sys2Proof.Machine

/-! ## Signatures (R343, R344) -/

/-- The signature block at an offset of a signed object (R343). -/
structure SigBlock where
  signer : Nat
  key : List Byte
  sig : List Byte
  /-- It lies wholly within the object. -/
  fits : Bool

def sigAt (img : List Byte) (at_ : Nat) : SigBlock :=
  { signer := rdN img at_ 1, key := (img.drop (at_ + 4)).take 60, sig := (img.drop (at_ + 0x44)).take (rdN img (at_ + 0x40) 4),
    fits := decide (at_ + 0x44 ≤ img.length) && decide (at_ + 0x44 + rdN img (at_ + 0x40) 4 ≤ img.length) }

/-- A slot may sign (R344). -/
def OwnerSlot.able (o : OwnerSlot) : Bool := o.programmed && !o.revoked

/-- A big-endian number of 4 bytes, as RFC 8554 lays it inside keys and signatures (R343). -/
def beAt (b : List Byte) (o : Nat) : Nat := ((b.drop o).take 4).foldl (fun a x => a * 256 + x.toNat) 0

/-- The height of the trees of a level by its LMS type: LMS_SHA256_M32_H15 or LMS_SHA256_M32_H14 (R343). -/
def lmsHeight (typ : Nat) : Option Nat := if typ = 7 then some 15 else if typ = Config.lmsH14 then some 14 else none

/-- One level's signature at an offset under a level's key has the types of that key, with LMOTS_SHA256_N32_W4 always; its length (R343). -/
def levelLen (typ ots : Nat) (sig : List Byte) (o : Nat) : Option Nat :=
  match lmsHeight typ with
  | some h => if ots = 3 ∧ beAt sig (o + 4) = 3 ∧ beAt sig (o + 2184) = typ then some (2188 + 32 * h) else none
  | none => none

/-- The length of a signature by the types in it, none for a parameter set other than those of R343; and the LMS types of its levels. -/
def hssLen (key sig : List Byte) : Option (Nat × List Nat) :=
  match beAt key 0, levelLen (beAt key 4) (beAt key 8) sig 4 with
  | 1, some n => if beAt sig 0 = 0 then some (4 + n, [beAt key 4]) else none
  | 2, some n =>
    let t := beAt sig (4 + n)
    (levelLen t (beAt sig (8 + n)) sig (60 + n)).bind (fun m => if beAt sig 0 = 1 then some (60 + n + m, [beAt key 4, t]) else none)
  | _, _ => none

/-- The parameter sets and SIG_LEN of a block are those of R343. -/
def SigBlock.formed (b : SigBlock) : Bool := match hssLen b.key b.sig with | some l => l.1 == b.sig.length | none => false

/-- A block under a key of a given digest signs the bytes before it (R343). -/
def SigBlock.signs (b : SigBlock) (digest img : List Byte) (at_ : Nat) : Bool :=
  b.fits && b.formed && sha256 b.key == digest && Config.hssVerifies b.key b.sig (img.take at_)

/-- An object signed by the vendor key, which has two levels of LMS_SHA256_M32_H15. -/
def vendorSigned (img : List Byte) (at_ : Nat) : Bool :=
  let b := sigAt img at_
  b.signer == 0xFF && ((hssLen b.key b.sig).map (·.2)) == some [7, 7] && b.signs Config.vendorDigest img at_

/-- An object signed by an owner slot that may sign. -/
def ownerSigned (owners : List OwnerSlot) (img : List Byte) (at_ : Nat) : Bool :=
  let b := sigAt img at_
  decide (b.signer < 4) && (owners.getD b.signer {}).able && b.signs (owners.getD b.signer {}).digest img at_

/-! ## Flash (R341, R342) -/

def fwFlash : Nat := 0x10000
def fwSize : Nat := 0x100000
def copyA : Nat := 0x110000
def copyB : Nat := 0x120000
def copySize : Nat := 0x10000

def State.flashAt (s : State) (off n : Nat) : List Byte := Tab.getList (0xFF : Byte) s.flash off n

/-- A range of flash is erased and programmed with bytes from its start. -/
def program (off size : Nat) (bs : List Byte) : Plan := fun _ =>
  .flashClear off size :: bs.mapIdx (fun k b => Eff.flash (off + k) b)

/-! ## Firmware image (R345, R346) -/

/-- Bytes before the signature block. -/
def fwLen (img : List Byte) : Nat := 64 + rdN img 0xC 4

/-- Why an image is not accepted, as REASON of SEC_BOOT_STATUS: 2 header, 3 CRC, 5 SVN below minimum, 4 signature; 0 is none (R345-R348). -/
def fwFault (minSvn : Nat) (img : List Byte) : Nat :=
  if rdN img 0 4 ≠ 0x57464C4C || rdN img 0xC 4 % 4 ≠ 0 || 63 < rdN img 8 1 || img.length < fwLen img || rdN img 0xC 4 ≤ rdN img 0x10 4 then 2
  else if rdN img 0x14 4 ≠ crc32c (ovl (img.take (fwLen img)) 0x14 (zeros 4)) then 3
  else if rdN img 8 1 < minSvn then 5
  else if !vendorSigned img (fwLen img) then 4
  else 0

/-! ## Profile entries (R351-R353) -/

/-- An entry: its byte offset, TYPE and value. -/
structure ProfEntry where
  off : Nat
  typ : Nat
  val : List Byte

/-- The entries of a profile up to LEN; one that runs over it has no value (R351). -/
def profEntries (img : List Byte) (len : Nat) : Nat → Nat → List ProfEntry
  | 0, _ => []
  | fuel + 1, o =>
    if len < o + 4 then []
    else
      let n := rdN img (o + 2) 2
      if len < o + 4 + n then [{ off := o, typ := rdN img o 2, val := [] }]
      else { off := o, typ := rdN img o 2, val := (img.drop (o + 4)).take n } :: profEntries img len fuel (o + 4 + cdiv n 4 * 4)

def entriesOf (img : List Byte) : List ProfEntry := profEntries img (rdN img 0x18 4) (rdN img 0x18 4) 64

/-- THM_LIMITS takes a value whose three fields are in range. -/
def limitsOk (v : Nat) : Bool :=
  fld v 19 16 != 0 && decide (60 ≤ fld v 15 8) && decide (fld v 15 8 ≤ 114) && decide (60 ≤ fld v 7 0) && decide (fld v 7 0 ≤ 110)

/-- PWR_CAP takes 40 to 85 W. -/
def capOk (v : Nat) : Bool := decide (40 ≤ fld v 7 0) && decide (fld v 7 0 ≤ 85)

/-- A REG entry names a register of R352 and a value that it takes. -/
def regEntryOk (off v : Nat) : Bool :=
  if off = 0x8124 then limitsOk v
  else if off = 0x812C then capOk v
  else [0x2110, 0x2138, 0x6010C, 0x70120, 0x80100, 0x90120, 0xB0100].contains off

/-- KIND and METRIC pairs of SPARE_THRESH (R351). -/
def threshPair (k m : Nat) : Bool := (decide (k < 3) && m == 1) || (k == 3 && (m == 2 || m == 3))

/-- An entry other than a PARTITION or an owner entry keeps the rules of R351 to R353. -/
def ProfEntry.ok (e : ProfEntry) : Bool :=
  let v := e.val
  match e.typ with
  | 1 => v.length == 8 && regEntryOk (rdN v 0 4) (rdN v 4 4)
  | 2 => v.length == 8 && decide (12 ≤ rdN v 0 1) && decide (rdN v 0 1 ≤ 20)
  | 3 => v.length == 8 && threshPair (rdN v 0 1) (rdN v 1 1) && rdN v 2 2 != 0
  | 4 => v.length == 4 && (rdN v 0 1 == 0 || rdN v 0 1 == 2)
  | 5 => v.length == 72
  | 6 => v.length == 108 && bit (rdN v 4 4) 31
  | 7 => v.length == 8
  | 8 => v.length == 4
  | 9 => v.length == 36 && decide (rdN v 0 4 < 4)
  | 10 => v.length == 4 && decide (rdN v 0 4 < 4)
  | _ => false

/-! ## Owner entries (R344) -/

/-- The slots after an owner entry of a profile signed by a slot; `none` when R344 does not allow it. An entry already carried out changes nothing (R350). -/
def ownerStep (signer : Nat) (owners : List OwnerSlot) (e : ProfEntry) : Option (List OwnerSlot) :=
  let n := rdN e.val 0 4
  let o := owners.getD n {}
  let able := (owners.getD signer {}).able
  if e.typ = 9 then
    let d := (e.val.drop 4).take 32
    if o.programmed then (if o.digest = d ∧ !o.revoked then some owners else none)
    else if o.revoked then none
    else if !owners.any (·.programmed) then (if signer = n then some (owners.set n { programmed := true, digest := d }) else none)
    else if able then some (owners.set n { programmed := true, digest := d }) else none
  else if e.typ = 10 then
    if o.revoked then some owners
    else if signer ≠ n ∧ able ∧ (List.range 4).any (fun k => k != n && (owners.getD k {}).able) then some (owners.set n { o with revoked := true })
    else none
  else some owners

/-- The owner entries in order: the slots that result, and the offsets of the entries not allowed. -/
def ownerRun (signer : Nat) : List OwnerSlot → List ProfEntry → List OwnerSlot × List Nat
  | owners, [] => (owners, [])
  | owners, e :: es =>
    match ownerStep signer owners e with
    | none => let r := ownerRun signer owners es; (r.1, e.off :: r.2)
    | some o => ownerRun signer o es

/-! ## PARTITION entries (R353) -/

/-- The partition that a PARTITION value lays out. MEASURE is as a cold reset sets it (R274, R353). -/
def entryPart (v : List Byte) : Part :=
  let w (o : Nat) : Nat := rdN v o 4
  ({ state := (match fld (w 4) 31 30 with | 1 => .config | 2 => .active | _ => .unused), fn := fld (w 4) 27 24, maxPriority := fld (w 4) 22 20,
     window := fld (w 4) 10 0, qCount := fld (w 8) 28 16, qFirst := fld (w 8) 11 0, sCount := fld (w 0xC) 31 16, sFirst := fld (w 0xC) 14 0,
     semCount := fld (w 0x10) 28 16, semFirst := fld (w 0x10) 11 0, sessCount := fld (w 0x14) 30 16, sessFirst := fld (w 0x14) 13 0,
     gSize := fld (w 0x18) 25 16, gBase := fld (w 0x18) 9 0 } : Part)

def entryPartNo (v : List Byte) : Nat := fld (rdN v 0 1) 2 0

/-- The PARTITION values in force: a later one for the same partition replaces an earlier one. -/
def lastPerPart (l : List (List Byte)) : List (List Byte) :=
  (List.range 8).filterMap (fun p => (l.filter (fun v => entryPartNo v == p)).getLast?)

/-- A unit is named by a PARTITION value: KIND of PAR_MOVE and number (R353). -/
def entryNames (v : List Byte) (kind n : Nat) : Bool :=
  match kind with
  | 0 => bit (rdN v 0x1C 2) n
  | 1 => bit (rdN v 0x20 4) n
  | 2 => bit (rdN v 0x28 32) n
  | 3 => bit (rdN v 0x24 1) n
  | _ => bit (rdN v 0x1E 2) n

/-- The partition of a unit under a set of PARTITION values: 0 when none names it. -/
def entryOwner (l : List (List Byte)) (kind n : Nat) : Nat := ((l.find? (fun v => entryNames v kind n)).map entryPartNo).getD 0

/-- The partition table of a set of values. -/
def layoutParts (l : List (List Byte)) : Tab Part := l.foldl (fun t v => Tab.put {} t (entryPartNo v) (entryPart v)) []

/-- The set passes R353. -/
def layoutOk (s : State) (l : List (List Byte)) : Bool :=
  let t := { s with parts := layoutParts l }
  let live := (List.range 8).filter (fun p => decide ((t.part p).state ≠ .unused))
  l.all (fun v => v.length == 72 && fld (rdN v 4 4) 31 30 != 3) &&
  decide ((t.part 0).state = .active) && (t.part 0).fn == 0 &&
  (List.range 5).all (fun k => (List.range (moveUnits k)).all (fun n => decide ((l.filter (fun v => entryNames v k n)).length ≤ 1))) &&
  l.all (fun v => let x := entryPart v
    if x.state = .unused then (List.range 5).all (fun k => (List.range (moveUnits k)).all (fun n => !entryNames v k n))
    else decide (x.window ≤ 1024) && (entryPartNo v == 0 || (x.fn != 0 && decide (x.fn ≤ 8))) && (decide (x.state ≠ .active) || rangesOk t (entryPartNo v))) &&
  decide ((live.map (fun p => (t.part p).fn)).Nodup) && decide ((live.map (fun p => (t.part p).window)).foldl (fun a b => a + b) (0 : Nat) ≤ 1024)

/-! ## Profile copies (R350) -/

/-- Header, format, length and CRC of a copy are correct. -/
def profFormat (img : List Byte) : Bool :=
  let len := rdN img 0x18 4
  rdN img 0 4 == 0x464F5250 && rdN img 4 2 == 1 && rdN img 8 8 != 0 && decide (64 ≤ len) && decide (len ≤ img.length) && decide (img.length ≤ copySize) &&
  rdN img 0x1C 4 == crc32c (ovl (img.take len) 0x1C (zeros 4))

/-- The signature of a copy verifies: by a slot that may sign, or, while none is programmed, by the key that it enrols in the slot it names (R343, R344). -/
def profSigned (owners : List OwnerSlot) (img : List Byte) : Bool :=
  let len := rdN img 0x18 4
  let b := sigAt img len
  if owners.any (·.programmed) then ownerSigned owners img len
  else (entriesOf img).any (fun e => e.typ == 9 && e.ok && rdN e.val 0 4 == b.signer && b.signs ((e.val.drop 4).take 32) img len)

/-- A copy is valid (R350). -/
def profValid (owners : List OwnerSlot) (img : List Byte) : Bool :=
  profFormat img && (rdN img 0x10 8 == 0 || rdN img 0x10 8 == Config.deviceId % 2 ^ 64) && profSigned owners img

/-- The offset of the first entry of a profile that cannot be applied under the rules (R354 check 4). -/
def firstBadEntry (s : State) (img : List Byte) : Option Nat :=
  let es := entriesOf img
  let signer := (sigAt img (rdN img 0x18 4)).signer
  let parts := es.filter (fun e => e.typ == 5)
  let badSet := if parts.isEmpty || layoutOk s (lastPerPart (parts.map (·.val))) then none else parts.head?.map (·.off)
  lowest [(es.find? (fun e => !e.ok)).map (·.off), badSet, (ownerRun signer s.svc.owners es).2.head?]

end Sys2Proof.Machine
end

