-- ==== Sys2Proof/Machine/Boot.lean ====
section
/-! DEFINITION. The cold reset and the boot (R330, R333, R347-R353): reset values, firmware, profile, ledger and attestation; and the unit initialisation that a cold boot
and an FLR of the PF share. -/
namespace Sys2Proof.Machine

/-- More keys than any table has. -/
def allKeys : Nat := 2 ^ 64

/-- Every piece of state that a cold reset returns to its reset value. What stays is in flash and fuses: the log and its counters, the ledger, owner slots, MIN_SVN,
the attestation counter; and host memory, which is no part of the device (R330, R362). -/
def wipe : Plan := Plan.seq [
  (fun _ => [.ticks 0, .zero 0 hostBase, .poisonedClear 0 allKeys, .badWordsClear 0 allKeys, .regsClear 0 allKeys, .funcsClear 0 allKeys, .queuesClear 0 allKeys,
    .slotsClear 0 allKeys, .vecsClear 0 allKeys, .pcie {}, .mbx {}, .jobsClear 0 allKeys, .semsClear 0 allKeys, .modeUnitsClear 0 allKeys]),
  (fun _ => [.modeChangesClear 0 allKeys, .partsClear 0 allKeys, .parts 0 Part.factory0, .ruling {}, .unitMove {}, .clustersClear 0 allKeys, .segsClear 0 allKeys,
    .claimsClear 0 allKeys, .linesClear 0 allKeys, .plruClear 0 allKeys, .retries [], .evtSelsClear 0 allKeys]),
  (fun s => [.reserve { ledger := s.reserve.ledger, torn := s.reserve.torn },
    .recorder { log := s.recorder.log, next := s.recorder.next, cleared := s.recorder.cleared, lostWrap := s.recorder.lostWrap,
                powerCycles := s.recorder.powerCycles, headBlk := s.recorder.headBlk, headOff := s.recorder.headOff,
                secondsBase := (s.recorder.log.map (fun l => max l.ev.seconds l.ev.last)).foldl max 0 },
    .svc { minSvn := s.svc.minSvn, steps := s.svc.steps, owners := s.svc.owners }]),
  (fun _ => [.gddr {}, .positionsClear 0 allKeys, .portsClear 0 allKeys, .xfers [], .colls [], .nextTag 0, .sessionsClear 0 allKeys, .groupsClear 0 allKeys,
    .vocabsClear 0 allKeys, .grammarsClear 0 allKeys, .maskTagsClear 0 allKeys, .basesClear 0 allKeys, .poolsClear 0 allKeys, .refsClear 0 allKeys]),
  (fun _ => [.polWaitsClear 0 allKeys, .streamsClear 0 allKeys, .medQueue [], .medNext 0, .coresClear 0 allKeys, .intakesClear 0 allKeys, .regGroupsClear 0 allKeys,
    .outRingsClear 0 allKeys, .tracksClear 0 allKeys]),
  (fun _ => resetRegs.map (fun e => Eff.regs e.1 e.2))]

/-- Power or PERST_N during programming: a firmware image under FLASH_WRITE is broken (its MAGIC is erased, the other bytes are free values), the copy under PROFILE_COMMIT is
erased and so invalid (R349, R354; log entry 66). -/
def breakFlash : Plan := fun s =>
  if s.mbxRuns 0x13 then
    let n := cdiv s.svc.staged.length 0x10000 * 0x10000
    withFree (fun f => program fwFlash n (List.replicate 4 0xFF ++ leBytes (n - 4) f)) s
  else if s.mbxRuns 0x12 then [.flashClear s.svc.stagedAt copySize] else []

/-- Power or PERST_N while a spare-in runs may tear the ledger entry that it writes; whether it does is a free value (R376, R391; log entry 135). -/
def tearLedger : Plan := fun s =>
  let r := s.reserve
  if r.running.isSome && decide (r.ledger.length + r.torn < 32768) then
    withFree (fun f => Plan.when (f % 2 == 1) (Plan.act (.reserve { r with torn := r.torn + 1 }))) s
  else []

/-! ## The profile (R350-R353) -/

/-- A register takes a value from a REG entry, in every partition or function that has it (R352). -/
def applyReg (off v : Nat) : Plan :=
  if off = 0x2110 then Plan.each (List.range 8) (fun p => fun s => [.parts p { s.part p with waitLimit := v % 2 ^ 16 }])
  else if off = 0x2138 then Plan.each (List.range 9) (fun fn => fun s => [.modeChanges fn { s.change fn with timeout := v % 2 ^ 24 }])
  else if off = 0x8124 then setReg 0 pgCLK 0x124 (v % 2 ^ 20)
  else if off = 0x812C then setReg 0 pgCLK 0x12C (v % 2 ^ 8)
  else if off = 0x6010C then setReg 0 pgMEM 0x10C (v % 2 ^ 16)
  else if off = 0x70120 then setReg 0 pgMED 0x120 v
  else if off = 0x80100 then setReg 0 pgINT 0x100 (v % 2 ^ 16)
  else if off = 0x90120 then setReg 0 pgLET 0x120 (v % 2 ^ 8)
  else if off = 0xB0100 then setReg 0 pgULZ 0x100 (Nat.land v 0xF0F)
  else Plan.skip

/-- The value that a REG entry in force gives a register, or its reset value. -/
def State.profReg (s : State) (off d : Nat) : Nat :=
  (((s.svc.entries.filter (fun e => e.2.1 == 1 && rdN e.2.2 0 4 == off)).getLast?).map (fun e => rdN e.2.2 4 4)).getD d

/-- A threshold replaces the one for its KIND and METRIC. -/
def setThresh (t : Nat × Nat × Nat × Nat) (l : List (Nat × Nat × Nat × Nat)) : List (Nat × Nat × Nat × Nat) :=
  l.map (fun u => if u.1 = t.1 ∧ u.2.1 = t.2.1 then t else u)

/-- An entry that is applied at step 7 or before training (R351). -/
def applyEntry (e : ProfEntry) : Plan := fun s =>
  let v := e.val
  match e.typ with
  | 1 => applyReg (rdN v 0 4) (rdN v 4 4) s
  | 2 => [.gddr { s.gddr with cfgRate := rdN v 0 1, minRead := rdN v 1 1, minWrite := rdN v 2 1, edcLimit := rdN v 4 2 }]
  | 3 => [.reserve { s.reserve with thresh := setThresh (rdN v 0 1, rdN v 1 1, rdN v 2 2, rdN v 4 4) s.reserve.thresh }]
  | 4 => if rdN v 0 1 = 0 then [.reserve { s.reserve with wearCluster := rdN v 1 1 }] else [.reserve { s.reserve with wearCore := rdN v 1 1 }]
  | _ => []

/-- A skipped entry counts, sets ENTRY_SKIPPED and is recorded (R351). -/
def skipEntry (off : Nat) : Plan := fun s =>
  Plan.seq [Plan.act (.svc { s.svc with skipped := satAdd 0xFFFF s.svc.skipped 1 }), raiseErr pgSEC 1 [],
    event { cls := 0x0E, code := 2, page := pgSEC, detail := leBytes 4 off }] s

/-- A unit goes to the partition that the set gives it; a withdrawn one stays out (R353, R375). -/
def layoutUnit (l : List (List Byte)) (kind n : Nat) : Plan := fun s =>
  if kind < 2 && s.withdrawn kind n then [] else setOwner kind n (entryOwner l kind n) s

/-- The PARTITION set replaces the factory layout (R353). -/
def applyLayout (l : List (List Byte)) : Plan :=
  Plan.seq [
    Plan.each (List.range 8) (fun p => fun s =>
      [.parts p { (Tab.get {} (layoutParts l) p).fillBuckets with waitLimit := (s.part p).waitLimit }]),
    Plan.each (List.range 5) (fun k => Plan.each (List.range (moveUnits k)) (layoutUnit l k))]

/-- The factory layout (R265); with less GDDR6 than 15,872 MiB partition 0 ends below the stroke table (R289). -/
def factoryLayout : Plan := fun s =>
  Plan.seq [
    Plan.each (List.range 8) (fun p => fun s =>
      let x : Part := if p = 0 then { Part.factory0 with gSize := min 960 (factoryEnd (s.reg 0 pgMEM 0x108)) } else {}
      [.parts p { x with waitLimit := (s.part p).waitLimit }]),
    Plan.each (List.range 5) (fun k => Plan.each (List.range (moveUnits k)) (layoutUnit [] k))] s

/-- The PARTITION values of the profile in force. -/
def State.layoutSet (s : State) : List (List Byte) := lastPerPart ((s.svc.entries.filter (fun e => e.2.1 == 5)).map (fun e => e.2.2))

/-- The layout of R265: the profile's where its set is in force, else the factory's. -/
def restoreLayout : Plan := fun s => if s.svc.layoutOwn then applyLayout s.layoutSet s else factoryLayout s

/-- The copy that the boot uses: 1 = A, 2 = B, 0 = neither is valid (R350). -/
def chooseCopy (s : State) : Nat :=
  let a := s.flashAt copyA copySize
  let b := s.flashAt copyB copySize
  let va := profValid s.svc.owners a
  let vb := profValid s.svc.owners b
  if va && (!vb || decide (rdN b 8 8 ≤ rdN a 8 8)) then 1 else if vb then 2 else 0

/-- The profile is applied at step 7 of the boot, and owner entries not yet carried out are (R347, R350, R351). -/
def applyProfile (copy : Nat) : Plan := fun s =>
  let img := s.flashAt (if copy = 1 then copyA else copyB) copySize
  let es := entriesOf img
  let signer := (sigAt img (rdN img 0x18 4)).signer
  let owners := ownerRun signer s.svc.owners (es.filter ProfEntry.ok)
  let parts := es.filter (fun e => e.typ == 5)
  let set := lastPerPart (parts.map (·.val))
  let own := !parts.isEmpty && layoutOk s set
  Plan.seq [
    Plan.act (.svc { s.svc with
      profile := copy, profileSeq := rdN img 8 8, signer := signer, owners := owners.1, layoutOwn := own, layoutFactory := !parts.isEmpty && !own,
      entries := (es.filter ProfEntry.ok).map (fun e => (e.off, e.typ, e.val)) }),
    Plan.each es (fun e => if e.ok then applyEntry e else if e.typ = 5 then Plan.skip else skipEntry e.off),
    Plan.each owners.2 skipEntry,
    Plan.when (!parts.isEmpty && !own) (skipEntry ((parts.map (·.off)).headD 0)),
    Plan.when own (applyLayout set)] s

/-- The profile, or the factory defaults with NO_PROFILE (R350). -/
def bootProfile : Plan := fun s =>
  match chooseCopy s with
  | 0 => Plan.andThen (raiseErr pgSEC 0 []) (event { cls := 0x0E, code := 1, page := pgSEC, detail := leBytes 4 0 }) s
  | c => applyProfile c s

/-! ## The ledger (R377) -/

/-- One entry of the ledger is applied again. -/
def reapply (e : LedgerEntry) : Plan := fun s =>
  let n := e.logical
  match e.kind, e.action with
  | 4, _ => [.ports (n % 2) { s.port (n % 2) with good := (s.port (n % 2)).good.set e.physFrom false }]
  | 5, _ => []
  | k, 3 => useSpare k s
  | 3, 1 => [.positions n { s.pos n with phys := e.physTo + 1 }, .positions 8 { s.pos 8 with phys := e.physFrom + 1, retired := true }]
  | 3, _ => [.positions n { s.pos n with withdrawn := true, retired := true, state := 5 }]
  | k, 1 => Plan.andThen (swapPhys k n (sparePage s k)) (useSpare k) s
  | 0, _ => [.clusters n { s.cluster n with withdrawn := true, owner := 8 }]
  | 1, _ => [.segs n { s.seg n with withdrawn := true, owner := 0 }]
  | _, _ => [.cores n { s.core n with withdrawn := true }]

/-! ## Attestation (R356) -/

/-- Fuses of the attestation counter. -/
def fuses : Nat := 16384

/-- A preparation begins: the next fuse is blown and read back. -/
def startPreparation (fuseOk : Bool) : Plan := fun s =>
  if fuses ≤ s.svc.steps then Plan.andThen (Plan.act (.svc { s.svc with attest := 3 })) (raiseErr pgSEC 3 []) s
  else if !fuseOk then
    Plan.seq [Plan.act (.svc { s.svc with attest := 3, fuseFailed := true, preparing := none }), raiseErr pgSEC 2 [],
      event { cls := 0x0E, code := 3, page := pgSEC, detail := leBytes 4 0 }] s
  else [.svc { s.svc with steps := s.svc.steps + 1, preparing := some s.svc.steps }]

/-! ## The cold reset (R330, R333, R347) -/

/-- The power-up record: the power-cycle count is incremented and logged (R362). -/
def powerUp : Plan := fun s =>
  let n := satAdd 0xFFFFFF s.recorder.powerCycles 1
  Plan.andThen (Plan.act (.recorder { s.recorder with powerCycles := n })) (event { cls := 0x10, code := 1, detail := leBytes 3 n }) s

/-- The firmware runs: power-up record, ledger, profile, attestation, and training of every position begins (R333, R347, R377). -/
def bootFirmware (img : List Byte) (fuseOk : Bool) : Plan := fun s =>
  Plan.seq [
    Plan.act (.svc { s.svc with fwVersion := rdN img 4 4, svn := rdN img 8 1, fwRaise := bit (rdN img 9 1) 0, fwDigest := sha256 (img.take (fwLen img)) }),
    powerUp,
    Plan.each s.reserve.ledger reapply,
    Plan.when (s.reserve.torn != 0) (raiseErr pgRSV 2 []),
    bootProfile,
    startPreparation fuseOk,
    Plan.each (List.range 9) (fun n => fun s => if (s.pos n).retired then [] else [.positions n { s.pos n with state := 1 }])] s

/-- The boot after its first step: the image is checked, the link trains and the firmware runs, or the boot ROM enters recovery (R347, R348). -/
def boot (b : BootIn) : Plan := fun s =>
  let img := s.flashAt fwFlash fwSize
  let why := if b.flashOk then fwFault s.svc.minSvn img else 1
  Plan.seq [
    Plan.act (.svc { s.svc with refOk := true, rootLock := true, pcieLock := true, smbusAddr := 0x24 + b.strap % 4, resetCause := 1,
                                stage := if why = 0 then 1 else 3, reason := why, initialising := why == 0, halted := false, bootWait := none }),
    Plan.act (.pcie { up := true, width := b.lanes, rate := b.rate }),
    Plan.when (why == 0) (bootFirmware img b.fuseOk)] s

/-- COLD_RESET: power-up or PERST_N. The operands are what the boot meets outside: the SMBus straps, the lanes and the rate that train, TEST_EN, whether the flash answers with an SFDP
table, whether the attestation fuse reads back blown, and whether a sensor reads 110 degrees or more, when the boot ROM waits (R330, R340, R347, R348, R356, R386). -/
def coldReset (strap lanes rate : Nat) (testEn flashOk fuseOk hot : Bool) : Plan :=
  Plan.seq [breakFlash, tearLedger, wipe, (fun s =>
    let b : BootIn := { strap := strap, lanes := lanes, rate := rate, flashOk := flashOk, fuseOk := fuseOk }
    if testEn then [.svc { s.svc with halted := true }]
    else if hot then [.svc { s.svc with halted := true, bootWait := some b }]
    else boot b s)]

def execColdReset (strap lanes rate : Nat) (testEn flashOk fuseOk hot : Bool) (s : State) : Host.Outcome State Fault Refusal :=
  Plan.always (coldReset strap lanes rate testEn flashOk fuseOk hot) s

/-! ## Unit initialisation (R31 step 4, R56, R74, R153, R333 step 10, R351, R405) -/

/-- Segments that the profile starts OFF. -/
def State.segOff (s : State) : Nat := (((s.svc.entries.filter (fun e => e.2.1 == 8)).getLast?).map (fun e => rdN e.2.2 0 4)).getD 0

/-- A segment after initialisation: burnished, in the power state that the profile names, its window and limit at their reset values. -/
def initSegment (n : Nat) : Plan := fun s =>
  let g := s.seg n
  let off := bit s.segOff n
  [.segs n { owner := g.owner, phys := g.phys, withdrawn := g.withdrawn, power := if off then .off else .on, req := off }]

/-- A cluster after initialisation. -/
def initCluster (n : Nat) : Plan := fun s =>
  let c := s.cluster n
  Plan.andThen (Plan.act (.clusters n { owner := c.owner, phys := c.phys, withdrawn := c.withdrawn })) (setReg 0 (pgBC n) 0x128 0) s

/-- The pool that a POOL value lays out (R353). -/
def entryPool (v : List Byte) : Pool :=
  let c := rdN v 4 4
  { stepUp := bit c 30, nextEn := bit c 29, next := fld c 27 24, size4k := fld c 17 0, first := fld (rdN v 8 4) 19 0,
    slices := (List.range 8).foldl (fun t p =>
      let w := rdN v (0xC + 12 * p) 4
      Tab.put {} t p ({ enable := bit w 31, count := fld w 20 0,
                        base := rdN v (0x10 + 12 * p) 4 / 4096 * 4096 + rdN v (0x14 + 12 * p) 2 * 2 ^ 32 } : PolSlice)) [] }

/-- A POOL or POOL_REF entry, applied during unit initialisation; one that cannot be applied is skipped (R279, R351, R353). -/
def initPool (e : Nat × Nat × List Byte) : Plan := fun s =>
  let v := e.2.2
  match e.2.1 with
  | 6 =>
    let n := fld (rdN v 0 1) 3 0
    Plan.andThen (Plan.act (.pools n (entryPool v)))
      (fun s => if poolRefused s n then skipEntry e.1 s else Plan.andThen (enablePool n) (Plan.each (List.range 8) (rebuildDone n)) s) s
  | 7 =>
    if (List.range 16).any (fun n => (s.pool n).enable) then skipEntry e.1 s
    else Plan.andThen (setReg 0 pgPOL 0x100 (rdN v 0 4 / 4096 * 4096)) (setReg 0 pgPOL 0x104 (rdN v 4 2)) s
  | _ => []

/-- Unit initialisation: cache segments write back what no killed job owns, every mode returns to 0x0000, plate and local memory are burnished, the stroke table is cleared,
segments take their power states, and the pools their layout with every count 0. -/
def unitInit : Plan := fun s =>
  Plan.seq [
    Plan.when (!s.gddr.frozen) (Plan.each s.cacheSegs writeBackAll),
    (fun s => [.modeUnitsClear 0 allKeys, .linesClear 0 allKeys, .plruClear 0 allKeys, .claimsClear 0 allKeys, .retries [], .maskTagsClear 0 allKeys,
      .zero plateBase (32 * segSize), .badWordsClear 0 allKeys, .localMemClear 0 allKeys, .poolsClear 0 allKeys, .refsClear 0 allKeys, .polWaitsClear 0 allKeys] ++
      (if s.gddr.frozen then [] else [Eff.zero s.tableBase 0x8000000, .poisonedClear (s.tableBase / 64) 0x200000])),
    Plan.each (List.range 16) initCluster,
    Plan.each (List.range 32) initSegment,
    Plan.when (!s.gddr.frozen) (Plan.each s.svc.entries initPool)] s

/-- SERVICE_READY becomes 1: every function is told, MIN_SVN is raised when the firmware asks for it, and triggers that waited are acted on (R305, R333, R346, R373).
While the GDDR6 controllers are frozen it stays 0 (R306). -/
def serviceReady : Plan := fun s =>
  if s.gddr.frozen then [.svc { s.svc with initialising := false }]
  else
    let v := s.svc
    Plan.seq [
      Plan.act (.svc { v with initialising := false, stage := if v.stage = 1 then 2 else v.stage,
                              minSvn := if v.stage = 1 ∧ v.fwRaise then max v.minSvn v.svn else v.minSvn }),
      Plan.each (List.range 9) (fun fn => fun s => [.funcs fn { s.func fn with ready := true }]),
      signalAll,
      Plan.when (s.gddr.again != 0) (Plan.andThen (fun s => [.gddr { s.gddr with again := 0 }]) (retirePosition (s.gddr.again - 1) 3)),
      nextTrigger] s

/-- A spare-in for a unit that failed its self-test completes before SERVICE_READY (R371). -/
def State.selfTestPends (s : State) : Bool := (s.reserve.running.toList ++ s.reserve.queue).any (fun t => t.cause == 5)

/-- BOOT_SERVICE_READY: steps 10 and 11 of the cold boot, once training has ended (R333). -/
def bootServiceReady : Plan := fun s =>
  if s.svc.stage = 1 ∧ s.svc.initialising ∧ s.gddr.trained ∧ !s.selfTestPends ∧ !(s.func 0).flr then Plan.andThen unitInit serviceReady s else []

def execBootServiceReady (s : State) : Host.Outcome State Fault Refusal := Plan.done bootServiceReady s

end Sys2Proof.Machine
end

