-- ==== Sys2Proof/Machine/Groups.lean ====
section
/-! DEFINITION. Sensor registration (11_intake_pipeline.md R234-R238): the open sets of a group, the placing of a member's pictures, and the emission of sets, which
no job stands behind. -/
namespace Sys2Proof.Machine

def State.regGroup (s : State) (g : Nat) : RegGroup := Tab.get {} s.regGroups g

/-- An add of 1 to a partition's counter semaphore by a unit; 0xFFFF names none (R42, R43). -/
def semAdd (stroke part n : Nat) : Plan := fun s =>
  if n = 0xFFFF then []
  else
    let m := s.semOf part n
    if m.mutex then
      event { cls := 7, code := 4, stroke := stroke, part := part, charged := true, fn := (s.part part).fn, page := pgSCH, detail := leBytes 2 n } s
    else Plan.andThen (Plan.act (.sems ((s.part part).semFirst + n) { m with value := satAdd 0xFFFF m.value 1 })) settle s

/-! ## Accesses that a group makes for its partition -/

/-- A plate block that a job claims (R151). -/
def State.claimed (s : State) (a n : Nat) : Bool :=
  (List.range (blockOf (a + n - 1) + 1 - blockOf a)).any (fun k => Tab.get 0 s.claims (blockOf a + k) != 0)

/-- A write for a partition and no job: into its GDDR6, unless that is an area of a unit or a merge into a POISONED block, or into its plate scratch, unless a job claims the block. A write that
is not made is dropped, and nothing is killed (R151, R171, R282, R292; log entry 122). -/
def partStore (p a : Nat) (bs : List Byte) : Plan := fun s =>
  let n := bs.length
  match s.judge p false a n with
  | .ok =>
    (match regionOf a n with
     | .plate => if s.claimed a n then bump pgPLT 0x11C 1 s else plateStore a bs s
     | .gddr =>
       if s.gddr.frozen then []
       else match s.foreign false a n with
         | some pg => noteForeign pg s
         | none => if s.partialOnPoison a n then poisonRead { cls := 1, fn := (s.part p).fn } a s else gddrStore 0 a bs s
     | _ => [])
  | .late g => Plan.andThen (raiseErr (pgPS g) 3 []) (bump pgPLT 0x118 1) s
  | .refused (some g) => (raiseErr (pgPS g) 2 []) s
  | _ => []

/-- A read for a partition and no job. -/
def partRead (p a n : Nat) : Plan := fun s =>
  match s.judge p false a n with
  | .ok => if s.meetsPoison a n then poisonRead { cls := 1, fn := (s.part p).fn } a s else gddrTouch a n s
  | .late g => Plan.andThen (raiseErr (pgPS g) 3 []) (bump pgPLT 0x118 1) s
  | .refused (some g) => (raiseErr (pgPS g) 2 []) s
  | _ => []

/-- Accesses of a group: while a segment answers one with a retry, a block is under burnish or the buckets of the partition hold them, nothing happens, and a later command presents them again; else
they are charged and made (R152, R155, R272, R273). -/
def partAccess (p : Nat) (reads : List (Nat × Nat)) (writes : List (Nat × List Byte)) (go : Plan) : Plan := fun s =>
  let w := writes.map (fun w => (w.1, w.2.length))
  if (s.retryOf p false (reads ++ w)).isSome || (s.burnishOf writes).isSome then []
  else if s.held p (reads ++ w) then noteHeld p (reads ++ w) s
  else Plan.seq [chargeTo p (reads ++ w), requestAll { cls := 1 } reads writes, go] s

/-! ## Sets (R235, R236) -/

/-- HEAD of a set ring, which is read before each emission (R234). -/
def State.ringHead (s : State) (ring : Nat) : Nat := s.numAt (ring + 4) 4

/-- The sets of a group in ascending anchor order. -/
def insertSet (x : RegSet) : List RegSet → List RegSet
  | [] => [x]
  | y :: ys => if x.anchor < y.anchor then x :: y :: ys else y :: insertSet x ys

def RegSet.pic (x : RegSet) (i : Nat) : Option RegPic := Tab.get none x.pics i

/-- A set entry (R236). -/
def setEntry (g : RegGroup) (x : RegSet) (forced : Bool) : List Byte :=
  let present := ((List.range 8).map (fun i => bitAt (x.pic i).isSome i)).sum
  leBytes 8 (ofSigned 64 x.anchor) ++ leBytes 1 present ++ leBytes 1 (2 ^ g.count - 1 - present % 2 ^ g.count) ++ leBytes 1 (bitAt forced 0) ++ zeros 1 ++
  leBytes 4 ((g.emitted + 1) % 2 ^ 32) ++ zeros 48 ++ (List.range 8).flatMap (fun i => match x.pic i with | some p => p.desc | none => zeros 64)

/-- The set ring of a group has no room. -/
def RegGroup.full (g : RegGroup) (s : State) : Bool := (g.tail + 2 ^ 32 - s.ringHead g.ring) % 2 ^ 32 == 2 ^ g.ringLog2

/-- What the emission of a set writes: its entry, then TAIL; nothing on a full ring (R236). -/
def setWrites (s : State) (g : RegGroup) (x : RegSet) (forced : Bool) : List (Nat × List Byte) :=
  if g.full s then [] else [(g.ring + 64 + g.tail % 2 ^ g.ringLog2 * 576, setEntry g x forced), (g.ring, leBytes 4 ((g.tail + 1) % 2 ^ 32))]

/-- A set leaves the group: emitted, or dropped when the ring is full (R236). -/
def releaseSet (n : Nat) (x : RegSet) (forced : Bool) : Plan := fun s =>
  let g := s.regGroup n
  let rest := g.sets.filter (fun y => y.anchor != x.anchor || y.due != x.due || y.pics != x.pics)
  if g.full s then
    Plan.seq [
      partRead (g.owner - 1) (g.ring + 4) 4,
      Plan.act (.regGroups n { g with sets := rest, dropped := satAdd 0xFFFFFFFF g.dropped 1 }),
      raiseErr pgINT 3 [],
      Plan.each (x.pics.filterMap (fun e => e.2.map (·.handle))) releaseRef] s
  else
    let lacks := (List.range g.count).any (fun i => (x.pic i).isNone)
    Plan.seq [
      partRead (g.owner - 1) (g.ring + 4) 4,
      Plan.each (setWrites s g x forced) (fun w => partStore (g.owner - 1) w.1 w.2),
      Plan.act (.regGroups n { g with sets := rest, tail := (g.tail + 1) % 2 ^ 32, emitted := (g.emitted + 1) % 2 ^ 32, lastAnchor := some x.anchor,
                                      partials := if lacks then satAdd 0xFFFFFFFF g.partials 1 else g.partials }),
      semAdd 0 (g.owner - 1) g.sem] s

/-- The emission of a set as the pipeline makes it, at the partition's ports; `paid` holds where a stroke has made its accesses already. -/
def emitSet (paid : Bool) (n : Nat) (x : RegSet) (forced : Bool) (next : Plan) : Plan := fun s =>
  let g := s.regGroup n
  if paid then Plan.andThen (releaseSet n x forced) next s
  else partAccess (g.owner - 1) [(g.ring + 4, 4)] (setWrites s g x forced) (Plan.andThen (releaseSet n x forced) next) s

/-- A set is ready: every member is present, or its deadline has passed (R236, R238). -/
def setReady (s : State) (g : RegGroup) (x : RegSet) : Bool := decide (x.due ≤ s.ticks) || (!g.members.isEmpty && g.members.all (fun i => (x.pic i).isSome))

/-- Ready sets are emitted in ascending anchor order (R236). -/
def emitReady (paid : Bool) (n : Nat) : Nat → Plan
  | 0 => Plan.skip
  | fuel + 1 => fun s =>
    match (s.regGroup n).sets with
    | [] => []
    | x :: _ => if setReady s (s.regGroup n) x then emitSet paid n x false (emitReady paid n fuel) s else []

/-- The open set that a picture joins: it lacks the member and lies nearest within TOL, the lower anchor on a tie (R235 step 1). -/
def nearestSet (g : RegGroup) (i : Nat) (t : Int) : Option RegSet :=
  (g.sets.filter (fun x => (x.pic i).isNone && decide ((t - x.anchor).natAbs ≤ g.tol))).foldl (fun m x => match m with
    | none => some x
    | some y => if (t - x.anchor).natAbs < (t - y.anchor).natAbs then some x else some y) none

/-- The first picture output to a group and not yet placed is placed (R235). -/
def placePicture (paid : Bool) (n i : Nat) (p : RegPic) (rest : List (Nat × RegPic)) : Plan := fun s =>
  let g := s.regGroup n
  let t := toSigned 64 (ofSigned 64 (toSigned 64 (rdN p.desc 0x20 8) + g.offsets.getD i 0))
  match nearestSet g i t with
  | some x => [.regGroups n { g with arrivals := rest, sets := g.sets.map (fun y => if y = x then { y with pics := Tab.put none y.pics i (some p) } else y) }]
  | none =>
    let late := match g.lastAnchor with | some a => decide (t ≤ a + g.tol) | none => false
    let opens : Plan := fun s =>
      let g := s.regGroup n
      [.regGroups n { g with arrivals := rest, sets := insertSet { anchor := t, due := s.ticks + g.deadline, pics := [(i, some p)] } g.sets }]
    if late then
      Plan.seq [Plan.act (.regGroups n { g with arrivals := rest, late := satAdd 0xFFFFFFFF g.late 1 }), raiseErr pgINT 1 [], releaseRef p.handle] s
    else match g.sets with
      | x :: _ => if g.sets.length < 16 then opens s else emitSet paid n x true (Plan.andThen (raiseErr pgINT 2 []) opens) s
      | [] => opens s

/-- The first picture output to a group and not yet placed arrives: sets that are ready go before it. -/
def arrive (paid : Bool) (n : Nat) : Plan :=
  Plan.seq [emitReady paid n 17,
    (fun s => match (s.regGroup n).arrivals with
      | [] => []
      | (i, p) :: rest => placePicture paid n i p rest s),
    emitReady paid n 17]

/-! ## Leaving and closing (R237, R238) -/

/-- A member leaves its registration group: what it output is placed first, and sets that are ready without it are emitted (R238). -/
def leaveGroup (c : Nat) : Plan := fun s =>
  let x : StreamCtx := Tab.get {} s.streams c
  if x.group = 0 then []
  else
    Plan.seq [
      Plan.seq ((s.regGroup (x.group - 1)).arrivals.map (fun _ => arrive false (x.group - 1))),
      (fun s => let g := s.regGroup (x.group - 1)
        [.regGroups (x.group - 1) { g with members := g.members.filter (· != x.member) }, .streams c { x with group := 0, member := 0 }]),
      emitReady false (x.group - 1) 17] s

/-- The group is open to no member any more: their output returns to their rings. -/
def freeMembers (n : Nat) : Plan := fun s =>
  Plan.each ((s.streams.filter (fun e => e.2.group == n + 1)).map (·.1)) (fun c => fun s => [.streams c { (Tab.get {} s.streams c : StreamCtx) with group := 0, member := 0 }]) s

/-- The group closes, keeping its owner and its counters. -/
def shutGroup (n : Nat) : Plan := fun s =>
  let g := s.regGroup n
  Plan.andThen (freeMembers n)
    (Plan.act (.regGroups n { owner := g.owner, emitted := g.emitted, partials := g.partials, late := g.late, dropped := g.dropped })) s

/-- A reset closes a group without emitting: the references of its sets are released (R237). -/
def dropGroup (n : Nat) : Plan := fun s =>
  let g := s.regGroup n
  let hs := g.arrivals.map (fun e => e.2.handle) ++ g.sets.flatMap (fun x => x.pics.filterMap (fun e => e.2.map (·.handle)))
  Plan.andThen (Plan.each hs releaseRef) (shutGroup n) s

/-- Every open set is emitted, marked FORCED, in anchor order. -/
def forceSets (n : Nat) : Nat → Plan
  | 0 => Plan.skip
  | fuel + 1 => fun s =>
    match (s.regGroup n).sets with
    | [] => []
    | x :: _ => emitSet true n x true (forceSets n fuel) s

/-- int.regclose: pictures output before it are placed, every open set is emitted, and the group closes (R237). -/
def regClose (n : Nat) : Plan := fun s =>
  Plan.seq [Plan.seq ((s.regGroup n).arrivals.map (fun _ => arrive true n)), forceSets n 17, shutGroup n] s

/-- The ring accesses that an int.regclose may come to, one entry and one TAIL for each open set and each picture not yet placed, as far as the ring has room. -/
def closeWrites (s : State) (g : RegGroup) : List (Nat × List Byte) :=
  let room := 2 ^ g.ringLog2 - (g.tail + 2 ^ 32 - s.ringHead g.ring) % 2 ^ 32
  (List.range (min room (g.sets.length + g.arrivals.length))).flatMap (fun k =>
    [(g.ring + 64 + (g.tail + k) % 2 ^ g.ringLog2 * 576, zeros 576), (g.ring, zeros 4)])

end Sys2Proof.Machine
end

