-- ==== Sys2Proof/Machine/Media.lean ====
section
/-! DEFINITION. The media engine (10_media_engine.md): stream contexts, the queue of pictures and pages, decoding and joining, output to picture rings,
encoding, the real-time panic, page decoders and parity (R191-R209, R215, R281). -/
namespace Sys2Proof.Machine

def State.stream (s : State) (c : Nat) : StreamCtx := Tab.get {} s.streams c
def modStream (c : Nat) (f : StreamCtx → StreamCtx) : Plan := fun s => [.streams c (f (s.stream c))]

/-- An event of class MEDIA about a context, charged to the stroke in hand (R361). -/
def medEvent (code c id i page : Nat) : Plan := fun s =>
  let j := s.job id
  event { cls := 5, code := code, stroke := j.tableIndex i, part := j.part, charged := true, fn := j.fn, page := page, detail := leBytes 1 c } s

/-! ## Pictures in memory (R194) -/

/-- Bytes of one sample, of a row of both planes, the offset of the chroma plane, and the bytes of the whole picture. -/
def sampleBytes (fmt : Nat) : Nat := if fmt = 2 then 2 else 1
def pitchOf (w fmt : Nat) : Nat := cdiv (w * sampleBytes fmt) 256 * 256
def chromaOff (w h fmt : Nat) : Nat := pitchOf w fmt * (cdiv h 16 * 16)
def pictureBytes (w h fmt : Nat) : Nat := if fmt = 3 then pitchOf w fmt * h else chromaOff w h fmt + pitchOf w fmt * cdiv h 2

/-- A picture descriptor (R194). -/
structure PicDesc where
  luma : Nat
  chroma : Nat
  pitch : Nat
  width : Nat
  height : Nat
  format : Nat
  matrix : Nat
  fullRange : Bool
  flags : Nat
  context : Nat
  buffer : Nat
  time : Nat
  number : Nat
  poc : Nat
  concealed : Nat
  deriving DecidableEq, Repr

def PicDesc.bytes (d : PicDesc) : List Byte :=
  leBytes 8 (d.luma % 2 ^ 48) ++ leBytes 8 (d.chroma % 2 ^ 48) ++ leBytes 4 d.pitch ++ leBytes 2 d.width ++ leBytes 2 d.height ++ leBytes 1 d.format ++
  leBytes 1 (d.matrix % 4 + bitAt d.fullRange 2) ++ leBytes 1 d.flags ++ leBytes 1 d.context ++ leBytes 4 d.buffer ++ leBytes 8 d.time ++
  leBytes 4 d.number ++ leBytes 4 d.poc ++ leBytes 4 d.concealed ++ zeros 12

def parsePic (b : List Byte) : PicDesc :=
  { luma := rdN b 0 6, chroma := rdN b 8 6, pitch := rdN b 0x10 4, width := rdN b 0x14 2, height := rdN b 0x16 2, format := rdN b 0x18 1,
    matrix := fld (rdN b 0x19 1) 1 0, fullRange := bit (rdN b 0x19 1) 2, flags := rdN b 0x1A 1, context := rdN b 0x1B 1, buffer := rdN b 0x1C 4,
    time := rdN b 0x20 8, number := rdN b 0x28 4, poc := rdN b 0x2C 4, concealed := rdN b 0x30 4 }

/-- The ranges that the planes of a described picture occupy. -/
def PicDesc.spans (d : PicDesc) : List (Nat × Nat) :=
  if d.width = 0 ∨ d.height = 0 then []
  else (d.luma, (d.height - 1) * d.pitch + d.width * sampleBytes d.format) ::
    (if d.format = 3 then [] else [(d.chroma, (cdiv d.height 2 - 1) * d.pitch + cdiv d.width 2 * 2 * sampleBytes d.format)])

/-- The descriptor of a picture that lies in a pool buffer. -/
def bufferDesc (s : State) (h w ht fmt : Nat) : PicDesc :=
  let a := s.handleAddr h
  { luma := a, chroma := if fmt = 3 then 0 else a + chromaOff w ht fmt, pitch := pitchOf w fmt, width := w, height := ht, format := fmt, matrix := 0,
    fullRange := false, flags := 0, context := 0, buffer := h, time := 0, number := 0, poc := 0, concealed := 0 }

/-- FORMAT of the pictures that a stream is decoded to (R195). -/
def outFormat (codec depth : Nat) (mono : Bool) : Nat := if codec = 3 ∧ mono then 3 else if depth = 10 then 2 else 1

/-- Luma samples that a picture is counted at: H.264 codes whole macroblocks (R196). -/
def codedSamples (codec w h : Nat) : Nat := if codec = 1 then cdiv w 16 * 16 * (cdiv h 16 * 16) else w * h

/-- Bytes of a row of each plane. -/
def PicDesc.lumaBytes (d : PicDesc) : Nat := d.width * sampleBytes d.format
def PicDesc.chromaBytes (d : PicDesc) : Nat := cdiv d.width 2 * 2 * sampleBytes d.format

/-- The rows of both planes of a picture, with their bytes. -/
def PicDesc.rows (d : PicDesc) (luma chroma : Nat → List Byte) : List (Nat × List Byte) :=
  (List.range d.height).map (fun r => (d.luma + r * d.pitch, luma r)) ++
    (if d.format = 3 then [] else (List.range (cdiv d.height 2)).map (fun r => (d.chroma + r * d.pitch, chroma r)))

/-- Mid-grey: 128, or 512 at 10 bits (R199). -/
def greyBytes (fmt n : Nat) : List Byte := (List.range n).map (fun i => if fmt = 2 ∧ i % 2 = 0 then 0 else 0x80)

/-- A row in a band of coding units takes the bytes of its damaged units from elsewhere. -/
def concealRow (cols unitBytes band : Nat) (damaged : List Nat) (src : Nat → Nat → List Byte) (row : List Byte) : List Byte :=
  (damaged.filter (fun u => u / cols == band)).foldl (fun b u =>
    let o := u % cols * unitBytes
    if o < b.length then ovl b o (src o (min unitBytes (b.length - o))) else b) row

/-- The rows of a decoded picture. A damaged coding unit has the co-located samples of a reference, or mid-grey (R199); what the other samples are is fixed by standards outside the spec:
free values (log entry 32). -/
def decodedRows (s : State) (d : PicDesc) (unit : Nat) (damaged : List Nat) (ref : Option PicDesc) (f g : Nat) : List (Nat × List Byte) :=
  let u := max 1 unit
  let cols := cdiv d.width u
  let src (base : PicDesc → Nat) (r o n : Nat) : List Byte := match ref with | some x => s.bytesAt (base x + r * x.pitch + o) n | none => greyBytes d.format n
  d.rows (fun r => concealRow cols (u * sampleBytes d.format) (r / u) damaged (src (·.luma) r) (leBytes d.lumaBytes (f / 256 ^ (r * d.lumaBytes))))
    (fun r => concealRow cols (u * sampleBytes d.format) (2 * r / u) damaged (src (·.chroma) r) (leBytes d.chromaBytes (g / 256 ^ (r * d.chromaBytes))))

/-! ## Pages (R207-R209) -/

/-- The bits of a coded page in the order in which they are taken. -/
def pageBits (lsbFirst : Bool) (bs : List Byte) : List Bool := bs.flatMap (fun b => (List.range 8).map (fun i => bit b.toNat (if lsbFirst then i else 7 - i)))

/-- The lines of a bilevel page, and how many were replaced: a T.4 line by the one above or by white, all lines from a T.6 error on by white (R209). -/
def bilevelLines (p : PageSpec) (bits : List Bool) (w h : Nat) : List (List Byte) × Nat :=
  let line (k : Nat) : Option (List Bool) := Config.bilevelLine p.kind p.eolAligned w bits k
  let white : List Byte := List.replicate w 0xFF
  let pixels (l : List Bool) : List Byte := (List.range w).map (fun x => if l.getD x p.blackIsZero = p.blackIsZero then 0xFF else 0)
  if p.kind = 3 then
    let e := ((List.range h).find? (fun k => (line k).isNone)).getD h
    ((List.range h).map (fun k => if k < e then (match line k with | some l => pixels l | none => white) else white), h - e)
  else
    let a := (List.range h).foldl (fun (a : List (List Byte) × List Byte × Nat) k => match line k with
      | some l => (a.1 ++ [pixels l], pixels l, a.2.2)
      | none => (a.1 ++ [a.2.1], a.2.1, a.2.2 + 1)) ([], white, 0)
    (a.1, a.2.2)

/-- Width and height of an MCU. -/
def pageMcu (i : PageInfo) : Nat × Nat := if i.colour then (if i.halfWidth then 16 else 8, if i.halfHeight then 16 else 8) else (8, 8)

/-- A pixel lies in the rest of a restart interval in which an entropy error occurred; without restart markers, in the rest of the page (R208). -/
def pageBlanked (i : PageInfo) (w : Nat) (errors : List Nat) (x y : Nat) : Bool :=
  let m := y / (pageMcu i).2 * cdiv w (pageMcu i).1 + x / (pageMcu i).1
  errors.any (fun e => decide (e ≤ m) && (i.restart == 0 || m / i.restart == e / i.restart))

/-- A chroma sample of an NV12 page: the average of the 2 × 2, 2 × 1 or 1 × 2 samples that it stands for, rounded half up (R208). -/
def pageChroma (i : PageInfo) (bs : List Byte) (w h comp cx cy : Nat) : Nat :=
  let cw := if i.halfWidth then cdiv w 2 else w
  let ch := if i.halfHeight then cdiv h 2 else h
  let xs := if i.halfWidth then [cx] else [2 * cx, 2 * cx + 1]
  let ys := if i.halfHeight then [cy] else [2 * cy, 2 * cy + 1]
  let l := ys.flatMap (fun y => xs.map (fun x => Config.jpegSample bs comp (min x (cw - 1)) (min y (ch - 1))))
  (l.foldl (· + ·) 0 + l.length / 2) / l.length

/-- The rows of a decoded page, and CONCEALED_UNITS (R208, R209). -/
def decodedPage (s : State) (p : PageSpec) (d : PicDesc) (errors : List Nat) : List (Nat × List Byte) × Nat :=
  let bs := s.bytesAt p.input p.len
  if p.kind ≠ 0 then
    let l := bilevelLines p (pageBits p.lsbFirst bs) d.width d.height
    (d.rows (fun r => l.1.getD r []) (fun _ => []), l.2)
  else
    let gone := pageBlanked p.info d.width errors
    let b8 (blank : Bool) (v : Nat) : Byte := if blank then 0x80 else BitVec.ofNat 8 v
    (d.rows (fun y => (List.range d.width).map (fun x => b8 (gone x y) (Config.jpegSample bs 0 x y)))
      (fun y => (List.range (cdiv d.width 2)).flatMap (fun x => [1, 2].map (fun k => b8 (gone (2 * x) (2 * y)) (pageChroma p.info bs d.width d.height k x y)))),
     ((List.range (cdiv d.height 8)).filter (fun k => (List.range (cdiv d.width 8)).any (fun c => gone (8 * c) (8 * k)))).length)

/-! ## The strokes of a context (R192) -/

/-- Running strokes of jobs that are not killed. -/
def State.runningStrokes (s : State) : List (Nat × Nat × Stroke) :=
  (s.jobs.filter (fun e => e.2.phase = .running && e.2.killed.isNone)).flatMap (fun e =>
    ((e.2.strokes.mapIdx (fun i t => (e.1, i, t))).filter (fun x => x.2.2.state = .running)))

/-- A stroke of a stream context is next in acceptance order; one that `ends` the context's work waits for the earlier ones to end (R192). -/
def State.medTurn (s : State) (id i : Nat) (ends : Bool) : Bool :=
  let t := (s.job id).stroke i
  s.runningStrokes.all (fun x =>
    let u := x.2.2
    !(u.cls == 6 && decide (u.op ≤ 5) && fld u.param 7 0 == fld t.param 7 0 && decide (u.started < t.started)) || u.ran || (u.begun && !ends))

def medTurnOp (id i : Nat) (ends : Bool) (p : Plan) : Plan := fun s => if s.medTurn id i ends then p s else []

/-! ## med.open, med.close, med.class (R193, R205) -/

/-- Check 34: a stream context block (R193, R201). -/
def badOpen (s : State) (j : Job) (t : Stroke) (b : List Byte) : Bool :=
  let x := s.stream (fld t.param 7 0)
  let enc := bit (rdN b 0 1) 0
  let sem := rdN b 0x10 2
  let w := rdN b 0x14 2
  let h := rdN b 0x16 2
  let refresh := rdN b 0x18 1
  fld t.param 31 8 != 0 || (t.opnds.drop 1).any (· != 0) || x.state != 0 || x.owner != j.part + 1 ||
  fld (rdN b 1 1) 1 0 == 0 || fld (rdN b 2 1) 1 0 == 3 || fld (rdN b 3 1) 2 0 == 0 || decide (4 < fld (rdN b 3 1) 2 0) ||
  rdN b 8 6 % 64 != 0 || decide (fld (rdN b 0xE 1) 3 0 < 4) || decide (12 < fld (rdN b 0xE 1) 3 0) || !s.inQuota j.part (fld (rdN b 0xF 1) 3 0) ||
  (sem != 0xFFFF && decide ((s.part j.part).semCount ≤ sem)) || fld (rdN b 0x12 1) 2 1 == 3 ||
  (enc && (w == 0 || h == 0 || decide (4096 < w) || decide (2304 < h) || decide (refresh < 8) || decide (120 < refresh)))

def parseStream (owner : Nat) (b : List Byte) : StreamCtx :=
  let enc := bit (rdN b 0 1) 0
  { owner := owner, state := if enc then 1 else 2, encode := enc, codec := fld (rdN b 1 1) 1 0, cls := fld (rdN b 2 1) 1 0,
    maxCores := fld (rdN b 3 1) 2 0, deadline := rdN b 4 4, ring := rdN b 8 6, ringLog2 := fld (rdN b 0xE 1) 3 0, pool := fld (rdN b 0xF 1) 3 0,
    sem := rdN b 0x10 2, dropConcealed := bit (rdN b 0x12 1) 0, matrixDefault := fld (rdN b 0x12 1) 2 1, width := rdN b 0x14 2,
    height := rdN b 0x16 2, refresh := rdN b 0x18 1, averageRate := bit (rdN b 0x19 1) 0, qp := fld (rdN b 0x1A 1) 5 0,
    qpMax := fld (rdN b 0x1B 1) 5 0, bitrate := rdN b 0x1C 4, ltrInterval := rdN b 0x20 2, fps := rdN b 0x22 2 }

def medOpenOp (s : State) (j : Job) (t : Stroke) : OpOut :=
  let a := t.opnds.getD 0 0
  let b := s.bytesAt a 64
  { reads := [(a, 64)],
    check := if !s.placeOk j.part a 64 then some 38
      else lowest [failIf (badOpen s j t b) 34,
        failIf (badRanges s j.part [(rdN b 8 6, 64 + 2 ^ fld (rdN b 0xE 1) 3 0 * 64)] [(a, 64)]) 38],
    more := Plan.act (.streams (fld t.param 7 0) (parseStream (j.part + 1) b)) }

/-- MED_OPEN (R193). -/
def execMedOpen (job idx : Nat) (s : State) : Host.Outcome State Fault Refusal :=
  Plan.done (medTurnOp job idx true (runOp 0x06 0x01 job idx medOpenOp)) s

/-- A context returns to CLOSED: it leaves its group, its pictures leave the queue, and every buffer it holds is released (R193, R238). -/
def closeStream (c : Nat) : Plan := fun s =>
  let x := s.stream c
  let mine := s.medQueue.filter (fun w => (w.kind = .decode || w.kind = .encode) && w.ctx == c)
  Plan.seq [
    leaveGroup c,
    Plan.act (.medQueue (s.medQueue.filter (fun w => !((w.kind = .decode || w.kind = .encode) && w.ctx == c)))),
    Plan.each (mine.filterMap (·.core)) (fun n => fun s => [.cores n { s.core n with work := 0, panic := false }]),
    Plan.each ((mine.filter (fun w => w.handle != 0)).map (·.handle)).dedup (fun h => releaseRef (h - 1)),
    Plan.each (x.dpb.map (·.handle)) releaseRef,
    Plan.act (.streams c { owner := x.owner, suppressed := x.suppressed, concealed := x.concealed, dropped := x.dropped, late := x.late })] s

/-- Check 35: the context is not open under the partition, or a reserved field is used. -/
def badCtx (s : State) (j : Job) (t : Stroke) : Bool :=
  let x := s.stream (fld t.param 7 0)
  x.state == 0 || x.owner != j.part + 1

def medCloseOp (s : State) (j : Job) (t : Stroke) : OpOut :=
  { check := failIf (badCtx s j t || fld t.param 31 8 != 0 || t.opnds.any (· != 0)) 35, more := closeStream (fld t.param 7 0) }

/-- The end of a picture that waited for the next access unit's first byte is known (R191). -/
def releaseTails (c : Nat) : Plan := fun s =>
  if s.medQueue.any (fun w => w.tail && w.ctx == c && !(w.kind = .jpeg || w.kind = .bilevel)) then
    [.medQueue (s.medQueue.map (fun w => if w.ctx = c ∧ (w.kind = .decode ∨ w.kind = .encode) then { w with tail := false } else w))]
  else []

/-- A med.close whose turn has not come tells that its stream has ended (R191; log entry 120). -/
def medClose (id i : Nat) : Plan := fun s =>
  if s.medTurn id i true then runOp 0x06 0x04 id i medCloseOp s
  else if s.runnable id i 0x06 0x04 then releaseTails (fld ((s.job id).stroke i).param 7 0) s
  else []

/-- MED_CLOSE (R193). -/
def execMedClose (job idx : Nat) (s : State) : Host.Outcome State Fault Refusal := Plan.done (medClose job idx) s

def medClassOp (s : State) (j : Job) (t : Stroke) : OpOut :=
  { check := failIf (badCtx s j t || fld t.param 31 10 != 0 || fld t.param 9 8 == 3 || t.opnds.any (· != 0)) 35,
    more := modStream (fld t.param 7 0) (fun x => { x with cls := fld t.param 9 8 }) }

/-- MED_CLASS (R205). -/
def execMedClass (job idx : Nat) (s : State) : Host.Outcome State Fault Refusal :=
  Plan.done (medTurnOp job idx false (runOp 0x06 0x05 job idx medClassOp)) s

/-- MED_CTX_CLASS_WRITE: class and deadline of the selected context; a write to a CLOSED context is ignored, and so is class 3 (R205). -/
def medCtxClassWrite (v : Nat) : Plan := fun s =>
  let c := s.reg 0 pgMED 0x104 % 256
  if (s.stream c).state = 0 then []
  else modStream c (fun x => { x with cls := if fld v 31 30 = 3 then x.cls else fld v 31 30, deadline := fld v 23 0 }) s

def execMedCtxClassWrite (value : Nat) (s : State) : Host.Outcome State Fault Refusal := Plan.done (pageGate 0 (medCtxClassWrite value)) s

/-! ## med.decode (R195-R198) -/

/-- Entries join the media queue, the parts of one picture sharing its order (R197, R204). -/
def enqueue (w : MedWork) (n : Nat) : Plan := fun s =>
  [.medQueue (s.medQueue ++ (List.range n).map (fun k => { w with id := s.medNext + k, order := s.medNext, part := k, parts := n })), .medNext (s.medNext + n)]

/-- A parameter set is within the table of decoding support (R195). -/
def setSupported (p : ParamSet) (codec : Nat) : Bool :=
  let sides (m : Nat) : Bool := decide (p.width ≤ m) && decide (p.height ≤ m)
  !p.excluded && (match codec with
    | 1 => [.constrainedBaseline, .main, .high].contains p.profile && decide (p.level ≤ 52) && decide (p.width * p.height ≤ 9437184) && sides 4096 && p.depth == 8
    | 2 => [.main, .main10].contains p.profile && decide (p.level ≤ 51) && decide (p.width * p.height ≤ 8912896) && sides 8192 && (p.depth == 8 || p.depth == 10)
    | _ => p.profile == .main && decide (p.level ≤ 51) && decide (p.width * p.height ≤ 8912896) && sides 8192 && (p.depth == 8 || p.depth == 10))

/-- The chunk has been parsed: its pictures are met in turn and those that are decoded join the queue; with none the stroke ends. Without AU_END the last one's end is not known when no byte
of another access unit follows it (R191). -/
def decodeChunk (id i : Nat) (pics : List CodedPic) (sets : List ParamSet) (opens : Bool) : Plan := fun s =>
  let j := s.job id
  let t := j.stroke i
  let c := fld t.param 7 0
  let x0 := s.stream c
  let x := if bit t.param 9 && x0.state != 4 then { x0 with state := 2, decoding := false, joined := false, first := true, epoch := x0.epoch + 1 } else x0
  let supported := sets.all (fun p => setSupported p x.codec)
  if x.state = 4 then Plan.andThen (releaseTails c) (endOp id i) s
  else
    let m := meetAll x 0 pics
    let time := t.opnds.getD 2 0
    let y := { m.1 with openTime := if opens then time else m.1.openTime, state := if supported then m.1.state else 4 }
    Plan.seq [
      releaseTails c,
      Plan.act (.streams c y),
      Plan.each m.2 (fun e => enqueue
        { id := 0, kind := .decode, job := id, idx := i, ctx := c, order := 0, part := 0, parts := 1, pic := e.2.1,
          format := outFormat x.codec e.2.1.depth e.2.1.mono, epoch := x.epoch, tail := !bit t.param 8 && !opens && e.1 + 1 == pics.length,
          time := if e.2.1.here then time else x.openTime, came := t.startTick, shown := e.2.2, pool := x.pool, owner := j.part }
        (if e.2.1.existing then 1 else min x.maxCores (max 1 e.2.1.parts))),
      Plan.when (!supported) (medEvent 1 c id i pgMED),
      Plan.when m.2.isEmpty (endOp id i)] s

def medDecodeOp (id i : Nat) (pics : List CodedPic) (sets : List ParamSet) (opens : Bool) (s : State) (j : Job) (t : Stroke) : OpOut :=
  let a := t.opnds.getD 0 0
  let n := t.opnds.getD 1 0
  { reads := [(a, n)],
    check := lowest [failIf (badCtx s j t || (s.stream (fld t.param 7 0)).encode || fld t.param 31 10 != 0 || t.opnds.getD 3 0 != 0) 35,
      failIf (n == 0 || decide (16777216 < n) || !s.placeOk j.part a n) 38],
    more := decodeChunk id i pics sets opens }

/-- MED_DECODE: `pics` are the pictures whose last byte lies in the chunk, `sets` the parameter sets that it completes, and `opens` whether an access unit begins in the chunk that it does
not end. -/
def execMedDecode (job idx : Nat) (pics : List CodedPic) (sets : List ParamSet) (opens : Bool) (s : State) : Host.Outcome State Fault Refusal :=
  Plan.done (medTurnOp job idx false (runOpOpen 0x06 0x02 job idx (medDecodeOp job idx pics sets opens))) s

/-! ## med.encode (R201-R203) -/

/-- Luma samples on a side of a coding unit that the encoder uses, and its coding-unit rows (R201). -/
def encodeUnit (codec : Nat) : Nat := if codec = 1 then 16 else if codec = 2 then 32 else 64
def encodeRows (codec h : Nat) : Nat := cdiv h (encodeUnit codec)

def medEncodeOp (id i : Nat) (s : State) (j : Job) (t : Stroke) : OpOut :=
  let c := fld t.param 7 0
  let x := s.stream c
  let a := t.opnds.getD 0 0
  let d := parsePic (s.bytesAt a 64)
  let cap := t.opnds.getD 3 0
  { reads := (a, 64) :: d.spans,
    check := if !s.placeOk j.part a 64 then some (if badCtx s j t then 35 else 38)
      else lowest [
        failIf (badCtx s j t || !x.encode || fld t.param 31 9 != 0 || d.format != 1 || d.width != x.width || d.height != x.height) 35,
        failIf (badRanges s j.part [(t.opnds.getD 1 0, cap), (t.opnds.getD 2 0, 4)] ((a, 64) :: d.spans)) 38],
    more := enqueue { id := 0, kind := .encode, job := id, idx := i, ctx := c, order := 0, part := 0, parts := 1, time := 0, came := t.startTick, shown := true,
                      pool := x.pool, owner := j.part, format := 1,
                      pic := { width := x.width, height := x.height, depth := 8, mono := false, unit := encodeUnit x.codec, matrix := 0, fullRange := false, poc := 0, here := true, starts := false,
                               shows := true, early := false, existing := false, silent := false, rap := false, refs := [], keep := false, longTerm := false,
                               outputs := [], drops := [], rows := encodeRows x.codec x.height, parts := 1 } } 1 }

/-- MED_ENCODE: the picture joins the queue (R203, R204). -/
def execMedEncode (job idx : Nat) (s : State) : Host.Outcome State Fault Refusal :=
  Plan.done (medTurnOp job idx false (runOpOpen 0x06 0x03 job idx (medEncodeOp job idx))) s

/-- The picture number in the sweep that the next picture takes (R202). -/
def nextSweep (x : StreamCtx) (newSweep overflow : Bool) : Nat :=
  if overflow then 0 else if newSweep then 1 % max 1 x.refresh else if x.coded = 0 then 0 else (x.sweep + 1) % max 1 x.refresh

/-- How the next picture of an encode context is coded; `q` is the QP that the rate control chooses where it averages, a free value up to QP_MAX (R201-R203; log entry 32). -/
def encodePlan (x : StreamCtx) (newSweep : Bool) (q : Nat) : EncPlan :=
  let p := max 1 x.refresh
  let j := if newSweep then 0 else x.sweep
  let cols := cdiv x.width (encodeUnit x.codec)
  let intra := x.lastRef.isNone
  { number := x.coded, sweep := j, intra := intra, first := if intra then 0 else j * cols / p, last := if intra then cols else (j + 1) * cols / p,
    refs := x.lastRef.toList ++ (if x.ltrInterval = 0 then [] else x.longRef.toList),
    recovery := if j = 0 ∧ !intra ∧ x.codec ≠ 3 then some (p - 1) else none,
    longTerm := x.ltrInterval != 0 && (intra || x.coded % x.ltrInterval == 0),
    qp := if !x.averageRate then x.qp else if intra then min x.qp x.qpMax else q % (x.qpMax + 1) }

/-- What an encode context keeps of a picture that has been coded; one that exceeds the capacity is no reference (R202, R203). -/
def StreamCtx.coded' (x : StreamCtx) (plan : EncPlan) (newSweep excess : Bool) : StreamCtx :=
  { x with state := 1, coded := x.coded + 1, sweep := nextSweep x newSweep excess, plan := some plan,
           lastRef := if excess then x.lastRef else some plan.number, longRef := if plan.longTerm && !excess then some plan.number else x.longRef }

/-- An encoded picture is done: its bytes and their count are written, or nothing and a count of 0 when it exceeds the capacity (R203). -/
def encodeDone (n : Nat) (w : MedWork) (coded : List Byte) (leave : Plan) : Plan := withFree (fun q => fun s =>
  let t := (s.job w.job).stroke w.idx
  let excess := decide (t.opnds.getD 3 0 < coded.length)
  let writes := (if excess then [] else [(t.opnds.getD 1 0, coded)]) ++ [(t.opnds.getD 2 0, leBytes 4 (if excess then 0 else coded.length))]
  withAccess w.job w.idx { cls := 0, core := some n } [] writes (Plan.seq [
    leave,
    Plan.each writes (fun x => strokeWrite w.job w.idx false x.1 x.2),
    modStream w.ctx (fun x => x.coded' (encodePlan x (bit t.param 8) q) (bit t.param 8) excess),
    Plan.when excess (medEvent 4 w.ctx w.job w.idx pgMED),
    mediaEnds [(w.job, w.idx)]]) s)

/-! ## med.page (R207-R209) -/

/-- FORMAT of a decoded page (R208, R209). -/
def pageFormat (p : PageSpec) : Nat := if p.kind = 0 && p.info.colour then 1 else 3

/-- The header of a JPEG page whose decoding has not ended. -/
def pageUnknown : PageInfo := { ok := true, width := 0, height := 0, colour := false, halfWidth := false, halfHeight := false, restart := 0 }

/-- The work of a page for the queue of the page decoders. -/
def pageWork (id i : Nat) (p : PageSpec) (w h came pool owner : Nat) (intake : Option (Nat × Nat)) : MedWork :=
  { id := 0, kind := if p.kind = 0 then .jpeg else .bilevel, job := id, idx := i, ctx := 0xFF, order := 0, part := 0, parts := 1, time := 0, came := came, shown := true,
    pool := pool, owner := owner, format := pageFormat p, page := p, intake := intake,
    pic := { width := w, height := h, depth := 8, mono := false, unit := 8, matrix := 0, fullRange := true, poc := 0, here := true, starts := true, shows := true, early := false,
             existing := false, silent := false, rap := false, refs := [], keep := false, longTerm := false, outputs := [], drops := [], rows := 0, parts := 1 } }

def medPageOp (id i : Nat) (page : PageInfo) (s : State) (j : Job) (t : Stroke) : OpOut :=
  let a := t.opnds.getD 0 0
  let b := s.bytesAt a 64
  let input := rdN b 0 6
  let len := rdN b 8 4
  let kind := fld (rdN b 0xC 1) 1 0
  let jpeg := kind == 0
  let w := if jpeg then page.width else rdN b 0x10 2
  let h := if jpeg then page.height else rdN b 0x12 2
  { reads := [(a, 64), (input, len)],
    check := if !s.placeOk j.part a 64 then some 38
      else lowest [
        failIf (t.param != 0 || (t.opnds.drop 2).any (· != 0) || w == 0 || h == 0 || decide (16384 < w) || decide ((if jpeg then 16384 else 32768) < h) ||
          (jpeg && !page.ok)) 36,
        failIf (len == 0 || decide (268435456 < len) || badRanges s j.part [(t.opnds.getD 1 0, 64)] [(a, 64), (input, len)]) 38],
    more := enqueue (pageWork id i { kind := kind, blackIsZero := bit (rdN b 0xC 1) 2, lsbFirst := bit (rdN b 0xC 1) 3, eolAligned := bit (rdN b 0xC 1) 4, input := input, len := len,
                                     info := page } w h t.startTick (fld (rdN b 0xD 1) 3 0) j.part none) 1 }

/-- MED_PAGE: the page joins the queue of the page decoders; `page` is what a JPEG header says. -/
def execMedPage (job idx : Nat) (page : PageInfo) (s : State) : Host.Outcome State Fault Refusal :=
  Plan.done (runOpOpen 0x06 0x08 job idx (medPageOp job idx page)) s

/-! ## Starting (R197, R200, R204) -/

def MedWork.isPage (w : MedWork) : Bool := w.kind = .jpeg || w.kind = .bilevel

/-- The class of an entry: the context's until a part of the picture has started; pages are BULK (R204, R205, R229). -/
def State.workClass (s : State) (w : MedWork) : Nat := if w.isPage then 0 else w.cls.getD (s.stream w.ctx).cls

/-- The order of the queue: class, effective priority, acceptance (R204). -/
def State.workBefore (s : State) (a b : MedWork) : Bool :=
  let ca := s.workClass a
  let cb := s.workClass b
  let ea := (s.job a.job).eff
  let eb := (s.job b.job).eff
  decide (cb < ca) || (ca == cb && (decide (eb < ea) || (ea == eb && decide (a.id ≤ b.id))))

def insertWork (s : State) (w : MedWork) : List MedWork → List MedWork
  | [] => [w]
  | v :: vs => if s.workBefore w v then w :: v :: vs else v :: insertWork s w vs

/-- An entry may start: it has not, it awaits no buffer, its end is known, and the pictures of its context before it are done (R191, R192). -/
def State.mayStart (s : State) (w : MedWork) : Bool :=
  w.core.isNone && w.waitSince.isNone && !w.tail && (w.isPage || !s.medQueue.any (fun v => !v.isPage && v.ctx == w.ctx && decide (v.order < w.order)))

/-- The cores or page decoders that may take an entry, lowest first (R204, R215, R217). -/
def State.coresFor (s : State) (w : MedWork) : List Nat :=
  match w.kind with
  | .jpeg => [16, 17].filter (fun n => (s.core n).work == 0)
  | .bilevel => [18, 19].filter (fun n => (s.core n).work == 0)
  | _ => (List.range 8).filter (fun n =>
      let c := s.core n
      c.work == 0 && !c.withdrawn && (Tab.get {} s.modeUnits (pgCC n)).pending == 0 &&
      !(match s.reserve.running with | some r => r.kind == 2 && r.index == n && decide (2 ≤ s.reserve.phase) | none => false) &&
      (s.mode (pgCC n) != 1 || s.workClass w == 2))

/-- The first entry that a free core or decoder may serve, and where. -/
def State.nextWork (s : State) : Option (MedWork × Nat) :=
  ((s.medQueue.filter s.mayStart).foldl (fun l w => insertWork s w l) []).findSome? (fun w => (s.coresFor w).head?.map (fun n => (w, n)))

/-- Changes every part of a picture in the queue. -/
def modWorks (order : Nat) (f : MedWork → MedWork) : Plan := fun s => [.medQueue (s.medQueue.map (fun w => if w.order = order then f w else w))]

/-- A picture is dropped: it counts, an event is recorded and its context enters RESYNC (R200, R281). -/
def dropPicture (w : MedWork) : Plan := fun s =>
  Plan.seq [
    Plan.act (.medQueue (s.medQueue.filter (fun v => v.order != w.order))),
    modStream w.ctx (fun x => { x with dropped := satAdd 0xFFFFFFFF x.dropped 1 }),
    medEvent 2 w.ctx w.job w.idx pgMED,
    mediaEnds [(w.job, w.idx)],
    resync w.ctx] s

/-- An entry tries to take its output buffer: taken, waited for, or no pool fits (R200, R207, R281). -/
def takeBuffer (w : MedWork) : Plan := fun s =>
  let a := allocate s w.owner w.pool (pictureBytes w.pic.width w.pic.height w.format)
  Plan.andThen a.2
    (match a.1 with
     | .got h _ => modWorks w.order (fun v => { v with handle := h + 1, waitSince := none })
     | .noFit => if w.isPage then faultStroke w.job w.idx 0x30 0 pgMED else dropPicture w
     | _ => fun s => modWorks w.order (fun v => { v with waitSince := some (v.waitSince.getD s.ticks), tried := s.ticks }) s) s

/-- An entry occupies its core; with its first part a picture's class and deadline are settled (R205, R206). -/
def occupy (w : MedWork) (n : Nat) : Plan := fun s =>
  let x := s.stream w.ctx
  let k := s.workClass w
  let due := if w.cls.isSome then w.deadline else if !w.isPage && k == 2 && x.deadline != 0 then some (w.came + x.deadline) else none
  Plan.andThen (Plan.act (.cores n { s.core n with work := w.id + 1, cls := k, rows := 0, panic := false, panicStart := 0, cut := false }))
    (Plan.act (.medQueue (s.medQueue.map (fun v =>
      if v.id = w.id then { v with core := some n, cls := some k, deadline := due, begun := s.ticks } else if v.order = w.order then { v with cls := some k, deadline := due } else v)))) s

/-- PICTURE_START: the first entry that a free core may serve starts, with its output buffer; without one it leaves the core and waits. -/
def pictureStart : Plan := fun s =>
  match s.nextWork with
  | none => []
  | some (w, n) =>
    if w.handle != 0 || w.kind = .encode || w.pic.existing || w.intake.isSome then occupy w n s
    else Plan.andThen (takeBuffer w) (fun s =>
      match s.medQueue.find? (fun v => v.id == w.id) with
      | some v => if v.handle = 0 then [] else occupy v n s
      | none => []) s

def execPictureStart (s : State) : Host.Outcome State Fault Refusal := Plan.done pictureStart s

/-- POOL_WAIT_RETRY: an entry that waits for a buffer tries again after 100 µs (R200). -/
def poolWaitRetry (id : Nat) : Plan := fun s =>
  match s.medQueue.find? (fun w => w.id == id) with
  | some w => if w.waitSince.isSome ∧ w.tried + 100 ≤ s.ticks then takeBuffer w s else []
  | none => []

def execPoolWaitRetry (work : Nat) (s : State) : Host.Outcome State Fault Refusal := Plan.done (poolWaitRetry work) s

/-- MED_POOL_WAIT_EXPIRY: the wait has reached MED_POOL_WAIT; a picture is dropped, the job of a page is killed with FAULT_TIMEOUT (R200, R207). -/
def medPoolWaitExpiry (id : Nat) : Plan := fun s =>
  match s.medQueue.find? (fun w => w.id == id) with
  | some w =>
    (match w.waitSince with
     | some t0 =>
       if t0 + s.reg 0 pgMED 0x128 % 2 ^ 16 ≤ s.ticks then (if w.isPage then faultStroke w.job w.idx 0x32 0 pgMED s else dropPicture w s) else []
     | none => [])
  | none => []

def execMedPoolWaitExpiry (work : Nat) (s : State) : Host.Outcome State Fault Refusal := Plan.done (medPoolWaitExpiry work) s

/-! ## Output (R194, R199, R234) -/

/-- The descriptor of a picture that a context outputs now. -/
def outputDesc (s : State) (c : Nat) (d : Decoded) : PicDesc :=
  let x := s.stream c
  let late := match d.deadline with | some t => decide (t < s.ticks) | none => false
  { bufferDesc s d.handle d.width d.height d.format with
    matrix := d.matrix, fullRange := d.fullRange, context := c, time := d.time, number := (x.number + 1) % 2 ^ 32, poc := d.poc % 2 ^ 32,
    concealed := d.concealed,
    flags := bitAt d.patched 0 + bitAt d.tainted 1 + bitAt d.rap 2 + bitAt x.first 3 + bitAt d.longTerm 4 + bitAt late 5 }

/-- What a context counts for a picture that it outputs. -/
def countOutput (c : Nat) (late : Bool) : Plan :=
  modStream c (fun x => { x with number := (x.number + 1) % 2 ^ 32, first := false, late := if late then satAdd 0xFFFFFFFF x.late 1 else x.late })

/-- A unit adds a reference to a buffer; a refused add is counted in the buffer's slice and changes nothing (R283). -/
def unitAdd (h : Nat) : Plan := fun s =>
  let a := addRef s h
  if a.1 then a.2 s else refRefused ((s.pool (fld h 23 20)).sliceOf (fld h 19 0)) (fld h 23 20) s

/-- A picture is output, with one more reference: to its registration group, or to the picture ring, unless that is full (R194, R234). -/
def outputPicture (id i c : Nat) (d : Decoded) : Plan := fun s =>
  let x := s.stream c
  let o := outputDesc s c d
  let head := s.numAt (x.ring + 4) 4
  if x.group ≠ 0 then
    let g : RegGroup := Tab.get {} s.regGroups (x.group - 1)
    Plan.seq [unitAdd d.handle,
      Plan.act (.regGroups (x.group - 1) { g with arrivals := g.arrivals ++ [(x.member, { desc := o.bytes, handle := d.handle })] }),
      countOutput c (bit o.flags 5)] s
  else if (x.tail + 2 ^ 32 - head) % 2 ^ 32 = 2 ^ x.ringLog2 then
    modStream c (fun x => { x with dropped := satAdd 0xFFFFFFFF x.dropped 1 }) s
  else
    Plan.seq [unitAdd d.handle,
      strokeWrite id i false (x.ring + 64 + x.tail % 2 ^ x.ringLog2 * 64) o.bytes,
      strokeWrite id i false x.ring (leBytes 4 ((x.tail + 1) % 2 ^ 32)),
      modStream c (fun x => { x with tail := (x.tail + 1) % 2 ^ 32 }),
      countOutput c (bit o.flags 5),
      semAdd ((s.job id).tableIndex i) (x.owner - 1) x.sem] s

/-- Changes the first entry of a list that has a property. -/
def modFirst {α : Type} (p : α → Bool) (f : α → α) : List α → List α
  | [] => []
  | a :: as => if p a then f a :: as else a :: modFirst p f as

/-- Output is open to a picture: it was accepted since the context last joined, at or after the point at which output resumes (R198). -/
def StreamCtx.shows (x : StreamCtx) (d : Decoded) : Bool := !d.hidden && d.epoch == x.epoch

/-- DROP_CONCEALED keeps a picture back (R199). -/
def StreamCtx.keepsBack (x : StreamCtx) (d : Decoded) : Bool := x.dropConcealed && (d.patched || d.tainted)

/-- The pictures that leave for the ring or the group as the output process reaches a list of order counts. -/
def StreamCtx.leaving (x : StreamCtx) (pocs : List Nat) : List Decoded :=
  (pocs.filterMap (fun p => x.dpb.find? (fun d => d.waits && d.poc == p))).filter (fun d => x.shows d && !x.keepsBack d)

/-- The output process reaches an order count: the picture that awaits output with it leaves, unless it is hidden or suppressed (R198, R199). -/
def outputCount (id i c : Nat) (poc : Nat) : Plan := fun s =>
  let x := s.stream c
  let hit (d : Decoded) : Bool := d.waits && d.poc == poc
  match x.dpb.find? hit with
  | none => []
  | some d =>
    Plan.andThen (modStream c (fun x => { x with dpb := modFirst hit (fun d => { d with waits := false }) x.dpb }))
      (if !x.shows d then Plan.skip
       else if x.keepsBack d then modStream c (fun x => { x with suppressed := satAdd 0xFFFFFFFF x.suppressed 1 })
       else outputPicture id i c d) s

/-- Pictures that are neither references nor awaiting output leave the context (R194). -/
def pruneDpb (c : Nat) : Plan := fun s =>
  let x := s.stream c
  Plan.andThen (Plan.act (.streams c { x with dpb := x.dpb.filter (fun d => d.isRef || d.waits) }))
    (Plan.each ((x.dpb.filter (fun d => !(d.isRef || d.waits))).map (·.handle)) releaseRef) s

/-! ## A picture is done (R194, R196, R199) -/

/-- The reference that concealment takes samples from: of those of the picture's size and format the nearest in output order, the earlier of two as near (R199; log entry 32). -/
def StreamCtx.nearestRef (x : StreamCtx) (w : MedWork) : Option Decoded :=
  let far (d : Decoded) : Nat := ((d.poc : Int) - (w.pic.poc : Int)).natAbs
  (x.dpb.filter (fun d => d.isRef && d.width == w.pic.width && d.height == w.pic.height && d.format == w.format)).foldl (fun b d => match b with
    | none => some d
    | some e => if decide (far d < far e) || (far d == far e && decide (d.poc < e.poc)) then some d else some e) none

/-- The decoded picture that a finished entry gives: what was concealed, and whether it is tainted. References missing before a recovery carry no flag into the output (R198, R199). -/
def decodedOf (x : StreamCtx) (w : MedWork) (damaged : Nat) : Decoded :=
  let p := w.pic
  let found (r : Nat) : Option Decoded := x.dpb.reverse.find? (fun d => d.isRef && d.poc == r)
  let missing := p.refs.any (fun r => (found r).isNone)
  let bad := p.refs.any (fun r => match found r with | some d => d.patched || d.tainted | none => w.shown)
  let units := if !w.shown && missing then 0 else damaged
  { poc := p.poc, handle := w.handle - 1, width := p.width, height := p.height, format := w.format,
    matrix := if decide (2 < p.matrix) then x.matrixDefault else p.matrix, fullRange := p.fullRange,
    concealed := units, patched := units != 0 || (w.shown && missing), tainted := bad && !p.rap, rap := p.rap, longTerm := p.longTerm, time := w.time,
    deadline := w.deadline, isRef := p.keep, waits := !p.silent, hidden := !w.shown, epoch := w.epoch }

/-- What a context holds once an entry is done: one more picture, or an existing frame to which output is now open. -/
def StreamCtx.afterPicture (x : StreamCtx) (w : MedWork) (damaged : Nat) : StreamCtx :=
  if w.pic.existing then
    { x with dpb := x.dpb.map (fun d =>
      if w.pic.outputs.contains d.poc then { d with waits := true, hidden := d.hidden && !w.shown, epoch := if w.shown then w.epoch else d.epoch, time := w.time, deadline := w.deadline } else d) }
  else
    let d := decodedOf x w damaged
    { x with dpb := x.dpb ++ [d], concealed := if d.patched then satAdd 0xFFFFFFFF x.concealed 1 else x.concealed }

/-- The accesses to a picture ring for pictures that leave: HEAD is read, entries and TAIL are written as far as there is room (R194). -/
def StreamCtx.ringReads (x : StreamCtx) (outs : List Decoded) : List (Nat × Nat) := outs.map (fun _ => (x.ring + 4, 4))
def StreamCtx.ringWrites (x : StreamCtx) (s : State) (outs : List Decoded) : List (Nat × List Byte) :=
  let room := 2 ^ x.ringLog2 - (x.tail + 2 ^ 32 - s.numAt (x.ring + 4) 4) % 2 ^ 32
  ((outs.take room).mapIdx (fun k _ => [(x.ring + 64 + (x.tail + k) % 2 ^ x.ringLog2 * 64, zeros 64), (x.ring, zeros 4)])).flatten

/-- A decoded picture is complete: it is written and held, the output process goes on, and references end. -/
def decodeDone (n : Nat) (w : MedWork) (damaged : List Nat) (leave : Plan) : Plan := withFree (fun f => withFree (fun g => fun s =>
  let x := s.stream w.ctx
  let units := damaged.dedup
  let rows := if w.pic.existing then []
    else decodedRows s (bufferDesc s (w.handle - 1) w.pic.width w.pic.height w.format) w.pic.unit units
      ((x.nearestRef w).map (fun d => bufferDesc s d.handle d.width d.height d.format)) f g
  let y := x.afterPicture w units.length
  let outs := if y.group = 0 then y.leaving w.pic.outputs else []
  withAccess w.job w.idx { cls := 0, core := some n } (y.ringReads outs) (rows ++ y.ringWrites s outs) (Plan.seq [
    leave,
    Plan.each (y.ringReads outs) (fun r => strokeRead w.job w.idx false false r.1 r.2),
    Plan.each rows (fun r => strokeWrite w.job w.idx false r.1 r.2),
    Plan.look (fun s1 => if (s1.job w.job).killed.isSome then Plan.skip else Plan.seq [
      Plan.act (.streams w.ctx y),
      Plan.each w.pic.outputs (outputCount w.job w.idx w.ctx),
      modStream w.ctx (fun x => { x with dpb := x.dpb.map (fun d => if w.pic.drops.contains d.poc then { d with isRef := false } else d) }),
      pruneDpb w.ctx,
      mediaEnds [(w.job, w.idx)]])]) s))

/-- The work that a core runs. -/
def State.workOn (s : State) (n : Nat) : Option MedWork := s.medQueue.find? (fun w => w.core == some n)

/-- PICTURE_DONE: a core finishes a picture or a part of one; `damaged` are the coding units that it concealed, in raster order, `coded` the bytes of an encode.
A picture is done with its last part (R196, R197). -/
def pictureDone (n : Nat) (damaged : List Nat) (coded : List Byte) : Plan := fun s =>
  match s.workOn n with
  | none => []
  | some w =>
    if w.isPage then []
    else
      let rest := s.medQueue.filter (fun v => v.id != w.id)
      let leave : Plan := Plan.seq [
        Plan.act (.cores n { s.core n with work := 0, panic := false }),
        bumpWrap (pgCC n) 0x104 (codedSamples (s.stream w.ctx).codec w.pic.width w.pic.height / w.parts / 256),
        Plan.act (.medQueue (rest.map (fun v => if v.order = w.order then { v with damaged := v.damaged ++ damaged } else v)))]
      if rest.any (fun v => v.order == w.order) then leave s
      else if w.kind = .encode then encodeDone n w coded leave s
      else decodeDone n w (w.damaged ++ damaged) leave s

def execPictureDone (core : Nat) (damaged : List Nat) (coded : List Byte) (s : State) : Host.Outcome State Fault Refusal := Plan.done (pictureDone core damaged coded) s

/-- PAGE_DECODE_DONE: a page decoder finishes its page and writes its picture descriptor; `errors` are the MCUs of a JPEG page at which an entropy error was met (R207-R209). -/
def pageDecodeDone (d : Nat) (errors : List Nat) : Plan := fun s =>
  match s.workOn (16 + d) with
  | none => []
  | some w =>
    if w.intake.isSome then []
    else
      let o := { bufferDesc s (w.handle - 1) w.pic.width w.pic.height w.format with fullRange := true, context := 0xFF }
      let r := decodedPage s w.page o errors
      let o := { o with concealed := r.2, flags := bitAt (r.2 != 0) 0 }
      let writes := r.1 ++ [(((s.job w.job).stroke w.idx).opnds.getD 1 0, o.bytes)]
      withAccess w.job w.idx { cls := 1 } [] writes (Plan.seq [
        Plan.act (.cores (16 + d) { s.core (16 + d) with work := 0 }),
        Plan.act (.medQueue (s.medQueue.filter (fun v => v.id != w.id))),
        Plan.each writes (fun x => strokeWrite w.job w.idx false x.1 x.2),
        mediaEnds [(w.job, w.idx)]]) s

def execPageDecodeDone (decoder : Nat) (errors : List Nat) (s : State) : Host.Outcome State Fault Refusal :=
  Plan.done (Plan.when (decide (decoder < 4)) (pageDecodeDone decoder errors)) s

/-! ## The panic (R206) -/

/-- CTU_ROW_DONE: a core has finished a row; a LIVE picture with a deadline that is late asserts the panic, one that is late no longer ends it. -/
def ctuRowDone (n : Nat) : Plan := fun s =>
  match s.workOn n with
  | none => []
  | some w =>
    let c := s.core n
    let rows := max 1 w.pic.rows
    let done := min rows (c.rows + 1)
    let slack := fld (s.reg 0 pgMED 0x120) 15 0
    let left : Int := match w.deadline with | some t => (t : Int) - (s.ticks : Int) | none => 0
    let late := w.deadline.isSome && c.cls == 2 && !c.cut &&
      decide (left * ((rows * 1000 : Nat) : Int) < (((rows - done) * codedSamples (s.stream w.ctx).codec w.pic.width w.pic.height + slack * rows * 1000 : Nat) : Int))
    Plan.andThen
      (Plan.act (.cores n { c with rows := done, panic := late, panicStart := if c.panic then c.panicStart else s.ticks }))
      (Plan.when (late && !c.panic) (bumpField pgMED 0x124 15 0 1)) s

def execCtuRowDone (core : Nat) (s : State) : Host.Outcome State Fault Refusal := Plan.done (Plan.when (decide (core < 8)) (ctuRowDone core)) s

/-- PANIC_MAX_EXPIRY: a panic that has lasted MAX_US ends, counts and is recorded, and is not asserted again for the picture. -/
def panicMaxExpiry (n : Nat) : Plan := fun s =>
  match s.workOn n with
  | none => []
  | some w =>
    let c := s.core n
    if c.panic ∧ c.panicStart + fld (s.reg 0 pgMED 0x120) 31 16 ≤ s.ticks then
      Plan.seq [
        Plan.act (.cores n { c with panic := false, cut := true }),
        bumpField pgMED 0x124 31 16 1,
        raiseErr (pgCC n) 2 [],
        medEvent 3 w.ctx w.job w.idx (pgCC n)] s
    else []

def execPanicMaxExpiry (core : Nat) (s : State) : Host.Outcome State Fault Refusal := Plan.done (Plan.when (decide (core < 8)) (panicMaxExpiry core)) s

/-! ## Parity (R215) -/

/-- The event of a parity detection, and the kill of the job that met it. -/
def mediaParity (code page id i : Nat) : Plan := fun s =>
  let j := s.job id
  Plan.andThen (event { cls := 3, code := code, stroke := j.tableIndex i, part := j.part, charged := true, fn := j.fn, page := page }) (killJob id 0x31) s

/-- MEDIA_PARITY_DETECT: a detection in the SRAM of a core, in a page decoder's buffer or in the crop-warp-scale unit's line buffers. -/
def mediaParityDetect : MediaUnit → Plan
  | .core n => fun s =>
    match s.workOn n with
    | none => []
    | some w =>
      if 8 ≤ n then []
      else Plan.seq [bumpField (pgCC n) 0x10C 15 0 1, raiseErr (pgCC n) 0 [], mediaParity 3 (pgCC n) w.job w.idx, countMetric 2 1 n] s
  | .page d => fun s =>
    match s.workOn (16 + d) with
    | none => []
    | some w => mediaParity 3 pgMED w.job w.idx s
  | .cws id i => fun s =>
    let t := (s.job id).stroke i
    if (s.job id).phase = .running ∧ (s.job id).killed.isNone ∧ t.state = .running ∧ ((t.cls = 6 ∧ t.op = 0x10) ∨ (t.cls = 7 ∧ t.op = 2)) then
      Plan.seq [bumpField pgSCL 0x10C 15 0 1, raiseErr pgSCL 0 [], mediaParity 4 pgSCL id i] s
    else []

def execMediaParityDetect (site : MediaUnit) (s : State) : Host.Outcome State Fault Refusal := Plan.done (mediaParityDetect site) s

end Sys2Proof.Machine
end

