-- ==== Sys2Proof/Machine/Cws.lean ====
section
/-! DEFINITION. The crop-warp-scale unit (R210-R213): its parameter block and ROI entries, the source position, sampling, colour conversion and normalisation,
and what is written, as a tensor or as NV12 pictures. -/
namespace Sys2Proof.Machine

/-- The CWS parameter block (R210). -/
structure CwsParam where
  count : Nat
  outW : Nat
  outH : Nat
  channels : Nat
  bgr : Bool
  chw : Bool
  picture : Bool
  interp : Nat
  matrixOvr : Nat
  rangeOvr : Nat
  pool : Nat
  countAddr : Nat
  mean : List Nat
  scale : List Nat
  border : List Nat
  deriving DecidableEq, Repr

def parseCws (b : List Byte) : CwsParam :=
  let f := rdN b 6 1
  let g := rdN b 7 1
  { count := rdN b 0 2, outW := rdN b 2 2, outH := rdN b 4 2, channels := fld f 1 0, bgr := bit f 2, chw := bit f 3, picture := bit f 4, interp := fld f 6 5,
    matrixOvr := fld g 1 0, rangeOvr := fld g 3 2, pool := fld g 7 4, countAddr := rdN b 8 6,
    mean := [rdN b 0x10 4, rdN b 0x14 4, rdN b 0x18 4], scale := [rdN b 0x1C 4, rdN b 0x20 4, rdN b 0x24 4],
    border := [rdN b 0x28 1, rdN b 0x29 1, rdN b 0x2A 1] }

/-- A ROI entry (R210). -/
structure Roi where
  a : List FVal
  width : Nat
  skip : Bool
  deriving DecidableEq, Repr

def parseRoi (b : List Byte) : Roi :=
  { a := (List.range 6).map (fun k => ofBits32 (rdN b (4 * k) 4)), width := rdN b 0x18 2, skip := bit (rdN b 0x1A 1) 0 }

def Roi.c (r : Roi) (k : Nat) : FVal := r.a.getD k .zero

/-- The entry that scales the whole picture to the output size (R223). -/
def wholeRoi (w h outW outH : Nat) : Roi :=
  { a := [(FVal.ofInt w).div (FVal.ofInt outW), .zero, .zero, .zero, (FVal.ofInt h).div (FVal.ofInt outH), .zero], width := 0, skip := false }

def oneF : FVal := .fin false 1 0
def halfF : FVal := .fin false 1 (-1)

/-! ## The source position and sampling (R211) -/

/-- The source position of an output position, given as its coordinates plus 0.5. -/
def sourcePos (r : Roi) (x y : FVal) : FVal × FVal :=
  (((((r.c 0).mul x).add ((r.c 1).mul y)).add (r.c 2)).sub halfF, ((((r.c 3).mul x).add ((r.c 4).mul y)).add (r.c 5)).sub halfF)

/-- The position lies inside a source of `w` × `h` samples. -/
def insideSource (w h : Nat) (p : FVal × FVal) : Bool :=
  let lo := halfF.neg
  p.1.ge lo && p.1.lt ((FVal.ofInt w).addX lo) && p.2.ge lo && p.2.lt ((FVal.ofInt h).addX lo)

/-- A finite value as an integer over a power of two. -/
def FVal.ratio : FVal → Int × Nat
  | .fin n m e => (signedAt n m e (Min.min e 0), (-(Min.min e 0)).toNat)
  | _ => (0, 0)

def FVal.floor (v : FVal) : Int := v.ratio.1 / ((2 ^ v.ratio.2 : Nat) : Int)
/-- The fraction above the floor, rounded half-even to multiples of 1/256. -/
def FVal.frac256 (v : FVal) : Nat := rneShift ((v.ratio.1 % ((2 ^ v.ratio.2 : Nat) : Int)).toNat * 256) v.ratio.2

/-- A sample index clamped to the plane's edge. -/
def clampIdx (i : Int) (n : Nat) : Nat := (Min.min (Max.max i 0) ((n : Int) - 1)).toNat

/-- The samples along one axis whose unit cells overlap a box of extent `a` centred on a position, with their overlaps in 1/256 (log entry 33 for ties). -/
def areaWeights (p a : FVal) (n : Nat) : List (Nat × Nat) :=
  let x := p.ratio
  let y := a.ratio
  let k := Nat.max x.2 y.2 + 2
  let one : Int := (2 ^ k : Nat)
  let c := x.1 * ((2 ^ (k - x.2) : Nat) : Int)
  let h := y.1 * ((2 ^ (k - y.2 - 1) : Nat) : Int)
  let i0 := (c - h + one / 2) / one
  let i1 := (c + h + one / 2) / one
  (List.range (i1 + 1 - i0).toNat).map (fun d =>
    let i := i0 + (d : Int)
    let cover := Min.min (c + h) (i * one + one / 2) - Max.max (c - h) (i * one - one / 2)
    (clampIdx i n, rneShift (cover.toNat * 256) k))

/-- A plane of samples: its size and what it holds. -/
structure Plane where
  w : Nat
  h : Nat
  sample : Nat → Nat → Nat

/-- A plane sampled at a position: 0 = nearest, 1 = bilinear, 2 = area over a box of `ax` × `ay` (log entry 33). -/
def Plane.take (pl : Plane) (interp : Nat) (ax ay : FVal) (p : FVal × FVal) : Nat :=
  if interp = 0 then pl.sample (clampIdx (p.1.addX halfF).floor pl.w) (clampIdx (p.2.addX halfF).floor pl.h)
  else if interp = 1 then
    let x := p.1.floor
    let y := p.2.floor
    let fx := p.1.frac256
    let fy := p.2.frac256
    let t (dx dy : Nat) : Nat := pl.sample (clampIdx (x + (dx : Int)) pl.w) (clampIdx (y + (dy : Int)) pl.h)
    ((256 - fx) * (256 - fy) * t 0 0 + fx * (256 - fy) * t 1 0 + (256 - fx) * fy * t 0 1 + fx * fy * t 1 1 + 32768) / 65536
  else
    let xs := areaWeights p.1 ax pl.w
    let ys := areaWeights p.2 ay pl.h
    let total := (ys.map (fun b => (xs.map (fun a => a.2 * b.2 * pl.sample a.1 b.1)).sum)).sum
    let weight := (xs.map (·.2)).sum * (ys.map (·.2)).sum
    if weight = 0 then 0 else (2 * total + weight) / (2 * weight)

/-- Where chroma is sampled for a luma position: the default 4:2:0 siting (R211). -/
def chromaPos (p : FVal × FVal) : FVal × FVal := ((p.1.scale (-1)).r32, ((p.2.scale (-1)).r32).sub (.fin false 1 (-2)))

/-! ## The source picture -/

/-- Bit depth of a source's samples. -/
def PicDesc.depth (d : PicDesc) : Nat := if d.format = 2 then 10 else 8

/-- One sample of a plane: P010 holds it in the upper 10 bits of its word (R194). -/
def PicDesc.code (d : PicDesc) (s : State) (a : Nat) : Nat :=
  if d.format = 2 then s.numAt a 2 / 64 else s.numAt a 1

def PicDesc.lumaPlane (d : PicDesc) (s : State) : Plane :=
  { w := d.width, h := d.height, sample := fun x y => d.code s (d.luma + y * d.pitch + x * sampleBytes d.format) }

/-- The Cb plane, or the Cr plane; a grey source has none, and its chroma is a free value (log entry 33). -/
def PicDesc.chromaPlane (d : PicDesc) (s : State) (free : Nat) (cr : Bool) : Plane :=
  { w := cdiv d.width 2, h := cdiv d.height 2,
    sample := fun x y =>
      if d.format = 3 then free / 256 ^ (2 * (y * cdiv d.width 2 + x) + (if cr then 1 else 0)) % 256
      else d.code s (d.chroma + y * d.pitch + (2 * x + if cr then 1 else 0) * sampleBytes d.format) }

/-- Y, Cb and Cr at a source position. -/
def PicDesc.ycc (d : PicDesc) (s : State) (free interp : Nat) (r : Roi) (p : FVal × FVal) : Nat × Nat × Nat :=
  ((d.lumaPlane s).take interp (r.c 0) (r.c 4) p, (d.chromaPlane s free false).take interp (r.c 0) (r.c 4) (chromaPos p),
   (d.chromaPlane s free true).take interp (r.c 0) (r.c 4) (chromaPos p))

/-! ## Colour conversion (R212) -/

def decimal (n d : Nat) : FVal := (FVal.ofInt n).div (FVal.ofInt d)

/-- kr and kb of a matrix. -/
def matrixK (m : Nat) : FVal × FVal :=
  match m with
  | 0 => (decimal 299 1000, decimal 114 1000)
  | 1 => (decimal 2126 10000, decimal 722 10000)
  | _ => (decimal 2627 10000, decimal 593 10000)

/-- y′ of a luma sample of depth `n`. -/
def lumaUnit (n : Nat) (limited : Bool) (y : Nat) : FVal :=
  if limited then ((FVal.ofInt y).sub (FVal.ofInt (16 * 2 ^ (n - 8)))).div (FVal.ofInt (219 * 2 ^ (n - 8)))
  else (FVal.ofInt y).div (FVal.ofInt (2 ^ n - 1))

/-- cb′ or cr′ of a chroma sample. -/
def chromaUnit (n : Nat) (limited : Bool) (c : Nat) : FVal :=
  if limited then ((FVal.ofInt c).sub (FVal.ofInt (128 * 2 ^ (n - 8)))).div (FVal.ofInt (224 * 2 ^ (n - 8)))
  else ((FVal.ofInt c).sub (FVal.ofInt (2 ^ (n - 1)))).div (FVal.ofInt (2 ^ n - 1))

/-- A channel value from 0 to 255. -/
def channelValue (v : FVal) : FVal := ((v.max .zero).min oneF).mul (FVal.ofInt 255)

/-- The channel values r, g, b. -/
def toRgb (m n : Nat) (limited : Bool) (y cb cr : Nat) : FVal × FVal × FVal :=
  let k := matrixK m
  let yy := lumaUnit n limited y
  let pb := chromaUnit n limited cb
  let pr := chromaUnit n limited cr
  let two := FVal.ofInt 2
  let r := yy.add ((two.mul (oneF.sub k.1)).mul pr)
  let b := yy.add ((two.mul (oneF.sub k.2)).mul pb)
  let g := ((yy.sub (k.1.mul r)).sub (k.2.mul b)).div ((oneF.sub k.1).sub k.2)
  (channelValue r, channelValue g, channelValue b)

/-- The channel values of one output pixel, before normalisation (R211, R212). -/
def pixelValues (s : State) (c : CwsParam) (d : PicDesc) (free : Nat) (r : Roi) (x y : Nat) : List FVal :=
  let w := if r.width = 0 then c.outW else r.width
  let p := sourcePos r ((FVal.ofInt x).addX halfF) ((FVal.ofInt y).addX halfF)
  let limited := if d.format = 3 then false else if c.rangeOvr = 0 then !d.fullRange else c.rangeOvr == 1
  let m := if c.matrixOvr = 0 then d.matrix else c.matrixOvr - 1
  if w ≤ x || !insideSource d.width d.height p then (c.border.take c.channels).map (fun v => FVal.ofInt v)
  else if c.channels = 1 then [channelValue (lumaUnit d.depth limited ((d.lumaPlane s).take c.interp (r.c 0) (r.c 4) p))]
  else
    let q := d.ycc s free c.interp r p
    let v := toRgb m d.depth limited q.1 q.2.1 q.2.2
    if c.bgr then [v.2.2, v.2.1, v.1] else [v.1, v.2.1, v.2.2]

/-- out_c := (v_c − mean_c) × scale_c (R212). -/
def normalise (c : CwsParam) (k : Nat) (v : FVal) : FVal := (v.sub (ofBits32 (c.mean.getD k 0))).mul (ofBits32 (c.scale.getD k 0))

/-- The elements of one ROI in the order of the output tensor: HWC or CHW (R212). -/
def roiValues (s : State) (c : CwsParam) (d : PicDesc) (free : Nat) (r : Roi) : List FVal :=
  let px (x y : Nat) : List FVal := (pixelValues s c d free r x y).mapIdx (fun k v => normalise c k v)
  if c.chw then
    (List.range c.channels).flatMap (fun k => (List.range c.outH).flatMap (fun y => (List.range c.outW).map (fun x => (px x y).getD k .zero)))
  else (List.range c.outH).flatMap (fun y => (List.range c.outW).flatMap (fun x => px x y))

/-! ## Writing the output tensor (R212) -/

/-- The part of an operand at index `r` of dimension 3. -/
def Operand.slice3 (o : Operand) (r : Nat) : Operand :=
  let x := o.scaleExt
  { o with ext := o.ext.set 3 1,
           d := { o.d with base := o.d.base + r * o.st 2, scaleBase := o.d.scaleBase + r * (x.getD 0 1 * x.getD 1 1 * x.getD 2 1) } }

/-- The writes of the indices of dimension 3 that are given with their elements: without shifts, with shifts along dimension 0, or as one block (R97, R100, R212). -/
def writeSlices (o : Operand) (s : State) (vals : List (Nat × List FVal)) : TensorOut :=
  if o.d.scaleMode = 4 then
    let sh := blockShift o.fmt (vals.flatMap (·.2))
    let parts := vals.map (fun v => (v.1, v.2.map (fun x => convertCode o.fmt (x.scale (-sh)))))
    { writes := parts.flatMap (fun v => (o.slice3 v.1).rows s (v.2.map (·.bits))) ++ [(o.d.scaleBase, [BitVec.ofNat 8 (ofSigned 8 sh)])],
      sat := (parts.map (fun v => (v.2.filter (·.sat)).length)).sum, nan := 0 }
  else
    let outs := vals.map (fun v => let p := o.slice3 v.1; p.write s { ext := p.ext, vals := v.2 })
    { writes := outs.flatMap (·.writes), sat := (outs.map (·.sat)).sum, nan := 0 }

/-- Saturations of the unit's output conversions (R212). -/
def noteSaturation (n : Nat) : Plan := Plan.when (n != 0) (Plan.andThen (bump pgSCL 0x108 n) (raiseErr pgSCL 1 []))

/-- Output pixels written, in units of 256. -/
def notePixels (n : Nat) : Plan := bumpWrap pgSCL 0x104 (n / 256)

/-! ## Checks (R210, R212, R216) -/

/-- A parameter of the block is out of range. -/
def badCwsParam (c : CwsParam) (counted : Bool) : Bool :=
  (counted && (c.count == 0 || decide (4096 < c.count))) || c.outW == 0 || decide (4096 < c.outW) || c.outH == 0 || decide (4096 < c.outH) ||
  !(c.channels == 1 || c.channels == 3) || c.interp == 3 || c.rangeOvr == 3

def badSource (d : PicDesc) : Bool := d.width == 0 || d.height == 0 || d.format == 0 || decide (3 < d.format) || d.matrix == 3

/-- A ROI entry is out of range. -/
def badRoi (c : CwsParam) (r : Roi) : Bool :=
  decide (c.outW < r.width) || (c.interp == 2 && !r.skip && !((r.c 1).eqNum .zero && (r.c 3).eqNum .zero && (r.c 0).ge oneF && (r.c 4).ge oneF))

/-- The output descriptor is not as R212 has it, apart from the extent of dimension 3. -/
def badCwsOut (c : CwsParam) (o : Operand) : Bool :=
  o.bad1 || o.bad2 || o.dynBad || o.bad10 || o.d.rank != 4 || !([1, 3, 4, 5, 6, 7].contains o.d.fmtCode) || o.badScale ||
  (decide (1 ≤ o.d.scaleMode) && decide (o.d.scaleMode ≤ 3) && (o.d.scaleAxis != 0 || decide (16384 < o.e 0))) ||
  (if c.chw then o.e 0 != c.outW || o.e 1 != c.outH || o.e 2 != c.channels else o.e 0 != c.channels || o.e 1 != c.outW || o.e 2 != c.outH)

/-! ## med.cws -/

/-- What a med.cws is given. -/
structure CwsArgs where
  c : CwsParam
  d : PicDesc
  rois : List Roi
  deriving DecidableEq, Repr

def cwsArgs (s : State) (t : Stroke) : CwsArgs :=
  let c := parseCws (s.bytesAt (t.opnds.getD 3 0) 64)
  let n := if c.countAddr = 0 then c.count else min (s.numAt c.countAddr 4) 4096
  { c := c, d := parsePic (s.bytesAt (t.opnds.getD 0 0) 64), rois := (List.range n).map (fun k => parseRoi (s.bytesAt (t.opnds.getD 1 0 + 32 * k) 32)) }

/-- ROIs that write. -/
def CwsArgs.written (a : CwsArgs) : List (Nat × Roi) := (a.rois.mapIdx (fun k r => (k, r))).filter (fun x => !x.2.skip)

/-- Ranges read besides the output descriptor. -/
def CwsArgs.ins (a : CwsArgs) (t : Stroke) : List (Nat × Nat) :=
  [(t.opnds.getD 0 0, 64), (t.opnds.getD 1 0, 32 * a.rois.length), (t.opnds.getD 3 0, 64)] ++ (if a.c.countAddr = 0 then [] else [(a.c.countAddr, 4)]) ++ a.d.spans

/-- Checks 37 and 38 of a med.cws. -/
def cwsCheck (s : State) (j : Job) (t : Stroke) (a : CwsArgs) (o : Operand) : Option Nat :=
  if [(t.opnds.getD 0 0, 64), (t.opnds.getD 3 0, 64)].any (fun r => !s.placeOk j.part r.1 r.2) || (a.c.countAddr != 0 && !s.placeOk j.part a.c.countAddr 4) then some 38
  else
    let n := a.rois.length
    let bad := t.param != 0 || badCwsParam a.c (a.c.countAddr == 0) || badSource a.d || a.rois.any (badRoi a.c) ||
      (!a.c.picture && (badCwsOut a.c o || (if a.c.countAddr = 0 then o.e 3 != n else decide (o.e 3 < n))))
    let outs := if a.c.picture then [(t.opnds.getD 2 0, 64 * n)] else [o.span, o.scaleSpan]
    lowest [failIf bad 37, failIf (badRanges s j.part outs (a.ins t ++ (if a.c.picture then [] else o.descRanges j))) 38]

/-- Buffers for `n` pictures of one size, with what taking them does. -/
def takeMany (part pool size : Nat) : Nat → State → List AllocAns × List Eff
  | 0, _ => ([], [])
  | n + 1, s =>
    let a := allocate s part pool size
    let es := a.2 s
    let r := takeMany part pool size n (s.applyAll es)
    (a.1 :: r.1, es ++ r.2)

def AllocAns.handle : AllocAns → Option Nat
  | .got h _ => some h
  | _ => none

/-- The NV12 picture of one ROI: Y, Cb and Cr sampled directly from the source planes, the chroma of output position (2x, 2y + 0.5) under the same siting
(DEDUCED: log entry 33). A 10-bit source has no stated 8-bit sample: free values. -/
def roiPicture (s : State) (c : CwsParam) (d : PicDesc) (free : Nat) (r : Roi) (o : PicDesc) : List (Nat × List Byte) :=
  let w := if r.width = 0 then c.outW else r.width
  let at8 (k v : Nat) : Byte := BitVec.ofNat 8 (if d.format = 2 then free / 256 ^ k else v)
  let inside (x : Nat) (p : FVal × FVal) : Bool := decide (x < w) && insideSource d.width d.height p
  let luma (x y : Nat) : Byte :=
    let p := sourcePos r ((FVal.ofInt x).addX halfF) ((FVal.ofInt y).addX halfF)
    if inside x p then at8 (y * c.outW + x) ((d.lumaPlane s).take c.interp (r.c 0) (r.c 4) p) else BitVec.ofNat 8 (c.border.getD 0 0)
  let chroma (x y : Nat) (cr : Bool) : Byte :=
    let p := sourcePos r ((FVal.ofInt (2 * x)).addX halfF) (FVal.ofInt (2 * y + 1))
    if inside (2 * x) p then
      at8 (c.outW * c.outH + (y * c.outW + 2 * x) + if cr then 1 else 0) ((d.chromaPlane s free cr).take c.interp (r.c 0) (r.c 4) (chromaPos p))
    else BitVec.ofNat 8 (c.border.getD (if cr then 2 else 1) 0)
  (List.range c.outH).map (fun y => (o.luma + y * o.pitch, (List.range c.outW).map (fun x => luma x y))) ++
  (List.range (cdiv c.outH 2)).map (fun y => (o.chroma + y * o.pitch, (List.range (cdiv c.outW 2)).flatMap (fun x => [chroma x y false, chroma x y true])))

/-- The pictures of the ROIs in the buffers of their handles, and their descriptors (R213). A free value for each of a picture's bytes, if the source has 10 bits. -/
def pictureWrites (s : State) (a : CwsArgs) (free dest : Nat) (hs : List Nat) : List (Nat × List Byte) :=
  (a.written.zip hs).flatMap (fun x =>
    let o := { bufferDesc s x.2 a.c.outW a.c.outH 1 with matrix := a.d.matrix, fullRange := a.d.fullRange, context := 0xFF }
    roiPicture s a.c a.d (if a.d.format = 2 then free / 256 ^ (x.1.1 * (2 * a.c.outW * a.c.outH)) else free) x.1.2 o ++ [(dest + 64 * x.1.1, o.bytes)])

/-- What a med.cws with OUT_KIND = 1 comes to: the answers of the pools, what taking the buffers does, and the writes (R213, R281). -/
def cwsPictures (s : State) (j : Job) (a : CwsArgs) (free dest : Nat) : List AllocAns × List Eff × List (Nat × List Byte) :=
  let r := takeMany j.part a.c.pool (pictureBytes a.c.outW a.c.outH 1) a.written.length s
  (r.1, r.2, pictureWrites s a free dest (r.1.filterMap AllocAns.handle))

def medCwsOp (id i free : Nat) (s : State) (j : Job) (t : Stroke) : OpOut :=
  let a := cwsArgs s t
  let o := s.operand j (t.opnds.getD 2 0)
  let pixels := a.written.length * a.c.outW * a.c.outH
  if a.c.picture then
    let p := cwsPictures s j a free (t.opnds.getD 2 0)
    if p.1.contains .noFit then { reads := a.ins t, check := cwsCheck s j t a o, more := faultStroke id i 0x30 0 pgSCL }
    else { reads := a.ins t, also := p.2.2, check := cwsCheck s j t a o,
           more := Plan.seq [(fun _ => p.2.1), Plan.each p.2.2 (fun w => strokeWrite id i false w.1 w.2), notePixels pixels] }
  else
    let out := writeSlices o s (a.written.map (fun x => (x.1, roiValues s a.c a.d free x.2)))
    { reads := a.ins t ++ o.descRanges j, writes := out.writes, check := cwsCheck s j t a o, more := Plan.seq [noteSaturation out.sat, notePixels pixels] }

/-- A med.cws waits for buffers: its pool has not enough (log entry 33). The free-list effects of having looked are kept, and what was taken goes back. -/
def cwsWaits (id i : Nat) (s : State) : Option (List Eff) :=
  let j := s.job id
  let t := j.stroke i
  let a := cwsArgs s t
  if !s.runnable id i 0x06 0x10 || !a.c.picture || (cwsCheck s j t a (s.operand j (t.opnds.getD 2 0))).isSome then none
  else
    let r := takeMany j.part a.c.pool (pictureBytes a.c.outW a.c.outH 1) a.written.length s
    if r.1.contains .noFit || r.1.all (fun x => x.handle.isSome) then none
    else some (r.2 ++ Plan.each (r.1.filterMap AllocAns.handle).reverse releaseRef (s.applyAll r.2))

/-- MED_CWS (R210-R213). -/
def execMedCws (job idx : Nat) (s : State) : Host.Outcome State Fault Refusal :=
  Plan.done (fun s => match cwsWaits job idx s with
    | some es => es
    | none => withFree (fun f => runOp 0x06 0x10 job idx (medCwsOp job idx f)) s) s

end Sys2Proof.Machine
end

