-- ==== Sys2Proof/Machine/Intake.lean ====
section
/-! DEFINITION. The intake pipeline (11_intake_pipeline.md): proof records and shards, roulette, epochs and batches, the decoded-sample cache,
and sensor registration (R218-R239). -/
namespace Sys2Proof.Machine

def State.intake (s : State) (c : Nat) : IntCtx := Tab.get {} s.intakes c
def modIntake (c : Nat) (f : IntCtx → IntCtx) : Plan := fun s => [.intakes c (f (s.intake c))]

/-! ## Roulette (R222) -/

/-- ⌈log2 n⌉. -/
def clog2 (n : Nat) : Nat := if n ≤ 1 then 0 else Nat.log2 (n - 1) + 1

/-- The round function f. -/
def rouletteF (v k : Nat) : Nat :=
  let t := Nat.xor v k * 0x85EBCA6B % 2 ^ 32
  let t := Nat.xor t (t / 2 ^ 13)
  let t := t * 0xC2B2AE35 % 2 ^ 32
  Nat.xor t (t / 2 ^ 16)

/-- The round keys. -/
def rouletteKeys (seed epoch : Nat) : List Nat :=
  (List.range 4).map (fun r => leNat ((sha256 (leBytes 8 seed ++ leBytes 4 epoch ++ leBytes 1 r)).take 4))

/-- The four-round mixing e of `h` low and `g` high bits. -/
def rouletteE (ks : List Nat) (h g x : Nat) : Nat :=
  let lo := x % 2 ^ h
  let hi := x / 2 ^ h
  let hi := Nat.xor hi (rouletteF lo (ks.getD 0 0) % 2 ^ g)
  let lo := Nat.xor lo (rouletteF hi (ks.getD 1 0) % 2 ^ h)
  let hi := Nat.xor hi (rouletteF lo (ks.getD 2 0) % 2 ^ g)
  let lo := Nat.xor lo (rouletteF hi (ks.getD 3 0) % 2 ^ h)
  hi * 2 ^ h + lo

/-- Cycle-walking: at most the 2^b values of the domain are visited. -/
def rouletteWalk (ks : List Nat) (h g n : Nat) : Nat → Nat → Nat
  | 0, x => x
  | fuel + 1, x => if x < n then x else rouletteWalk ks h g n fuel (rouletteE ks h g x)

/-- sample(p) of an epoch. -/
def roulette (n seed epoch p : Nat) : Nat :=
  let b := max 2 (clog2 n)
  let h := b / 2
  let ks := rouletteKeys seed epoch
  rouletteWalk ks h (b - h) n (2 ^ b) (rouletteE ks h (b - h) p)

/-! ## Proof records (R218, R219) -/

def IntCtx.blk (x : IntCtx) (o n : Nat) : Nat := rdN x.block o n
def IntCtx.ep (x : IntCtx) (o n : Nat) : Nat := rdN x.epoch o n
def IntCtx.count (x : IntCtx) : Nat := x.blk 0x1C 4
def IntCtx.batch (x : IntCtx) : Nat := fld (x.ep 0xC 2) 12 0
def IntCtx.bufs (x : IntCtx) : Nat := 2 ^ fld (x.ep 0xE 1) 2 0
def IntCtx.labelSlot (x : IntCtx) : Nat := x.ep 0x36 2
def IntCtx.refill (x : IntCtx) : Bool := bit (x.blk 0x30 1) 0
/-- The sample that a position of the running epoch carries. -/
def IntCtx.sampleAt (x : IntCtx) (p : Nat) : Nat := roulette x.count (x.blk 0x20 8) (x.ep 0 4) p

/-- The shard that holds a sample, from shard `k` on: its number and the sample's place in it. -/
def shardOf (s : State) (table : Nat) : Nat → Nat → Nat → Option (Nat × Nat)
  | 0, _, _ => none
  | fuel + 1, k, i =>
    let n := s.numAt (table + 32 * k + 0x10) 4
    if i < n then some (k, i) else shardOf s table fuel (k + 1) (i - n)

/-- Where the record of a sample lies, and the ranges read to learn it. -/
def recordAddr (s : State) (x : IntCtx) (i : Nat) : Nat × List (Nat × Nat) :=
  let table := x.blk 0 6
  match shardOf s table (x.blk 6 2) 0 i with
  | none => (0, [])
  | some (k, m) =>
    let e := table + 32 * k
    let o := s.numAt (e + 8) 6 + 4 * m
    (s.numAt e 6 + s.numAt o 4 * 64, [(e, 32), (o, 4)])

/-- Samples over all shards. -/
def shardSum (s : State) (table n : Nat) : Nat := ((List.range n).map (fun k => s.numAt (table + 32 * k + 0x10) 4)).sum

/-! ## int.open, int.close (R221) -/

/-- Ranges lie in the partition's GDDR6 or plate scratch, and no two outputs meet (check 42). -/
def bad42 (s : State) (p : Nat) (outs ins : List (Nat × Nat)) : Bool :=
  (outs ++ ins).any (fun r => !s.placeOk p r.1 r.2) ||
  (List.range outs.length).any (fun k => (outs.drop (k + 1)).any (fun r => overlaps (outs.getD k (0, 0)).1 (outs.getD k (0, 0)).2 r.1 r.2))

/-- Check 39 of an intake context block. -/
def badIntOpen (s : State) (j : Job) (t : Stroke) (b : List Byte) : Bool :=
  let x := s.intake (fld t.param 2 0)
  let n := rdN b 6 2
  let sem := rdN b 0xE 2
  let shard (k o m : Nat) : Nat := s.numAt (rdN b 0 6 + 32 * k + o) m
  fld t.param 31 3 != 0 || (t.opnds.drop 1).any (· != 0) || x.state != 0 || x.owner != j.part + 1 ||
  rdN b 0 6 % 32 != 0 || n == 0 || decide (256 < n) || (sem != 0xFFFF && decide ((s.part j.part).semCount ≤ sem)) || rdN b 0x10 6 % 4096 != 0 ||
  rdN b 0x1C 4 == 0 || decide (268435456 < rdN b 0x1C 4) || !s.inQuota j.part (fld (rdN b 0x31 1) 3 0) ||
  (List.range n).any (fun k => shard k 0 6 % 64 != 0 || shard k 8 6 % 4 != 0 || shard k 0x10 4 == 0) ||
  shardSum s (rdN b 0 6) n != rdN b 0x1C 4

/-- The ranges that an intake block names: outputs, and tables. -/
def intOuts (b : List Byte) : List (Nat × Nat) :=
  [(rdN b 8 6, 8 * rdN b 0x1C 4), (rdN b 0x10 6, rdN b 0x18 4 * 0x100000), (rdN b 0x28 6, 32 + 16 * rdN b 0x2E 2)]
def intIns (s : State) (b : List Byte) : List (Nat × Nat) :=
  (rdN b 0 6, 32 * rdN b 6 2) :: (List.range (rdN b 6 2)).map (fun k => (s.numAt (rdN b 0 6 + 32 * k + 8) 6, 4 * s.numAt (rdN b 0 6 + 32 * k + 0x10) 4))

def intOpenOp (s : State) (j : Job) (t : Stroke) : OpOut :=
  let a := t.opnds.getD 0 0
  let b := s.bytesAt a 64
  { reads := [(a, 64), (rdN b 0 6, 32 * rdN b 6 2)],
    writes := [(rdN b 8 6, zeros (8 * rdN b 0x1C 4))],
    check := if !s.placeOk j.part a 64 || !s.placeOk j.part (rdN b 0 6) (32 * rdN b 6 2) then some 42
      else lowest [failIf (badIntOpen s j t b) 39, failIf (bad42 s j.part (intOuts b) (intIns s b)) 42],
    more := Plan.act (.intakes (fld t.param 2 0) { owner := j.part + 1, state := 1, block := b }) }

/-- INT_OPEN (R221). -/
def execIntOpen (job idx : Nat) (s : State) : Host.Outcome State Fault Refusal := Plan.done (runOp 0x07 0x01 job idx intOpenOp) s

/-- A context returns to CLOSED, and its transient buffers to their pool (R221). -/
def closeIntake (c : Nat) : Plan := fun s =>
  let x := s.intake c
  let bufs := x.window.filterMap (fun e => match e.2 with | .ready d => if d.handle = 0 then none else some (d.handle - 1) | _ => none)
  Plan.andThen (Plan.act (.intakes c { x with state := 0, window := [], kept := [] })) (Plan.each bufs releaseRef) s

def intCloseOp (s : State) (j : Job) (t : Stroke) : OpOut :=
  let x := s.intake (fld t.param 2 0)
  { check := failIf (fld t.param 31 3 != 0 || t.opnds.any (· != 0) || x.state != 1 || x.owner != j.part + 1) 39, more := closeIntake (fld t.param 2 0) }

/-- INT_CLOSE (R221). -/
def execIntClose (job idx : Nat) (s : State) : Host.Outcome State Fault Refusal := Plan.done (runOp 0x07 0x03 job idx intCloseOp) s

/-! ## int.epoch (R223) -/

/-- The output tensors of an epoch, one per buffer. -/
def epochOuts (s : State) (j : Job) (e : List Byte) : List Operand :=
  (List.range (2 ^ fld (rdN e 0xE 1) 2 0)).map (fun k => s.operand j (rdN e 0x20 6 + 64 * k))

/-- The CWS parameters of an epoch. -/
def epochCws (s : State) (e : List Byte) : CwsParam := parseCws (s.bytesAt (rdN e 0x18 6) 64)

/-- Bytes of one buffer's META area. -/
def metaBytes (batch : Nat) : Nat := batch * 8 + cdiv batch 512 * 64

def badEpoch (s : State) (j : Job) (t : Stroke) (e : List Byte) : Bool :=
  let x := s.intake (fld t.param 2 0)
  let c := epochCws s e
  let batch := fld (rdN e 0xC 2) 12 0
  let nb := fld (rdN e 0xE 1) 2 0
  fld t.param 31 3 != 0 || (t.opnds.drop 1).any (· != 0) || x.state != 1 || x.owner != j.part + 1 || decide (x.count ≤ rdN e 4 4) ||
  batch == 0 || decide (4096 < batch) || nb == 0 || decide (6 < nb) || decide (4096 < rdN e 0x36 2) || badCwsParam c false || c.picture ||
  (epochOuts s j e).any (fun o => badCwsOut c o || o.e 3 != batch)

def intEpochOp (s : State) (j : Job) (t : Stroke) : OpOut :=
  let c := fld t.param 2 0
  let x := s.intake c
  let a := t.opnds.getD 0 0
  let e := s.bytesAt a 64
  let batch := fld (rdN e 0xC 2) 12 0
  let nb := 2 ^ fld (rdN e 0xE 1) 2 0
  let outs := [(rdN e 0x10 6, 64 + 64 * nb), (rdN e 0x28 6, nb * batch * rdN e 0x36 2), (rdN e 0x30 6, nb * metaBytes batch)] ++
    (epochOuts s j e).flatMap (fun o => [o.span, o.scaleSpan]) ++ intOuts x.block
  let ins := [(a, 64), (rdN e 0x18 6, 64), (rdN e 0x20 6, 64 * nb)] ++ (if rdN e 0x38 6 = 0 then [] else [(rdN e 0x38 6, 32 * x.count)])
  { reads := [(a, 64), (rdN e 0x18 6, 64), (rdN e 0x20 6, 64 * nb), (rdN e 0x10 6, 8)],
    check := if !s.placeOk j.part a 64 || !s.placeOk j.part (rdN e 0x18 6) 64 || !s.placeOk j.part (rdN e 0x20 6) (64 * nb) then some 42
      else lowest [failIf (badEpoch s j t e) 40, failIf (bad42 s j.part outs ins) 42] }

/-! ## What is known of a position (R229, R232) -/

def IntCtx.indexAddr (x : IntCtx) (i : Nat) : Nat := x.blk 8 6 + 8 * i

/-- The sample of a position, once it is decided: in the window, or cached or marked corrupt in the index. -/
def drawnAt (s : State) (x : IntCtx) (p : Nat) : Option Drawn :=
  match Tab.get .pending x.window p with
  | .ready d => some d
  | .waiting _ => none
  | .fetch _ => none
  | .pending =>
    let i := x.sampleAt p
    let w := s.numAt (x.indexAddr i) 8
    let k := Tab.get [] x.kept i
    if bit w 63 then some { id := rdN k 0 8, data := s.bytesAt (fld w 47 0) 64, label := k.drop 8, hit := true }
    else if bit w 62 then some { reason := fld w 59 56, id := rdN k 0 8 }
    else none

/-- How far an epoch can go in one batch: the positions and samples that take slots, the corrupt positions met, and where it stops. -/
inductive ScanEnd
  | stuck (p : Nat) | full | last
  deriving DecidableEq, Repr

structure Scan where
  slots : List (Nat × Drawn)
  corrupt : List (Nat × Drawn)
  stop : ScanEnd

/-- Positions are drawn from `p` on until the batch is full and it is known whether another sample follows, or a position is undecided, or the epoch ends (R227). -/
def scanFrom (s : State) (x : IntCtx) : Nat → Nat → List (Nat × Drawn) → List (Nat × Drawn) → Scan
  | 0, _, sl, co => { slots := sl, corrupt := co, stop := .last }
  | fuel + 1, p, sl, co =>
    if x.batch ≤ sl.length ∧ x.refill = false then { slots := sl, corrupt := co, stop := .full }
    else match drawnAt s x p with
      | none => { slots := sl, corrupt := co, stop := .stuck p }
      | some d =>
        if d.reason != 0 && x.refill then scanFrom s x fuel (p + 1) sl (co ++ [(p, d)])
        else if x.batch ≤ sl.length then { slots := sl, corrupt := co, stop := .full }
        else scanFrom s x fuel (p + 1) (sl ++ [(p, d)]) (if d.reason = 0 then co else co ++ [(p, d)])

def IntCtx.scan (x : IntCtx) (s : State) : Scan := scanFrom s x (x.count - x.next) x.next [] []

/-- Position after the last one that takes a slot. -/
def Scan.nextPos (r : Scan) (x : IntCtx) : Nat := match r.slots.getLast? with | some e => e.1 + 1 | none => x.next

/-- The batch ring of a running epoch has room (R225). -/
def IntCtx.room (x : IntCtx) (s : State) : Bool := (x.tail + 2 ^ 32 - s.numAt (x.ep 0x10 6 + 4) 4) % 2 ^ 32 != x.bufs

/-- The next position to emit: while the batch can take its slots, the one that it waits for (R229; log entry 34). -/
def IntCtx.front (x : IntCtx) (s : State) : Nat :=
  if x.state ≠ 2 ∨ !x.room s then x.next else match (x.scan s).stop with | .stuck p => p | _ => x.next

/-- Positions in the reorder window: dispatched, and neither emitted nor declared corrupt (R229). -/
def IntCtx.held (x : IntCtx) (s : State) : Nat :=
  if x.state ≠ 2 then 0
  else
    let f := x.front s
    ((List.range (x.sent - f)).filter (fun k => match drawnAt s x (f + k) with | some d => d.reason == 0 | none => true)).length

/-! ## Records (R226) -/

/-- Bytes of one index of dimension 3 of an epoch's output tensor. -/
def slotBytes (o : Operand) : Nat := cdiv (o.e 0 * o.e 1 * o.e 2 * o.fmt.bits) 8

/-- The corruption reason that a record's header and lengths give, with the bytes read of it (R226); 0 when there is none. -/
def recordFault (s : State) (x : IntCtx) (j : Job) (a : Nat) : Nat × Nat :=
  if !(regionOf a 32 = .gddr && s.inPartGddr j.part a 32) then (2, 0)
  else
    let b := s.bytesAt a 32
    let kind := rdN b 2 1
    let data := rdN b 4 4
    let lab := rdN b 8 4
    let n := 32 + data + lab + 4
    if rdN b 0 2 != 0x5250 || kind == 0 || decide (3 < kind) || (kind == 2 && fld (rdN b 3 1) 1 0 == 0) || fld (rdN b 3 1) 7 5 != 0 || rdN b 0x18 8 != 0 then (1, 32)
    else if data == 0 || decide (268435456 < data) || decide (4096 < lab) || decide (x.labelSlot < lab) ||
        (kind == 2 && (rdN b 0xC 2 == 0 || decide (16384 < rdN b 0xC 2) || rdN b 0xE 2 == 0 || decide (32768 < rdN b 0xE 2))) ||
        (kind == 3 && decide (slotBytes (s.operand j (x.ep 0x20 6)) < data)) || !s.inPartGddr j.part a n then (2, 32)
    else (if crc32c (s.bytesAt a (n - 4)) = s.numAt (a + n - 4) 4 then 0 else 3, n)

/-- SAMPLE_ID of a record; all ones when its header cannot be read (R227). -/
def recordId (s : State) (j : Job) (a : Nat) : Nat :=
  if regionOf a 32 = .gddr && s.inPartGddr j.part a 32 then s.numAt (a + 0x10) 8 else 0xFFFFFFFFFFFFFFFF

/-- The page that a record of KIND 1 or 2 holds (R218). -/
def recordPage (s : State) (a : Nat) (info : PageInfo) : PageSpec :=
  let b := s.bytesAt a 32
  let f := rdN b 3 1
  let bilevel := rdN b 2 1 = 2
  { kind := if bilevel then fld f 1 0 else 0, blackIsZero := bilevel && bit f 2, lsbFirst := bilevel && bit f 3, eolAligned := bilevel && bit f 4, input := a + 32,
    len := rdN b 4 4, info := info }

/-- What a sample turns out to be. -/
inductive SampleEnd
  | corrupt (reason : Nat)
  /-- KIND 3. -/
  | raw
  | picture (page : PageSpec) (width height : Nat)

/-- What the fetch, the check and the decode of a record come to; `info` and `errors` are what a JPEG decoder found (R208, R226). -/
def sampleEnd (s : State) (x : IntCtx) (j : Job) (a : Nat) (info : PageInfo) (errors : List Nat) : SampleEnd :=
  let f := recordFault s x j a
  let b := s.bytesAt a 32
  if f.1 ≠ 0 then .corrupt f.1
  else if rdN b 2 1 = 3 then .raw
  else
    let p := recordPage s a info
    let w := if p.kind = 0 then info.width else rdN b 0xC 2
    let h := if p.kind = 0 then info.height else rdN b 0xE 2
    if p.kind = 0 ∧ (!info.ok ∨ w = 0 ∨ h = 0 ∨ 16384 < w ∨ 16384 < h) then .corrupt 4
    else if (decodedPage s p (bufferDesc s 0 w h (pageFormat p)) errors).2 ≠ 0 then .corrupt 4
    else .picture p w h

/-- A record needs a page decoder. -/
def needsPage (s : State) (x : IntCtx) (j : Job) (a : Nat) : Bool := (recordFault s x j a).1 == 0 && s.numAt (a + 2) 1 != 3

/-! ## Dispatch (R229) -/

/-- The pool of a context's transient buffers. -/
def IntCtx.pool (x : IntCtx) : Nat := fld (x.blk 0x31 1) 3 0

/-- The page of a dispatched sample joins the queue of the page decoders. -/
def queuePage (c p : Nat) : Plan := fun s =>
  let x := s.intake c
  let j := s.job x.job
  let a := (recordAddr s x (x.sampleAt p)).1
  if needsPage s x j a then
    enqueue (pageWork x.job x.idx (recordPage s a pageUnknown) (s.numAt (a + 0xC) 2) (s.numAt (a + 0xE) 2) s.ticks x.pool j.part (some (c, p))) 1 s
  else []

/-- Positions are dispatched in ascending order, up to 256 beyond the next one to emit. -/
def dispatchMore (c : Nat) : Plan := fun s =>
  let x := s.intake c
  let j := s.job x.job
  let bound := min x.count (x.front s + 256)
  if x.state ≠ 2 ∨ j.killed.isSome ∨ bound ≤ x.sent then []
  else
    let l := ((List.range (bound - x.sent)).map (x.sent + ·)).filter (fun p => (drawnAt s x p).isNone)
    Plan.andThen (Plan.act (.intakes c { x with sent := bound, window := l.foldl (fun w p => Tab.put .pending w p (.fetch s.ticks)) x.window }))
      (Plan.each l (queuePage c)) s

def dispatchAll : Plan := Plan.each (List.range 8) dispatchMore

/-- An epoch starts: the context runs it. The pipeline takes TAIL from the ring's header as it starts (DEDUCED, log entry 34). -/
def epochStartOp (id i : Nat) (s : State) (j : Job) (t : Stroke) : OpOut :=
  let e := s.bytesAt (t.opnds.getD 0 0) 64
  { intEpochOp s j t with
    more := Plan.andThen
      (modIntake (fld t.param 2 0) (fun x =>
        { x with state := 2, epoch := e, job := id, idx := i, next := rdN e 4 4, sent := rdN e 4 4, window := [], tail := s.numAt (rdN e 0x10 6) 4,
                 batches := 0, valid := 0, hits := 0, decodes := 0, corrupt := [] }))
      (dispatchMore (fld t.param 2 0)) }

/-- INT_EPOCH: the epoch starts (R223); BATCH_EMIT carries it on. -/
def execIntEpoch (job idx : Nat) (s : State) : Host.Outcome State Fault Refusal := Plan.done (runOpOpen 0x07 0x02 job idx (epochStartOp job idx)) s

/-- The page decoder's entry for a position. -/
def State.samplePage (s : State) (c p : Nat) : Option MedWork := s.medQueue.find? (fun w => w.intake == some (c, p))

/-- The page of a position leaves the queue and its decoder. -/
def leaveDecoder (c p : Nat) : Plan := fun s =>
  match s.samplePage c p with
  | none => []
  | some w =>
    Plan.andThen (match w.core with | some n => Plan.act (.cores n { s.core n with work := 0 }) | none => Plan.skip)
      (Plan.act (.medQueue (s.medQueue.filter (fun v => v.id != w.id)))) s

/-! ## SAMPLE_DECODE_DONE (R226, R229, R231) -/

/-- The index word of a corrupt sample (R231). -/
def corruptWord (reason : Nat) : List Byte := leBytes 8 (2 ^ 62 + reason * 2 ^ 56)

/-- A sample is decided: it takes its place in the window, and a corrupt one is marked in the index (R231, R232). -/
def settleSample (c p : Nat) (d : Drawn) : Plan := fun s =>
  let x := s.intake c
  let i := x.sampleAt p
  let y := { x with window := Tab.put .pending x.window p (.ready d), decodes := if d.reason = 0 then x.decodes + 1 else x.decodes }
  if d.reason = 0 then [.intakes c y]
  else Plan.andThen (Plan.act (.intakes c { y with kept := Tab.put [] y.kept i (leBytes 8 d.id) }))
    (strokeWrite x.job x.idx false (x.indexAddr i) (corruptWord d.reason)) s

/-- Bytes that the cached object of a picture takes, and whether it fits (R231). -/
def objectBytes (w h fmt : Nat) : Nat := cdiv (64 + pictureBytes w h fmt) 4096 * 4096
def IntCtx.fits (x : IntCtx) (size : Nat) : Bool := decide (x.used + size ≤ x.blk 0x18 4 * 0x100000)

/-- The writes of an insertion into the cache, as far as their places go: the object, then the index word. -/
def cacheWrites (x : IntCtx) (i w h fmt : Nat) : List (Nat × List Byte) :=
  if x.fits (objectBytes w h fmt) then [(x.blk 0x10 6 + x.used, zeros (64 + pictureBytes w h fmt)), (x.indexAddr i, zeros 8)] else []

/-- The decoded picture is inserted into the cache when its object fits: the object first, the index word after it; its transient buffer is returned (R231). -/
def cacheSample (c p : Nat) (d : Drawn) : Plan := fun s =>
  let x := s.intake c
  let o := parsePic d.data
  let n := pictureBytes o.width o.height o.format
  let size := objectBytes o.width o.height o.format
  let a := x.blk 0x10 6 + x.used
  if !x.fits size then settleSample c p d s
  else
    let i := x.sampleAt p
    let q := { o with luma := a + 64, chroma := if o.format = 3 then 0 else a + 64 + chromaOff o.width o.height o.format, buffer := 0 }
    Plan.seq [
      strokeWrite x.job x.idx false a (q.bytes ++ s.bytesAt o.luma n),
      strokeWrite x.job x.idx false (x.indexAddr i) (leBytes 8 (2 ^ 63 + a)),
      modIntake c (fun x => { x with used := x.used + size, cached := x.cached + 1, kept := Tab.put [] x.kept i (leBytes 8 d.id ++ d.label) }),
      releaseRef (d.handle - 1),
      settleSample c p { d with data := q.bytes, handle := 0 }] s

/-- A plan that goes on only while the job of an epoch does. -/
def whileAlive (id : Nat) (q : Plan) : Plan := Plan.look (fun s => if (s.job id).phase = .gone || (s.job id).killed.isSome then Plan.skip else q)

/-- A decoded picture takes a transient buffer and is cached, or waits for a buffer as a page does; `reads` are accesses not yet made (R207, R231, R281). -/
def holdPicture (c p : Nat) (reads : List (Nat × Nat)) (first : Plan) (spec : PageSpec) (w h : Nat) (errors : List Nat) (d : Drawn) : Plan := fun s =>
  let x := s.intake c
  let j := s.job x.job
  let fmt := pageFormat spec
  let al := allocate s j.part x.pool (pictureBytes w h fmt)
  match al.1 with
  | .got hd _ =>
    let o := { bufferDesc s hd w h fmt with fullRange := true, context := 0xFF }
    let rows := (decodedPage s spec o errors).1
    withAccess x.job x.idx { cls := 1 } reads (rows ++ cacheWrites x (x.sampleAt p) w h fmt) (Plan.seq [
      first,
      whileAlive x.job (Plan.seq [al.2, leaveDecoder c p, Plan.each rows (fun r => strokeWrite x.job x.idx false r.1 r.2),
        whileAlive x.job (cacheSample c p { d with data := o.bytes, handle := hd + 1 })])]) s
  | .noFit => withAccess x.job x.idx { cls := 1 } reads [] (Plan.andThen first (whileAlive x.job (faultStroke x.job x.idx 0x30 0 pgINT))) s
  | _ =>
    let since := match Tab.get .pending x.window p with | .waiting t => t | _ => s.ticks
    if since + s.reg 0 pgMED 0x128 % 2 ^ 16 ≤ s.ticks ∧ since < s.ticks then faultStroke x.job x.idx 0x32 0 pgINT s
    else withAccess x.job x.idx { cls := 1 } reads [] (Plan.seq [first, whileAlive x.job (Plan.seq [al.2, leaveDecoder c p,
      whileAlive x.job (modIntake c (fun x => { x with window := Tab.put .pending x.window p (.waiting since) }))])]) s

/-- The fetch, check and decode of a dispatched sample end, or a sample that waited for a buffer tries again. -/
def sampleDecodeDone (c p : Nat) (info : PageInfo) (errors : List Nat) : Plan := fun s =>
  let x := s.intake c
  let j := s.job x.job
  let i := x.sampleAt p
  let ra := recordAddr s x i
  let a := ra.1
  let n := (recordFault s x j a).2
  let waited := match Tab.get .pending x.window p with | .waiting _ => true | _ => false
  let reads := if waited then [] else ra.2 ++ [(a, n)]
  let first := Plan.each reads (fun r => strokeRead x.job x.idx false false r.1 r.2)
  let d : Drawn := { id := recordId s j a }
  let b := s.bytesAt a n
  let label := (b.drop (32 + rdN b 4 4)).take (rdN b 8 4)
  let decide_ (d : Drawn) (writes : List (Nat × List Byte)) : Plan :=
    withAccess x.job x.idx { cls := 1 } reads writes (Plan.andThen first (whileAlive x.job (Plan.andThen (leaveDecoder c p) (settleSample c p d))))
  match sampleEnd s x j a info errors with
  | .corrupt r => decide_ { d with reason := r } [(x.indexAddr i, corruptWord r)] s
  | .raw => decide_ { d with label := label, raw := true, data := (b.drop 32).take (rdN b 4 4) } [] s
  | .picture spec w h => holdPicture c p reads first spec w h errors { d with label := label } s

/-- A sample is dispatched and undecided, and where it needs a page decoder it has one; with the tick since which it runs on a unit. -/
def runsOnUnit (s : State) (c p : Nat) : Option Nat :=
  let x := s.intake c
  if x.state ≠ 2 ∨ (s.job x.job).killed.isSome then none
  else match Tab.get .pending x.window p with
    | .fetch t =>
      (match s.samplePage c p with
       | some w => if w.core.isSome then some w.begun else none
       | none => some t)
    | .waiting t => some t
    | _ => none

/-- SAMPLE_DECODE_DONE: `page` is what a JPEG header says, `errors` the MCUs at which an entropy error was met. A record that has become a page since its dispatch joins the queue then. -/
def execSampleDecodeDone (ctx pos : Nat) (page : PageInfo) (errors : List Nat) (s : State) : Host.Outcome State Fault Refusal :=
  Plan.done (fun s =>
    if 8 ≤ ctx ∨ (runsOnUnit s ctx pos).isNone then []
    else
      let x := s.intake ctx
      let fetched := match Tab.get .pending x.window pos with | .fetch _ => true | _ => false
      if fetched && (s.samplePage ctx pos).isNone && needsPage s x (s.job x.job) (recordAddr s x (x.sampleAt pos)).1 then queuePage ctx pos s
      else Plan.andThen (sampleDecodeDone ctx pos page errors) (dispatchMore ctx) s) s

/-- DECODE_LIMIT_EXPIRY: the time of a sample on its units has reached INT_DECODE_LIMIT: its work is abandoned (R229). -/
def decodeLimitExpiry (c p : Nat) : Plan := fun s =>
  let x := s.intake c
  let j := s.job x.job
  let i := x.sampleAt p
  let waits := match Tab.get .pending x.window p with | .waiting _ => true | _ => false
  match runsOnUnit s c p with
  | none => []
  | some t =>
    if waits || decide (s.ticks < t + s.reg 0 pgINT 0x100 % 2 ^ 16 * 1000) then []
    else withAccess x.job x.idx { cls := 1 } [] [(x.indexAddr i, corruptWord 5)]
      (Plan.seq [leaveDecoder c p, settleSample c p { reason := 5, id := recordId s j (recordAddr s x i).1 }, raiseErr pgINT 0 [], dispatchMore c]) s

def execDecodeLimitExpiry (ctx pos : Nat) (s : State) : Host.Outcome State Fault Refusal := Plan.done (Plan.when (decide (ctx < 8)) (decodeLimitExpiry ctx pos)) s

/-! ## BATCH_EMIT (R224, R225, R227, R230, R233) -/

/-- The ROI entry of a position (R223). -/
def positionRoi (s : State) (x : IntCtx) (c : CwsParam) (d : PicDesc) (p : Nat) : Roi :=
  if x.ep 0x38 6 = 0 then wholeRoi d.width d.height c.outW c.outH else parseRoi (s.bytesAt (x.ep 0x38 6 + 32 * p) 32)

/-- The ROI of a slot's picture, if a slot holds one. -/
def slotRoi (s : State) (x : IntCtx) (c : CwsParam) (e : Nat × Drawn) : Option (PicDesc × Roi) :=
  if e.2.reason ≠ 0 ∨ e.2.raw then none else some (parsePic e.2.data, positionRoi s x c (parsePic e.2.data) e.1)

/-- The tensor of a batch: pictures and holes through the converter, raw bytes as they are; a ROI entry with SKIP writes nothing (R210, R224, R227). -/
def batchTensor (s : State) (x : IntCtx) (o : Operand) (c : CwsParam) (free : Nat) (slots : List (Nat × Drawn)) : TensorOut :=
  let hole : List FVal := List.replicate (o.e 0 * o.e 1 * o.e 2) .zero
  let vals := (List.range x.batch).filterMap (fun k =>
    match slots[k]? with
    | none => some (k, hole)
    | some e =>
      match slotRoi s x c e with
      | none => if e.2.raw && e.2.reason == 0 then none else some (k, hole)
      | some (pic, r) => if r.skip then none else some (k, roiValues s c pic free r))
  let raws := ((List.range x.batch).filter (fun k => (slots.getD k (0, {})).2.raw)).map (fun k =>
    (o.d.base + k * o.st 2, let d := (slots.getD k (0, {})).2.data; d ++ zeros (slotBytes o - d.length)))
  let out := writeSlices o s vals
  { out with writes := out.writes ++ raws }

/-- What a batch reads: HEAD, the parameters, the ROI entries of its positions, and the pictures, these twice where a shift for the whole batch is sought first (R212, R224, R225). -/
def batchReads (s : State) (x : IntCtx) (o : Operand) (c : CwsParam) (slots : List (Nat × Drawn)) : List (Nat × Nat) :=
  let rois := slots.filterMap (fun e => (slotRoi s x c e).map (fun r => (e.1, r)))
  let pics := rois.flatMap (fun e => if e.2.2.skip then [] else e.2.1.spans)
  (x.ep 0x10 6 + 4, 4) :: ((if x.ep 0x38 6 = 0 then [] else rois.map (fun e => (x.ep 0x38 6 + 32 * e.1, 32))) ++ pics ++ (if o.d.scaleMode = 4 then pics else []))

/-- The bytes of the mask: bit s of a batch's valid slots (R224). -/
def maskOf (batch : Nat) (slots : List (Nat × Drawn)) : List Byte :=
  leBytes (cdiv batch 512 * 64) ((slots.mapIdx (fun k e => if e.2.reason = 0 then 2 ^ k else 0)).sum)

/-- Labels, sample words and mask of a batch in buffer `k` (R224, R227). -/
def batchMeta (x : IntCtx) (k : Nat) (slots : List (Nat × Drawn)) : List (Nat × List Byte) :=
  let n := x.labelSlot
  let base := x.ep 0x30 6 + k * metaBytes x.batch
  (if n = 0 then [] else (List.range x.batch).map (fun i =>
    let l := match slots[i]? with | some (_, d) => if d.reason = 0 then d.label.take n else [] | none => []
    (x.ep 0x28 6 + k * x.batch * n + i * n, l ++ zeros (n - l.length)))) ++
  [(base, (List.range x.batch).flatMap (fun i => leBytes 8 (match slots[i]? with | some (_, d) => d.id | none => 0xFFFFFFFFFFFFFFFF))),
   (base + x.batch * 8, maskOf x.batch slots)]

/-- The batch descriptor (R225). -/
def batchDesc (x : IntCtx) (k next : Nat) (last : Bool) (slots : List (Nat × Drawn)) : List Byte :=
  leBytes 4 (x.ep 8 4 + x.batches) ++ leBytes 4 (x.ep 0 4) ++ leBytes 2 (slots.filter (fun e => e.2.reason == 0)).length ++ leBytes 1 k ++
  leBytes 1 (bitAt last 0) ++ leBytes 4 ((slots.headD (x.next, {})).1) ++ leBytes 4 next ++ zeros 44

/-- The epoch report (R233). -/
def epochReport (x : IntCtx) : List Byte :=
  let l := x.corrupt.take (x.blk 0x2E 2)
  (([x.ep 0 4, x.ep 4 4, x.batches, x.valid, x.corrupt.length, l.length, x.hits, x.decodes].map (leBytes 4)).flatten) ++
  l.flatMap (fun e => leBytes 4 e.1 ++ leBytes 4 (e.2.1 % 2 ^ 28 + e.2.2.1 * 2 ^ 28) ++ leBytes 8 e.2.2.2)

/-- What the context notes of a batch: its counters, the corrupt samples consumed, and the window without the positions consumed. -/
def IntCtx.afterBatch (x : IntCtx) (slots corrupt : List (Nat × Drawn)) (next : Nat) (emitted : Bool) : IntCtx :=
  { x with next := next, window := x.window.filter (fun e => decide (next ≤ e.1)), tail := if emitted then (x.tail + 1) % 2 ^ 32 else x.tail,
           batches := if emitted then x.batches + 1 else x.batches, valid := x.valid + (slots.filter (fun e => e.2.reason == 0)).length,
           hits := x.hits + (slots.filter (fun e => e.2.hit)).length,
           corrupt := x.corrupt ++ corrupt.map (fun e => (x.sampleAt e.1, e.1, e.2.reason, e.2.id)) }

/-- The epoch is over: the stroke ends, its report having been written, and what the window still holds is returned (R223, R233). -/
def epochEnds (c : Nat) : Plan := fun s =>
  let x := s.intake c
  Plan.seq [
    Plan.each (x.window.filterMap (fun e => match e.2 with | .ready d => if d.handle = 0 then none else some (d.handle - 1) | _ => none)) releaseRef,
    modIntake c (fun x => { x with state := 1, window := [] }),
    endOp x.job x.idx] s

/-- An epoch of a context can emit now: its batch is decided, and the ring has room; an epoch without a sample left can end. -/
def canEmit (s : State) (x : IntCtx) : Bool :=
  let j := s.job x.job
  let r := x.scan s
  x.state == 2 && decide (j.phase = .running) && j.killed.isNone && (j.stroke x.idx).begun &&
  (match r.stop with | .stuck _ => false | _ => x.room s || r.slots.isEmpty)

/-- The emission stage serves a context before another: effective priority, then acceptance (R230). -/
def emitsBefore (s : State) (a b : Nat) : Bool :=
  let ja := s.job (s.intake a).job
  let jb := s.job (s.intake b).job
  decide (jb.eff < ja.eff) || (ja.eff == jb.eff && decide ((ja.stroke (s.intake a).idx).started ≤ (jb.stroke (s.intake b).idx).started))

def nextEmitter (s : State) : Option Nat :=
  ((List.range 8).filter (fun c => canEmit s (s.intake c))).foldl (fun m c => match m with
    | none => some c
    | some b => if emitsBefore s b c then some b else some c) none

/-- One batch of a context is emitted, and after the last one the report is written and the epoch ends. -/
def emitBatch (c free : Nat) : Plan := fun s =>
  let x := s.intake c
  let j := s.job x.job
  let r := x.scan s
  let last := decide (r.stop = .last)
  let next := r.nextPos x
  let corrupt := if last then r.corrupt else r.corrupt.filter (fun e => decide (e.1 < next))
  let used := (r.slots.map (·.2)) |>.filterMap (fun d => if d.handle = 0 then none else some (d.handle - 1))
  let y := x.afterBatch r.slots corrupt next (!r.slots.isEmpty)
  let report : List (Nat × List Byte) := if last then [(x.blk 0x28 6, epochReport y)] else []
  let k := x.tail % x.bufs
  let o := s.operand j (x.ep 0x20 6 + 64 * k)
  let cw := epochCws s x.epoch
  let out := batchTensor s x o cw free r.slots
  let reads := if r.slots.isEmpty then [] else batchReads s x o cw r.slots
  let writes := (if r.slots.isEmpty then [] else out.writes ++ batchMeta x k r.slots ++
    [(x.ep 0x10 6 + 64 + k * 64, batchDesc x k next last r.slots), (x.ep 0x10 6, leBytes 4 ((x.tail + 1) % 2 ^ 32))]) ++ report
  withAccess x.job x.idx { cls := 1 } reads writes (Plan.seq [
    Plan.each reads (fun r => strokeRead x.job x.idx false false r.1 r.2),
    Plan.each writes (fun w => strokeWrite x.job x.idx false w.1 w.2),
    whileAlive x.job (Plan.seq [
      Plan.when (!r.slots.isEmpty) (Plan.seq [
        noteSaturation out.sat,
        notePixels (((r.slots.filterMap (slotRoi s x cw)).filter (fun e => !e.2.skip)).length * cw.outW * cw.outH),
        semAdd (j.tableIndex x.idx) j.part (x.blk 0xE 2),
        Plan.each used releaseRef]),
      Plan.act (.intakes c y),
      Plan.when last (epochEnds c)])]) s

/-- BATCH_EMIT: the emission stage emits a batch of the epoch that is served first. -/
def batchEmit : Plan := fun s =>
  match nextEmitter s with
  | none => dispatchAll s
  | some c => Plan.andThen (withFree (emitBatch c)) dispatchAll s

def execBatchEmit (s : State) : Host.Outcome State Fault Refusal := Plan.done batchEmit s

/-! ## Registration groups (R234-R238) -/

/-- REG_PICTURE_ARRIVE (R235). -/
def execRegPictureArrive (group : Nat) (s : State) : Host.Outcome State Fault Refusal := Plan.done (Plan.when (decide (group < 16)) (arrive false group)) s

/-- SET_DEADLINE_EXPIRY (R236). -/
def execSetDeadlineExpiry (group : Nat) (s : State) : Host.Outcome State Fault Refusal := Plan.done (Plan.when (decide (group < 16)) (emitReady false group 17)) s

/-- Check 41 of a registration block. -/
def badRegOpen (s : State) (j : Job) (t : Stroke) (b : List Byte) : Bool :=
  let g := s.regGroup (fld t.param 3 0)
  let n := fld (rdN b 0 1) 3 0
  let sem := rdN b 2 2
  let ctxs := (List.range n).map (fun k => rdN b (0x18 + k) 1)
  fld t.param 31 4 != 0 || (t.opnds.drop 1).any (· != 0) || g.isOpen || g.owner != j.part + 1 || n == 0 || decide (8 < n) ||
  decide (fld (rdN b 1 1) 3 0 < 4) || decide (12 < fld (rdN b 1 1) 3 0) || (sem != 0xFFFF && decide ((s.part j.part).semCount ≤ sem)) ||
  rdN b 8 4 == 0 || decide (1000000 < rdN b 8 4) || rdN b 0x10 6 % 64 != 0 || !decide ctxs.Nodup ||
  ctxs.any (fun c => let x := s.stream c; x.state == 0 || x.encode || x.owner != j.part + 1 || x.group != 0)

def regOpenOp (s : State) (j : Job) (t : Stroke) : OpOut :=
  let a := t.opnds.getD 0 0
  let b := s.bytesAt a 64
  let n := fld (rdN b 0 1) 3 0
  let g := fld t.param 3 0
  let ctxs := (List.range n).map (fun k => rdN b (0x18 + k) 1)
  { reads := [(a, 64)],
    check := if !s.placeOk j.part a 64 then some 42
      else lowest [failIf (badRegOpen s j t b) 41, failIf (bad42 s j.part [(rdN b 0x10 6, 64 + 2 ^ fld (rdN b 1 1) 3 0 * 576)] []) 42],
    more := Plan.andThen
      (Plan.act (.regGroups g
        { owner := j.part + 1, isOpen := true, count := n, members := List.range n, contexts := ctxs,
          offsets := (List.range n).map (fun k => toSigned 32 (rdN b (0x20 + 4 * k) 4)), tol := rdN b 4 4, deadline := rdN b 8 4, ring := rdN b 0x10 6,
          ringLog2 := fld (rdN b 1 1) 3 0, sem := rdN b 2 2 }))
      (Plan.each (ctxs.mapIdx (fun k c => (k, c))) (fun e => modStream e.2 (fun x => { x with group := g + 1, member := e.1 }))) }

/-- INT_REGOPEN (R234). -/
def execIntRegopen (job idx : Nat) (s : State) : Host.Outcome State Fault Refusal := Plan.done (runOp 0x07 0x08 job idx regOpenOp) s

def regCloseOp (s : State) (j : Job) (t : Stroke) : OpOut :=
  let g := s.regGroup (fld t.param 3 0)
  { check := failIf (fld t.param 31 4 != 0 || t.opnds.any (· != 0) || !g.isOpen || g.owner != j.part + 1) 41,
    reads := if g.isOpen then [(g.ring + 4, 4)] else [], also := closeWrites s g, more := regClose (fld t.param 3 0) }

/-- INT_REGCLOSE (R237). -/
def execIntRegclose (job idx : Nat) (s : State) : Host.Outcome State Fault Refusal := Plan.done (runOp 0x07 0x09 job idx regCloseOp) s

end Sys2Proof.Machine
end

