-- ==== Sys2Proof/Machine/Move.lean ====
section
/-! DEFINITION. The move operations of CLASS 0x04 (R103, R104, R158) over memory and the cache segments (R143-R146). -/
namespace Sys2Proof.Machine

/-- A range a move may name: GDDR6 or plate scratch of its partition, host memory for move.linear only (R158). -/
def moveRangeOk (s : State) (p : Nat) (host : Bool) (a n : Nat) : Bool :=
  match s.judge p host a n with
  | .refused _ => false
  | _ => true

/-- A conversion into this destination reads its source twice: one scale for the whole tensor, or whole-row blocks of more than 65,536 elements (R104). -/
def Operand.twoReads (z : Operand) : Bool := z.d.scaleMode == 4 || (z.d.scaleMode == 3 && decide (65536 < z.blockLen))

/-- The raw rows of a tensor at the addresses of another of the same shape; the unused nibble of an INT4 row keeps what it held (R77). -/
def copyRows (s : State) (src dst : Operand) : List (Nat × List Byte) :=
  if src.count = 0 then []
  else (indices (src.ext.set 0 1)).map (fun i =>
    let b := s.bytesAt (src.rowAddr i) src.rowBytes
    let a := dst.rowAddr i
    let b := if src.fmt = .int4 ∧ src.e 0 % 2 = 1 then
        let old := s.numAt (a + src.rowBytes - 1) 1
        b.dropLast ++ [BitVec.ofNat 8 ((b.getLast?.map BitVec.toNat).getD 0 % 16 + old / 16 * 16)]
      else b
    (a, b))

/-- move.copy: every element and the scale array (R158). -/
def copyOp (s : State) (j : Job) (t : Stroke) : OpOut :=
  let x := s.operand j (t.opnds.getD 0 0)
  let z := s.operand j (t.opnds.getD 1 0)
  let dyn := x.dynBad || z.dynBad
  let bad := (x.checks s j.part true dyn).isSome || (z.checks s j.part true dyn).isSome || x.ext != z.ext || x.d.fmtCode != z.d.fmtCode ||
    x.d.scaleMode != z.d.scaleMode || x.d.scaleAxis != z.d.scaleAxis || x.badScale || x.meetsScaled z
  if bad then { check := some 27 }
  else
    { reads := x.readRanges j ++ z.descRanges j,
      writes := copyRows s x z ++ (List.zip x.scaleRows z.scaleRows).map (fun r => (r.2.1, s.bytesAt r.1.1 r.1.2)), paths := [4] }

/-- move.linear: PARAM bytes in ascending order; a length of 0 accesses nothing and checks nothing (R158). -/
def linearOp (s : State) (j : Job) (t : Stroke) : OpOut :=
  let a := t.opnds.getD 0 0
  let b := t.opnds.getD 1 0
  let n := t.param
  if n = 0 then {}
  else if !moveRangeOk s j.part true a n || !moveRangeOk s j.part true b n || overlaps a n b n then { check := some 27 }
  else { reads := [(a, n)], writes := [(b, s.bytesAt a n)], host := true, paths := [4] }

/-- move.fill: an 8-byte pattern repeatedly (R158). -/
def fillOp (s : State) (j : Job) (t : Stroke) : OpOut :=
  let a := t.opnds.getD 0 0
  let n := t.param
  if n = 0 then {}
  else if n % 8 != 0 || !moveRangeOk s j.part false a n then { check := some 27 }
  else { writes := [(a, (List.replicate (n / 8) (leBytes 8 (t.opnds.getD 1 0))).flatten)] }

/-- The line of an address in the segment that serves it, if it is present. -/
def State.presentLine (s : State) (a : Nat) : Option Nat :=
  match s.cacheOf a with
  | none => none
  | some g => (s.wayOf g a).map (fun w => lineKey g (setOf a) w)

def prefetchLines (l : List Nat) : Plan := Plan.each l (fun a => fun s =>
  match s.cacheOf a with
  | none => []
  | some g => bringLine g a false s)

def flushLines (l : List Nat) : Plan := Plan.each l (fun a => fun s =>
  match s.presentLine a with
  | none => []
  | some k => writeBack k s)

def evictLines (l : List Nat) : Plan := Plan.each l (fun a => fun s =>
  match s.presentLine a with
  | none => []
  | some k => Plan.andThen (writeBack k) (Plan.act (.lines k {})) s)

/-- A move operation on the cache lines of a range (R158). -/
def cacheOp (f : List Nat → Plan) (s : State) (j : Job) (t : Stroke) : OpOut :=
  let a := t.opnds.getD 0 0
  let n := t.param
  if n = 0 then {}
  else if !moveRangeOk s j.part false a n then { check := some 27 }
  else { more := f (linesOf a n) }

/-- The first segment with a property among those that serve lines. -/
def State.servingSeg (s : State) (l : List Nat) (p : Nat → Bool) : Option Nat :=
  l.findSome? (fun a => match s.cacheOf a with
    | some g => if p g then some g else none
    | none => none)

/-- A move stroke on the cache lines of a range: it is late where an OFF segment serves one of them, waits where one is in transition, and else is carried out (R155, R158). -/
def cacheStroke (op id i : Nat) (f : List Nat → Plan) : Plan := fun s =>
  let t := (s.job id).stroke i
  let a := t.opnds.getD 0 0
  let l := linesOf a t.param
  if !s.runnable id i 0x04 op || s.hasRetry id i || !moveRangeOk s (s.job id).part false a t.param then runOp 0x04 op id i (cacheOp f) s
  else match s.servingSeg l (fun g => decide ((s.seg g).power = .off)) with
    | some g => lateStroke id i g s
    | none =>
      match s.servingSeg l s.segRetries with
      | some g => addRetry id i (g, a, t.param) false s
      | none => runOp 0x04 op id i (cacheOp f) s

/-- move.requant: into another format and shift layout (R103, R104). -/
def requantOp (s : State) (j : Job) (t : Stroke) : OpOut :=
  let x := s.operand j (t.opnds.getD 0 0)
  let z := s.operand j (t.opnds.getD 1 0)
  let n := (t.place.map Place.cluster).getD 0
  let dyn := x.dynBad || z.dynBad
  let bad := (x.checks s j.part false dyn).isSome || (z.checks s j.part true dyn).isSome || x.ext != z.ext || x.badScale || z.badScale || x.meetsScaled z
  if bad then { check := some 27 }
  else
    let o := z.write s (x.tensor s)
    { reads := x.readRanges j ++ (if z.twoReads then x.rowSpans ++ x.scaleRows else []) ++ z.descRanges j, writes := o.writes, paths := [4],
      more := Plan.seq [bump (pgBC n) 0x134 o.sat, bump (pgBC n) 0x138 o.nan] }

def execMoveCopy (job idx : Nat) (s : State) : Host.Outcome State Fault Refusal := Plan.done (runOp 0x04 0x01 job idx copyOp) s
/-- MOVE_LINEAR: a read of host memory may fail (R32 code 0x0D, R158). -/
def moveLinear (id i : Nat) (ans : HostAnswer) : Plan := fun s =>
  let j := s.job id
  let t := j.stroke i
  let o := linearOp s j t
  if ans ≠ .ok ∧ s.runnable id i 0x04 0x02 ∧ o.check.isNone ∧ t.param ≠ 0 ∧ regionOf (t.opnds.getD 0 0) t.param = .host then hostReadFail id ans s
  else runOp 0x04 0x02 id i linearOp s
def execMoveLinear (job idx : Nat) (ans : HostAnswer) (s : State) : Host.Outcome State Fault Refusal := Plan.done (moveLinear job idx ans) s
def execMoveFill (job idx : Nat) (s : State) : Host.Outcome State Fault Refusal := Plan.done (runOp 0x04 0x03 job idx fillOp) s
def execMovePrefetch (job idx : Nat) (s : State) : Host.Outcome State Fault Refusal := Plan.done (cacheStroke 0x08 job idx prefetchLines) s
def execMoveFlush (job idx : Nat) (s : State) : Host.Outcome State Fault Refusal := Plan.done (cacheStroke 0x09 job idx flushLines) s
def execMoveEvict (job idx : Nat) (s : State) : Host.Outcome State Fault Refusal := Plan.done (cacheStroke 0x0A job idx evictLines) s
def execMoveRequant (job idx : Nat) (s : State) : Host.Outcome State Fault Refusal := Plan.done (runOp 0x04 0x20 job idx requantOp) s

end Sys2Proof.Machine
end

