-- ==== Sys2Proof/Machine/Track.lean ====
section
/-! DEFINITION. The tracking and metadata unit (12_metadata_and_tracking.md): output rings and their records (R240-R247), tracking streams (R249-R258),
and page, text and clip records (R259). -/
namespace Sys2Proof.Machine

def State.outRing (s : State) (k : Nat) : OutRing := Tab.get {} s.outRings k
def State.track (s : State) (c : Nat) : TrkStream := Tab.get {} s.tracks c
def modTrack (c : Nat) (f : TrkStream → TrkStream) : Plan := fun s => [.tracks c (f (s.track c))]

/-- The unit runs one trk stroke at a time, in the order of placement. -/
def State.trkTurn (s : State) (id i : Nat) : Bool :=
  let t := (s.job id).stroke i
  s.runningStrokes.all (fun x => !(x.2.2.cls == 8 && decide (x.2.2.started < t.started)) || x.2.2.ran)

/-- A trk stroke whose turn it is carries its operation out, or fails at one of the checks 43 to 46 (R261). -/
def trkOp (op id i : Nat) (f : State → Job → Stroke → OpOut) : Plan := fun s => if s.trkTurn id i then runOp 0x08 op id i f s else []

/-! ## Output rings (R240-R245) -/

def OutRing.size (r : OutRing) : Nat := 2 ^ r.log2
def OutRing.free (r : OutRing) : Nat := r.size - (r.tail + 2 ^ 32 - r.head) % 2 ^ 32
/-- Bytes of the PAD record that a record of `n` bytes needs first. -/
def OutRing.pad (r : OutRing) (n : Nat) : Nat := if r.tail % r.size + n ≤ r.size then 0 else r.size - r.tail % r.size

/-- The header of a record (R245). -/
def recHeader (typ flags len seq time : Nat) : List Byte := leBytes 1 typ ++ leBytes 1 flags ++ leBytes 2 len ++ leBytes 4 seq ++ leBytes 8 time

/-- A record is written, with the PAD that it needs: the ring after it, and the stores (R241, R245). -/
def OutRing.write (r : OutRing) (typ flags time : Nat) (body : List Byte) : OutRing × List Eff :=
  let n := 16 + body.length
  let p := r.pad n
  let pads := if p = 0 then [] else [Eff.store (r.data + r.tail % r.size) (recHeader 0 0 p 0 0)]
  let t := (r.tail + p) % 2 ^ 32
  ({ r with tail := (t + n) % 2 ^ 32, seq := if r.seq = 2 ^ 32 - 1 then 1 else r.seq + 1, gap := 0 },
   pads ++ [.store (r.data + t % r.size) (recHeader typ flags n r.seq time ++ body)])

/-- A dropping ring resumes: its GAP record (R243). -/
def OutRing.gapped (r : OutRing) : OutRing × List Eff := OutRing.write { r with state := 1 } 0x0F 0 0 (leBytes 4 r.gap ++ zeros 12)

/-- The unit reads HEAD again, when the record does not fit under the value it holds, or a dropping ring has too little space: the ring, and whether HEAD is bad (R242, R243). -/
def OutRing.look (r : OutRing) (s : State) (ans : HostAnswer) (n : Nat) : OutRing × Bool :=
  let needs (q : OutRing) : Bool := decide (q.free < q.pad n + n)
  let short := if r.state = 2 then decide (r.free < r.size / 4) || needs r.gapped.1 else needs r
  if r.state = 3 || !short then (r, false)
  else
    let h := s.numAt (r.ctrl + 4) 4
    if ans ≠ .ok || h % 16 != 0 || decide (r.size < (r.tail + 2 ^ 32 - h) % 2 ^ 32) then (r, true) else ({ r with head := h }, false)

/-- The ring drops a record. -/
def OutRing.drop (r : OutRing) : OutRing :=
  { r with state := if r.state = 3 then 3 else 2, gap := satAdd 0xFFFFFFFF r.gap 1, dropped := satAdd 0xFFFFFFFF r.dropped 1 }

/-- What writing a record to a ring comes to: the ring, the stores, whether HEAD was bad, and whether the record was dropped (R241-R243). -/
structure RecOut where
  ring : OutRing
  stores : List Eff := []
  bad : Bool := false
  lost : Bool := false

def OutRing.record (r : OutRing) (s : State) (ans : HostAnswer) (typ flags time : Nat) (body : List Byte) : RecOut :=
  let n := 16 + body.length
  let x := r.look s ans n
  if r.state = 3 then { ring := r.drop, lost := true }
  else if x.2 then { ring := { x.1 with state := 3 }.drop, bad := true, lost := true }
  else if x.1.state = 2 && decide (x.1.free < x.1.size / 4) then { ring := x.1.drop, lost := true }
  else
    let g := if x.1.state = 2 then x.1.gapped else (x.1, [])
    if g.1.free < g.1.pad n + n then { ring := g.1.drop, stores := g.2, lost := true }
    else
      let w := g.1.write typ flags time body
      { ring := w.1, stores := g.2 ++ w.2 }

/-- A record goes to a ring; a drop under R243 is an error of its own, a drop by a ring in ERROR (R242) is not; `stream` is the stream that it belongs to, if any (R242, R243). -/
def putRecord (k : Nat) (stream : Option Nat) (ans : HostAnswer) (typ flags time : Nat) (body : List Byte) : Plan := fun s =>
  let o := (s.outRing k).record s ans typ flags time body
  let p := (s.outRing k).part
  Plan.seq [
    (fun _ => o.stores), Plan.act (.outRings k o.ring),
    Plan.when o.bad (Plan.andThen (raiseErr pgTRK 0 [])
      (event { cls := 9, code := 1, part := p, charged := true, fn := (s.part p).fn, page := pgTRK, detail := leBytes 1 k })),
    Plan.when (o.lost && o.ring.state != 3) (raiseErr pgTRK 1 []),
    (match stream with
     | some c => Plan.when o.lost (modTrack c (fun x => { x with overflow := true }))
     | none => Plan.skip)] s

/-- TAIL is written after the records of a stroke (R241). -/
def writeTail (k : Nat) : Plan := fun s => [.store (s.outRing k).ctrl (leBytes 4 (s.outRing k).tail)]

/-! ## trk.ring, trk.ringclose (R240, R244) -/

def trkRingOp (s : State) (j : Job) (t : Stroke) : OpOut :=
  let a := t.opnds.getD 0 0
  let b := s.bytesAt a 32
  let k := fld t.param 5 0
  let ctrl := rdN b 0 6
  let data := rdN b 8 6
  let n := fld (rdN b 0x10 1) 4 0
  { reads := [(a, 32)],
    check := failIf (!s.placeOk j.part a 32 || fld t.param 31 6 != 0 || (t.opnds.drop 1).any (· != 0) || (s.outRing k).state != 0 || decide (n < 16) || decide (26 < n) ||
      ctrl % 64 != 0 || data % 4096 != 0 || regionOf ctrl 64 ≠ .host || regionOf data (2 ^ n) ≠ .host) 43,
    more := Plan.act (.outRings k { state := 1, part := j.part, ctrl := ctrl, data := data, log2 := n }) }

/-- TRK_RING (R240). -/
def execTrkRing (job idx : Nat) (s : State) : Host.Outcome State Fault Refusal := Plan.done (trkOp 0x01 job idx trkRingOp) s

def trkRingcloseOp (s : State) (j : Job) (t : Stroke) : OpOut :=
  let k := fld t.param 5 0
  let r := s.outRing k
  { check := failIf (fld t.param 31 6 != 0 || t.opnds.any (· != 0) || r.state == 0 || r.part != j.part ||
      s.tracks.any (fun e => e.2.isOpen && e.2.ring == k)) 43,
    more := Plan.andThen (writeTail k) (fun s => [.outRings k { s.outRing k with state := 0 }]) }

/-- TRK_RINGCLOSE (R244). -/
def execTrkRingclose (job idx : Nat) (s : State) : Host.Outcome State Fault Refusal := Plan.done (trkOp 0x02 job idx trkRingcloseOp) s

/-- A ring is open under a partition. -/
def State.ringOpen (s : State) (k p : Nat) : Bool := (s.outRing k).state != 0 && (s.outRing k).part == p

/-! ## The track table (R250) -/

def TrkStream.fmt (x : TrkStream) : Fmt := if x.embFmt = 5 then .bf16 else .fp32
/-- Bytes of an embedding row, and columns in the table. -/
def TrkStream.eb (x : TrkStream) : Nat := cdiv (x.embDim * x.fmt.bytes) 128 * 128
def TrkStream.pr (x : TrkStream) : Nat := cdiv x.cols 32 * 32
def TrkStream.tbox (x : TrkStream) (i : Nat) : Nat := x.base + 16 * i
def TrkStream.temb (x : TrkStream) (i : Nat) : Nat := x.base + 16384 + i * x.eb
def TrkStream.dbox (x : TrkStream) (k : Nat) : Nat := x.base + 16384 + 1024 * x.eb + 16 * k
def TrkStream.demb (x : TrkStream) (k : Nat) : Nat := x.dbox 0 + 16 * x.pr + k * x.eb
def TrkStream.dscore (x : TrkStream) (k : Nat) : Nat := x.demb 0 + x.pr * x.eb + 4 * k
def TrkStream.dclass (x : TrkStream) (k : Nat) : Nat := x.dscore 0 + 4 * x.pr + 4 * k
def TrkStream.slotAddr (x : TrkStream) (i : Nat) : Nat := x.dclass 0 + 4 * x.pr + 64 * i
def TrkStream.tableBytes (x : TrkStream) : Nat := x.slotAddr 1024 - x.base

/-- FP32 values in memory. -/
def floatsAt (s : State) (a n : Nat) : List FVal := (List.range n).map (fun k => ofBits32 (s.numAt (a + 4 * k) 4))
def floatBytes (l : List FVal) : List Byte := l.flatMap (fun v => leBytes 4 v.bits32)
/-- An embedding in memory. -/
def TrkStream.embAt (x : TrkStream) (s : State) (a : Nat) : List FVal :=
  (List.range x.embDim).map (fun k => decodeElem x.fmt (s.numAt (a + x.fmt.bytes * k) x.fmt.bytes))
def TrkStream.embBytes (x : TrkStream) (l : List FVal) : List Byte := l.flatMap (fun v => leBytes x.fmt.bytes (convert x.fmt v).bits)

/-! ## trk.open, trk.close (R249) -/

def parseTrack (part : Nat) (b : List Byte) : TrkStream :=
  { isOpen := true, part := part, base := rdN b 0 6, ring := fld (rdN b 6 1) 5 0, tentative := bit (rdN b 7 1) 0, detections := bit (rdN b 7 1) 1,
    lost := bit (rdN b 7 1) 2, embDim := fld (rdN b 8 2) 10 0, embFmt := rdN b 0xA 1, maxAge := rdN b 0xB 1, minSize := rdN b 0xC 4, alpha := rdN b 0x10 4,
    beta := rdN b 0x14 4, cols := fld (rdN b 0x18 2) 12 0, nextId := 1 }

/-- Check 44 of a tracking block. -/
def badTrackOpen (s : State) (j : Job) (t : Stroke) (x : TrkStream) : Bool :=
  let c := fld t.param 7 0
  let a := ofBits32 x.alpha
  let b := ofBits32 x.beta
  fld t.param 31 8 != 0 || (t.opnds.drop 1).any (· != 0) || (s.stream c).owner != j.part + 1 || (s.track c).isOpen || x.base % 128 != 0 ||
  decide (1024 < x.embDim) || !(x.embFmt == 5 || x.embFmt == 7) || x.maxAge == 0 || !(a.ge .zero && a.lt oneF) || !(b.ge .zero && oneF.ge b) ||
  x.cols == 0 || decide (4096 < x.cols) || !s.placeOk j.part x.base x.tableBytes || !s.ringOpen x.ring j.part

def trkOpenOp (s : State) (j : Job) (t : Stroke) : OpOut :=
  let a := t.opnds.getD 0 0
  let x := parseTrack j.part (s.bytesAt a 64)
  { reads := [(a, 64)], writes := [(x.base, zeros x.tableBytes)],
    check := failIf (!s.placeOk j.part a 64 || badTrackOpen s j t x) 44,
    more := modTrack (fld t.param 7 0) (fun y => { x with overflow := y.overflow, full := y.full, small := y.small, rejected := y.rejected, stale := y.stale }) }

/-- TRK_OPEN (R249). -/
def execTrkOpen (job idx : Nat) (s : State) : Host.Outcome State Fault Refusal := Plan.done (trkOp 0x04 job idx trkOpenOp) s

/-- Tracking ends without records (R249). -/
def closeTrack (c : Nat) : Plan := modTrack c (fun x => { x with isOpen := false, slots := [], prepped := false })

def trkCloseOp (s : State) (j : Job) (t : Stroke) : OpOut :=
  let c := fld t.param 7 0
  { check := failIf (fld t.param 31 8 != 0 || t.opnds.any (· != 0) || (s.stream c).owner != j.part + 1 || !(s.track c).isOpen) 44, more := closeTrack c }

/-- TRK_CLOSE (R249). -/
def execTrkClose (job idx : Nat) (s : State) : Host.Outcome State Fault Refusal := Plan.done (trkOp 0x05 job idx trkCloseOp) s

/-! ## Records of a stream (R246) -/

/-- An EVENT record. -/
def eventRecord (c : Nat) (ans : HostAnswer) (time kind cls number track arg : Nat) : Plan := fun s =>
  putRecord (s.track c).ring (some c) ans 3 0 time
    (leBytes 1 c ++ leBytes 1 kind ++ leBytes 2 cls ++ leBytes 4 number ++ leBytes 4 track ++ leBytes 4 arg) s

/-! ## trk.prep (R251, R257, R258) -/

/-- A detection that trk.prep keeps. -/
structure Detection where
  box : List FVal
  score : Nat
  cls : Int
  emb : List FVal

/-- The detection set block (R251). -/
structure DetSet where
  keep : Nat
  boxes : Nat
  scores : Nat
  classes : Nat
  embs : Nat
  roi : Nat

def parseDetSet (b : List Byte) : DetSet :=
  { keep := rdN b 0 6, boxes := rdN b 8 6, scores := rdN b 0x10 6, classes := rdN b 0x18 6, embs := rdN b 0x20 6, roi := rdN b 0x28 6 }

/-- The indices of KEEP before the first −1. -/
def keptIndices (s : State) (a n : Nat) : List Nat :=
  ((List.range n).map (fun k => s.numAt (a + 4 * k) 4)).takeWhile (· != 0xFFFFFFFF)

/-- The box in the picture: its corners mapped, their bounds taken and clipped (R251 steps 1 to 3). -/
def mapBox (roi : Option Roi) (w h : Nat) (b : List FVal) : List FVal :=
  let g (k : Nat) : FVal := b.getD k .zero
  let pt (x y : FVal) : FVal × FVal :=
    match roi with
    | none => (x, y)
    | some r => ((((r.c 0).mul x).add ((r.c 1).mul y)).add (r.c 2), (((r.c 3).mul x).add ((r.c 4).mul y)).add (r.c 5))
  let ps := [pt (g 0) (g 1), pt (g 2) (g 1), pt (g 0) (g 3), pt (g 2) (g 3)]
  let bound (f : FVal → FVal → FVal) (p : FVal × FVal → FVal) : FVal := (ps.drop 1).foldl (fun m q => f m (p q)) (p (ps.headD (.zero, .zero)))
  let clip (n : Nat) (v : FVal) : FVal := (v.max .zero).min (FVal.ofInt n)
  [clip w (bound FVal.min (·.1)), clip h (bound FVal.min (·.2)), clip w (bound FVal.max (·.1)), clip h (bound FVal.max (·.2))]

/-- A kept detection by its index; an index beyond the tensors has no stated values: free ones (log entry 35). -/
def detection (s : State) (j : Job) (x : TrkStream) (d : DetSet) (pic : PicDesc) (free k : Nat) : Detection :=
  let B := s.operand j d.boxes
  let out := decide (B.e 1 ≤ k)
  let val (o : Operand) (i : List Nat) (n : Nat) : FVal := if out then ofBits32 (free / 2 ^ (32 * n) % 2 ^ 32) else o.value s i
  let roi := if d.roi = 0 then none else some (parseRoi (s.bytesAt d.roi 32))
  { box := mapBox roi pic.width pic.height ((List.range 4).map (fun c => val B [c, k, 0, 0] c)),
    score := (val (s.operand j d.scores) [k, 0, 0, 0] 4).bits32,
    cls := if d.classes = 0 then 0 else if out then toSigned 32 (free / 2 ^ 160) else toSigned 32 ((s.operand j d.classes).code s [k, 0, 0, 0]),
    emb := if x.embDim = 0 then [] else (List.range x.embDim).map (fun c => val (s.operand j d.embs) [c, k, 0, 0] (6 + c)) }

/-- Step 4 of R251: a side below MIN_SIZE, or a class outside 0 to 65,535. -/
def Detection.dropped (e : Detection) (minSize : Nat) : Bool :=
  let g (k : Nat) : FVal := e.box.getD k .zero
  ((g 2).sub (g 0)).lt (ofBits32 minSize) || ((g 3).sub (g 1)).lt (ofBits32 minSize) || decide (e.cls < 0) || decide (65535 < e.cls)

/-- The writes of the P columns (R251). -/
def columnWrites (x : TrkStream) (l : List Detection) : List (Nat × List Byte) :=
  (List.range x.cols).flatMap (fun k =>
    match l[k]? with
    | some e => [(x.dbox k, floatBytes e.box), (x.demb k, x.embBytes e.emb), (x.dscore k, leBytes 4 e.score), (x.dclass k, leBytes 4 (ofSigned 32 e.cls))]
    | none => [(x.dbox k, zeros 16), (x.demb k, zeros (x.embDim * x.fmt.bytes)), (x.dscore k, zeros 4), (x.dclass k, leBytes 4 0xFFFFFFFF)])

/-- The shapes of R251. -/
def badDetSet (s : State) (j : Job) (x : TrkStream) (d : DetSet) : Bool :=
  let B := s.operand j d.boxes
  let shape (a rank code : Nat) (e0 e1 : Nat) : Bool :=
    let o := s.operand j a
    o.bad1 || o.bad2 || o.dynBad || o.bad3 s j.part || o.badScale || o.d.rank != rank || (code != 0 && o.d.fmtCode != code) || o.e 0 != e0 || (rank == 2 && o.e 1 != e1)
  shape d.boxes 2 7 4 (B.e 1) || shape d.scores 1 7 (B.e 1) 1 || (d.classes != 0 && shape d.classes 1 8 (B.e 1) 1) ||
  (if x.embDim = 0 then d.embs != 0 else shape d.embs 2 0 x.embDim (B.e 1))

/-- A picture whose NUMBER is not above that of the last update is stale (R257). -/
def TrkStream.isStale (x : TrkStream) (pic : PicDesc) : Bool := match x.lastNumber with | some n => decide (pic.number ≤ n) | none => false

def trkPrepOp (free : Nat) (ans : HostAnswer) (s : State) (j : Job) (t : Stroke) : OpOut :=
  let c := fld t.param 7 0
  let x := s.track c
  let a := t.opnds.getD 0 0
  let p := t.opnds.getD 1 0
  let d := parseDetSet (s.bytesAt a 64)
  let pic := parsePic (s.bytesAt p 64)
  let stale := x.isStale pic
  let restart := !stale && bit pic.flags 3 && x.lastNumber.isSome
  let all := if stale then [] else (keptIndices s d.keep x.cols).map (detection s j x d pic free)
  let kept := all.filter (fun e => !e.dropped x.minSize)
  let cleared := x.slots.length
  { reads := [(a, 64), (p, 64), (d.keep, 4 * x.cols)] ++ (if d.roi = 0 then [] else [(d.roi, 32)]) ++
      ([d.boxes, d.scores] ++ (if d.classes = 0 then [] else [d.classes]) ++ (if x.embDim = 0 then [] else [d.embs])).flatMap (fun a => (s.operand j a).readRanges j),
    writes := (if restart then [(x.tbox 0, zeros 16384), (x.temb 0, zeros (1024 * x.eb)), (x.slotAddr 0, zeros 65536)] else []) ++ columnWrites x kept,
    check := failIf (fld t.param 31 8 != 0 || (t.opnds.drop 2).any (· != 0) || !x.isOpen || x.part != j.part || !s.placeOk j.part a 64 || !s.placeOk j.part p 64 ||
      badDetSet s j x d) 45,
    more := Plan.seq [
      Plan.when restart (Plan.seq [modTrack c (fun x => { x with slots := [] }),
        eventRecord c ans pic.time 6 0 pic.number 0xFFFFFFFF cleared, writeTail x.ring]),
      modTrack c (fun x => { x with prepped := true, prepNumber := pic.number, columns := kept.length, stalePrep := stale,
                                    small := satAdd 0xFFFF x.small (all.length - kept.length),
                                    stale := if stale then satAdd 0xFFFFFFFF x.stale 1 else x.stale })] }

/-- TRK_PREP (R251, R257, R258). -/
def execTrkPrep (job idx : Nat) (ans : HostAnswer) (s : State) : Host.Outcome State Fault Refusal :=
  Plan.done (withFree (fun f => trkOp 0x06 job idx (trkPrepOp f ans))) s

/-! ## trk.update (R253-R256) -/

/-- unit(x) (R253). -/
def unitVec (l : List FVal) : List FVal :=
  let q := sumRow (l.map (fun v => v.mul v))
  if q.eqNum .zero then l else let r := q.rsqrtX; l.map (fun v => v.mul r)

/-- A box shifted by a velocity. -/
def shiftBox (b v : List FVal) : List FVal := b.mapIdx (fun k x => x.add (v.getD (k % 2) .zero))

/-- The centre of a box. -/
def centreOf (b : List FVal) : List FVal :=
  let g (k : Nat) : FVal := b.getD k .zero
  [((g 0).add (g 2)).mul halfF, ((g 1).add (g 3)).mul halfF]

def bitsOf (l : List FVal) : List Nat := l.map FVal.bits32
def valsOf (l : List Nat) : List FVal := l.map ofBits32

/-- A detection column as trk.update reads it. -/
structure Column where
  box : List FVal
  score : Nat
  cls : Nat
  emb : List FVal

def TrkStream.column (x : TrkStream) (s : State) (k : Nat) : Column :=
  { box := floatsAt s (x.dbox k) 4, score := s.numAt (x.dscore k) 4, cls := s.numAt (x.dclass k) 4, emb := x.embAt s (x.demb k) }

/-- A slot while its picture is worked: the track, its predicted box and embedding, its column if it matched, whether it was opened now, and its event. -/
structure Work where
  slot : Nat
  track : Track
  pred : List FVal
  emb : List FVal
  matched : Option Nat := none
  opened : Bool := false
  gone : Bool := false
  /-- Event kind and ARG. -/
  ev : Option (Nat × Nat) := none

/-- A track matched with a column (R253). -/
def matchTrack (x : TrkStream) (w : Work) (k : Nat) (d : Column) : Work :=
  let t := w.track
  let c := centreOf d.box
  let r := (FVal.fin false 1 0).div (FVal.ofInt (t.misses + 1))
  let be := ofBits32 x.beta
  let al := ofBits32 x.alpha
  let v := (valsOf t.velocity).mapIdx (fun a v =>
    let m := ((c.getD a .zero).sub (ofBits32 (t.centre.getD a 0))).mul r
    v.add (be.mul (m.sub v)))
  { w with
    matched := some k,
    track := { t with box := bitsOf d.box, centre := bitsOf c, velocity := bitsOf v, score := d.score,
                      hits := satAdd 0xFFFF t.hits 1, misses := 0, age := satAdd 0xFFFFFFFF t.age 1 },
    pred := shiftBox d.box v,
    emb := unitVec (List.zipWith (fun e f => (al.mul e).add (((FVal.fin false 1 0).sub al).mul f)) w.emb d.emb) }

/-- A track without a match (R253). -/
def missTrack (w : Work) : Work :=
  let t := w.track
  { w with track := { t with misses := satAdd 0xFFFF t.misses 1, age := satAdd 0xFFFFFFFF t.age 1 }, pred := shiftBox w.pred (valsOf t.velocity) }

/-- The move of a track between states, `old` being its misses before the picture (R254). -/
def nextState (x : TrkStream) (old : Nat) (w : Work) : Work :=
  let t := w.track
  let to_ (n : Nat) (e : Option (Nat × Nat)) : Work := { w with track := { t with state := n }, ev := e }
  if t.state = 1 then
    if 3 ≤ t.hits ∧ t.age ≤ 5 then to_ 2 (some (1, 0))
    else if t.hits + 3 ≤ t.age then { w with gone := true, ev := if x.tentative then some (4, t.hits) else none }
    else w
  else if t.state = 2 then (if w.matched.isNone then to_ 3 (some (2, 0)) else w)
  else if w.matched.isSome then to_ 2 (some (3, old))
  else if x.maxAge < t.misses then { w with gone := true, ev := some (4, t.hits) }
  else w

/-- The next identifier: it skips 0 and 0xFFFF_FFFF (R249). -/
def nextTrackId (n : Nat) : Nat := if n + 1 ≥ 0xFFFFFFFF then 1 else n + 1

/-- The identifiers of `n` tracks from one on. -/
def idsFrom : Nat → Nat → List Nat
  | 0, _ => []
  | n + 1, a => a :: idsFrom n (nextTrackId a)

/-- A tentative track opened from a column (R253, R255). -/
def openTrack (slot id : Nat) (d : Column) : Work :=
  { slot := slot, pred := d.box, emb := unitVec d.emb, matched := none, opened := true,
    track := { state := 1, id := id, cls := d.cls, hits := 1, misses := 0, age := 1, score := d.score, box := bitsOf d.box, centre := bitsOf (centreOf d.box),
               velocity := [0, 0] } }

/-- A picture's update: the slots worked, the columns and which track each has, the pairs rejected, the columns that opened nothing, and the next identifier. -/
structure Update where
  works : List Work
  cols : List Column
  /-- Slot by column. -/
  owner : Tab Nat
  rejected : Nat
  full : Nat
  nextId : Nat

def trackUpdate (s : State) (x : TrkStream) (assign : List Nat) : Update :=
  let cols := (List.range x.columns).map (x.column s)
  let cls (k : Nat) : Nat := match cols[k]? with | some d => d.cls | none => 0
  let pair (i : Nat) (t : Track) : Option Nat :=
    let k := assign.getD i 0xFFFFFFFF
    if k < x.columns ∧ cls k = t.cls then some k else none
  let rejected := (x.slots.filter (fun e => assign.getD e.1 0xFFFFFFFF != 0xFFFFFFFF && (pair e.1 e.2).isNone)).length
  let old := x.slots.map (fun e =>
    let w : Work := { slot := e.1, track := e.2, pred := floatsAt s (x.tbox e.1) 4, emb := x.embAt s (x.temb e.1) }
    nextState x e.2.misses (match pair e.1 e.2 with
      | some k => (match cols[k]? with | some d => matchTrack x w k d | none => missTrack w)
      | none => missTrack w))
  let free := (List.range 1024).filter (fun i => !(Tab.keys x.slots).contains i)
  let lone := (List.range x.columns).filter (fun k => !old.any (fun w => w.matched == some k))
  let opening := (lone.zip free).zip (idsFrom lone.length x.nextId)
  let fresh := opening.filterMap (fun e => (cols[e.1.1]?).map (fun d => openTrack e.1.2 e.2 d))
  let owner := old.foldl (fun m w => match w.matched with | some k => Tab.put 0 m k (w.slot + 1) | none => m)
    (opening.foldl (fun m e => Tab.put 0 m e.1.1 (e.1.2 + 1)) [])
  { works := old ++ fresh, cols := cols, owner := owner, rejected := rejected, full := lone.length - opening.length,
    nextId := opening.foldl (fun n _ => nextTrackId n) x.nextId }

/-- The slots in ascending order. -/
def Update.bySlot (u : Update) : List Work := (List.range 1024).filterMap (fun i => u.works.find? (fun w => w.slot == i))

/-- A track has a TRACK record (R256). -/
def Work.reported (w : Work) (x : TrkStream) : Bool :=
  !w.gone && (w.track.state == 2 || (w.track.state == 3 && x.lost) || (w.track.state == 1 && x.tentative))

/-- The records of a picture in order: type, flags and body (R246, R256). -/
def updateRecords (x : TrkStream) (c : Nat) (pic : PicDesc) (u : Update) : List (Nat × Nat × List Byte) :=
  let ws := u.bySlot
  let head (b cls : Nat) : List Byte := leBytes 1 c ++ leBytes 1 b ++ leBytes 2 cls ++ leBytes 4 pic.number
  let dets := if !x.detections then [] else u.cols.mapIdx (fun k d =>
    let tr := match ws.find? (fun w => Tab.get 0 u.owner k == w.slot + 1) with | some w => if w.reported x then w.track.id else 0xFFFFFFFF | none => 0xFFFFFFFF
    (1, 0, head 0 d.cls ++ leBytes 4 d.score ++ leBytes 4 tr ++ floatBytes d.box))
  let evs := ws.filterMap (fun w => w.ev.map (fun e => (3, 0, head e.1 w.track.cls ++ leBytes 4 w.track.id ++ leBytes 4 e.2)))
  let full := if u.full = 0 then [] else [(3, 0, head 5 0 ++ leBytes 4 0xFFFFFFFF ++ leBytes 4 u.full)]
  let tracks := (ws.filter (·.reported x)).map (fun w =>
    let t := w.track
    let hit := w.matched.isSome || w.opened
    (2, bitAt w.matched.isSome 0 + bitAt w.opened 1, head t.state t.cls ++ leBytes 4 t.id ++ leBytes 2 t.hits ++ leBytes 2 t.misses ++
      (if hit then t.box.flatMap (leBytes 4) else floatBytes w.pred) ++ t.velocity.flatMap (leBytes 4) ++ leBytes 4 t.age ++ leBytes 4 t.score))
  dets ++ evs ++ full ++ tracks

/-- The writes to the table: predicted box, embedding and slot of each track in use, zeros for a deleted one; what a slot's bytes hold is the unit's own: free values (R250, log entry 35). -/
def updateWrites (x : TrkStream) (free : Nat) (u : Update) : List (Nat × List Byte) :=
  u.bySlot.flatMap (fun w =>
    if w.gone then [(x.tbox w.slot, zeros 16), (x.temb w.slot, zeros x.eb), (x.slotAddr w.slot, zeros 64)]
    else [(x.tbox w.slot, floatBytes w.pred), (x.temb w.slot, x.embBytes w.emb), (x.slotAddr w.slot, leBytes 64 (free / 256 ^ (64 * w.slot)))])

def trkUpdateOp (i free : Nat) (ans : HostAnswer) (s : State) (j : Job) (t : Stroke) : OpOut :=
  let c := fld t.param 7 0
  let x := s.track c
  let a := t.opnds.getD 0 0
  let p := t.opnds.getD 1 0
  let pic := parsePic (s.bytesAt p 64)
  let check := failIf (fld t.param 31 8 != 0 || (t.opnds.drop 2).any (· != 0) || !x.isOpen || x.part != j.part || !s.placeOk j.part a 4096 || !s.placeOk j.part p 64 ||
    !x.prepped || x.prepNumber != pic.number) 45
  if x.stalePrep then { reads := [(a, 4096), (p, 64)], check := check, more := modTrack c (fun x => { x with prepped := false }) }
  else
    let u := trackUpdate s x ((List.range 1024).map (fun k => s.numAt (a + 4 * k) 4))
    let recs := updateRecords x c pic u
    { reads := [(a, 4096), (p, 64), (x.base, x.tableBytes)], writes := updateWrites x free u, check := check,
      more := Plan.seq [
        modTrack c (fun x => { x with
          slots := ((u.bySlot.filter (fun w => !w.gone)).map (fun w => (w.slot, w.track))), nextId := u.nextId, prepped := false, lastNumber := some pic.number,
          full := satAdd 0xFFFF x.full u.full, rejected := satAdd 0xFFFFFFFF x.rejected u.rejected }),
        Plan.when (u.full != 0) (Plan.andThen (raiseErr pgTRK 2 [])
          (event { cls := 9, code := 2, stroke := j.tableIndex i, part := j.part, charged := true, fn := j.fn, page := pgTRK, detail := leBytes 1 c })),
        Plan.each recs (fun r => putRecord x.ring (some c) ans r.1 r.2.1 pic.time r.2.2),
        Plan.when (!recs.isEmpty) (writeTail x.ring)] }

/-- TRK_UPDATE (R253-R257). -/
def execTrkUpdate (job idx : Nat) (ans : HostAnswer) (s : State) : Host.Outcome State Fault Refusal :=
  Plan.done (withFree (fun f => trkOp 0x07 job idx (trkUpdateOp idx f ans))) s

/-! ## trk.text, trk.page, trk.clip (R247, R259) -/

/-- The body of a LINE or FIELD record. -/
def textBody (field : Bool) (number : Nat) (tag res box text : List Byte) : List Byte :=
  let fin := rdN res 0 1
  let n := rdN res 8 4
  let cut := decide (65456 < n)
  let b := leBytes 8 (rdN tag 0 8) ++ leBytes 2 number ++ leBytes 1 fin ++
    leBytes 1 (bitAt (bit (rdN res 1 1) 0) 0 + bitAt cut 1 + bitAt (field && (fin == 2 || fin == 4)) 2) ++ leBytes 4 (min n 65456) ++ box ++
    leBytes 2 (rdN res 4 2) ++ leBytes 2 (min (rdN res 0xC 4) 0xFFFF) ++ zeros 12 ++ text
  b ++ zeros (cdiv b.length 16 * 16 - b.length)

def trkTextOp (ans : HostAnswer) (s : State) (j : Job) (t : Stroke) : OpOut :=
  let a (k : Nat) : Nat := t.opnds.getD k 0
  let res := s.bytesAt (a 0) 32
  let n := min (rdN res 8 4) 65456
  let tag := s.bytesAt (a 2) 32
  let k := fld (rdN tag 0x10 1) 5 0
  let ins := [(a 0, 32), (a 1, n), (a 2, 32), (a 3, 16)]
  { reads := ins,
    check := failIf (ins.any (fun r => !s.placeOk j.part r.1 r.2) || fld t.param 31 17 != 0 || !s.ringOpen k j.part) 46,
    more := Plan.andThen (putRecord k none ans (if bit t.param 16 then 6 else 5) 0 (rdN tag 8 8)
        (textBody (bit t.param 16) (fld t.param 15 0) tag res (s.bytesAt (a 3) 16) (s.bytesAt (a 1) n))) (writeTail k) }

/-- TRK_TEXT (R259). -/
def execTrkText (job idx : Nat) (ans : HostAnswer) (s : State) : Host.Outcome State Fault Refusal := Plan.done (trkOp 0x10 job idx (trkTextOp ans)) s

def trkPageOp (ans : HostAnswer) (s : State) (j : Job) (t : Stroke) : OpOut :=
  let a (k : Nat) : Nat := t.opnds.getD k 0
  let tag := s.bytesAt (a 0) 32
  let pic := parsePic (s.bytesAt (a 1) 64)
  let k := fld (rdN tag 0x10 1) 5 0
  let ins := [(a 0, 32), (a 1, 64)]
  { reads := ins,
    check := failIf (ins.any (fun r => !s.placeOk j.part r.1 r.2) || (t.opnds.drop 2).any (· != 0) || !s.ringOpen k j.part) 46,
    more := Plan.andThen (putRecord k none ans 4 0 (rdN tag 8 8)
        (leBytes 8 (rdN tag 0 8) ++ leBytes 2 pic.width ++ leBytes 2 pic.height ++ leBytes 2 (fld t.param 15 0) ++ leBytes 2 (fld t.param 31 16) ++
          leBytes 4 (rdN tag 0x14 4) ++ leBytes 4 (pic.flags % 2) ++ leBytes 4 pic.concealed ++ zeros 4)) (writeTail k) }

/-- TRK_PAGE (R259). -/
def execTrkPage (job idx : Nat) (ans : HostAnswer) (s : State) : Host.Outcome State Fault Refusal := Plan.done (trkOp 0x11 job idx (trkPageOp ans)) s

/-- The body of a CLIP record: what was given, with its reserved fields written as zero (R7, R247). -/
def clipBody (b : List Byte) : List Byte :=
  b.take 1 ++ leBytes 1 (fld (rdN b 1 1) 1 0) ++ zeros 2 ++ (b.drop 4).take 18 ++ zeros 2 ++ (b.drop 0x18).take 20 ++ zeros 4

def trkClipOp (ans : HostAnswer) (s : State) (j : Job) (t : Stroke) : OpOut :=
  let a := t.opnds.getD 0 0
  let b := s.bytesAt a 48
  let k := fld t.param 5 0
  { reads := [(a, 48)],
    check := failIf (!s.placeOk j.part a 48 || fld t.param 31 6 != 0 || (t.opnds.drop 1).any (· != 0) || fld (rdN b 1 1) 1 0 == 0 || !s.ringOpen k j.part) 46,
    more := Plan.andThen (putRecord k none ans 7 0 (rdN b 0x18 8) (clipBody b)) (writeTail k) }

/-- TRK_CLIP (R259). -/
def execTrkClip (job idx : Nat) (ans : HostAnswer) (s : State) : Host.Outcome State Fault Refusal := Plan.done (trkOp 0x12 job idx (trkClipOp ans)) s

end Sys2Proof.Machine
end

