-- ==== Sys2Proof/Machine/Reset.lean ====
section
/-! DEFINITION. Resets of functions (R31, R56, R153, R267, R286, R305, R330-R335, R379): FLR of a VF and of the PF, the link reset, D3hot, and the failures of the single points. -/
namespace Sys2Proof.Machine

/-! ## Work that a reset ends -/

/-- Jobs are killed and every unit lets them go; without Bus Master Enable no completion is posted (R31 steps 2 and 3). -/
def discardJobs (ids : List Nat) (post : Nat → Bool) : Plan := fun s =>
  Plan.seq [
    Plan.each (ids.filter (fun id => !post (s.job id).fn)) (fun id => modJob id (fun j => { j with silent := true })),
    Plan.each ids (fun id => killJob id 0x10), Plan.each ids releaseKilled] s

/-- What a mailbox operation has begun is undone: flash, slots and units stand as before it (R30, R31, R302, R349, R354, R358, R370). -/
def mbxUndo : Plan := fun s =>
  let r := s.reserve
  match s.mbx.cmd with
  | 0x10 => [.reserve { r with queue := r.queue.filter (fun t => !t.byMailbox),
                               running := if (r.running.map (·.byMailbox)).getD false then none else r.running,
                               phase := if (r.running.map (·.byMailbox)).getD false then 0 else r.phase }]
  | 0x11 => [.positions s.svc.retrain { s.pos s.svc.retrain with retraining := false }]
  | 0x12 => [.flashClear s.svc.stagedAt copySize, .svc { s.svc with staged := [] }]
  | 0x13 => [.svc { s.svc with staged := [] }]
  | 0x14 => Plan.andThen (Plan.act (.recorder { s.recorder with clearing := none })) appendStaged s
  | _ => []

/-- A running mailbox operation ends with ABORTED. -/
def mbxAbort : Plan := fun s => if s.mbx.state = .busy then Plan.andThen mbxUndo (mbxEnd 7 []) s else []

/-- A migration is abandoned: M8 is powered down, the position stays in service; one that an error started starts again with service (R305). -/
def abandonMigration : Plan := fun s =>
  let g := s.gddr
  if !g.migrating then []
  else [.gddr { g with migrating := false, copying := false, page := 0, again := if g.byError then g.source + 1 else g.again },
        .positions g.source { s.pos g.source with state := 2 }, .positions 8 { s.pos 8 with state := 0 }]

/-- A spare-in that has not yet remapped is abandoned; its trigger, unless the host gave it, waits for service (R373). -/
def abandonSpare : Plan := fun s =>
  let r := s.reserve
  match r.running with
  | none => []
  | some t => [.reserve { r with running := none, phase := 0, queue := if t.byMailbox ∨ t.kind = 3 then r.queue else t :: r.queue }]

/-! ## FLR of a VF -/

/-- A function is in the first phase of its reset: it neither fetches nor takes doorbells. -/
def enterReset (fn : Nat) : Plan := fun s => [.funcs fn { s.func fn with flr := true, resetting := true, ready := false }]

/-- FLR_VF: steps 1 and 2 and the DISCARDED completions of step 3 (R31, R56). Absorbed by a reset of the PF (R332). -/
def flrVf (vf : Nat) : Plan := fun s =>
  if vf = 0 ∨ 8 < vf ∨ (s.func vf).flr ∨ (s.func 0).flr ∨ s.pcie.coreFailed then []
  else
    let bme := (s.func vf).busMaster
    Plan.seq [enterReset vf, rollback vf true, disarm vf, discardJobs (s.jobIds.filter (fun id => (s.job id).fn == vf)) (fun _ => bme)] s

def execFlrVf (vf : Nat) (s : State) : Host.Outcome State Fault Refusal := Plan.done (flrVf vf) s

/-- Queues, result slots and vectors of a function return to their reset values. -/
def clearFunction (fn : Nat) : Plan := fun s =>
  let r := s.queueRange fn
  [.queuesClear r.1 r.2, .slotsClear r.1 r.2, .vecsClear (fn * 2048) 2048, .evtSelsClear fn 1,
   .regsClear (regKey fn 0 0) (2 ^ 20), .polWaits fn 0, .modeChanges fn { timeout := s.profReg 0x2138 0x2710 % 2 ^ 24 }]

/-- The contexts, groups, rings and tracking of a partition close (R193, R221, R237, R244, R249). -/
def closeContexts (p : Nat) : Plan := fun s =>
  Plan.seq [
    Plan.each ((List.range 16).filter (fun g => (s.regGroup g).owner == p + 1 && (s.regGroup g).isOpen)) dropGroup,
    Plan.each ((List.range 256).filter (fun c => (s.track c).isOpen && (s.track c).part == p)) closeTrack,
    Plan.each ((List.range 64).filter (fun k => (s.outRing k).state != 0 && (s.outRing k).part == p)) (fun k => fun s => [.outRings k { s.outRing k with state := 0 }]),
    Plan.each ((List.range 256).filter (fun c => (s.stream c).owner == p + 1 && (s.stream c).state != 0)) closeStream,
    Plan.each ((List.range 8).filter (fun c => (s.intake c).owner == p + 1 && (s.intake c).state != 0)) closeIntake] s

/-- The settings of a partition that its function's registers hold; measured service starts (R267, R274). -/
def Part.reset (x : Part) (waitLimit : Nat) : Part :=
  { x with waitLimit := waitLimit, saveBase := 0, frames := 0, framesUsed := [], preempts := 0, inherits := 0, measure := true, measureNext := none }

/-- What an FLR of a VF does to its partition: allocations burnished, buffers returned, semaphores at their reset values (R31, R43, R153, R267, R286). -/
def resetPartition (p : Nat) : Plan := fun s =>
  let x := s.part p
  Plan.seq [
    closeContexts p,
    Plan.each ((s.ownSegs p).filter (fun n => s.mode (pgPS n) == 0)) (fun n => Plan.seq [burnishSegment n,
      Plan.act (.claimsClear (n * 128) 128), (fun s => [.segs n { s.seg n with burnish := [] }])]),
    Plan.each (s.ownClusters p) burnishCluster,
    resetSlices p,
    Plan.act (.semsClear x.semFirst x.semCount),
    (fun s => [.parts p ((s.part p).reset (s.profReg 0x2110 0x3E8 % 2 ^ 16))])] s

/-- Step 3 of an FLR of a VF ends. -/
def vfResetDone (vf : Nat) : Plan := fun s =>
  Plan.seq [
    thaw vf,
    (match s.partOf vf with | none => Plan.skip | some p => resetPartition p),
    clearFunction vf,
    (fun s => [.funcs vf { fault := (s.func vf).fault, ready := !(s.func vf).fault && s.gddr.frozen == false && s.svc.initialising == false }]),
    sendVec vf 0, settle] s

/-! ## FLR of the PF -/

/-- Registers of the PF that an FLR keeps: counts since the cold reset, the state of the reserve and the recorder, the capacity and the node (R31, R267). -/
def keptReg (k : Nat) : Bool :=
  let page := k / 0x1000
  let off := k % 0x1000
  (decide (pgBC 0 ≤ page) && decide (page ≤ pgBC 16) && (off == 0x120 || off == 0x124)) ||
  (page == pgPLT && off == 0x110) || (decide (pgPS 0 ≤ page) && decide (page ≤ pgPS 33) && off == 0x120) ||
  (page == pgMEM && (off == 0x108 || off == 0x114 || off == 0x118)) ||
  (decide (pgM 0 ≤ page) && decide (page ≤ pgM 8) && (off == 0x104 || off == 0x108 || off == 0x10C)) ||
  (decide (pgCC 0 ≤ page) && decide (page ≤ pgCC 8) && off == 0x10C) || (page == pgSCL && off == 0x10C) || page == pgLET + 1 ||
  ((page == pgU 0 || page == pgU 1) && (off == 0x104 || off == 0x110)) || (page == pgULZ && off == 0x100) ||
  (page == pgCLK && off == 0x110) || ((page == pgRSV || page == pgEVT) && off == 0x018)

/-- The value registers of every function at their reset values under the profile in force, but for those kept. -/
def resetPfRegs : Plan := fun s =>
  let kept := (s.regs.filter (fun e => decide (e.1 < 2 ^ 20) && keptReg e.1)).map (fun e => Eff.regs e.1 e.2)
  Plan.seq [
    (fun _ => Eff.regsClear 0 allKeys :: (resetRegs.filter (fun e => !keptReg e.1)).map (fun e => Eff.regs e.1 e.2) ++ kept),
    Plan.each (s.svc.entries.filter (fun e => e.2.1 == 1 && rdN e.2.2 0 4 != 0xB0100)) (fun e => applyReg (rdN e.2.2 0 4) (rdN e.2.2 4 4))] s

/-- The copy is programmed and the owner fuses are blown (R354). -/
def commitProfile : Plan := fun s =>
  let v := s.svc
  Plan.andThen (program v.stagedAt copySize v.staged)
    (Plan.act (.svc { v with owners := (ownerRun (sigAt v.staged (rdN v.staged 0x18 4)).signer v.owners (entriesOf v.staged)).1, staged := [] })) s

/-- The mailbox after an FLR of the PF: IDLE with ABORTED where an operation ran; a PROFILE_COMMIT that has reached its fuse step runs to its end, with SUCCESS (R31, R354).
How far the commit is when the reset comes is a free value (log entry 108). -/
def mbxReset : Plan := fun s =>
  let abort : Plan := Plan.andThen mbxUndo (Plan.act (.mbx { result := 7 }))
  if s.mbx.state ≠ .busy then [.mbx {}]
  else if s.mbx.cmd = 0x12 then withFree (fun f => if f % 2 = 1 then Plan.andThen commitProfile (Plan.act (.mbx {})) else abort) s
  else abort s

/-- A reset of the PF begins, with its cause; one that is under way goes on (R31, R332). -/
def pfReset (cause : Nat) (post : State → Nat → Bool) : Plan := fun s =>
  if (s.func 0).flr ∨ s.pcie.coreFailed then []
  else
    Plan.seq [
      Plan.each (List.range 9) enterReset,
      Plan.act (.svc { s.svc with resetCause := cause, initialising := s.svc.stage != 3 }),
      mbxReset, abandonMigration, abandonSpare,
      Plan.when (s.unitMove.status == 1) (Plan.act (.unitMove { s.unitMove with status := 3, reason := 6 })),
      Plan.each (List.range 9) (fun fn => rollback fn true), Plan.each (List.range 9) disarm,
      discardJobs s.jobIds (post s)] s

/-- FLR_PF (R31): a completion is posted for the jobs of each function whose Bus Master Enable is set. -/
def flrPf : Plan := pfReset 3 (fun s fn => (s.func fn).busMaster)

def execFlrPf (s : State) : Host.Outcome State Fault Refusal := Plan.done flrPf s

/-- Step 3 of an FLR of the PF ends: every function's registers, queues, vectors and slots, the layout, the ruling table, and what the units held for jobs (R31, R43, R266, R267). -/
def pfResetDone : Plan := fun s =>
  Plan.seq [
    Plan.each (s.recorder.freezes.map (·.1)) thaw,
    Plan.each (List.range 8) closeContexts,
    (fun _ => [.streamsClear 0 allKeys, .intakesClear 0 allKeys, .regGroupsClear 0 allKeys, .outRingsClear 0 allKeys, .tracksClear 0 allKeys]),
    (fun s => [.queuesClear 0 allKeys, .slotsClear 0 allKeys, .vecsClear 0 allKeys, .evtSelsClear 0 allKeys, .semsClear 0 allKeys, .modeChangesClear 0 allKeys,
      .sessionsClear 0 allKeys, .groupsClear 0 allKeys, .vocabsClear 0 allKeys, .grammarsClear 0 allKeys, .maskTagsClear 0 allKeys, .basesClear 0 allKeys,
      .xfers [], .colls [], .retries [], .ruling { maxUs := s.ruling.maxUs },
      .pcie { s.pcie with vfEnable := false, schedFailed := false, aerPoisoned := false, aerEcrc := false, aerOther := false },
      .recorder { s.recorder with freezeLimit := 0x3E8 }]),
    resetPfRegs,
    Plan.act (.partsClear 0 allKeys), Plan.act (.parts 0 Part.factory0),
    (fun s => Plan.each (List.range 8) (fun p => fun s => [.parts p { s.part p with waitLimit := s.profReg 0x2110 0x3E8 % 2 ^ 16 }]) s),
    restoreLayout,
    Plan.each (List.range 9) (fun fn => fun s => [.funcs fn {}, .modeChanges fn { timeout := s.profReg 0x2138 0x2710 % 2 ^ 24 }]),
    signalAll] s

/-- FUNCTION_RESET_COMPLETE: step 3 of the FLR timeline; a VF is in service again (R25, R31). -/
def functionResetComplete (fn : Nat) : Plan := fun s =>
  if 8 < fn ∨ !(s.func fn).flr then []
  else if fn = 0 then pfResetDone s
  else if (s.func 0).flr then []
  else vfResetDone fn s

def execFunctionResetComplete (fn : Nat) (s : State) : Host.Outcome State Fault Refusal := Plan.done (functionResetComplete fn) s

/-- PF_UNIT_INIT_DONE: steps 4 and 5 of an FLR of the PF (R31). -/
def pfUnitInitDone : Plan := fun s =>
  if s.svc.initialising ∧ s.svc.stage ≠ 1 ∧ s.svc.stage ≠ 3 ∧ !(s.func 0).flr ∧ !(s.func 0).d3hot ∧ !s.selfTestPends then Plan.andThen unitInit serviceReady s else []

def execPfUnitInitDone (s : State) : Host.Outcome State Fault Refusal := Plan.done pfUnitInitDone s

/-! ## Link reset and power states (R330, R334, R335) -/

/-- LINK_RESET: as an FLR of the PF, and the link retrains; no completion reaches the host. A loss of lock of the PCIe PLL is counted and recorded (R329). -/
def linkReset (pllLoss : Bool) : Plan :=
  Plan.andThen
    (Plan.when pllLoss (Plan.seq [bumpField pgCLK 0x110 7 0 1, raiseErr pgCLK 1 [], event { cls := 0x0C, code := 3, page := pgCLK, detail := [11] }]))
    (pfReset 2 (fun _ _ => false))

def execLinkReset (pllLoss : Bool) (s : State) : Host.Outcome State Fault Refusal := Plan.done (linkReset pllLoss) s

/-- The units lose power: plate and local memory lose their contents; dirty cache lines have gone to GDDR6 before its self-refresh (R335 steps 5 and 6). -/
def powerDown : Plan := fun s =>
  Plan.seq [
    Plan.when (!s.gddr.frozen) (Plan.each s.cacheSegs writeBackAll),
    (fun _ => [.linesClear 0 allKeys, .plruClear 0 allKeys, .maskTagsClear 0 allKeys, .zero plateBase (32 * segSize), .badWordsClear 0 allKeys, .localMemClear 0 allKeys])] s

/-- D3HOT_ENTRY: the PF is written to D3hot (R335). -/
def d3hotEntry : Plan := fun s =>
  if (s.func 0).d3hot ∨ (s.func 0).flr ∨ s.pcie.coreFailed then []
  else
    Plan.seq [
      discardJobs s.jobIds (fun fn => (s.func fn).busMaster),
      mbxAbort,
      Plan.each (List.range 9) (fun fn => rollback fn false),
      abandonMigration, powerDown,
      Plan.each ((List.range 2).filter (fun p => (s.port p).state != 0)) takeDown,
      (fun s => [.funcs 0 { s.func 0 with d3hot := true, ready := false }])] s

def execD3hotEntry (s : State) : Host.Outcome State Fault Refusal := Plan.done d3hotEntry s

/-- D3HOT_TO_D0: self-refresh ends and the PF resets (R330). -/
def d3hotToD0 : Plan := fun s =>
  if (s.func 0).d3hot then Plan.andThen (Plan.act (.funcs 0 { s.func 0 with d3hot := false })) (pfReset 4 (fun _ _ => false)) s else []

def execD3hotToD0 (s : State) : Host.Outcome State Fault Refusal := Plan.done d3hotToD0 s

/-- VF_POWER_STATE_WRITE (R334). -/
def vfPowerStateWrite (vf : Nat) (d3 : Bool) : Plan := fun s =>
  if vf = 0 ∨ 8 < vf ∨ (s.func vf).flr then [] else [.funcs vf { s.func vf with d3hot := d3 }]

def execVfPowerStateWrite (vf : Nat) (d3 : Bool) (s : State) : Host.Outcome State Fault Refusal := Plan.done (vfPowerStateWrite vf d3) s

/-! ## The single points (R31, R379) -/

/-- A device-domain fault while the host interface answers: DISCARDED everywhere, DEVICE_FAULT and vector 0 of every function. -/
def deviceFault : Plan :=
  Plan.seq [discardAll, Plan.each (List.range 9) (fun fn => fun s => [.funcs fn { s.func fn with fault := true, ready := false }]), signalAll]

/-- SCHEDULER_FAILURE (R31, R379). -/
def schedulerFailure : Plan :=
  Plan.seq [(fun s => [.pcie { s.pcie with schedFailed := true }]), event { cls := 0x0F, code := 1, page := pgSCH }, deviceFault]

def execSchedulerFailure (s : State) : Host.Outcome State Fault Refusal := Plan.done schedulerFailure s

/-- PCIE_CORE_FAILURE: the link is lost; the host recovers through PERST_N (R31, R379). -/
def pcieCoreFailure : Plan :=
  Plan.andThen (fun s => [.pcie { s.pcie with coreFailed := true, up := false, width := 0, rate := 0, degraded := false }]) (event { cls := 0x0F, code := 2, page := pgHIF })

def execPcieCoreFailure (s : State) : Host.Outcome State Fault Refusal := Plan.done pcieCoreFailure s

/-- PCIE_LANE_FAULT: the link retrains at x4 on the clean half, and the reserve manager records it (R8, R371, R376). -/
def pcieLaneFault (lane : Nat) : Plan := fun s =>
  if 8 ≤ lane ∨ s.pcie.width ≤ 4 then []
  else Plan.andThen (Plan.act (.pcie { s.pcie with width := 4, degraded := true })) (ledgerWrite 5 6 0 lane 0xFF 4 pgHIF) s

def execPcieLaneFault (lane : Nat) (s : State) : Host.Outcome State Fault Refusal := Plan.done (pcieLaneFault lane) s

end Sys2Proof.Machine
end

