-- ==== Sys2Proof/Machine/Service.lean ====
section
/-! DEFINITION. The service controller's mailbox commands on identity, attestation, profile, firmware and the event log (R349, R354-R359, R369, R370),
unknown commands (R32), the SMBus requests (R357, R368) and the service restart (R331). -/
namespace Sys2Proof.Machine

/-! ## Identity (R359) -/

/-- HIF_PART_ID: LV7730, stepping B0. -/
def partId : Nat := 0x7730B000

def deviceIdNat : Nat := Config.deviceId % 2 ^ 64

/-- Bit n of each: slot n programmed, and revoked. -/
def ownerBits (f : OwnerSlot → Bool) (l : List OwnerSlot) : Nat := (l.mapIdx (fun n o => bitAt (f o) n)).foldl (fun a b => a + b) 0

/-- Unspent fuse steps. -/
def Svc.stepsLeft (v : Svc) : Nat := fuses - v.steps

/-- The IDENTITY response. -/
def identityWords (s : State) : List Nat :=
  let v := s.svc
  let fw := v.stage != 3
  [partId, deviceIdNat % 2 ^ 32, deviceIdNat / 2 ^ 32, if fw then v.fwVersion else 0,
   (if fw then v.svn else 0) + v.minSvn * 2 ^ 8 + ownerBits (·.programmed) v.owners * 2 ^ 16 + ownerBits (·.revoked) v.owners * 2 ^ 20 +
     v.profile * 2 ^ 24 + v.stage * 2 ^ 26,
   v.profileSeq % 2 ^ 32, v.profileSeq / 2 ^ 32, v.stepsLeft]

def execMbxIdentity (tag : Nat) (s : State) : Host.Outcome State Fault Refusal :=
  Plan.done (hostGate 0 (mbxCommand 0x01 tag (fun s => mbxEnd 0 (identityWords s) s))) s

/-! ## Attestation (R355-R358) -/

/-- A byte of the identity area (R355). -/
def identityAt (o : Nat) : Byte :=
  if o < 4 then (leBytes 4 0x4E444449).getD o 0
  else if o < 8 then 0
  else if o < 16 then (leBytes 8 deviceIdNat).getD (o - 8) 0
  else if 0x4C ≤ o ∧ o < 0x80 then 0
  else if o < 0x10000 then Config.identityByte o
  else 0

/-- The 128 bytes of a report over a nonce by a bottom leaf (R357). -/
def reportBytes (s : State) (leaf : Nat) (nonce : List Byte) : List Byte :=
  let v := s.svc
  leBytes 4 0x54544152 ++ leBytes 2 1 ++ zeros 2 ++ leBytes 8 deviceIdNat ++ leBytes 4 partId ++ leBytes 4 v.fwVersion ++
  leBytes 1 v.svn ++ leBytes 1 v.minSvn ++ zeros 2 ++ leBytes 2 v.topLeaf ++ zeros 2 ++ leBytes 4 leaf ++
  leBytes 4 (s.recorder.powerCycles % 2 ^ 24) ++ leBytes 4 s.seconds ++
  leBytes 1 (ownerBits (·.programmed) v.owners + ownerBits (·.revoked) v.owners * 16) ++ leBytes 1 v.signer ++ zeros 2 ++
  leBytes 8 v.profileSeq ++ zeros 8 ++ (v.fwDigest ++ zeros (32 - v.fwDigest.length)) ++ ((nonce ++ zeros 28).take 28) ++ zeros 4

/-- The blob: the report and the 5,364 bytes of its signature (R357). -/
def blobBytes (s : State) (leaf : Nat) (nonce : List Byte) : List Byte :=
  let r := reportBytes s leaf nonce
  r ++ (List.range 5364).map (fun k => Config.attestByte s.svc.topLeaf leaf r k)

/-- An answer of an attestation request: result, responses, and the blob that it leaves when it signed. -/
structure AttestAns where
  result : Nat
  rsps : List Nat := []
  signed : Option (List Byte) := none

/-- SIGN (R357). -/
def attestSign (s : State) (nonce : List Byte) : AttestAns :=
  let v := s.svc
  if v.fuseFailed ∨ v.attest = 0 then { result := 3 }
  else if v.attest = 3 then { result := 5, rsps := [2] }
  else if v.sigsLeft = 0 then { result := 5, rsps := [1] }
  else { result := 0, rsps := [5492, 32768 - v.sigsLeft, v.sigsLeft - 1], signed := some (blobBytes s (32768 - v.sigsLeft) nonce) }

/-- Eight words of a byte sequence from an offset, which must be a multiple of 32 (R357). -/
def attestWindow (off : Nat) (at_ : Nat → Byte) : AttestAns :=
  if off % 32 ≠ 0 then { result := 2 }
  else { result := 0, rsps := (List.range 8).map (fun k => leNat ((List.range 4).map (fun b => at_ (off + 4 * k + b)))) }

/-- READ returns the blob of the last SIGN of the same requester. -/
def attestRead (blob : List Byte) (off : Nat) : AttestAns := attestWindow off (fun o => blob.getD o 0)

/-- CERT returns the identity area. -/
def attestCert (off : Nat) : AttestAns := attestWindow off identityAt

/-- The three operations by OP (R357). -/
def attestOp (s : State) (op off : Nat) (nonce blob : List Byte) : AttestAns :=
  match op with
  | 1 => attestSign s nonce
  | 2 => attestRead blob off
  | 3 => attestCert off
  | _ => { result := 2 }

/-- A signature spends the next bottom leaf; the last one leaves the preparation EXHAUSTED. -/
def spendLeaf (a : AttestAns) (v : Svc) : Svc :=
  if a.signed.isSome then { v with sigsLeft := v.sigsLeft - 1, attest := if v.sigsLeft = 1 then 2 else v.attest } else v

/-- ATTEST_GET: ARG0 bits 7:0 give OP, bits 31:8 the offset, ARG1 to ARG7 the nonce. -/
def mbxAttestGet : Plan := fun s =>
  let a := attestOp s (fld (s.arg 0) 7 0) (fld (s.arg 0) 31 8) ((List.range 7).flatMap (fun k => leBytes 4 (s.arg (k + 1)))) s.svc.blob
  Plan.andThen (Plan.act (.svc { spendLeaf a s.svc with blob := a.signed.getD s.svc.blob })) (mbxEnd a.result a.rsps) s

/-- ATTEST_SIGN: ATTEST_GET as written with OP 1; the mailbox acts on the OP that ARG0 holds. -/
def execAttestSign (tag : Nat) (s : State) : Host.Outcome State Fault Refusal := Plan.done (hostGate 0 (mbxCommand 0x03 tag mbxAttestGet)) s

/-- ATTEST_READ: ATTEST_GET as written with OP 2. -/
def execAttestRead (tag : Nat) (s : State) : Host.Outcome State Fault Refusal := Plan.done (hostGate 0 (mbxCommand 0x03 tag mbxAttestGet)) s

/-- ATTEST_CERT: ATTEST_GET as written with OP 3. -/
def execAttestCert (tag : Nat) (s : State) : Host.Outcome State Fault Refusal := Plan.done (hostGate 0 (mbxCommand 0x03 tag mbxAttestGet)) s

/-- ATTEST_PREPARATION_DONE: the boot's preparation ends; every signature of it is left (R356, R357). -/
def attestPreparationDone : Plan := fun s =>
  match s.svc.preparing with
  | none => []
  | some q => [.svc { s.svc with preparing := none, attest := 1, topLeaf := q, sigsLeft := 32768 }]

def execAttestPreparationDone (s : State) : Host.Outcome State Fault Refusal := Plan.done attestPreparationDone s

/-- ATTEST_KEY_ROLL begins: the next fuse is blown, while the previous tree goes on signing (R358). -/
def mbxKeyRoll (fuseOk : Bool) : Plan := fun s =>
  if s.svc.fuseFailed then mbxEnd 3 [] s
  else if fuses ≤ s.svc.steps then mbxEnd 5 [] s
  else if !fuseOk then
    Plan.seq [Plan.act (.svc { s.svc with attest := 3, fuseFailed := true, preparing := none }), raiseErr pgSEC 2 [],
      event { cls := 0x0E, code := 3, page := pgSEC, detail := leBytes 4 0 }, mbxEnd 3 []] s
  else [.svc { s.svc with steps := s.svc.steps + 1 }]

def execMbxAttestKeyRoll (tag : Nat) (fuseOk : Bool) (s : State) : Host.Outcome State Fault Refusal :=
  Plan.done (hostGate 0 (mbxCommand 0x15 tag (mbxKeyRoll fuseOk))) s

/-- ATTEST_KEY_ROLL_DONE: the new tree replaces the previous one (R358). -/
def attestKeyRollDone : Plan := fun s =>
  if s.mbxRuns 0x15 then
    Plan.andThen (Plan.act (.svc { s.svc with preparing := none, attest := 1, topLeaf := s.svc.steps - 1, sigsLeft := 32768 }))
      (mbxEnd 0 [s.svc.steps - 1, 32768]) s
  else []

def execAttestKeyRollDone (s : State) : Host.Outcome State Fault Refusal := Plan.done attestKeyRollDone s

/-! ## Staged objects -/

/-- A staged object lies in partition 0's GDDR6, where that is allowed, or in plate scratch of partition 0, and can be read (R349, R354, R369). -/
def State.stagedOk (s : State) (gddr : Bool) (a n : Nat) : Bool :=
  n != 0 && decide (s.judge 0 false a n = .ok) && (gddr || decide (regionOf a n ≠ .gddr)) && !s.meetsPoison a n && (s.badWordIn a n).isNone

/-! ## PROFILE_COMMIT (R354) -/

/-- The copy that a commit writes. -/
def State.spareCopy (s : State) : Nat := if s.svc.profile = 1 then copyB else copyA

def mbxProfileCommit : Plan := fun s =>
  let a := s.arg 0 + fld (s.arg 1) 15 0 * 2 ^ 32
  let n := s.arg 2
  let img := s.bytesAt a n
  if copySize < n || !s.stagedOk true a n then mbxEnd 2 [] s
  else if !profFormat img then mbxEnd 2 [] s
  else if !profValid s.svc.owners img then mbxEnd 4 [] s
  else if s.svc.profile ≠ 0 ∧ rdN img 8 8 ≤ s.svc.profileSeq then mbxEnd 4 [] s
  else match firstBadEntry s img with
    | some o => mbxEnd 2 [o] s
    | none => [.svc { s.svc with staged := img, stagedAt := s.spareCopy }]

def execMbxProfileCommit (tag : Nat) (s : State) : Host.Outcome State Fault Refusal := Plan.done (hostGate 0 (mbxCommand 0x12 tag mbxProfileCommit)) s

/-- PROFILE_COMMIT_DONE: the copy is programmed and read back, and the owner fuses are blown; `ok` says that the read-back matched (R354). -/
def profileCommitDone (ok : Bool) : Plan := fun s =>
  let v := s.svc
  let seq := rdN v.staged 8 8
  if !s.mbxRuns 0x12 then []
  else if ok then
    Plan.andThen commitProfile (mbxEnd 0 [seq % 2 ^ 32, seq / 2 ^ 32]) s
  else
    Plan.seq [withFree (fun f => program v.stagedAt copySize (leBytes v.staged.length f)), Plan.act (.svc { v with staged := [] }), mbxEnd 6 []] s

def execProfileCommitDone (ok : Bool) (s : State) : Host.Outcome State Fault Refusal := Plan.done (profileCommitDone ok) s

/-! ## FLASH_WRITE (R349) -/

def mbxFlashWrite : Plan := fun s =>
  let a := s.arg 1 + fld (s.arg 2) 15 0 * 2 ^ 32
  let n := s.arg 3
  if s.arg 0 ≠ 1 || fwSize < n || !s.stagedOk (s.svc.stage != 3) a n then mbxEnd 2 [] s
  else if fwFault s.svc.minSvn (s.bytesAt a n) ≠ 0 then mbxEnd 4 [] s
  else [.svc { s.svc with staged := s.bytesAt a n, stagedAt := fwFlash }]

def execMbxFlashWrite (tag : Nat) (s : State) : Host.Outcome State Fault Refusal := Plan.done (hostGate 0 (mbxCommand 0x13 tag mbxFlashWrite)) s

/-- FLASH_WRITE_DONE: the blocks the image needs are erased and programmed and the region read back (R349). -/
def flashWriteDone (ok : Bool) : Plan := fun s =>
  let img := s.svc.staged
  let size := cdiv img.length 0x10000 * 0x10000
  if !s.mbxRuns 0x13 then []
  else
    Plan.seq [
      (if ok then program fwFlash size img else withFree (fun f => program fwFlash size (leBytes img.length f))),
      Plan.act (.svc { s.svc with staged := [] }), mbxEnd (if ok then 0 else 6) []] s

def execFlashWriteDone (ok : Bool) (s : State) : Host.Outcome State Fault Refusal := Plan.done (flashWriteDone ok) s

/-! ## EVENT_CLEAR (R369, R370) -/

def mbxEventClear : Plan := fun s =>
  let a := s.arg 0 + fld (s.arg 1) 15 0 * 2 ^ 32
  let n := s.arg 2
  let tok := s.bytesAt a n
  let upto := rdN tok 0x10 4
  let r := s.recorder
  if !s.stagedOk true a n || decide (n < 32) || decide (0x10000 < n) then mbxEnd 2 [] s
  else if rdN tok 0 4 ≠ 0x52414C43 || rdN tok 4 2 ≠ 1 then mbxEnd 2 [] s
  else if !ownerSigned s.svc.owners tok 32 || rdN tok 8 8 != deviceIdNat || decide (upto ≤ r.cleared) || decide (r.next ≤ upto) then mbxEnd 4 [] s
  else if !r.freezes.isEmpty then mbxEnd 3 [] s
  else Plan.andThen commitAll (fun s => [.recorder { s.recorder with clearing := some (upto, (sigAt tok 32).signer) }]) s

def execMbxEventClear (tag : Nat) (s : State) : Host.Outcome State Fault Refusal := Plan.done (hostGate 0 (mbxCommand 0x14 tag mbxEventClear)) s

/-- Erases the records numbered up to a number: those above it in a block that is erased go to the head of the log first, with their numbers (R370). -/
def Recorder.erase (r : Recorder) (n : Nat) : Recorder × Nat :=
  let gone := r.log.filter (fun l => decide (l.num ≤ n))
  let inBlock (l : LogRec) : Bool := gone.any (fun g => g.blk == l.blk)
  let moved := (r.log.filter (fun l => decide (n < l.num))).filter inBlock
  let rest := (r.log.filter (fun l => decide (n < l.num))).filter (fun l => !inBlock l)
  let r0 := if gone.any (fun g => g.blk == r.headBlk) then { r with log := rest, headBlk := r.headBlk + 1, headOff := 16 } else { r with log := rest }
  let x := moved.foldl (fun (x : Recorder × Nat) l => let y := x.1.program l; (y.1, x.2 + y.2)) (r0, 0)
  let isMoved (l : LogRec) : Bool := moved.any (fun m => m.num == l.num)
  ({ x.1 with log := x.1.log.filter isMoved ++ x.1.log.filter (fun l => !isMoved l) }, x.2)

/-- The highest number up to `n` at which a block ends whose records are all numbered up to `n`, or the number cleared before (R370). -/
def Recorder.boundary (r : Recorder) (n : Nat) : Nat :=
  (r.log.filter (fun l => r.log.all (fun x => x.blk != l.blk || decide (x.num ≤ n)))).foldl (fun m l => max m l.num) r.cleared

/-- EVENT_CLEAR_DONE: the clear ends, or stops at the last block boundary up to a number (R370). -/
def eventClearDone (aborted : Option Nat) : Plan := fun s =>
  let r := s.recorder
  match r.clearing with
  | none => []
  | some (upto, slot) =>
    if !s.mbxRuns 0x14 then []
    else match aborted with
      | none =>
        let gone := (r.log.filter (fun l => decide (l.num ≤ upto))).length
        let x := r.erase upto
        Plan.seq [
          setRecorder ({ x.1 with cleared := upto, clearing := none }, x.2),
          Plan.look (fun s => appendNow (({ cls := 0x10, code := 4, detail := leBytes 4 upto ++ leBytes 4 gone ++ leBytes 1 slot } : EvArgs).record s)),
          appendStaged, mbxEnd 0 []] s
      | some n =>
        let k := r.boundary (min n upto)
        let x := r.erase k
        Plan.seq [setRecorder ({ x.1 with cleared := k, clearing := none }, x.2), appendStaged, mbxEnd 7 []] s

def execEventClearDone (aborted : Option Nat) (s : State) : Host.Outcome State Fault Refusal := Plan.done (eventClearDone aborted) s

/-! ## Unknown commands, SMBus and the service restart -/

/-- The ten command codes (R30). -/
def mbxCodes : List Nat := [0x01, 0x02, 0x03, 0x04, 0x10, 0x11, 0x12, 0x13, 0x14, 0x15]

/-- MBX_UNKNOWN_CMD: DONE at once with UNKNOWN_CMD, and violation 0x12 (R32). -/
def mbxUnknownCmd (code tag : Nat) : Plan := fun s =>
  if mbxCodes.contains code then []
  else if s.mbx.state = .busy then bump pgSVC 0x148 1 s
  else
    Plan.seq [Plan.act (.mbx { s.mbx with cmd := code % 256, tag := tag % 256, latched := s.mbx.args }), mbxEnd 1 [], violation 0 0x12 0] s

def execMbxUnknownCmd (code tag : Nat) (s : State) : Host.Outcome State Fault Refusal := Plan.done (hostGate 0 (mbxUnknownCmd code tag)) s

/-- SMBUS_EVENT_SUMMARY (R368). -/
def smbusEventSummary : Plan := fun s => [.svc { s.svc with smbus := 0 :: summaryWords s }]

def execSmbusEventSummary (s : State) : Host.Outcome State Fault Refusal := Plan.done smbusEventSummary s

/-- SMBUS_ATTEST: the operations of ATTEST_GET with a blob of its own (R357). -/
def smbusAttest (op off : Nat) (nonce : List Byte) : Plan := fun s =>
  let a := attestOp s op off nonce s.svc.smbusBlob
  [.svc { spendLeaf a s.svc with smbusBlob := a.signed.getD s.svc.smbusBlob, smbus := a.result :: words8 a.rsps }]

def execSmbusAttest (op off : Nat) (nonce : List Byte) (s : State) : Host.Outcome State Fault Refusal := Plan.done (smbusAttest op off nonce) s

/-- SERVICE_RESTART: the firmware is checked against its digest and reloaded; a mismatch is a device-domain fault (R331). The boot ROM has no watchdog. -/
def serviceRestart (digestOk : Bool) : Plan := fun s =>
  if s.svc.stage ≠ 1 ∧ s.svc.stage ≠ 2 then []
  else if digestOk then Plan.seq [mbxAbort, raiseErr pgCLK 3 [], event { cls := 0x0D, code := 1, page := pgSVC }] s
  else Plan.seq [mbxAbort, event { cls := 0x0D, code := 2, page := pgSVC }, deviceFault] s

def execServiceRestart (digestOk : Bool) (s : State) : Host.Outcome State Fault Refusal := Plan.done (serviceRestart digestOk) s

end Sys2Proof.Machine
end

