-- ==== Sys2Proof/Machine/RegWrite.lean ====
section
/-! DEFINITION. Host writes to registers (R6, R12, R24-R29, R32 codes 0x05, 0x06 and 0x0F, R397-R400): the views of the functions, the common header, the block registers
by the access codes of their fields, and the configuration-space fields that the spec names. A register with a command of its own is handed to that command's plan. -/
namespace Sys2Proof.Machine

/-! ## The pages -/

/-- The kinds of pages (R399). -/
inductive PageKind
  | hif | que | sch | par | pol | svc | evt | sec | clk | rsv | bc | plt | ps | mem | m | med | cc | scl | int | let_ | trk | ulz | u
  deriving DecidableEq, Repr

/-- The kind of a PF page (R399). -/
def pageKind (pg : Nat) : Option PageKind :=
  if pg < 10 then [PageKind.hif, .que, .sch, .par, .pol, .svc, .evt, .sec, .clk, .rsv][pg]?
  else if pgBC 0 ≤ pg ∧ pg ≤ pgBC 16 then some .bc
  else if pg = pgPLT then some .plt
  else if pgPS 0 ≤ pg ∧ pg ≤ pgPS 33 then some .ps
  else if pg = pgMEM then some .mem
  else if pgM 0 ≤ pg ∧ pg ≤ pgM 8 then some .m
  else if pg = pgMED then some .med
  else if pgCC 0 ≤ pg ∧ pg ≤ pgCC 8 then some .cc
  else if pg = pgSCL then some .scl
  else if pg = pgINT then some .int
  else if pg = pgLET then some .let_
  else if pg = pgTRK then some .trk
  else if pg = pgULZ then some .ulz
  else if pg = pgU 0 ∨ pg = pgU 1 then some .u
  else none

/-- Word offsets from `a` to `b`. -/
def offs (a b : Nat) : List Nat := (List.range ((b - a) / 4 + 1)).map (fun k => a + 4 * k)

/-- The block registers of a page (R400). -/
def blockOffsets : PageKind → List Nat
  | .hif => offs 0x100 0x108 ++ offs 0x110 0x11C
  | .que => offs 0x100 0x124
  | .sch => offs 0x100 0x128 ++ offs 0x130 0x138 ++ offs 0x140 0x144
  | .par => offs 0x100 0x118 ++ offs 0x120 0x134 ++ offs 0x140 0x150 ++ offs 0x160 0x178
  | .pol => offs 0x100 0x140
  | .svc => offs 0x100 0x14C
  | .evt => offs 0x100 0x128 ++ offs 0x200 0x2FC
  | .sec => offs 0x100 0x124
  | .clk => offs 0x100 0x12C
  | .rsv => offs 0x100 0x10C
  | .bc => offs 0x100 0x150
  | .plt => offs 0x100 0x11C
  | .ps => offs 0x100 0x120
  | .mem => offs 0x100 0x11C
  | .m => offs 0x100 0x118
  | .med => offs 0x100 0x128
  | .cc => offs 0x100 0x10C
  | .scl => offs 0x100 0x10C
  | .int => offs 0x100 0x118 ++ offs 0x120 0x134
  | .let_ => offs 0x100 0x134 ++ offs 0x140 0x144
  | .trk => offs 0x100 0x114 ++ offs 0x120 0x12C
  | .ulz => offs 0x100 0x108
  | .u => offs 0x100 0x110

/-- CAPS shows ERRORS (R397, R399). -/
def hasErrors : PageKind → Bool
  | .hif => false | .que => false | .sch => false | .svc => false | .plt => false | .mem => false | .med => false | .ulz => false | _ => true

/-- The word offset of a page is mapped (R397, R400). The HIF_BAR4_BASE registers exist in the PF view only. -/
def mapped (fn : Nat) (k : PageKind) (off : Nat) : Bool :=
  if off < 0x100 then decide (off ≤ 0x040) && off != 0x00C
  else (blockOffsets k).contains off && (fn == 0 || k != .hif || (off != 0x110 && off != 0x114))

/-- The PF page behind an offset of a function's BAR0 (R12, R399). Page 0x20 of a VF is its segment 0: a partition has at most 16 clusters (log entry 96). -/
def State.pageAt (s : State) (fn off : Nat) : Option Nat :=
  let k := off / 0x1000
  if fn = 0 then (if k < 0x100 then some k else none)
  else if 0x40 ≤ k then none
  else if k ≤ pgPOL || k == pgEVT then some k
  else match s.partOf fn with
    | none => none
    | some p =>
      if 0x10 ≤ k ∧ k < 0x20 then ((s.ownClusters p)[k - 0x10]?).map pgBC
      else if 0x20 ≤ k then ((s.ownSegs p)[k - 0x20]?).map pgPS
      else none

/-- A page of a withdrawn logical name: but for SPARE_MAP it reads 0, and it ignores writes (the SPARE_MAP descriptions of chapters 4, 8, 10 and 15). -/
def State.pageWithdrawn (s : State) (pg : Nat) : Bool :=
  match pageKind pg with
  | some .bc => s.withdrawn 0 (pg - pgBC 0)
  | some .ps => s.withdrawn 1 (pg - pgPS 0)
  | some .cc => s.withdrawn 2 (pg - pgCC 0)
  | some .m => s.withdrawn 3 (pg - pgM 0)
  | _ => false

/-! ## Fields that only hold a value -/

/-- Registers that take the bits of a mask from any write: page kind, offset, mask (the RW fields of the register tables). -/
def plainRegs : List (PageKind × Nat × Nat) :=
  [(.que, 0x104, 0xFFF), (.sch, 0x120, 0xFFF), (.pol, 0x108, 0xF), (.clk, 0x118, 0x1F), (.par, 0x100, 0x7), (.par, 0x140, 0xFFFFFFF0), (.par, 0x144, 0xFFFF),
   (.mem, 0x10C, 0xFFFF), (.mem, 0x110, 0xFFFF), (.med, 0x104, 0xFF), (.med, 0x120, 0xFFFFFFFF), (.med, 0x128, 0xFFFF)] ++
  [(.int, 0x100, 0xFFFF), (.int, 0x104, 0x7), (.int, 0x120, 0xF), (.let_, 0x120, 0xFF), (.let_, 0x128, 0x3F), (.let_, 0x140, 0xF),
   (.trk, 0x100, 0xFF), (.trk, 0x120, 0x3F), (.ulz, 0x104, 0xFFFF), (.ulz, 0x108, 0xFF), (.u, 0x108, 0x7), (.pol, 0x114, 0x7)]

/-- The mask of such a register. -/
def plainMask (k : PageKind) (off : Nat) : Option Nat := (plainRegs.find? (fun r => r.1 == k && r.2.1 == off)).map (·.2.2)

/-! ## The common header (R397, R398) -/

def headerWrite (fn pg : Nat) (k : PageKind) (off v : Nat) : Plan := fun s =>
  if off = 0x018 then
    (if hasErrors k && !(k == .par && fn != 0) then setReg 0 pg 0x018 (Nat.land (s.reg 0 pg 0x018) (0xFFFFFFFF - v)) s else [])
  else if off = 0x01C then setReg fn pg 0x01C v s
  else if off = 0x020 then setReg fn pg 0x020 (if bit v 0 then 0 else s.reg fn pg 0x020) s
  else if off = 0x024 then setReg fn pg 0x024 (v % 2) s
  else if off = 0x03C then modeStageWrite fn pg v s
  else []

/-! ## Block registers -/

/-- Changes the selected queue unless it is enabled, which is violation 0x0F (R32). -/
def queWrite (fn : Nat) (f : Queue → Queue) : Plan := fun s =>
  match s.selQueue fn with
  | none => []
  | some q => if (s.queue q).enable then violation fn 0x0F (q - (s.queueRange fn).1) s else [.queues q (f (s.queue q))]

/-- The QUE page. -/
def quePage (fn off v : Nat) : Plan := fun s =>
  if off = 0x108 then queWrite fn (fun x => { x with sqBase := x.sqBase / 2 ^ 32 * 2 ^ 32 + fld v 31 12 * 4096 }) s
  else if off = 0x10C then queWrite fn (fun x => { x with sqBase := x.sqBase % 2 ^ 32 + fld v 14 0 * 2 ^ 32 }) s
  else if off = 0x110 then queWrite fn (fun x => { x with cqBase := x.cqBase / 2 ^ 32 * 2 ^ 32 + fld v 31 12 * 4096 }) s
  else if off = 0x114 then queWrite fn (fun x => { x with cqBase := x.cqBase % 2 ^ 32 + fld v 14 0 * 2 ^ 32 }) s
  else if off = 0x118 then (if bit v 0 then queueEnable fn v s else queueDisable fn v s)
  else if off = 0x11C then queWrite fn (fun x => { x with coalCount := fld v 31 24, coalTime := fld v 15 0 }) s
  else if off = 0x124 then
    match s.selQueue fn with
    | none => []
    | some q => [.queues q { s.queue q with err := Nat.land (s.queue q).err (0x3F - v % 64) }]
  else []

/-- Changes the partition of a function. -/
def partWrite (fn : Nat) (f : Part → Part) : Plan := fun s =>
  match s.partOf fn with
  | none => []
  | some p => [.parts p (f (s.part p))]

/-- The SCH page. -/
def schPage (fn off v : Nat) : Plan := fun s =>
  if off = 0x110 then partWrite fn (fun x => { x with waitLimit := fld v 15 0 }) s
  else if off = 0x114 then partWrite fn (fun x => { x with saveBase := x.saveBase / 2 ^ 32 * 2 ^ 32 + fld v 31 12 * 4096 }) s
  else if off = 0x118 then partWrite fn (fun x => { x with saveBase := x.saveBase % 2 ^ 32 + fld v 15 0 * 2 ^ 32 }) s
  else if off = 0x11C then partWrite fn (fun x => if x.framesUsed.isEmpty && decide (fld v 6 0 ≤ 64) then { x with frames := fld v 6 0 } else x) s
  else if off = 0x124 then schSemCtrlWrite fn v s
  else if off = 0x130 then schModeCommit fn v s
  else if off = 0x134 then (if bit v 29 then [.modeChanges fn { s.change fn with refused := false }] else [])
  else if off = 0x138 then [.modeChanges fn { s.change fn with timeout := fld v 23 0 }]
  else []

/-- Changes a range register of the selected partition, which takes writes only in CONFIG (R264). -/
def rangeWrite (f : Part → Part) : Plan := fun s =>
  let p := fld (s.reg 0 pgPAR 0x100) 2 0
  if (s.part p).state = .config then [.parts p (f (s.part p))] else []

/-- Changes a setting of the selected partition. -/
def selPart (f : Part → Part) : Plan := fun s =>
  let p := fld (s.reg 0 pgPAR 0x100) 2 0
  [.parts p (f (s.part p))]

/-- A bucket as its register is written: full (R272). -/
def bucketOf (v : Nat) : Bucket := ({ rate := fld v 15 0, depth := fld v 31 16 } : Bucket).fill

/-- The PAR page, which the PF alone writes (R262). -/
def parPage (off v : Nat) : Plan := fun s =>
  if off = 0x104 then parStateWrite v s
  else if off = 0x108 then rangeWrite (fun x => { x with qCount := fld v 28 16, qFirst := fld v 11 0 }) s
  else if off = 0x10C then rangeWrite (fun x => { x with sCount := fld v 31 16, sFirst := fld v 14 0 }) s
  else if off = 0x110 then rangeWrite (fun x => { x with semCount := fld v 28 16, semFirst := fld v 11 0 }) s
  else if off = 0x114 then rangeWrite (fun x => { x with sessCount := fld v 30 16, sessFirst := fld v 13 0 }) s
  else if off = 0x118 then rangeWrite (fun x => { x with gSize := fld v 25 16, gBase := fld v 9 0 }) s
  else if off = 0x130 then parMoveWrite v s
  else if off = 0x148 then
    Plan.seq [setReg 0 pgPAR 0x148 (fld v 9 0), Plan.when (bit v 17) rulingLoad, rulingEnable (bit v 16)] s
  else if off = 0x160 then selPart (fun x => { x with gddr := bucketOf v }) s
  else if off = 0x164 then selPart (fun x => { x with plate := bucketOf v }) s
  else if off = 0x168 then selPart (fun x => { x with link := bucketOf v }) s
  else if off = 0x170 then selPart (fun x => { x with slowBase := x.slowBase / 2 ^ 32 * 2 ^ 32 + fld v 31 6 * 64 }) s
  else if off = 0x174 then selPart (fun x => { x with slowBase := x.slowBase % 2 ^ 32 + fld v 15 0 * 2 ^ 32 }) s
  else if off = 0x178 then selPart (fun x => { x with slowLog2 := fld v 4 0 }) s
  else []

/-- Changes the selected pool while it is disabled (R279). -/
def poolWrite (f : Pool → Pool) : Plan := fun s =>
  let n := s.reg 0 pgPOL 0x108 % 16
  if (s.pool n).enable then [] else [.pools n (f (s.pool n))]

/-- Changes the selected slice of the selected pool while the pool is disabled (R279). -/
def sliceWrite (f : PolSlice → PolSlice) : Plan := fun s =>
  let p := s.reg 0 pgPOL 0x114 % 8
  poolWrite (fun x => { x with slices := Tab.put {} x.slices p (f (x.slice p)) }) s

/-- POL_REF_BASE takes writes while no pool is enabled. -/
def refBaseWrite (off v : Nat) : Plan := fun s => if (List.range 16).any (fun n => (s.pool n).enable) then [] else setReg 0 pgPOL off v s

/-- The POL page: POL_REF and POL_ALLOC act for the writing function, the configuration is the PF's. -/
def polPage (fn off v : Nat) : Plan := fun s =>
  if off = 0x130 then polRef fn v s
  else if off = 0x134 then polAlloc fn v s
  else if fn ≠ 0 then []
  else if off = 0x100 then refBaseWrite 0x100 (fld v 31 12 * 4096) s
  else if off = 0x104 then refBaseWrite 0x104 (fld v 15 0) s
  else if off = 0x10C then polPoolEnable v s
  else if off = 0x110 then poolWrite (fun x => { x with first := fld v 19 0 }) s
  else if off = 0x118 then sliceWrite (fun x => { x with enable := bit v 31, count := fld v 20 0 }) s
  else if off = 0x11C then sliceWrite (fun x => { x with base := x.base / 2 ^ 32 * 2 ^ 32 + fld v 31 12 * 4096 }) s
  else if off = 0x120 then sliceWrite (fun x => { x with base := x.base % 2 ^ 32 + fld v 15 0 * 2 ^ 32 }) s
  else if off = 0x12C then polInit v s
  else []

/-- SVC_MBX_CMD: the command of its code. A fuse that a key roll blows this way reads back blown. -/
def mbxDispatch (code tag : Nat) : Plan :=
  match code with
  | 0x01 => mbxCommand 0x01 tag (fun s => mbxEnd 0 (identityWords s) s)
  | 0x02 => mbxCommand 0x02 tag (fun s => mbxEnd 0 (summaryWords s) s)
  | 0x03 => mbxCommand 0x03 tag mbxAttestGet
  | 0x04 => mbxCommand 0x04 tag mbxDump
  | 0x10 => mbxCommand 0x10 tag mbxSpareIn
  | 0x11 => mbxCommand 0x11 tag mbxRetrain
  | 0x12 => mbxCommand 0x12 tag mbxProfileCommit
  | 0x13 => mbxCommand 0x13 tag mbxFlashWrite
  | 0x14 => mbxCommand 0x14 tag mbxEventClear
  | 0x15 => mbxCommand 0x15 tag (mbxKeyRoll true)
  | _ => mbxUnknownCmd code tag

/-- The SVC page: the command and its arguments; a write while BUSY is dropped and counted (R30, R32 code 0x11). -/
def svcPage (off v : Nat) : Plan := fun s =>
  if off = 0x104 then mbxDispatch (fld v 15 8) (fld v 7 0) s
  else if 0x108 ≤ off ∧ off ≤ 0x124 then
    (if s.mbx.state = .busy then bump pgSVC 0x148 1 s else [.mbx { s.mbx with args := s.mbx.args.set ((off - 0x108) / 4) v }])
  else []

/-- The EVT page. -/
def evtPage (fn off v : Nat) : Plan := fun s =>
  if off = 0x10C then evtFreezeWrite fn v s
  else if off = 0x114 then (if fn = 0 then [.recorder { s.recorder with freezeLimit := fld v 15 0 }] else [])
  else if off = 0x118 then [.evtSels fn (s.select fn v)]
  else []

/-- The CLK page: THM_LIMITS takes values in range only, as its description says (R338). DESIGN CHOICE: so does PWR_CAP, of which the spec gives the range and no answer outside it (log entry 28). -/
def clkPage (off v : Nat) : Plan :=
  if off = 0x124 then Plan.when (limitsOk v) (setReg 0 pgCLK 0x124 (v % 2 ^ 20))
  else if off = 0x12C then Plan.when (capOk v) (setReg 0 pgCLK 0x12C (v % 2 ^ 8))
  else Plan.skip

/-- A PSn page: power is the PF's, the drain limit and the cache window every owner's (R145, R154, R156). -/
def psPage (fn n off v : Nat) : Plan := fun s =>
  if off = 0x104 then
    (if fn = 0 then psPowerWrite n v s else if s.moving 1 n || (s.seg n).withdrawn then [] else [.segs n { s.seg n with drainLimit := fld v 31 16 }])
  else if off = 0x10C then psCacheBaseWrite fn n v s
  else if off = 0x110 then (if s.windowOpen fn n then [.segs n { s.seg n with windowHiStaged := fld v 15 0 }] else [])
  else []

/-- A base register of the lettering engine whose HI takes effect with LO (R171, R187). -/
def letBase (lo v : Nat) : Plan := fun s =>
  Plan.andThen (setReg 0 pgLET lo v) (Plan.act (.bases (pgLET * 0x1000 + lo) (v + s.reg 0 pgLET (lo + 4) * 2 ^ 32))) s

/-- The LET page. The session area moves only while every session is FREE. -/
def letPage (off v : Nat) : Plan := fun s =>
  let idle := !s.sessions.any (fun e => decide (e.2.state ≠ .free))
  if off = 0x104 then (if idle then letBase 0x104 (fld v 31 16 * 0x10000) s else [])
  else if off = 0x108 then (if idle then setReg 0 pgLET 0x108 (fld v 15 0) s else [])
  else if off = 0x118 then letBase 0x118 (fld v 31 7 * 128) s
  else if off = 0x11C then setReg 0 pgLET 0x11C (fld v 15 0) s
  else if off = 0x124 then letSessionStop v s
  else letMaskCfgWrite off v s

/-- The pages that a unit has one of, by kind: everything but the registers that only hold a value. -/
def blockWrite (fn pg : Nat) (k : PageKind) (off v : Nat) : Plan := fun s =>
  match k with
  | .hif =>
    if off = 0x110 then hifBar4BaseWrite v s
    else if off = 0x114 then [.funcs 0 { s.func 0 with bar4HiStaged := fld v 15 0 }] else []
  | .que => quePage fn off v s
  | .sch => schPage fn off v s
  | .par => if fn = 0 then parPage off v s else []
  | .pol => polPage fn off v s
  | .svc => svcPage off v s
  | .evt => evtPage fn off v s
  | .clk => clkPage off v s
  | .bc => if off = 0x128 then bcInjectWrite fn (pg - pgBC 0) v s else []
  | .ps => psPage fn (pg - pgPS 0) off v s
  | .med => if off = 0x10C then medCtxClassWrite v s else []
  | .let_ => letPage off v s
  | .trk => if off = 0x104 ∧ bit v 29 then
      (let c := s.reg 0 pgTRK 0x100 % 256; [.tracks c { s.track c with overflow := false }]) else []
  | .ulz => if off = 0x100 then ulzNodeWrite v s else []
  | .u => if off = 0x10C then uVcCreditWrite (pg - pgU 0) v s else []
  | _ => []

/-- A write of one register of a page that a function's view shows. -/
def wordWrite (fn pg : Nat) (k : PageKind) (off v : Nat) : Plan :=
  if off < 0x100 then headerWrite fn pg k off v
  else match plainMask k off with
    | some m => if fn ≠ 0 ∧ (k = .par ∨ (k = .pol ∧ off = 0x114)) then Plan.skip else setReg fn pg off (Nat.land v m)
    | none => blockWrite fn pg k off v

/-- Pages that answer in recovery (R348). -/
def inRecovery : PageKind → Bool
  | .hif => true | .svc => true | .sec => true | .clk => true | _ => false

/-- A 4-byte write to BAR0: to a mapped offset of the function's view, or violation 0x06 (R12, R32, R348). In recovery QUE_CFG.ENABLE is refused, so the QUE page answers too. -/
def bar0Word (fn off v : Nat) : Plan := fun s =>
  match s.pageAt fn off with
  | none => violation fn 0x06 0 s
  | some pg =>
    match pageKind pg with
    | none => violation fn 0x06 0 s
    | some k =>
      if !mapped fn k (off % 0x1000) then violation fn 0x06 0 s
      else if s.svc.stage = 3 && !inRecovery k && !(k == .que && off % 0x1000 == 0x118 && bit v 0) then violation fn 0x06 0 s
      else if s.pageWithdrawn pg then []
      else wordWrite fn pg k (off % 0x1000) v s

/-! ## BAR2 (R24-R29) -/

/-- A word of the MSI-X table: address, data and the mask of a vector (R25, R26). -/
def msixWord (fn vec w v : Nat) : Plan := fun s =>
  let e := Tab.get {} s.vecs (fn * 2048 + vec)
  match w with
  | 0 => [.vecs (fn * 2048 + vec) { e with addr := e.addr / 2 ^ 32 * 2 ^ 32 + v / 4 * 4 }]
  | 1 => [.vecs (fn * 2048 + vec) { e with addr := e.addr % 2 ^ 32 + v * 2 ^ 32 }]
  | 2 => [.vecs (fn * 2048 + vec) { e with data := v }]
  | _ => if bit v 0 then [.vecs (fn * 2048 + vec) { e with masked := true }] else msixVectorUnmask fn vec s

/-- A 4-byte write to BAR2. -/
def bar2Word (fn off v : Nat) : Plan := fun s =>
  if off < 0x8000 then (if off % 8 = 0 then sqTailDoorbell fn (off / 8) v s else cqHeadDoorbell fn (off / 8) v s)
  else if 0x100000 ≤ off ∧ off < 0x100000 + (s.queueRange fn).2 * 64 then
    (if off % 64 = 0x38 then resultSlotAck fn ((off - 0x100000) / 64) v s else [])
  else if 0x200000 ≤ off ∧ off < 0x200000 + vectorsOf fn * 16 then msixWord fn ((off - 0x200000) / 16) (off % 16 / 4) v s
  else if 0x280000 ≤ off ∧ off < 0x280000 + vectorsOf fn / 8 then []
  else violation fn 0x06 0 s

/-! ## REGISTER_WRITE -/

/-- A write of 4 or 8 aligned bytes, as one or two words, the lower first; any other is violation 0x05 (R32). -/
def sized (fn off size v : Nat) (w : Nat → Nat → Plan) : Plan :=
  if size = 4 ∧ off % 4 = 0 then w off (v % 2 ^ 32)
  else if size = 8 ∧ off % 8 = 0 then Plan.andThen (w off (v % 2 ^ 32)) (w (off + 4) (v / 2 ^ 32 % 2 ^ 32))
  else violation fn 0x05 0

/-- The fields of Device Control, Device Control 2, Link Control and the AER capability that the spec names; the bits of absent features take nothing, and a size above the
device's largest is taken as that (R8, R11; PRESUMED: PCI Express's places, log entry 106). -/
def Func.withConfig (f : Func) (space : Space) (v : Nat) : Func :=
  match space with
  | .devControl => { f with maxPayload := min 2 (fld v 7 5), maxRead := min 5 (fld v 14 12) }
  | .devControl2 => { f with cplTimeout := fld v 3 0, tags10 := bit v 12 }
  | .linkControl => { f with aspmL1 := bit v 1 }
  | .aerControl => { f with ecrcGen := bit v 6, ecrcCheck := bit v 8 }
  | _ => f

/-- A write of Bus Master Enable, VF Enable, the BAR4 size or another field of R8. In recovery writes to VF Enable are ignored (R8, R31, R348).
DESIGN CHOICE: a change of the BAR4 size leaves the base in force as it is (log entry 95). -/
def configWrite (fn : Nat) (space : Space) (v : Nat) : Plan := fun s =>
  match space with
  | .busMaster => [.funcs fn { s.func fn with busMaster := bit v 0 }]
  | .vfEnable => if fn = 0 ∧ s.svc.stage ≠ 3 then [.pcie { s.pcie with vfEnable := bit v 0 }] else []
  | .resizeBar => if fn = 0 ∧ 28 ≤ v ∧ v ≤ 34 then [.pcie { s.pcie with bar4Log2 := v }] else []
  | .bar0 => []
  | .bar2 => []
  | x => [.funcs fn ((s.func fn).withConfig x v)]

/-- REGISTER_WRITE (R6). -/
def registerWrite (fn : Nat) (space : Space) (off size v : Nat) : Plan := fun s =>
  if 9 ≤ fn then []
  else match space with
    | .bar0 => hostGate fn (sized fn off size v (bar0Word fn)) s
    | .bar2 => hostGate fn (sized fn off size v (bar2Word fn)) s
    | _ => if s.pcie.coreFailed then [] else configWrite fn space v s

def execRegisterWrite (fn : Nat) (space : Space) (off size value : Nat) (s : State) : Host.Outcome State Fault Refusal :=
  Plan.done (registerWrite fn space off size value) s

/-- CLK_TIME_LO_READ: the low word of device time is returned, and the high word is latched (R328). -/
def clkTimeLoRead : Plan := fun s =>
  [.hostRead { data := leBytes 4 s.ticks }, .svc { s.svc with timeHi := s.ticks / 2 ^ 32 % 2 ^ 32 }]

def execClkTimeLoRead (s : State) : Host.Outcome State Fault Refusal := Plan.done (hostGate 0 clkTimeLoRead) s

end Sys2Proof.Machine
end

