-- ==== Sys2Proof/Machine/Thermal.lean ====
section
/-! DEFINITION. Thermal samples, throttling and shutdown (R337-R340), the loss of the reference and of a rail (R329, R391), and the JTAG TAP (R330, R394). -/
namespace Sys2Proof.Machine

/-! ## Thermal (R337-R340) -/

/-- A reading as signed degrees Celsius. -/
def degC (v : Nat) : Int := toSigned 8 v

/-- The links are lost and nothing runs any more until a cold reset (R329, R340, R379). -/
def halt : Plan := fun s =>
  [.pcie { s.pcie with up := false, width := 0, rate := 0, degraded := false }, .ports 0 { s.port 0 with state := 0, width := 0, partner := 0 },
   .ports 1 { s.port 1 with state := 0, width := 0, partner := 0 }, .svc { s.svc with halted := true }]

/-- THERM_ALERT_N is asserted or released; its assertion sets ALERT (R339). -/
def setAlert (on : Bool) : Plan := fun s =>
  Plan.andThen (Plan.act (.svc { s.svc with alert := on })) (Plan.when (on && !s.svc.alert) (raiseErr pgCLK 0 [])) s

/-- Thermal shutdown by a sensor (R340). -/
def shutdown (sensor reading : Nat) : Plan :=
  Plan.seq [setAlert true, event { cls := 0x0B, code := 2, page := pgCLK, detail := leBytes 1 sensor ++ leBytes 1 reading }, halt,
    (fun s => [.svc { s.svc with shut := true }])]

/-- THERMAL_SHUTDOWN. -/
def thermalShutdown (sensor reading : Nat) : Plan :=
  Plan.when (decide (sensor < 24) && decide (115 ≤ degC reading)) (shutdown sensor reading)

def execThermalShutdown (sensor reading : Nat) (s : State) : Host.Outcome State Fault Refusal := Plan.done (thermalShutdown sensor reading) s

/-- The hottest of a list of readings and the lowest sensor that shows it. -/
def hottest (l : List Nat) : Nat × Nat :=
  (l.mapIdx (fun k v => (k, v))).foldl (fun m e => if degC m.2 < degC e.2 then e else m) (0, l.headD 0x80)

/-- The higher of two readings. -/
def warmer (a b : Nat) : Nat := if degC a < degC b then b else a

/-- DUTY after a comparison (R338). -/
def nextDuty (duty : Nat) (tj : Int) (watts throttle hyst cap : Nat) : Nat :=
  if (throttle : Int) ≤ tj ∨ cap < watts then max (duty - 1) 2
  else if tj ≤ (throttle : Int) - hyst ∧ watts + 2 ≤ cap then min (duty + 1) 8
  else duty

/-- THERMAL_SAMPLE: the 24 readings and the power estimate of a millisecond (R337-R340). A sensor without a reading keeps its last. -/
def thermalSample (readings : List Nat) (estimate : Nat) : Plan := fun s =>
  let v := s.svc
  let temps := v.temps.mapIdx (fun k t => readings.getD k t % 256)
  let hot := hottest temps
  let tj := degC hot.2
  let lim := s.reg 0 pgCLK 0x124
  let duty := nextDuty v.duty tj estimate (fld lim 7 0) (fld lim 19 16) (fld (s.reg 0 pgCLK 0x12C) 7 0)
  Plan.seq [
    Plan.act (.svc { v with temps := temps, peaks := List.zipWith warmer v.peaks temps, tj := hot.2, tjSensor := hot.1, estimate := estimate % 256, duty := duty,
                            throttles := if duty < v.duty then satAdd 0xFFFF v.throttles 1 else v.throttles }),
    Plan.when (decide (duty < v.duty) && v.duty == 8)
      (Plan.andThen (raiseErr pgCLK 2 []) (event { cls := 0x0B, code := 1, page := pgCLK, detail := leBytes 1 hot.1 ++ leBytes 1 hot.2 })),
    (if (fld lim 15 8 : Int) ≤ tj then setAlert true else if tj ≤ (fld lim 15 8 : Int) - fld lim 19 16 then setAlert false else Plan.skip),
    Plan.when (decide (115 ≤ tj)) (shutdown hot.1 hot.2)] s

/-- A boot ROM that waits proceeds once every sensor reads below 110 degrees (R340). -/
def bootCools (readings : List Nat) (b : BootIn) : Plan := fun s =>
  if (s.svc.temps.mapIdx (fun k t => readings.getD k t % 256)).all (fun v => decide (degC v < 110)) then boot b s else []

def execThermalSample (readings : List Nat) (estimate : Nat) (s : State) : Host.Outcome State Fault Refusal :=
  match s.svc.bootWait with
  | some b => Plan.always (Plan.andThen (bootCools readings b) (fun s => if s.svc.halted then [] else thermalSample readings estimate s)) s
  | none => Plan.done (thermalSample readings estimate) s

/-! ## Clock and power (R329, R391) -/

/-- REFERENCE_LOSS: of the root PLL or of the reference itself; a CLOCK record is written and the controller halts (R329). -/
def referenceLoss (rootPll : Bool) : Plan := fun s =>
  Plan.seq [
    Plan.act (.svc { s.svc with refOk := s.svc.refOk && rootPll, rootLock := false }),
    event { cls := 0x0C, code := if rootPll then 2 else 1, page := pgCLK, detail := [if rootPll then 1 else 0] },
    halt] s

def execReferenceLoss (rootPll : Bool) (s : State) : Host.Outcome State Fault Refusal := Plan.done (referenceLoss rootPll) s

/-- RAIL_DIP: power is gone; all work and state are lost and nothing runs until the cold reset that follows (R391). -/
def railDip : Plan := Plan.seq [breakFlash, tearLedger, wipe, Plan.act (.tap {}), (fun s => [.svc { s.svc with halted := true }])]

def execRailDip (s : State) : Host.Outcome State Fault Refusal := Plan.always railDip s

/-! ## The TAP (R394) -/

/-- Cells of the boundary-scan register. -/
def cells : Nat := 2028

/-- TAP_RESET: the TAP only; IDCODE is selected (R330, R394). -/
def execTapReset (s : State) : Host.Outcome State Fault Refusal := Plan.always (Plan.act (.tap {})) s

/-- The bypass register is selected and the balls belong to the device. -/
def tapOther (instr : Nat) (t : Tap) : Tap := { t with instr := instr, data := 0, drive := 0 }

/-- An instruction that captures the boundary and drives it, while PERST_N is asserted; else it acts as BYPASS (R394). -/
def tapDrive (instr : Nat) (perst : Bool) (pins drive : Nat) (t : Tap) : Tap :=
  if perst then { instr := instr, data := pins % 2 ^ cells, latch := drive % 2 ^ cells, drive := 1 } else tapOther instr t

def execTapExtest (perst : Bool) (pins drive : Nat) (s : State) : Host.Outcome State Fault Refusal :=
  Plan.always (fun s => [.tap (tapDrive 0x00 perst pins drive s.tap)]) s

/-- EXTEST_PULSE: the AC pulse test; between clock events it leaves what EXTEST leaves (R394). -/
def execExtestPulse (perst : Bool) (pins drive : Nat) (s : State) : Host.Outcome State Fault Refusal :=
  Plan.always (fun s => [.tap (tapDrive 0x08 perst pins drive s.tap)]) s

/-- EXTEST_TRAIN: the AC train test (R394). -/
def execExtestTrain (perst : Bool) (pins drive : Nat) (s : State) : Host.Outcome State Fault Refusal :=
  Plan.always (fun s => [.tap (tapDrive 0x09 perst pins drive s.tap)]) s

def execTapIdcode (s : State) : Host.Outcome State Fault Refusal :=
  Plan.always (fun s => [.tap { s.tap with instr := 0x01, data := 0x17730A4B, drive := 0 }]) s

def execSamplePreload (pins drive : Nat) (s : State) : Host.Outcome State Fault Refusal :=
  Plan.always (fun s => [.tap { s.tap with instr := 0x02, data := pins % 2 ^ cells, latch := drive % 2 ^ cells, drive := 0 }]) s

/-- HIGHZ: the outputs are in high impedance while PERST_N is asserted (R394). -/
def execTapHighz (perst : Bool) (s : State) : Host.Outcome State Fault Refusal :=
  Plan.always (fun s => [.tap { tapOther 0x04 s.tap with drive := if perst then 2 else 0 }]) s

/-- CLAMP: the boundary holds the outputs while PERST_N is asserted (R394). -/
def execTapClamp (perst : Bool) (s : State) : Host.Outcome State Fault Refusal :=
  Plan.always (fun s => [.tap { tapOther 0x05 s.tap with drive := if perst then 1 else 0 }]) s

def execTapBypass (s : State) : Host.Outcome State Fault Refusal := Plan.always (fun s => [.tap (tapOther 0xFF s.tap)]) s

end Sys2Proof.Machine
end

