-- ==== Sys2Proof/Machine/Dispatch.lean ====
section
/-! DEFINITION. The dispatch: one arm per command, each a direct call of its meaning. -/
namespace Sys2Proof.Machine

def exec (i : Instr) (s : State) : Host.Outcome State Fault Refusal :=
  match i with
  | .jobRun job => Sys2Proof.Machine.execJobRun job s
  | .jobFence job => Sys2Proof.Machine.execJobFence job s
  | .jobNop job => Sys2Proof.Machine.execJobNop job s
  | .packetFetch q => Sys2Proof.Machine.execPacketFetch q s
  | .packetFetchFail q again => Sys2Proof.Machine.execPacketFetchFail q again s
  | .sqTailDoorbell fn q value => Sys2Proof.Machine.execSqTailDoorbell fn q value s
  | .cqHeadDoorbell fn q value => Sys2Proof.Machine.execCqHeadDoorbell fn q value s
  | .queueEnable fn value => Sys2Proof.Machine.execQueueEnable fn value s
  | .queueDisable fn value => Sys2Proof.Machine.execQueueDisable fn value s
  | .coalesceTimerExpiry q => Sys2Proof.Machine.execCoalesceTimerExpiry q s
  | .msixVectorUnmask fn vec => Sys2Proof.Machine.execMsixVectorUnmask fn vec s
  | .resultSlotAck fn slot value => Sys2Proof.Machine.execResultSlotAck fn slot value s
  | .hifBar4BaseWrite value => Sys2Proof.Machine.execHifBar4BaseWrite value s
  | .bar4Read off len => Sys2Proof.Machine.execBar4Read off len s
  | .bar4Write off data => Sys2Proof.Machine.execBar4Write off data s
  | .poisonedTlpReceived fn => Sys2Proof.Machine.execPoisonedTlpReceived fn s
  | .ecrcFailTlp fn => Sys2Proof.Machine.execEcrcFailTlp fn s
  | .registerWrite fn space off size value => Sys2Proof.Machine.execRegisterWrite fn space off size value s
  | .clkTimeLoRead => Sys2Proof.Machine.execClkTimeLoRead s
  | .mbxIdentity tag => Sys2Proof.Machine.execMbxIdentity tag s
  | .mbxEventSummary tag => Sys2Proof.Machine.execMbxEventSummary tag s
  | .attestSign tag => Sys2Proof.Machine.execAttestSign tag s
  | .attestRead tag => Sys2Proof.Machine.execAttestRead tag s
  | .attestCert tag => Sys2Proof.Machine.execAttestCert tag s
  | .mbxDumpRead tag => Sys2Proof.Machine.execMbxDumpRead tag s
  | .mbxSpareIn tag => Sys2Proof.Machine.execMbxSpareIn tag s
  | .mbxGddr6Retrain tag => Sys2Proof.Machine.execMbxGddr6Retrain tag s
  | .mbxProfileCommit tag => Sys2Proof.Machine.execMbxProfileCommit tag s
  | .mbxFlashWrite tag => Sys2Proof.Machine.execMbxFlashWrite tag s
  | .mbxEventClear tag => Sys2Proof.Machine.execMbxEventClear tag s
  | .mbxAttestKeyRoll tag fuseOk => Sys2Proof.Machine.execMbxAttestKeyRoll tag fuseOk s
  | .mbxUnknownCmd code tag => Sys2Proof.Machine.execMbxUnknownCmd code tag s
  | .gddr6RetrainDone position readMargin writeMargin ok => Sys2Proof.Machine.execGddr6RetrainDone position readMargin writeMargin ok s
  | .profileCommitDone ok => Sys2Proof.Machine.execProfileCommitDone ok s
  | .flashWriteDone ok => Sys2Proof.Machine.execFlashWriteDone ok s
  | .eventClearDone aborted => Sys2Proof.Machine.execEventClearDone aborted s
  | .attestKeyRollDone => Sys2Proof.Machine.execAttestKeyRollDone s
  | .flrVf vf => Sys2Proof.Machine.execFlrVf vf s
  | .flrPf => Sys2Proof.Machine.execFlrPf s
  | .pfUnitInitDone => Sys2Proof.Machine.execPfUnitInitDone s
  | .schedulerFailure => Sys2Proof.Machine.execSchedulerFailure s
  | .pcieCoreFailure => Sys2Proof.Machine.execPcieCoreFailure s
  | .pcieLaneFault lane => Sys2Proof.Machine.execPcieLaneFault lane s
  | .jobAdmit job ans => Sys2Proof.Machine.execJobAdmit job ans s
  | .strokePlace => Sys2Proof.Machine.execStrokePlace s
  | .preemptSave job idx tilesDone now => Sys2Proof.Machine.execPreemptSave job idx tilesDone now s
  | .strokeComplete job idx active stall ans => Sys2Proof.Machine.execStrokeComplete job idx active stall ans s
  | .waitLimitExpiry job => Sys2Proof.Machine.execWaitLimitExpiry job s
  | .timeLimitExpiry job => Sys2Proof.Machine.execTimeLimitExpiry job s
  | .jobKillRelease job => Sys2Proof.Machine.execJobKillRelease job s
  | .schBucket job idx => Sys2Proof.Machine.execSchBucket job idx s
  | .schMode job idx => Sys2Proof.Machine.execSchMode job idx s
  | .schNop job idx => Sys2Proof.Machine.execSchNop job idx s
  | .schSemset job idx => Sys2Proof.Machine.execSchSemset job idx s
  | .schSemCtrlWrite fn value => Sys2Proof.Machine.execSchSemCtrlWrite fn value s
  | .modeStageWrite fn page value => Sys2Proof.Machine.execModeStageWrite fn page value s
  | .schModeCommit fn value => Sys2Proof.Machine.execSchModeCommit fn value s
  | .modeUnitApply page => Sys2Proof.Machine.execModeUnitApply page s
  | .modeTimeoutExpiry fn => Sys2Proof.Machine.execModeTimeoutExpiry fn s
  | .mmGemm job idx now => Sys2Proof.Machine.execMmGemm job idx now s
  | .mmConv job idx now => Sys2Proof.Machine.execMmConv job idx now s
  | .mmPass job idx now accRow => Sys2Proof.Machine.execMmPass job idx now accRow s
  | .passIssue cluster right accRow weightsAt rowsAt shape => Sys2Proof.Machine.execPassIssue cluster right accRow weightsAt rowsAt shape s
  | .clusterParityDetect cluster right injected hits => Sys2Proof.Machine.execClusterParityDetect cluster right injected hits s
  | .bcInjectWrite fn cluster value => Sys2Proof.Machine.execBcInjectWrite fn cluster value s
  | .localBurnishDone cluster share => Sys2Proof.Machine.execLocalBurnishDone cluster share s
  | .hatchAdd job idx => Sys2Proof.Machine.execHatchAdd job idx s
  | .hatchSub job idx => Sys2Proof.Machine.execHatchSub job idx s
  | .hatchMul job idx => Sys2Proof.Machine.execHatchMul job idx s
  | .hatchAxpby job idx => Sys2Proof.Machine.execHatchAxpby job idx s
  | .hatchMax job idx => Sys2Proof.Machine.execHatchMax job idx s
  | .hatchMin job idx => Sys2Proof.Machine.execHatchMin job idx s
  | .hatchAffine job idx => Sys2Proof.Machine.execHatchAffine job idx s
  | .hatchCast job idx => Sys2Proof.Machine.execHatchCast job idx s
  | .hatchClamp job idx => Sys2Proof.Machine.execHatchClamp job idx s
  | .hatchFill job idx => Sys2Proof.Machine.execHatchFill job idx s
  | .hatchIota job idx => Sys2Proof.Machine.execHatchIota job idx s
  | .hatchRelu job idx => Sys2Proof.Machine.execHatchRelu job idx s
  | .hatchGelu job idx => Sys2Proof.Machine.execHatchGelu job idx s
  | .hatchSilu job idx => Sys2Proof.Machine.execHatchSilu job idx s
  | .hatchSigmoid job idx => Sys2Proof.Machine.execHatchSigmoid job idx s
  | .hatchTanh job idx => Sys2Proof.Machine.execHatchTanh job idx s
  | .hatchExp job idx => Sys2Proof.Machine.execHatchExp job idx s
  | .hatchLog job idx => Sys2Proof.Machine.execHatchLog job idx s
  | .hatchSqrt job idx => Sys2Proof.Machine.execHatchSqrt job idx s
  | .hatchRsqrt job idx => Sys2Proof.Machine.execHatchRsqrt job idx s
  | .hatchRecip job idx => Sys2Proof.Machine.execHatchRecip job idx s
  | .hatchActBwd job idx => Sys2Proof.Machine.execHatchActBwd job idx s
  | .hatchSum job idx => Sys2Proof.Machine.execHatchSum job idx s
  | .hatchRowmax job idx => Sys2Proof.Machine.execHatchRowmax job idx s
  | .hatchArgmax job idx => Sys2Proof.Machine.execHatchArgmax job idx s
  | .hatchSoftmax job idx => Sys2Proof.Machine.execHatchSoftmax job idx s
  | .hatchLogsoftmax job idx => Sys2Proof.Machine.execHatchLogsoftmax job idx s
  | .hatchLayernorm job idx => Sys2Proof.Machine.execHatchLayernorm job idx s
  | .hatchRmsnorm job idx => Sys2Proof.Machine.execHatchRmsnorm job idx s
  | .hatchNormBwd job idx => Sys2Proof.Machine.execHatchNormBwd job idx s
  | .hatchSoftmaxBwd job idx => Sys2Proof.Machine.execHatchSoftmaxBwd job idx s
  | .hatchTopk job idx => Sys2Proof.Machine.execHatchTopk job idx s
  | .hatchXent job idx => Sys2Proof.Machine.execHatchXent job idx s
  | .hatchIou job idx => Sys2Proof.Machine.execHatchIou job idx s
  | .hatchCosine job idx => Sys2Proof.Machine.execHatchCosine job idx s
  | .hatchNms job idx => Sys2Proof.Machine.execHatchNms job idx s
  | .hatchAssoc job idx => Sys2Proof.Machine.execHatchAssoc job idx s
  | .hatchSgdm job idx => Sys2Proof.Machine.execHatchSgdm job idx s
  | .hatchAdamw job idx => Sys2Proof.Machine.execHatchAdamw job idx s
  | .hatchSumsq job idx => Sys2Proof.Machine.execHatchSumsq job idx s
  | .hatchPhilox job idx => Sys2Proof.Machine.execHatchPhilox job idx s
  | .hatchDropout job idx => Sys2Proof.Machine.execHatchDropout job idx s
  | .hatchGather job idx => Sys2Proof.Machine.execHatchGather job idx s
  | .hatchScatterAdd job idx => Sys2Proof.Machine.execHatchScatterAdd job idx s
  | .attnFwd job idx => Sys2Proof.Machine.execAttnFwd job idx s
  | .attnBwd job idx => Sys2Proof.Machine.execAttnBwd job idx s
  | .attnKvwrite job idx => Sys2Proof.Machine.execAttnKvwrite job idx s
  | .moveCopy job idx => Sys2Proof.Machine.execMoveCopy job idx s
  | .moveLinear job idx ans => Sys2Proof.Machine.execMoveLinear job idx ans s
  | .moveFill job idx => Sys2Proof.Machine.execMoveFill job idx s
  | .movePrefetch job idx => Sys2Proof.Machine.execMovePrefetch job idx s
  | .moveFlush job idx => Sys2Proof.Machine.execMoveFlush job idx s
  | .moveEvict job idx => Sys2Proof.Machine.execMoveEvict job idx s
  | .moveRequant job idx => Sys2Proof.Machine.execMoveRequant job idx s
  | .plateParityDetect job idx seg off tagPar stored => Sys2Proof.Machine.execPlateParityDetect job idx seg off tagPar stored s
  | .plateBurnishDone seg => Sys2Proof.Machine.execPlateBurnishDone seg s
  | .plateAccessRetry waiter => Sys2Proof.Machine.execPlateAccessRetry waiter s
  | .psPowerWrite seg value => Sys2Proof.Machine.execPsPowerWrite seg value s
  | .psDrainDone seg => Sys2Proof.Machine.execPsDrainDone seg s
  | .psWakeDone seg => Sys2Proof.Machine.execPsWakeDone seg s
  | .drainLimitExpiry seg => Sys2Proof.Machine.execDrainLimitExpiry seg s
  | .psCacheBaseWrite fn seg value => Sys2Proof.Machine.execPsCacheBaseWrite fn seg value s
  | .letJoin job idx => Sys2Proof.Machine.execLetJoin job idx s
  | .letStep job idx => Sys2Proof.Machine.execLetStep job idx s
  | .letTok job idx => Sys2Proof.Machine.execLetTok job idx s
  | .letDetok job idx => Sys2Proof.Machine.execLetDetok job idx s
  | .letBind job idx => Sys2Proof.Machine.execLetBind job idx s
  | .maskWalkDone session => Sys2Proof.Machine.execMaskWalkDone session s
  | .stepDeadline => Sys2Proof.Machine.execStepDeadline s
  | .letSessionStop value => Sys2Proof.Machine.execLetSessionStop value s
  | .letMaskCfgWrite off value => Sys2Proof.Machine.execLetMaskCfgWrite off value s
  | .medOpen job idx => Sys2Proof.Machine.execMedOpen job idx s
  | .medDecode job idx pics sets opens => Sys2Proof.Machine.execMedDecode job idx pics sets opens s
  | .medEncode job idx => Sys2Proof.Machine.execMedEncode job idx s
  | .medClose job idx => Sys2Proof.Machine.execMedClose job idx s
  | .medClass job idx => Sys2Proof.Machine.execMedClass job idx s
  | .medPage job idx page => Sys2Proof.Machine.execMedPage job idx page s
  | .medCws job idx => Sys2Proof.Machine.execMedCws job idx s
  | .pictureStart => Sys2Proof.Machine.execPictureStart s
  | .pictureDone core damaged coded => Sys2Proof.Machine.execPictureDone core damaged coded s
  | .pageDecodeDone decoder errors => Sys2Proof.Machine.execPageDecodeDone decoder errors s
  | .poolWaitRetry work => Sys2Proof.Machine.execPoolWaitRetry work s
  | .medPoolWaitExpiry work => Sys2Proof.Machine.execMedPoolWaitExpiry work s
  | .ctuRowDone core => Sys2Proof.Machine.execCtuRowDone core s
  | .panicMaxExpiry core => Sys2Proof.Machine.execPanicMaxExpiry core s
  | .mediaParityDetect site => Sys2Proof.Machine.execMediaParityDetect site s
  | .medCtxClassWrite value => Sys2Proof.Machine.execMedCtxClassWrite value s
  | .intOpen job idx => Sys2Proof.Machine.execIntOpen job idx s
  | .intEpoch job idx => Sys2Proof.Machine.execIntEpoch job idx s
  | .intClose job idx => Sys2Proof.Machine.execIntClose job idx s
  | .intRegopen job idx => Sys2Proof.Machine.execIntRegopen job idx s
  | .intRegclose job idx => Sys2Proof.Machine.execIntRegclose job idx s
  | .sampleDecodeDone ctx pos page errors => Sys2Proof.Machine.execSampleDecodeDone ctx pos page errors s
  | .decodeLimitExpiry ctx pos => Sys2Proof.Machine.execDecodeLimitExpiry ctx pos s
  | .batchEmit => Sys2Proof.Machine.execBatchEmit s
  | .regPictureArrive group => Sys2Proof.Machine.execRegPictureArrive group s
  | .setDeadlineExpiry group => Sys2Proof.Machine.execSetDeadlineExpiry group s
  | .trkRing job idx => Sys2Proof.Machine.execTrkRing job idx s
  | .trkRingclose job idx => Sys2Proof.Machine.execTrkRingclose job idx s
  | .trkOpen job idx => Sys2Proof.Machine.execTrkOpen job idx s
  | .trkClose job idx => Sys2Proof.Machine.execTrkClose job idx s
  | .trkPrep job idx ans => Sys2Proof.Machine.execTrkPrep job idx ans s
  | .trkUpdate job idx ans => Sys2Proof.Machine.execTrkUpdate job idx ans s
  | .trkText job idx ans => Sys2Proof.Machine.execTrkText job idx ans s
  | .trkPage job idx ans => Sys2Proof.Machine.execTrkPage job idx ans s
  | .trkClip job idx ans => Sys2Proof.Machine.execTrkClip job idx ans s
  | .parStateWrite value => Sys2Proof.Machine.execParStateWrite value s
  | .parMoveWrite value => Sys2Proof.Machine.execParMoveWrite value s
  | .moveDone => Sys2Proof.Machine.execMoveDone s
  | .rulingLoad => Sys2Proof.Machine.execRulingLoad s
  | .rulingEnable enable => Sys2Proof.Machine.execRulingEnable enable s
  | .rulingSlotStart => Sys2Proof.Machine.execRulingSlotStart s
  | .regulatorTick => Sys2Proof.Machine.execRegulatorTick s
  | .polPoolEnable value => Sys2Proof.Machine.execPolPoolEnable value s
  | .polAlloc fn value => Sys2Proof.Machine.execPolAlloc fn value s
  | .polRef fn value => Sys2Proof.Machine.execPolRef fn value s
  | .polInit value => Sys2Proof.Machine.execPolInit value s
  | .sliceRebuildDone pool part => Sys2Proof.Machine.execSliceRebuildDone pool part s
  | .correctableError addr err syndrome agent => Sys2Proof.Machine.execCorrectableError addr err syndrome agent s
  | .uncorrectableError addr err syndrome agent => Sys2Proof.Machine.execUncorrectableError addr err syndrome agent s
  | .edcRetryExhausted addr write spare agent => Sys2Proof.Machine.execEdcRetryExhausted addr write spare agent s
  | .patrolScrub err found syndrome => Sys2Proof.Machine.execPatrolScrub err found syndrome s
  | .refreshInterval position channel bank queued => Sys2Proof.Machine.execRefreshInterval position channel bank queued s
  | .periodicRetrain position readMargin writeMargin => Sys2Proof.Machine.execPeriodicRetrain position readMargin writeMargin s
  | .migrationPageCopy trained bad => Sys2Proof.Machine.execMigrationPageCopy trained bad s
  | .migrationDone => Sys2Proof.Machine.execMigrationDone s
  | .gddr6PllLockLoss position => Sys2Proof.Machine.execGddr6PllLockLoss position s
  | .ulzTrain port good peer => Sys2Proof.Machine.execUlzTrain port good peer s
  | .ulzTrainRetry port => Sys2Proof.Machine.execUlzTrainRetry port s
  | .ulzRetrain port good peerWidth ok pll => Sys2Proof.Machine.execUlzRetrain port good peerWidth ok pll s
  | .flitReceive port body crcOk lane => Sys2Proof.Machine.execFlitReceive port body crcOk lane s
  | .remoteWrite port => Sys2Proof.Machine.execRemoteWrite port s
  | .remoteRead port => Sys2Proof.Machine.execRemoteRead port s
  | .remoteSem port => Sys2Proof.Machine.execRemoteSem port s
  | .collPacket port => Sys2Proof.Machine.execCollPacket port s
  | .linkAnswer port => Sys2Proof.Machine.execLinkAnswer port s
  | .ulzTimeoutExpiry job idx => Sys2Proof.Machine.execUlzTimeoutExpiry job idx s
  | .linkCopy job idx => Sys2Proof.Machine.execLinkCopy job idx s
  | .linkSem job idx => Sys2Proof.Machine.execLinkSem job idx s
  | .linkAllreduce job idx => Sys2Proof.Machine.execLinkAllreduce job idx s
  | .linkAllgather job idx => Sys2Proof.Machine.execLinkAllgather job idx s
  | .uVcCreditWrite port value => Sys2Proof.Machine.execUVcCreditWrite port value s
  | .ulzNodeWrite value => Sys2Proof.Machine.execUlzNodeWrite value s
  | .coldReset strap lanes rate testEn flashOk fuseOk hot => Sys2Proof.Machine.execColdReset strap lanes rate testEn flashOk fuseOk hot s
  | .gddr6TrainingDone results => Sys2Proof.Machine.execGddr6TrainingDone results s
  | .bootServiceReady => Sys2Proof.Machine.execBootServiceReady s
  | .attestPreparationDone => Sys2Proof.Machine.execAttestPreparationDone s
  | .linkReset pllLoss => Sys2Proof.Machine.execLinkReset pllLoss s
  | .d3hotEntry => Sys2Proof.Machine.execD3hotEntry s
  | .d3hotToD0 => Sys2Proof.Machine.execD3hotToD0 s
  | .serviceRestart digestOk => Sys2Proof.Machine.execServiceRestart digestOk s
  | .referenceLoss rootPll => Sys2Proof.Machine.execReferenceLoss rootPll s
  | .thermalSample readings estimate => Sys2Proof.Machine.execThermalSample readings estimate s
  | .thermalShutdown sensor reading => Sys2Proof.Machine.execThermalShutdown sensor reading s
  | .railDip => Sys2Proof.Machine.execRailDip s
  | .tapReset => Sys2Proof.Machine.execTapReset s
  | .tapExtest perst pins drive => Sys2Proof.Machine.execTapExtest perst pins drive s
  | .tapIdcode => Sys2Proof.Machine.execTapIdcode s
  | .samplePreload pins drive => Sys2Proof.Machine.execSamplePreload pins drive s
  | .tapHighz perst => Sys2Proof.Machine.execTapHighz perst s
  | .tapClamp perst => Sys2Proof.Machine.execTapClamp perst s
  | .extestPulse perst pins drive => Sys2Proof.Machine.execExtestPulse perst pins drive s
  | .extestTrain perst pins drive => Sys2Proof.Machine.execExtestTrain perst pins drive s
  | .tapBypass => Sys2Proof.Machine.execTapBypass s
  | .smbusEventSummary => Sys2Proof.Machine.execSmbusEventSummary s
  | .smbusAttest op off nonce => Sys2Proof.Machine.execSmbusAttest op off nonce s
  | .eventRecordCommit => Sys2Proof.Machine.execEventRecordCommit s
  | .recorderCheckpoint => Sys2Proof.Machine.execRecorderCheckpoint s
  | .evtSelWrite fn num => Sys2Proof.Machine.execEvtSelWrite fn num s
  | .evtFreezeWrite fn value => Sys2Proof.Machine.execEvtFreezeWrite fn value s
  | .freezeLimitExpiry fn => Sys2Proof.Machine.execFreezeLimitExpiry fn s
  | .spareInTrigger kind index cause => Sys2Proof.Machine.execSpareInTrigger kind index cause s
  | .wearCheck kind index margin => Sys2Proof.Machine.execWearCheck kind index margin s
  | .spareInComplete spareOk => Sys2Proof.Machine.execSpareInComplete spareOk s
  | .cqFullWaitExpiry q => Sys2Proof.Machine.execCqFullWaitExpiry q s
  | .functionResetComplete fn => Sys2Proof.Machine.execFunctionResetComplete fn s
  | .vfPowerStateWrite vf d3 => Sys2Proof.Machine.execVfPowerStateWrite vf d3 s
  | .positionNotAnswering position => Sys2Proof.Machine.execPositionNotAnswering position s
  | .gddr6TemperatureRead temps => Sys2Proof.Machine.execGddr6TemperatureRead temps s

end Sys2Proof.Machine
end

