-- ==== Sys2Proof/Machine/View.lean ====
section
/-! DEFINITION. The registers as they read (R6, R12, R397-R400): the header and the block registers of every page, in the view of each function, from the state.
A read has no effect but CLK_TIME_LO's, which is the command CLK_TIME_LO_READ. -/
namespace Sys2Proof.Machine

/-! ## The header (R397-R399) -/

/-- KIND of BLOCK_ID (R399). -/
def blockKind : PageKind → Nat
  | .hif => 0x01 | .que => 0x02 | .sch => 0x03 | .par => 0x04 | .pol => 0x05 | .svc => 0x06 | .evt => 0x07 | .sec => 0x08 | .clk => 0x09 | .rsv => 0x0A
  | .bc => 0x10 | .plt => 0x11 | .ps => 0x12 | .mem => 0x13 | .m => 0x14 | .med => 0x15 | .cc => 0x16 | .scl => 0x17 | .int => 0x18 | .let_ => 0x19
  | .trk => 0x1A | .ulz => 0x1B | .u => 0x1C

/-- CAPS of a page (R399). -/
def capsOf : PageKind → Nat
  | .hif => 0 | .que => 0 | .sch => 0 | .svc => 0 | .plt => 0 | .mem => 0 | .med => 0 | .ulz => 0
  | .bc => 0xF | .ps => 0xF | .m => 0xF | .cc => 0xD | .u => 0xD | .let_ => 9 | _ => 1

/-- Logical number of a page; 0 for single pages (R397). -/
def instanceNum (k : PageKind) (pg : Nat) : Nat :=
  match k with
  | .bc => pg - pgBC 0
  | .ps => pg - pgPS 0
  | .m => pg - pgM 0
  | .cc => pg - pgCC 0
  | .u => pg - pgU 0
  | _ => 0

/-- Spare and shadow units of a page kind: KIND of R372, and the logical names there are. -/
def unitKind : PageKind → Option Nat
  | .bc => some 0 | .ps => some 1 | .cc => some 2 | .m => some 3 | _ => none

/-- Unused spares behind the shadow page `n` of a kind. -/
def State.spareAt (s : State) (kind n : Nat) : Bool :=
  match kind with
  | 0 => s.reserve.spareCluster
  | 1 => if n = 32 then s.reserve.spareSegs == 2 else s.reserve.spareSegs != 0
  | 2 => s.reserve.spareCore
  | _ => s.gddr.spare

/-- SPARE_MAP of a unit page, and of a port (R374, R375). -/
def State.spareMap (s : State) (k : PageKind) (n : Nat) : Nat :=
  match unitKind k with
  | some kd =>
    if s.withdrawn kd n then 3 * 2 ^ 30 + s.physOf kd n
    else if n < unitsOf kd then s.physOf kd n
    else (if s.spareAt kd n then 1 else if kd = 3 && !(s.pos 8).retired then 0 else 2) * 2 ^ 30 + s.physOf kd n
  | none =>
    if k = .u then
      let x := s.port n
      x.spare * 2 ^ 30 + x.lanes.getD 0 0 + x.lanes.getD 1 0 * 8 + x.lanes.getD 2 0 * 64 + x.lanes.getD 3 0 * 512
    else 0

/-- STATUS.READY: the block is initialised and in service (log entry 60). -/
def State.blockReady (s : State) (k : PageKind) (pg : Nat) : Bool :=
  ((s.svc.stage == 2 && !s.svc.initialising) || (s.svc.stage == 3 && inRecovery k)) &&
  (match unitKind k with
   | some kd => decide (instanceNum k pg < unitsOf kd) && !s.withdrawn kd (instanceNum k pg)
   | none => true)

/-- A register that a list gives its value at its offset; any other reads 0. -/
def pick (off : Nat) (l : List (Nat × Nat)) : Nat := ((l.find? (fun e => e.1 == off)).map (·.2)).getD 0

/-- The common header of a page (R397, R398). -/
def State.readHeader (s : State) (fn pg : Nat) (k : PageKind) (off : Nat) : Nat :=
  let errs := if hasErrors k then s.reg 0 pg 0x018 else 0
  let m : ModeUnit := Tab.get {} s.modeUnits pg
  let moded := (modePage pg).isSome
  if 0x028 ≤ off ∧ off ≤ 0x034 then (if bit (capsOf k) 1 then s.reg 0 pg off else 0)
  else pick off [
    (0x000, 0x7730 * 2 ^ 16 + blockKind k * 2 ^ 8 + instanceNum k pg), (0x004, 1), (0x008, capsOf k), (0x014, bitAt (errs != 0) 1 + bitAt (s.blockReady k pg) 0),
    (0x018, errs), (0x01C, s.reg fn pg 0x01C), (0x020, s.reg fn pg 0x020), (0x024, s.reg fn pg 0x024),
    (0x038, s.spareMap k (instanceNum k pg)), (0x03C, if moded then m.stageWord else 0), (0x040, if moded then m.appliedWord else 0)]

/-! ## Host interface and scheduler pages -/

/-- The low and the high word of an address. -/
def lo32 (a : Nat) : Nat := a % 2 ^ 32
def hi32 (a : Nat) : Nat := a / 2 ^ 32 % 2 ^ 32

def State.readHif (s : State) (fn off : Nat) : Nat :=
  let p := s.pcie
  let f := s.func fn
  pick off [
    (0x100, 0x7730B000), (0x104, bitAt (p.rate == 6) 11 + bitAt p.degraded 10 + p.width % 16 * 64 + p.rate % 8 * 8),
    (0x108, bitAt f.fault 2 + bitAt f.resetting 1 + bitAt f.ready 0), (0x110, s.reg fn pgHIF 0x110), (0x114, s.reg fn pgHIF 0x114),
    (0x118, s.reg fn pgHIF 0x118), (0x11C, s.reg fn pgHIF 0x11C)]

def QState.code : QState → Nat
  | .disabled => 0 | .running => 1 | .error => 2 | .draining => 3

/-- The QUE page: beyond COUNT the registers of the selected queue read 0. -/
def State.readQue (s : State) (fn off : Nat) : Nat :=
  let r := s.queueRange fn
  if off = 0x100 then r.2 * 2 ^ 16 + r.1
  else if off = 0x104 then s.reg fn pgQUE 0x104
  else match s.selQueue fn with
    | none => 0
    | some q =>
      let x := s.queue q
      pick off [(0x108, lo32 x.sqBase), (0x10C, hi32 x.sqBase), (0x110, lo32 x.cqBase), (0x114, hi32 x.cqBase),
        (0x118, x.vector * 2 ^ 12 + x.cqLog2 * 2 ^ 8 + x.sqLog2 * 16 + bitAt x.enable 0), (0x11C, x.coalCount * 2 ^ 24 + x.coalTime),
        (0x120, x.sqHead * 2 ^ 16 + x.cqTail), (0x124, x.state.code * 2 ^ 30 + x.err)]

def ChangeState.code : ChangeState → Nat
  | .idle => 0 | .pending => 1 | .committed => 2 | .rolledBack => 3

/-- The semaphore that SCH_SEM_SEL of a function selects, if its partition has it (R42). -/
def State.selSem (s : State) (fn : Nat) : Option Sem :=
  match s.partOf fn with
  | none => none
  | some p => if s.reg fn pgSCH 0x120 < (s.part p).semCount then some (s.semOf p (s.reg fn pgSCH 0x120)) else none

def State.readSch (s : State) (fn off : Nat) : Nat :=
  let p := s.partOf fn
  let x : Part := match p with | some p => s.part p | none => {}
  let c := s.change fn
  if off = 0x124 then
    match s.selSem fn with
    | none => 0
    | some m => bitAt m.mutex 31 + bitAt (m.holder != 0) 30 + (if m.mutex then 0 else m.value)
  else if off = 0x128 then
    match s.selSem fn with
    | none => 0
    | some m => if m.holder = 0 then 0 else let j := s.job (m.holder - 1); s.queueLocal j.queue * 2 ^ 12 + j.eff
  else pick off [
    (0x100, lo32 s.tableBase), (0x104, hi32 s.tableBase), (0x108, x.sCount * 2 ^ 16 + x.sFirst),
    (0x10C, x.window * 2 ^ 16 + (x.window - (match p with | some p => s.chunksOf p | none => 0))),
    (0x110, x.waitLimit), (0x114, lo32 x.saveBase), (0x118, hi32 x.saveBase), (0x11C, x.framesUsed.length * 2 ^ 16 + x.frames), (0x120, s.reg fn pgSCH 0x120),
    (0x134, c.state.code * 2 ^ 30 + bitAt c.refused 29 + c.result * 2 ^ 16 + c.armed % 256 * 2 ^ 8 + c.applied % 256), (0x138, c.timeout),
    (0x140, x.preempts), (0x144, x.inherits)]

/-! ## Partition and pool pages -/

def PartState.code : PartState → Nat
  | .unused => 0 | .config => 1 | .active => 2

/-- A bit for each number below `n` that has a property. -/
def bitMap (n : Nat) (f : Nat → Bool) : Nat := ((List.range n).map (fun k => bitAt (f k) k)).foldl (· + ·) 0

def Bucket.word (b : Bucket) : Nat := b.depth * 2 ^ 16 + b.rate

/-- The registers of the PAR page that act on one partition. -/
def State.readPart (s : State) (p off : Nat) : Nat :=
  let x := s.part p
  pick off [
    (0x104, x.state.code * 2 ^ 30 + x.fn * 2 ^ 24 + x.maxPriority * 2 ^ 20 + bitAt x.measure 16 + x.window), (0x108, x.qCount * 2 ^ 16 + x.qFirst),
    (0x10C, x.sCount * 2 ^ 16 + x.sFirst), (0x110, x.semCount * 2 ^ 16 + x.semFirst), (0x114, x.sessCount * 2 ^ 16 + x.sessFirst), (0x118, x.gSize * 2 ^ 16 + x.gBase),
    (0x120, bitMap 16 (fun n => (s.ownClusters p).contains n)), (0x124, bitMap 32 (fun n => (s.ownSegs p).contains n)),
    (0x128, ((List.range 256).filter (fun c => (s.stream c).owner == p + 1)).length * 2 ^ 23 + bitMap 8 (fun n => (s.intake n).owner == p + 1) * 2 ^ 8),
    (0x12C, bitMap 16 (fun n => (s.regGroup n).owner == p + 1)), (0x160, x.gddr.word), (0x164, x.plate.word), (0x168, x.link.word), (0x16C, x.regHeld),
    (0x170, lo32 x.slowBase), (0x174, hi32 x.slowBase), (0x178, x.slowDropped * 2 ^ 16 + x.slowLog2)]

/-- The PAR page: a VF sees its own partition, and every register from 0x130 on reads 0 there; a VF bound to none sees one that owns nothing, in measured service (R262, R266). -/
def State.readPar (s : State) (fn off : Nat) : Nat :=
  if fn ≠ 0 then
    match s.partOf fn with
    | none => if off = 0x104 then 2 ^ 16 else 0
    | some p => if off = 0x100 then p else if off < 0x130 then s.readPart p off else 0
  else
    let r := s.ruling
    let sel := fld (s.reg 0 pgPAR 0x100) 2 0
    if off = 0x100 then sel
    else if off = 0x134 then s.unitMove.status * 2 ^ 30 + s.unitMove.reason
    else if off = 0x140 ∨ off = 0x144 then s.reg 0 pgPAR off
    else if off = 0x148 then bitAt r.enable 16 + s.reg 0 pgPAR 0x148
    else if off = 0x14C then bitAt r.pendingTable.isSome 31 + r.errEntry * 2 ^ 16 + r.entry
    else if off = 0x150 then r.unpreempted * 2 ^ 16 + r.maxUs
    else s.readPart sel off

/-- The POL page: a VF sees the slices of its own partition (chapter 14, registers). -/
def State.readPol (s : State) (fn off : Nat) : Nat :=
  let x := s.pool (s.reg fn pgPOL 0x108 % 16)
  let p := if fn = 0 then s.reg 0 pgPOL 0x114 % 8 else (s.partOf fn).getD 0
  let sl := x.slice p
  pick off [
    (0x100, s.reg 0 pgPOL 0x100), (0x104, s.reg 0 pgPOL 0x104), (0x108, s.reg fn pgPOL 0x108),
    (0x10C, bitAt x.enable 31 + bitAt x.stepUp 30 + bitAt x.nextEn 29 + x.next * 2 ^ 24 + x.size4k), (0x110, x.first), (0x114, p),
    (0x118, bitAt sl.enable 31 + sl.count), (0x11C, lo32 sl.base), (0x120, hi32 sl.base), (0x124, sl.state * 2 ^ 30 + sl.free),
    (0x128, sl.refused * 2 ^ 16 + sl.underflow), (0x12C, if fn = 0 then bitAt (sl.state == 3) 0 else 0),
    (0x138, s.reg fn pgPOL 0x138), (0x13C, s.reg fn pgPOL 0x13C), (0x140, s.reg fn pgPOL 0x140)]

/-! ## Service pages -/

def MbxState.code : MbxState → Nat
  | .idle => 0 | .busy => 1 | .done => 2

def State.readSvc (s : State) (off : Nat) : Nat :=
  let m := s.mbx
  if 0x108 ≤ off ∧ off ≤ 0x124 then m.args.getD ((off - 0x108) / 4) 0
  else if 0x128 ≤ off ∧ off ≤ 0x144 then m.rsps.getD ((off - 0x128) / 4) 0
  else pick off [(0x100, m.state.code * 2 ^ 30 + m.result * 2 ^ 16 + m.cmd * 2 ^ 8 + m.tag), (0x148, s.reg 0 pgSVC 0x148), (0x14C, m.percent)]

/-- The EVT page: the numbers, the freeze, and the record window of a function (R365-R367). -/
def State.readEvt (s : State) (fn off : Nat) : Nat :=
  let r := s.recorder
  let e : EvtSel := Tab.get {} s.evtSels fn
  if 0x200 ≤ off then rdN e.data (off - 0x200) 4
  else pick off [
    (0x100, r.next - 1), (0x104, (r.present.head?.map (·.num)).getD 0), (0x108, r.cleared),
    (0x10C, r.staged.length * 2 ^ 16 + bitAt (r.freezes.any (fun f => f.1 == fn)) 0), (0x110, r.overflow), (0x114, r.freezeLimit), (0x118, e.num),
    (0x11C, e.state * 2 ^ 30 + bitAt e.isOpen 24 + e.cycle % 2 ^ 24), (0x120, e.next), (0x124, s.seconds % 2 ^ 32), (0x128, r.powerCycles % 2 ^ 24)]

def State.readSec (s : State) (off : Nat) : Nat :=
  let v := s.svc
  pick off [
    (0x100, v.stage * 2 ^ 30 + v.reason * 2 ^ 24 + v.profile * 2 ^ 20 + bitAt v.layoutFactory 16 + v.skipped), (0x104, lo32 Config.deviceId), (0x108, hi32 Config.deviceId),
    (0x10C, v.fwVersion), (0x110, v.minSvn * 2 ^ 8 + v.svn), (0x114, lo32 v.profileSeq), (0x118, hi32 v.profileSeq),
    (0x11C, v.signer * 2 ^ 8 + bitMap 4 (fun n => (v.owners.getD n {}).revoked) * 16 + bitMap 4 (fun n => (v.owners.getD n {}).programmed)),
    (0x120, v.attest * 2 ^ 30 + v.sigsLeft), (0x124, v.topLeaf * 2 ^ 16 + (fuses - v.steps))]

/-- Physical units that are power-gated: spares, retired and withdrawn ones (R336); `n` names and the shadow pages up to `m`. -/
def State.gatedUnits (s : State) (kind m : Nat) : Nat :=
  (((List.range m).filter (fun n => decide (unitsOf kind ≤ n) || s.withdrawn kind n)).map (fun n => 2 ^ s.physOf kind n)).foldl (· + ·) 0

def State.readClk (s : State) (off : Nat) : Nat :=
  let v := s.svc
  let sel := s.reg 0 pgCLK 0x118
  let locked (n : Nat) : Bool := v.rootLock && (s.pos n).locked && !(s.pos n).retired && !(s.pos n).withdrawn
  pick off [
    (0x100, bitMap 2 (fun n => v.rootLock && (s.port n).locked) * 2 ^ 12 + bitAt v.pcieLock 11 +
      (((List.range 9).filter locked).map (fun n => 2 ^ s.physOf 3 n)).foldl (· + ·) 0 * 4 + bitAt v.rootLock 1 + bitAt v.refOk 0),
    (0x104, v.resetCause), (0x108, lo32 s.ticks), (0x10C, v.timeHi), (0x110, s.reg 0 pgCLK 0x110), (0x114, s.gatedUnits 2 9 * 2 ^ 20 + s.gatedUnits 0 17), (0x118, sel),
    (0x11C, if sel < 24 then v.peaks.getD sel 0 * 2 ^ 8 + v.temps.getD sel 0 else 0), (0x120, v.tjSensor * 2 ^ 8 + v.tj), (0x124, s.reg 0 pgCLK 0x124),
    (0x128, min 0xFFFF v.throttles * 2 ^ 16 + v.duty), (0x12C, min 0xFF v.estimate * 2 ^ 16 + s.reg 0 pgCLK 0x12C)]

/-- The RSV page. The drain without a spare, phase 6 of the model, shows as DRAIN. -/
def State.readRsv (s : State) (off : Nat) : Nat :=
  let r := s.reserve
  pick off [
    (0x100, capacityWord s),
    (0x104, bitAt ((s.port 1).spare == 0) 6 + bitAt ((s.port 0).spare == 0) 5 + bitAt s.gddr.spare 4 + bitAt r.spareCore 3 + r.spareSegs * 2 + bitAt r.spareCluster 0),
    (0x108, match r.running with
      | none => r.queue.length % 256 * 2 ^ 8
      | some t => 2 ^ 31 + t.kind * 2 ^ 28 + t.index % 256 * 2 ^ 16 + r.queue.length % 256 * 2 ^ 8 + (if r.phase = 6 then 2 else r.phase)),
    (0x10C, min 0xFFFF r.torn * 2 ^ 16 + min 0xFFFF r.ledger.length)]

/-! ## Clusters, plate and GDDR6 -/

/-- BC_RUN_L and BC_RUN_R: the stroke that runs. -/
def State.runWord (s : State) (r : Option StrokeRef) : Nat :=
  match r with
  | none => 0
  | some x => 2 ^ 31 + (s.job x.job).fn * 2 ^ 25 + (s.job x.job).tableIndex x.idx % 2 ^ 21

/-- A pre-emption of a stroke on the cluster is under way (R48). -/
def State.preemptingOn (s : State) (c : Cluster) : Bool := (c.left.toList ++ c.right.toList).any (fun x => ((s.job x.job).stroke x.idx).preempting)

/-- A BCn page. BURNISH_L shows the burnish of the left share, of the whole or of the hatch unit's buffer, BURNISH_R that of the right share or of the move engine's buffer, which lies there (R15, R53; log entry 102). -/
def State.readBc (s : State) (n off : Nat) : Nat :=
  let c := s.cluster n
  let split := s.mode (pgBC n) == 1
  if off = 0x100 then
    c.owner % 8 * 2 ^ 8 + bitAt c.mover.isSome 7 + bitAt c.hatch.isSome 6 + bitAt (s.preemptingOn c) 5 + bitAt (c.burnishR || c.burnishM) 4 + bitAt (c.burnishL || c.burnishW || c.burnishH) 3 +
      bitAt c.right.isSome 2 + bitAt c.left.isSome 1 + bitAt split 0
  else if off = 0x104 then s.runWord c.left
  else if off = 0x108 then s.runWord c.right
  else if off = 0x124 then (if s.svc.stage = 1 ∨ s.svc.stage = 2 then s.reserve.wearCluster % 256 else 0) * 2 ^ 8 + fld (s.reg 0 (pgBC n) 0x124) 7 0
  else if off = 0x130 then seqTileOf s n c.left
  else s.reg 0 (pgBC n) off

def State.readPlt (s : State) (off : Nat) : Nat :=
  pick off [
    (0x100, s.reserve.spareSegs * 2 ^ 8 + s.unitsIn 1), (0x104, bitMap 32 (fun n => s.mode (pgPS n) == 1)), (0x108, bitMap 32 (fun n => decide ((s.seg n).power = .on))),
    (0x10C, bitMap 32 (fun n => !(s.seg n).burnish.isEmpty)), (0x110, s.reg 0 pgPLT 0x110), (0x114, s.reg 0 pgPLT 0x114), (0x118, s.reg 0 pgPLT 0x118), (0x11C, s.reg 0 pgPLT 0x11C)]

def SegPower.code : SegPower → Nat
  | .on => 0 | .draining => 1 | .off => 2 | .waking => 3

/-- A PSn page. Accesses complete within the command that makes them, so PS_INFLIGHT stays at 0 between commands (log entry 41). -/
def State.readPs (s : State) (n off : Nat) : Nat :=
  let g := s.seg n
  pick off [
    (0x100, (if g.owner = 0 then 0xF else g.owner - 1) * 16 + bitAt (!g.burnish.isEmpty) 3 + bitAt (s.mode (pgPS n) == 1) 2 + g.power.code),
    (0x104, g.drainLimit * 2 ^ 16 + bitAt g.req 0), (0x108, g.inWrites * 2 ^ 16 + g.inReads), (0x10C, fld g.windowBase 31 23 * 2 ^ 23 + g.windowLog2),
    (0x110, hi32 g.windowBase), (0x114, s.reg 0 (pgPS n) 0x114), (0x118, s.reg 0 (pgPS n) 0x118), (0x11C, s.reg 0 (pgPS n) 0x11C), (0x120, s.reg 0 (pgPS n) 0x120)]

def State.readMem (s : State) (off : Nat) : Nat :=
  let g := s.gddr
  pick off [
    (0x100, (if g.trained then g.rate else 0) * 2 ^ 8 + bitAt g.dense 1 + bitAt g.trained 0),
    (0x104, bitAt g.frozen 31 + bitAt g.migrating 30 + g.source % 16 * 2 ^ 20 + bitAt g.spare 16 + s.unitsIn 3 * 2 ^ 8 + (if g.migrating then g.page * 100 / g.pages else 0)),
    (0x108, s.reg 0 pgMEM 0x108), (0x10C, s.reg 0 pgMEM 0x10C), (0x110, s.reg 0 pgMEM 0x110), (0x114, s.reg 0 pgMEM 0x114), (0x118, s.reg 0 pgMEM 0x118),
    (0x11C, if g.frozen then g.freezePos * 16 + g.cause else 0)]

/-! ## Media, intake, lettering, tracking and links -/

def State.readMed (s : State) (off : Nat) : Nat :=
  let x := s.stream (s.reg 0 pgMED 0x104 % 256)
  pick off [
    (0x100, bitAt s.reserve.spareCore 24 + s.unitsIn 2 * 2 ^ 20 + bitMap 4 (fun d => (s.core (16 + d)).work != 0) * 2 ^ 8 + bitMap 8 (fun n => (s.core n).work != 0)),
    (0x104, s.reg 0 pgMED 0x104), (0x108, (x.owner - 1) * 2 ^ 8 + x.codec * 64 + bitAt x.encode 5 + x.state), (0x10C, x.cls * 2 ^ 30 + x.deadline),
    (0x110, x.suppressed), (0x114, x.concealed), (0x118, x.dropped), (0x11C, x.late), (0x120, s.reg 0 pgMED 0x120), (0x124, s.reg 0 pgMED 0x124), (0x128, s.reg 0 pgMED 0x128)]

/-- A CCn page. CC_BUSY_CYCLES counts time and reads what no command sets (log entry 44). -/
def State.readCc (s : State) (n off : Nat) : Nat :=
  let c := s.core n
  if off = 0x100 then
    match s.medQueue.find? (fun w => w.core == some n) with
    | none => bitAt (s.mode (pgCC n) == 1) 28
    | some w => 2 ^ 31 + bitAt (decide (w.kind = .encode)) 30 + bitAt c.panic 29 + bitAt (s.mode (pgCC n) == 1) 28 + w.part % 4 * 2 ^ 8 + w.ctx % 256
  else s.reg 0 (pgCC n) off

/-- The SCL page: a med.cws or a conversion ends within its command, so SCL_STATUS reads 0 between commands (log entry 41). -/
def State.readScl (s : State) (off : Nat) : Nat := if off = 0x100 then 0 else s.reg 0 pgSCL off

def State.readInt (s : State) (off : Nat) : Nat :=
  let x := s.intake (s.reg 0 pgINT 0x104 % 8)
  let g := s.regGroup (s.reg 0 pgINT 0x120 % 16)
  pick off [
    (0x100, s.reg 0 pgINT 0x100), (0x104, s.reg 0 pgINT 0x104), (0x108, x.state * 2 ^ 30 + (x.owner - 1) * 2 ^ 27 + x.held s), (0x10C, x.front s), (0x110, x.cached),
    (0x114, cdiv x.used 0x100000), (0x118, x.corrupt.length), (0x120, s.reg 0 pgINT 0x120),
    (0x124, bitAt g.isOpen 31 + (g.owner - 1) * 2 ^ 28 + g.sets.length * 2 ^ 8 + bitMap 8 (fun i => g.members.contains i)), (0x128, g.emitted % 2 ^ 32), (0x12C, g.partials),
    (0x130, g.late), (0x134, g.dropped)]

def State.sessCount (s : State) (f : SessState → Bool) : Nat := (s.sessions.filter (fun e => f e.2.state)).length

def State.readLet (s : State) (off : Nat) : Nat :=
  let g := s.group (s.reg 0 pgLET 0x128 % 64)
  let runs (p : Place) : Bool := s.jobs.any (fun e => e.2.strokes.any (fun t => decide (t.state = .running) && t.place == some p))
  pick off [
    (0x100, bitAt (runs .letStep) 31 + bitAt (runs .letBulk) 30 + s.sessCount (fun t => decide (t = .waiting)) * 2 ^ 15 + s.sessCount (fun t => decide (t = .active ∨ t = .closing))),
    (0x104, s.reg 0 pgLET 0x104), (0x108, s.reg 0 pgLET 0x108), (0x10C, s.reg 0 pgLET 0x10C), (0x110, s.reg 0 pgLET 0x110), (0x114, s.reg 0 pgLET 0x114),
    (0x118, s.reg 0 pgLET 0x118), (0x11C, s.reg 0 pgLET 0x11C), (0x120, s.reg 0 pgLET 0x120), (0x128, s.reg 0 pgLET 0x128),
    (0x12C, bitAt (g.copy == 1) 31 + bitAt (g.owner != 0) 30 + (g.owner - 1) * 2 ^ 27 + g.step % 2 ^ 16 * 2 ^ 11 + g.slots.length),
    (0x130, bitMap 4 (fun n => (Tab.get ({} : Bound) s.vocabs n).owner != 0)), (0x134, bitMap 32 (fun n => (Tab.get ({} : Bound) s.grammars n).owner != 0)),
    (0x140, s.reg 0 pgLET 0x140), (0x144, s.reg 0 pgLET (letCnt (s.reg 0 pgLET 0x140 % 16)))]

def State.readTrk (s : State) (off : Nat) : Nat :=
  let x := s.track (s.reg 0 pgTRK 0x100 % 256)
  let r := s.outRing (s.reg 0 pgTRK 0x120 % 64)
  pick off [
    (0x100, s.reg 0 pgTRK 0x100),
    (0x104, bitAt x.isOpen 31 + bitAt x.prepped 30 + bitAt x.overflow 29 + x.part * 2 ^ 26 + (x.slots.filter (fun e => e.2.state != 0)).length),
    (0x108, x.full * 2 ^ 16 + x.small), (0x10C, x.rejected), (0x110, x.stale), (0x114, x.nextId), (0x120, s.reg 0 pgTRK 0x120),
    (0x124, r.state * 2 ^ 30 + r.part * 2 ^ 27 + r.log2), (0x128, r.tail), (0x12C, r.dropped)]

/-- A Un page: HELD of a virtual channel is what the partner has granted and this port has not used (R318). -/
def State.readU (s : State) (p off : Nat) : Nat :=
  let x := s.port p
  let vc := s.reg 0 (pgU p) 0x108 % 8
  pick off [
    (0x100, x.state * 2 ^ 30 + x.partner * 16 + x.width), (0x104, s.reg 0 (pgU p) 0x104), (0x108, vc),
    (0x10C, min 0xFFFF (Tab.get 0 x.held vc) * 2 ^ 16 + Tab.get 0x200 x.grant vc), (0x110, s.reg 0 (pgU p) 0x110)]

/-! ## A read of BAR0 and BAR2 -/

/-- A block register of a page that a function's view shows. -/
def State.readBlock (s : State) (fn pg : Nat) (k : PageKind) (off : Nat) : Nat :=
  match k with
  | .hif => s.readHif fn off
  | .que => s.readQue fn off
  | .sch => s.readSch fn off
  | .par => s.readPar fn off
  | .pol => s.readPol fn off
  | .svc => s.readSvc off
  | .evt => s.readEvt fn off
  | .sec => s.readSec off
  | .clk => s.readClk off
  | .rsv => s.readRsv off
  | .bc => s.readBc (pg - pgBC 0) off
  | .plt => s.readPlt off
  | .ps => s.readPs (pg - pgPS 0) off
  | .mem => s.readMem off
  | .m => s.mReg (pg - pgM 0) off
  | .med => s.readMed off
  | .cc => s.readCc (pg - pgCC 0) off
  | .scl => s.readScl off
  | .int => s.readInt off
  | .let_ => s.readLet off
  | .trk => s.readTrk off
  | .ulz => s.reg 0 pgULZ off
  | .u => s.readU (pg - pgU 0) off

/-- The word that a function reads at an offset of BAR0: 0 at an unmapped offset (R32 code 0x06), and on a withdrawn page but for SPARE_MAP. -/
def State.readBar0 (s : State) (fn off : Nat) : Nat :=
  match s.pageAt fn off with
  | none => 0
  | some pg =>
    match pageKind pg with
    | none => 0
    | some k =>
      let o := off % 0x1000
      if !mapped fn k o || (s.svc.stage == 3 && !inRecovery k) then 0
      else if s.pageWithdrawn pg then (if o = 0x038 then s.spareMap k (instanceNum k pg) else 0)
      else if o < 0x100 then s.readHeader fn pg k o
      else s.readBlock fn pg k o

/-- A result slot as the host reads it (R27-R29): VALID, SEQ, the payload, and ACK, which reads 0. -/
def Slot.word (x : Slot) (off : Nat) : Nat :=
  if off = 0 then bitAt (decide (x.state = .full)) 0
  else if off = 4 then x.seq
  else if 8 ≤ off ∧ off < 0x38 then rdN x.payload (off - 8) 4
  else 0

/-- The word that a function reads at an offset of BAR2: a doorbell reads the last accepted value, then the result window, the MSI-X table and the pending bits (R24-R29). -/
def State.readBar2 (s : State) (fn off : Nat) : Nat :=
  let r := s.queueRange fn
  if off < r.2 * 8 then (let x := s.queue (r.1 + off / 8); if off % 8 < 4 then x.sqTail else x.cqHead)
  else if 0x100000 ≤ off ∧ off < 0x100000 + r.2 * 64 then (Tab.get ({} : Slot) s.slots (r.1 + (off - 0x100000) / 64)).word (off % 64)
  else if 0x200000 ≤ off ∧ off < 0x200000 + vectorsOf fn * 16 then
    let e : Vec := Tab.get {} s.vecs (fn * 2048 + (off - 0x200000) / 16)
    pick (off % 16) [(0, lo32 e.addr), (4, hi32 e.addr), (8, e.data), (12, bitAt e.masked 0)]
  else if 0x280000 ≤ off ∧ off < 0x280000 + vectorsOf fn / 8 then
    bitMap 32 (fun b => (Tab.get ({} : Vec) s.vecs (fn * 2048 + (off - 0x280000) * 8 + b)).pend)
  else 0

/-- The bytes of a host read of BAR0 or BAR2: the addressed bytes of the words that contain them (R32 code 0x05). -/
def State.readBytes (s : State) (fn : Nat) (space : Space) (off size : Nat) : List Byte :=
  (List.range size).map (fun k =>
    let a := off + k
    let w := match space with | .bar2 => s.readBar2 fn (a / 4 * 4) | _ => s.readBar0 fn (a / 4 * 4)
    BitVec.ofNat 8 (w / 2 ^ (8 * (a % 4))))

/-- A host read of a register: it has no effect but the violation of a size or alignment that R32 code 0x05 does not admit, and the latch of CLK_TIME_HI (R328). While the function resets,
HIF_SERVICE_STATUS reads as it stands and other registers free values; where the function does not answer at all the completion is UR (R11, R31, R334; log entry 107).
The table of commands has no row for such a read, which changes nothing else (log entry 3). -/
def registerRead (fn : Nat) (space : Space) (off size : Nat) : Plan := fun s =>
  let inReset := (s.func fn).flr && !(s.func 0).d3hot && !s.pcie.coreFailed
  if s.answers fn || (inReset && space == .bar0 && off == 0x108) then
    Plan.seq [
      (if (size = 4 ∨ size = 8) ∧ off % size = 0 then Plan.skip else violation fn 0x05 0),
      Plan.look (fun s1 => if fn = 0 ∧ space = .bar0 ∧ off / 4 * 4 ≤ pgCLK * 0x1000 + 0x108 ∧ pgCLK * 0x1000 + 0x108 < off + size then
        Plan.act (.svc { s1.svc with timeHi := s1.ticks / 2 ^ 32 % 2 ^ 32 }) else Plan.skip),
      answerRead (s.readBytes fn space off size) false false] s
  else if inReset then withFree (fun f => answerRead (leBytes size f) false false) s
  else answerRead (zeros size) false true s

/-! ## The flash as it reads (R342, R355, R363, R376) -/

/-- A block of the event area: its header of 16 bytes and its records; nothing where it is erased (R363). -/
def Recorder.blockBytes (r : Recorder) (blk : Nat) : List Byte :=
  match r.log.filter (fun l => l.blk == blk) with
  | [] => []
  | l :: ls => leBytes 4 0x4B4C5645 ++ leBytes 4 l.num ++ leBytes 4 l.cycle ++ zeros 4 ++ (l :: ls).flatMap (fun x => x.ev.bytes)

/-- The block that stands at a place of the 512 of the event area. -/
def Recorder.blockAt (r : Recorder) (place : Nat) : List Byte :=
  if place ≤ r.headBlk then r.blockBytes (r.headBlk - (r.headBlk - place) % 512) else []

/-- The byte at an offset of the flash: identity area, firmware and profile copies, reserve ledger, event area; an erased byte reads 0xFF. Of torn ledger entries only their number is kept. -/
def State.flashByte (s : State) (o : Nat) : Byte :=
  if o < 0x10000 then identityAt o
  else if o < 0x130000 then Tab.get 0xFF s.flash o
  else if o < 0x230000 then (((s.reserve.ledger[(o - 0x130000) / 32]?).map LedgerEntry.bytes).getD []).getD (o % 32) 0xFF
  else if o < 0x2230000 then (s.recorder.blockAt ((o - 0x230000) / 0x10000)).getD ((o - 0x230000) % 0x10000) 0xFF
  else Tab.get 0xFF s.flash o

end Sys2Proof.Machine
end

