-- ==== Sys2Proof/Safety.lean ====
section
/-! DEFINITION. What the claims speak of: the canonical form of every table of the state, and a device that serves commands. -/
namespace Sys2Proof.Machine

/-- Device memory is in its canonical form: addresses strictly rising, no entry equal to what an unlisted byte reads as. -/
def Memory.wf (m : Tab Byte) : Bool := Tab.wf 0 m

/-- Every table of the state is in its canonical form: keys strictly rising, no entry equal to what an unlisted key reads as. -/
structure State.Wf (s : State) : Prop where
  mem : Memory.wf s.mem = true
  localMem : Tab.wf 0 s.localMem = true
  poisoned : Tab.wf false s.poisoned = true
  badWords : Tab.wf false s.badWords = true
  regs : Tab.wf 0 s.regs = true
  funcs : Tab.wf ({} : Func) s.funcs = true
  queues : Tab.wf ({} : Queue) s.queues = true
  slots : Tab.wf ({} : Slot) s.slots = true
  vecs : Tab.wf ({} : Vec) s.vecs = true
  jobs : Tab.wf ({} : Job) s.jobs = true
  sems : Tab.wf ({} : Sem) s.sems = true
  modeUnits : Tab.wf ({} : ModeUnit) s.modeUnits = true
  modeChanges : Tab.wf ({} : ModeChange) s.modeChanges = true
  parts : Tab.wf ({} : Part) s.parts = true
  clusters : Tab.wf ({} : Cluster) s.clusters = true
  segs : Tab.wf ({} : Seg) s.segs = true
  claims : Tab.wf 0 s.claims = true
  lines : Tab.wf ({} : Line) s.lines = true
  plru : Tab.wf 0 s.plru = true
  evtSels : Tab.wf ({} : EvtSel) s.evtSels = true
  positions : Tab.wf ({} : MemPos) s.positions = true
  channels : Tab.wf ({} : Channel) s.channels = true
  ports : Tab.wf ({} : Port) s.ports = true
  sessions : Tab.wf ({} : Session) s.sessions = true
  groups : Tab.wf ({} : Group) s.groups = true
  vocabs : Tab.wf ({} : Bound) s.vocabs = true
  grammars : Tab.wf ({} : Bound) s.grammars = true
  maskTags : Tab.wf [] s.maskTags = true
  bases : Tab.wf 0 s.bases = true
  pools : Tab.wf ({} : Pool) s.pools = true
  refs : Tab.wf 0 s.refs = true
  polWaits : Tab.wf 0 s.polWaits = true
  flash : Tab.wf 0xFF s.flash = true
  streams : Tab.wf ({} : StreamCtx) s.streams = true
  cores : Tab.wf ({} : Core) s.cores = true
  intakes : Tab.wf ({} : IntCtx) s.intakes = true
  regGroups : Tab.wf ({} : RegGroup) s.regGroups = true
  outRings : Tab.wf ({} : OutRing) s.outRings = true
  tracks : Tab.wf ({} : TrkStream) s.tracks = true

/-! ## Frames -/

/-- The fields of the state that commands change: all but the queue of waiting commands. -/
inductive Field
  | fresh | ticks | hostRead | mem | localMem | poisoned | badWords | regs | funcs | queues | slots | vecs | pcie | mbx | jobs | nextJob | entries | starts | sems | modeUnits | modeChanges | parts | ruling | unitMove | clusters | segs | claims | lines | plru | retries | recorder | evtSels | reserve | gddr | positions | channels | ports | xfers | colls | nextTag | sessions | groups | vocabs | grammars | maskTags | bases | pools | refs | polWaits | svc | tap | flash | streams | medQueue | medNext | cores | intakes | regGroups | outRings | tracks
  deriving DecidableEq, Repr

/-- Two states agree in a field. -/
def Field.same (s t : State) : Field → Prop
  | .fresh => s.fresh = t.fresh
  | .ticks => s.ticks = t.ticks
  | .hostRead => s.hostRead = t.hostRead
  | .mem => s.mem = t.mem
  | .localMem => s.localMem = t.localMem
  | .poisoned => s.poisoned = t.poisoned
  | .badWords => s.badWords = t.badWords
  | .regs => s.regs = t.regs
  | .funcs => s.funcs = t.funcs
  | .queues => s.queues = t.queues
  | .slots => s.slots = t.slots
  | .vecs => s.vecs = t.vecs
  | .pcie => s.pcie = t.pcie
  | .mbx => s.mbx = t.mbx
  | .jobs => s.jobs = t.jobs
  | .nextJob => s.nextJob = t.nextJob
  | .entries => s.entries = t.entries
  | .starts => s.starts = t.starts
  | .sems => s.sems = t.sems
  | .modeUnits => s.modeUnits = t.modeUnits
  | .modeChanges => s.modeChanges = t.modeChanges
  | .parts => s.parts = t.parts
  | .ruling => s.ruling = t.ruling
  | .unitMove => s.unitMove = t.unitMove
  | .clusters => s.clusters = t.clusters
  | .segs => s.segs = t.segs
  | .claims => s.claims = t.claims
  | .lines => s.lines = t.lines
  | .plru => s.plru = t.plru
  | .retries => s.retries = t.retries
  | .recorder => s.recorder = t.recorder
  | .evtSels => s.evtSels = t.evtSels
  | .reserve => s.reserve = t.reserve
  | .gddr => s.gddr = t.gddr
  | .positions => s.positions = t.positions
  | .channels => s.channels = t.channels
  | .ports => s.ports = t.ports
  | .xfers => s.xfers = t.xfers
  | .colls => s.colls = t.colls
  | .nextTag => s.nextTag = t.nextTag
  | .sessions => s.sessions = t.sessions
  | .groups => s.groups = t.groups
  | .vocabs => s.vocabs = t.vocabs
  | .grammars => s.grammars = t.grammars
  | .maskTags => s.maskTags = t.maskTags
  | .bases => s.bases = t.bases
  | .pools => s.pools = t.pools
  | .refs => s.refs = t.refs
  | .polWaits => s.polWaits = t.polWaits
  | .svc => s.svc = t.svc
  | .tap => s.tap = t.tap
  | .flash => s.flash = t.flash
  | .streams => s.streams = t.streams
  | .medQueue => s.medQueue = t.medQueue
  | .medNext => s.medNext = t.medNext
  | .cores => s.cores = t.cores
  | .intakes => s.intakes = t.intakes
  | .regGroups => s.regGroups = t.regGroups
  | .outRings => s.outRings = t.outRings
  | .tracks => s.tracks = t.tracks

/-- The second state is the first in every field but those listed, and in the queue of waiting commands. -/
def State.SameBut (F : List Field) (s t : State) : Prop := t.pending = s.pending ∧ ∀ f, f ∉ F → Field.same t s f


/-! ## What the shared operations of a command can change -/

/-- The fields that the report of an error or an event can change. -/
def reportFields : List Field := [.regs, .vecs, .recorder]

/-- The fields that an access to GDDR6 can change, through the cache or not: what it stores, the requests in the channels, a debit, and what a detection reports. -/
def gddrFields : List Field := [.mem, .poisoned, .lines, .plru, .regs, .vecs, .recorder, .reserve, .channels, .parts, .badWords]

/-- The fields that the release of a reference can change. -/
def refFields : List Field := [.refs, .pools] ++ gddrFields

/-- The fields that a completion can change. -/
def postFields : List Field := [.queues, .vecs, .mem]

/-- The fields that the kill of a job can change. -/
def killFields : List Field :=
  [.jobs, .sems, .segs, .sessions, .groups, .streams, .medQueue, .cores, .intakes, .clusters, .localMem] ++ refFields

/-- The fields that the end of a job can change. -/
def finishFields : List Field := [.queues, .slots, .claims] ++ killFields

/-- The fields that the release of a killed job can change. -/
def releaseFields : List Field := [.retries, .xfers, .colls] ++ finishFields

/-! ## Runs -/

/-- `n` steps, each answering a next state. -/
def runSteps : Nat → State → Option State
  | 0, s => some s
  | n + 1, s => match step s with
    | .next t => runSteps n t
    | _ => none

/-- Commands that reach a halted device: a cold reset, a dip of a supply rail, and the TAP's (R330, R394). -/
def servesHalted : Instr → Bool
  | .coldReset .. => true
  | .railDip => true
  | .tapReset => true
  | .tapExtest .. => true
  | .tapIdcode => true
  | .samplePreload .. => true
  | .tapHighz .. => true
  | .tapClamp .. => true
  | .extestPulse .. => true
  | .extestTrain .. => true
  | .tapBypass => true
  | .thermalSample .. => true
  | _ => false

/-! ## Host accesses, vectors and the mailbox -/

/-- A device that serves commands, and whose function answers host accesses (R31, R334, R335, R379). -/
structure State.Open (s : State) (fn : Nat) : Prop where
  serves : s.svc.halted = false
  answers : s.answers fn = true
  notRecovery : s.svc.stage ≠ 3

/-- One message of a vector, or its pending bit where the vector is masked (R25, R26). -/
def State.signalled (s : State) (fn v : Nat) : State := (sendVec fn v).run s

/-- A violation of a function is reported: its count, the last violation, and the record of an event (R32). -/
structure State.Violated (s t : State) (fn code queue : Nat) : Prop where
  count : t.reg fn pgHIF 0x118 = satAdd 0xFFFFFFFF (s.reg fn pgHIF 0x118) 1
  last : t.reg fn pgHIF 0x11C = queue % 4096 * 2 ^ 12 + code
  logged : t.recorder = (Plan.run (event { cls := 1, code := code, part := (s.partOf fn).getD 0, charged := (s.partOf fn).isSome, fn := fn, page := pgHIF,
                                           detail := leBytes 2 queue }) s).recorder

/-- The state in which a packet that runs nothing completes: its violation reported and its slowdown entry written (R20, R28, R276). -/
def State.beforeCompletion (s : State) (id status : Nat) (viol : Option Nat) : State :=
  (slowdownEntry id status).run (match viol with | some v => (violation (s.job id).fn v (s.queueLocal (s.job id).queue)).run s | none => s)

/-- The mailbox takes commands: the PF answers, no operation runs, and GDDR6 is not frozen (R30, R306). -/
structure State.TakesMbx (s : State) : Prop where
  isOpen : s.Open 0
  idle : s.mbx.state ≠ .busy
  notFrozen : s.gddr.frozen = false

/-- The mailbox once it has taken a command: BUSY, the arguments latched (R30). -/
def State.mbxTaken (s : State) (code tag : Nat) : Mailbox := { s.mbx with state := .busy, cmd := code, tag := tag % 256, latched := s.mbx.args, percent := 0 }

/-- The mailbox at the end of an operation: DONE with a result and eight response words (R30). -/
def Mailbox.ended (m : Mailbox) (result : Nat) (rsps : List Nat) : Mailbox := { m with state := .done, result := result, rsps := words8 rsps, percent := 0 }

/-- A mailbox command carried out whole: DONE with its result, and vector 0 of the PF. -/
def State.mbxAnswered (s : State) (code tag result : Nat) (rsps : List Nat) : State :=
  State.signalled { s with mbx := (s.mbxTaken code tag).ended result rsps } 0 0

/-- An operation of the mailbox that ends: DONE with its result, and vector 0 of the PF. -/
def State.mbxFinished (s : State) (result : Nat) (rsps : List Nat) : State := State.signalled { s with mbx := s.mbx.ended result rsps } 0 0

/-- The device address that two argument words of the mailbox give: the low word, and 16 bits above it (R30). -/
def State.mbxAddr (s : State) (k : Nat) : Nat := s.mbx.args.getD k 0 + fld (s.mbx.args.getD (k + 1) 0) 15 0 * 2 ^ 32

/-- Writes of SVC_MBX_CMD with a code of R30. -/
def isMbxCommand : Instr → Bool
  | .mbxIdentity _ => true
  | .mbxEventSummary _ => true
  | .attestSign _ => true
  | .attestRead _ => true
  | .attestCert _ => true
  | .mbxDumpRead _ => true
  | .mbxSpareIn _ => true
  | .mbxGddr6Retrain _ => true
  | .mbxProfileCommit _ => true
  | .mbxFlashWrite _ => true
  | .mbxEventClear _ => true
  | .mbxAttestKeyRoll .. => true
  | _ => false

/-! ## An operation that nothing hinders -/

/-- A device whose memory reads are plain: no segment serves as a cache, no GDDR6 block is POISONED, no plate word has bad parity, GDDR6 answers, and no line is poisoned (R143, R149, R292). -/
structure State.Plain (s : State) : Prop where
  noCache : s.cacheSegs = []
  noPoison : s.poisoned = []
  noLines : s.lines = []
  noBad : s.badWords = []
  answers : s.gddr.frozen = false

/-- A device memory range is open to a read of a stroke of the job (R139, R401). -/
def State.Readable (s : State) (id : Nat) (host : Bool) (r : Nat × Nat) : Prop := s.judge (s.job id).part host r.1 r.2 = .ok

/-- A range is open to a write of a stroke of the job: permitted (R139, R401), in no area of the lettering engine or of the buffer pools (R171, R187, R282),
and, in plate scratch, claimed by no other job (R151). -/
structure State.Writable (s : State) (id : Nat) (host : Bool) (w : Nat × List Byte) : Prop where
  open_ : s.judge (s.job id).part host w.1 w.2.length = .ok
  own : s.foreign ((s.job id).fn == 0) w.1 w.2.length = none
  unclaimed : s.claimedByOther id w.1 w.2.length = false

/-- The claims once a job has written a range: in plate scratch, every 64 KiB block it touches that had no claim is the job's (R151). -/
def State.claimsFor (s : State) (id a n : Nat) : Tab Nat :=
  if regionOf a n = .plate then ((claimBlocks id a n).run s).claims else s.claims

/-- A write of a job made visible: its bytes are stored, and the blocks of plate scratch it touches are claimed. -/
def State.storeFor (s : State) (id : Nat) (w : Nat × List Byte) : State :=
  if w.2 = [] then s else { s with mem := Tab.putList 0 s.mem w.1 w.2, claims := s.claimsFor id w.1 w.2.length }

/-- The writes of a job made visible, in order. -/
def State.storeAll (s : State) (id : Nat) : List (Nat × List Byte) → State
  | [] => s
  | w :: ws => State.storeAll (s.storeFor id w) id ws

/-- The stroke of a job marked as one whose operation has been carried out, or, where the operation stays in its unit, has begun. -/
def State.marked (s : State) (stays : Bool) (id i : Nat) : State :=
  let j := s.job id
  { s with jobs := Tab.put {} s.jobs id { j with
      strokes := j.strokes.modify i (fun t => if stays then { t with begun := true } else { t with ran := true }), changed := s.ticks } }

/-- The local memory of the stroke's cluster as its working space, and the requests of its accesses in the queues of the GDDR6 channels (R47, R84, R105, R297). -/
def State.began (s : State) (id i : Nat) (o : OpOut) : State :=
  let t := (s.job id).stroke i
  let s1 := match t.place with
    | some pl => if pl.localShare = [] then s else (workSpace pl (t.cls == 0x01 && t.op == 0x20)).run s
    | none => s
  (requestAll { cls := memClass t.cls t.op } o.reads (o.writes ++ o.also)).run s1

/-- An operation carried out whole: its accesses requested, its writes made visible, its further effects, and the stroke marked. -/
def State.carried (s : State) (stays : Bool) (id i : Nat) (o : OpOut) : State :=
  State.marked (o.more.run ((s.began id i o).storeAll id o.writes)) stays id i

/-- The memory once a save frame has been written: the sequencer state at its start and the tiles from 4 KiB on, where the frame lies in GDDR6 (R49). -/
def State.framed (s : State) (a : Nat) (seq acc : List Byte) : Tab Byte :=
  if regionOf a 0x101000 = .gddr then Tab.putList 0 (Tab.putList 0 s.mem a seq) (a + 0x1000) acc else s.mem

/-- Nothing hinders an outcome of a stroke: its placement checks pass, memory is plain, its reads and writes are open to it, no segment under burnish is written,
no injection armed on its cluster fires, and no bandwidth regulator is set against its partition (R74, R83, R139, R152, R272). -/
structure State.Admits (s : State) (id i : Nat) (o : OpOut) : Prop where
  passes : o.check = none
  plain : s.Plain
  reads : ∀ r ∈ o.reads, s.Readable id o.host r
  writes : ∀ w ∈ o.writes, s.Writable id o.host w
  alsoServed : s.retryOf (s.job id).part o.host (o.also.map (fun w => (w.1, w.2.length))) = none
  noBurnish : s.burnishOf (o.writes ++ o.also) = none
  noInjection : ((s.job id).stroke i).place.bind (fun pl => s.firesOn pl o.paths) = none
  unregulated : (s.part (s.job id).part).measure = true ∨ ((s.part (s.job id).part).gddr.rate = 0 ∧ (s.part (s.job id).part).plate.rate = 0)

/-- Nothing hinders an operation: the device serves, the stroke runs it and waits for no segment, and its outcome is admitted. -/
structure State.Unhindered (s : State) (cls op id i : Nat) (f : State → Job → Stroke → OpOut) : Prop where
  wf : s.Wf
  serves : s.svc.halted = false
  runnable : s.runnable id i cls op = true
  noRetry : s.hasRetry id i = false
  admits : s.Admits id i (f s (s.job id) ((s.job id).stroke i))

/-- The accesses that a unit makes for a stroke after the stroke's command go through: the stroke's job runs, memory is plain, its writes and its reads that are not empty are open to the job,
no segment under burnish is written, and the partition's bandwidth regulators do not hold them; those of a core in panic are never held (R139, R152, R155, R273, R300). -/
structure State.Granted (s : State) (id : Nat) (src : MemSrc) (reads : List (Nat × Nat)) (writes : List (Nat × List Byte)) : Prop where
  running : (s.job id).phase = .running
  alive : (s.job id).killed = none
  plain : s.Plain
  reads_open : ∀ r ∈ reads, s.Readable id false r ∨ r.2 = 0 ∧ ∀ g, s.judge (s.job id).part false r.1 r.2 ≠ .retry g
  writes_open : ∀ w ∈ writes, s.Writable id false w
  noBurnish : s.burnishOf writes = none
  notHeld : s.inPanic src = true ∨ s.held (s.job id).part (reads ++ writes.map (fun w => (w.1, w.2.length))) = false

/-- The accesses that a unit makes for a partition and no job go through: no segment answers one with a retry, no segment under burnish is written, and the partition's bandwidth regulators do not
hold them (R152, R155, R272, R273). -/
structure State.PartGranted (s : State) (p : Nat) (reads : List (Nat × Nat)) (writes : List (Nat × List Byte)) : Prop where
  noRetry : s.retryOf p false (reads ++ writes.map (fun w => (w.1, w.2.length))) = none
  noBurnish : s.burnishOf writes = none
  notHeld : s.held p (reads ++ writes.map (fun w => (w.1, w.2.length))) = false

/-- A pass has issued on a cluster or in its right half: the array is busy with it from its issue cycle on, its tile is active and the next one's, or the old one, in the other register set, and the
cluster's counters have counted it, its cycles, its stall and its gated columns (R64-R68). -/
structure State.Issued (s t : State) (n : Nat) (right : Bool) (ncol wAt aAt gated : Nat) (x : PassIn) (next : Option Stationary) : Prop where
  array : t.cluster n =
    (let c := s.cluster n
     let r := if x.wide then 2 else 1
     let y := issueCycle (if right then c.issueR else c.issueL) (if right then c.rowsR else c.rowsL) wAt aAt (128 * r)
     let tiles : ArrayTiles := { active := x.tile, shadow := next.getD (if right then c.tilesR else c.tilesL).active }
     if right then { c with issueR := y.1, rowsR := r * x.rows, tilesR := tiles } else { c with issueL := y.1, rowsL := r * x.rows, tilesL := tiles })
  passes : t.reg 0 (pgBC n) 0x10C = (s.reg 0 (pgBC n) 0x10C + 1) % 2 ^ 32
  cycles : t.reg 0 (pgBC n) 0x110 = (s.reg 0 (pgBC n) 0x110 + (if x.wide then 2 else 1) * x.rows) % 2 ^ 32
  stall : t.reg 0 (pgBC n) 0x114 = (s.reg 0 (pgBC n) 0x114 + (issueCycle (if right then (s.cluster n).issueR else (s.cluster n).issueL)
    (if right then (s.cluster n).rowsR else (s.cluster n).rowsL) wAt aAt (128 * (if x.wide then 2 else 1))).2) % 2 ^ 32
  gated : t.reg 0 (pgBC n) 0x118 = (s.reg 0 (pgBC n) 0x118 + (if x.wide then 2 else 1) * (x.finite * x.tile.gatedCols ncol + gated)) % 2 ^ 32

/-- `k` more events of a SPARE_THRESH metric on a unit do not reach its threshold (R371). -/
def State.calm (s : State) (kind metric n k : Nat) : Prop :=
  ∀ t ∈ s.reserve.thresh, t.1 = kind → t.2.1 = metric →
    t.2.2.2 = 0 ∨ (Tab.get [] s.reserve.counts (metric * 2 ^ 16 + kind * 2 ^ 8 + s.physOf kind n)).length + k < t.2.2.2

/-! ## Values -/

/-- Two values are the same: both NaN, or infinities of one sign, or equal numbers of one sign. -/
def FVal.equals : FVal → FVal → Bool
  | .nan, .nan => true
  | .inf a, .inf b => a == b
  | .fin n1 m1 e1, .fin n2 m2 e2 => n1 == n2 && FVal.eqNum (.fin n1 m1 e1) (.fin n2 m2 e2)
  | _, _ => false

/-! ## The operations of the data units: command, OP and what it computes -/

/-- The elementwise operations of the hatch unit, with hatch.fill and hatch.iota (R110). -/
def hatchElementwiseOps : List ((Nat → Nat → Instr) × Nat × (HatchIn → HatchOut)) := [
  (.hatchAdd, 0x01, hatchAdd), (.hatchSub, 0x02, hatchSub), (.hatchMul, 0x03, hatchMul), (.hatchAxpby, 0x04, hatchAxpby),
  (.hatchMax, 0x05, hatchMax), (.hatchMin, 0x06, hatchMin), (.hatchAffine, 0x07, hatchAffine), (.hatchCast, 0x08, hatchCast),
  (.hatchClamp, 0x09, hatchClamp), (.hatchFill, 0x0A, hatchFill), (.hatchIota, 0x0B, hatchIota), (.hatchRelu, 0x10, hatchRelu),
  (.hatchGelu, 0x11, hatchGelu), (.hatchSilu, 0x12, hatchSilu), (.hatchSigmoid, 0x13, hatchSigmoid), (.hatchTanh, 0x14, hatchTanh),
  (.hatchExp, 0x15, hatchExp), (.hatchLog, 0x16, hatchLog), (.hatchSqrt, 0x17, hatchSqrt), (.hatchRsqrt, 0x18, hatchRsqrt),
  (.hatchRecip, 0x19, hatchRecip), (.hatchActBwd, 0x1A, hatchActBwd)]

/-- The operations of the hatch unit along an axis: reductions, softmax and norms, and their gradients (R110, R111). -/
def hatchRowOps : List ((Nat → Nat → Instr) × Nat × (HatchIn → HatchOut)) := [
  (.hatchSum, 0x20, hatchSum), (.hatchRowmax, 0x21, hatchRowmax), (.hatchArgmax, 0x22, hatchArgmax), (.hatchSoftmax, 0x23, hatchSoftmax),
  (.hatchLogsoftmax, 0x24, hatchLogsoftmax), (.hatchLayernorm, 0x25, hatchLayernorm), (.hatchRmsnorm, 0x26, hatchRmsnorm), (.hatchNormBwd, 0x27, hatchNormBwd),
  (.hatchSoftmaxBwd, 0x28, hatchSoftmaxBwd)]

/-- Selection, loss, detection, optimiser, random and index operations of the hatch unit (R110, R112-R115). -/
def hatchOtherOps : List ((Nat → Nat → Instr) × Nat × (HatchIn → HatchOut)) := [
  (.hatchTopk, 0x29, hatchTopk), (.hatchXent, 0x2A, hatchXent), (.hatchIou, 0x30, hatchIou), (.hatchCosine, 0x31, hatchCosine),
  (.hatchNms, 0x32, hatchNms), (.hatchAssoc, 0x33, hatchAssoc), (.hatchSgdm, 0x38, hatchSgdm), (.hatchAdamw, 0x39, hatchAdamw),
  (.hatchSumsq, 0x3A, hatchSumsq), (.hatchPhilox, 0x3C, hatchPhilox), (.hatchDropout, 0x3D, hatchDropout), (.hatchGather, 0x40, hatchGather),
  (.hatchScatterAdd, 0x41, hatchScatterAdd)]

/-- An operation of a data unit: its command, CLASS, OP and what it comes to. -/
structure UnitOp where
  cmd : Nat → Nat → Instr
  cls : Nat
  op : Nat
  out : State → Job → Stroke → OpOut

/-- The operations of the matrix array and of the attention path for a job: the first pass issues from cycle `now` on, and the output rows of mm.pass land from accumulator row
`accRow` on (R57, R79, R91, R128, R131, R134). -/
def arrayOps (id idx now accRow : Nat) : List UnitOp := [
  ⟨fun id i => .mmGemm id i now, 0x01, 0x01, gemmOp id idx now⟩, ⟨fun id i => .mmConv id i now, 0x01, 0x02, convOp id idx now⟩,
  ⟨fun id i => .mmPass id i now accRow, 0x01, 0x20, passOp id idx now accRow⟩,
  ⟨.attnFwd, 0x02, 0x01, fwdOp⟩, ⟨.attnBwd, 0x02, 0x02, bwdOp⟩, ⟨.attnKvwrite, 0x02, 0x03, kvwriteOp⟩]

/-- The operations of the hatch unit as operations of a data unit. -/
def hatchOps : List UnitOp := (hatchElementwiseOps ++ hatchRowOps ++ hatchOtherOps).map (fun x => ⟨x.1, 0x03, x.2.1, hatchOp x.2.1 x.2.2⟩)

/-- The operations of the move engine that copy, fill and convert, where every host read succeeds (R103, R158). -/
def moveOps : List UnitOp := [
  ⟨.moveCopy, 0x04, 0x01, copyOp⟩, ⟨(fun id i => .moveLinear id i .ok), 0x04, 0x02, linearOp⟩, ⟨.moveFill, 0x04, 0x03, fillOp⟩, ⟨.moveRequant, 0x04, 0x20, requantOp⟩]

/-- The operations of the move engine on the cache lines of a range (R158). -/
def cacheOps : List ((Nat → Nat → Instr) × Nat × (List Nat → Plan)) := [
  (.movePrefetch, 0x08, prefetchLines), (.moveFlush, 0x09, flushLines), (.moveEvict, 0x0A, evictLines)]

end Sys2Proof.Machine
end

