-- ==== Sys2Proof/Certificates/Slice0/Obligations.lean ====
section
/-! DEFINITION. The statements for the provers, in the order of the spec's chapters. -/
open Sys2Proof Sys2Proof.Machine

/-! ## The block as a machine -/

/-- A step runs the command at the front of the queue, with the rest of the queue: exec of that command is the step's answer. With no command waiting the block idles:
the step answers the state it has. Both are the model's choice for a block (log entry 1). -/
def Obligations.StepRunsFrontCommand : Prop :=
  (∀ (c : Instr) (rest : List Instr) (s : State), s.pending = c :: rest → step s = exec c { s with pending := rest }) ∧
  (∀ s : State, s.pending = [] → step s = .next s)

/-- Every command completes in every state: exec answers a next state, and no command touches the queue of those that wait.
Where the spec leaves it open the statement follows the model's choices of log entries 18 (a command whose occasion does not exist has no effect), 26, 41. -/
def Obligations.EveryCommandCompletes : Prop := ∀ (c : Instr) (s : State), ∃ t, exec c s = .next t ∧ t.pending = s.pending

/-- The waiting commands are served first in, first out, and the queue runs empty: `n` steps take exactly the first `n` commands off it.
Where the spec leaves it open the statement follows the model's choices of log entries 1. -/
def Obligations.QueueServedInOrder : Prop :=
  ∀ (n : Nat) (s : State), n ≤ s.pending.length → ∃ t, runSteps n s = some t ∧ t.pending = s.pending.drop n

/-- Every step keeps every table of the state in its canonical form: keys strictly rising, no entry equal to what an unlisted key reads as.
Where the spec leaves it open the statement follows the model's choices of log entries 5 (the canonical form of the memory), 1. -/
def Obligations.StepKeepsCanonicalForm : Prop := ∀ s t : State, s.Wf → step s = .next t → t.Wf

/-- The canonical form holds right after reset.
Where the spec leaves it open the statement follows the model's choices of log entries 5. -/
def Obligations.ResetCanonical : Prop := State.reset.Wf

/-- R329, R340, R379: a device that has halted (references lost, or shut down) does nothing for any command but a cold reset, the TAP's, a supply rail's dip, and a sample of the sensors
while the boot ROM waits for them; a sample does nothing where no boot waits.
Where the spec leaves it open the statement follows the model's choices of log entries 18, 73, 131. -/
def Obligations.HaltedDeviceDoesNothing : Prop :=
  (∀ (c : Instr) (s : State), s.svc.halted = true → servesHalted c = false → exec c s = .next s) ∧
  (∀ (readings : List Nat) (estimate : Nat) (s : State), s.svc.halted = true → s.svc.bootWait = none → exec (.thermalSample readings estimate) s = .next s)


/-! ## Packets and queues -/

/-- R17, R32 code 0x0C: a fetch takes the 64 bytes at SQ_HEAD as the next job of the queue, and SQ_HEAD advances by one, modulo the ring; a fetch that failed once is made again. On a second failed
fetch the queue goes to ERROR with FETCH_FAIL; no other queue changes, and nothing but queues, vectors, the violation's registers and the recorder does.
Where the spec leaves it open the statement follows the model's choices of log entries 88 (numbers of jobs), 94. -/
def Obligations.PacketFetch : Prop :=
  ∀ (q : Nat) (s : State), s.Wf → s.svc.halted = false → s.canFetch q = true →
    (let x := s.queue q
     let fn := s.queueFn q
     let p := (s.queuePart q).getD 0
     let t := { s with
       jobs := Tab.put {} s.jobs s.nextJob (Job.ofPacket (Tab.getList 0 s.mem (hostBase + x.sqBase + x.sqHead * 64) 64) fn q p s.ticks (s.func fn).ready (s.part p).maxPriority)
       nextJob := s.nextJob + 1
       queues := Tab.put {} s.queues q { x with sqHead := (x.sqHead + 1) % x.sqSize } }
     exec (.packetFetch q) s = .next t ∧ exec (.packetFetchFail q false) s = .next t) ∧
    ∃ t, exec (.packetFetchFail q true) s = .next t ∧
      t.queue q = { s.queue q with state := .error, err := if bit (s.queue q).err 3 then (s.queue q).err else (s.queue q).err + 2 ^ 3 } ∧
      (∀ r, r ≠ q → t.queue r = s.queue r) ∧ s.SameBut [.queues, .vecs, .regs, .recorder] t

/-- R19, R20, R21, R22, R28, R34, R276: a fetched RUN packet that nothing turns away goes on to the window, and one that asks for a result slot reserves it; one that breaks its layout, asks for more
chunks than the window has or for a slot that is not FREE, or was fetched out of service, completes with the status R22 lists first, after the violation of R20 or R28. A FENCE, once the
earlier jobs of its queue have completed, and a NOP complete with OK, or with NOT_READY where they were fetched out of service, and with REJECTED_FORMAT at once where RESULT_MODE is 3.
The completion entry is written at CQ_TAIL, after the slowdown entry, and the job is gone.
Where the spec leaves it open the statement follows the model's choices of log entries 7 (a full completion queue), 31, 94. -/
def Obligations.JobPackets : Prop :=
  (∀ (id : Nat) (s : State), s.svc.halted = false → (s.job id).phase = .fetched → (s.job id).killed = none → (s.job id).kind ≠ 2 → (s.job id).kind ≠ 3 →
    s.refusal (s.job id) = none →
    (let j := s.job id
     (j.resultMode ≠ 2 → exec (.jobRun id) s = .next { s with jobs := Tab.put {} s.jobs id { j with phase := .entering, slot := none } }) ∧
     (j.resultMode = 2 →
       exec (.jobRun id) s = .next { s with jobs := Tab.put {} s.jobs id { j with phase := .entering, slot := some (s.slotNamed j) },
                                            slots := Tab.put {} s.slots (s.slotNamed j) { Tab.get {} s.slots (s.slotNamed j) with state := .reserved } }))) ∧
  (∀ (id : Nat) (s : State), s.Wf → s.svc.halted = false → (s.job id).phase = .fetched → (s.job id).killed = none → (s.job id).silent = false →
    (s.queue (s.job id).queue).cqFull = false → (s.queue (s.job id).queue).held = [] →
    (let j := s.job id
     let x := s.queue j.queue
     let done (status : Nat) (viol : Option Nat) (t : State) : Prop :=
       let c : Cqe := { status := status, queue := s.queueLocal j.queue, tag := j.tag, ptr := 0, irqNow := j.irqNow }
       let u := s.beforeCompletion id status viol
       t.mem = Tab.putList 0 u.mem (hostBase + x.cqBase + x.cqTail * 16) (c.bytes x.phase) ∧ (t.job id).phase = .gone ∧
       (∀ v, viol = some v → t.reg j.fn pgHIF 0x118 = satAdd 0xFFFFFFFF (s.reg j.fn pgHIF 0x118) 1) ∧
       s.SameBut ([.queues, .jobs] ++ gddrFields) t
     (j.kind ≠ 2 → j.kind ≠ 3 → ∀ r, s.refusal j = some r → ∃ t, exec (.jobRun id) s = .next t ∧ done r.1 r.2 t) ∧
     (j.kind = 2 → j.resultMode = 3 → ∃ t, exec (.jobFence id) s = .next t ∧ done 0x20 (some 0x08) t) ∧
     (j.kind = 2 → j.resultMode ≠ 3 → s.earlierDone id = true → ∃ t, exec (.jobFence id) s = .next t ∧ done (if j.notReady then 0x60 else 0x00) none t) ∧
     (j.kind = 3 → j.resultMode = 3 → ∃ t, exec (.jobNop id) s = .next t ∧ done 0x20 (some 0x08) t) ∧
     (j.kind = 3 → j.resultMode ≠ 3 → (j.ordered = false ∨ s.earlierDone id = true) →
       ∃ t, exec (.jobNop id) s = .next t ∧ done (if j.notReady then 0x60 else 0x00) none t)))

/-- R18, R24: a tail or a head that the ring admits is taken; a queue that drains and has no job left shows DISABLED. Completions that wait on chip follow as far as the new head makes room:
the first of them lands at CQ_TAIL.
Where the spec leaves it open the statement follows the model's choices of log entries 7, 94 (a draining queue takes a head). -/
def Obligations.DoorbellsMoveRings : Prop :=
  (∀ (fn q v : Nat) (s : State), s.svc.halted = false → s.answers fn = true → q < (s.queueRange fn).2 →
    (s.queue ((s.queueRange fn).1 + q)).enable = true → v < (s.queue ((s.queueRange fn).1 + q)).sqSize → (s.queue ((s.queueRange fn).1 + q)).tailOk v = true →
    exec (.sqTailDoorbell fn q v) s = .next { s with queues := Tab.put {} s.queues ((s.queueRange fn).1 + q) { s.queue ((s.queueRange fn).1 + q) with sqTail := v } }) ∧
  (∀ (fn q v : Nat) (s : State), s.Wf → s.svc.halted = false → s.answers fn = true → q < (s.queueRange fn).2 →
    (let g := (s.queueRange fn).1 + q
     let x := s.queue g
     x.enable = true ∨ x.state = .draining → x.headOk v = true →
     (x.held = [] → exec (.cqHeadDoorbell fn q v) s = .next { s with
        queues := Tab.put {} s.queues g { x with cqHead := v, state := if x.state = .draining ∧ s.jobsOfQueue g = [] then .disabled else x.state } }) ∧
     (∀ c cs, x.held = c :: cs → { x with cqHead := v }.cqFull = false → ∃ t, exec (.cqHeadDoorbell fn q v) s = .next t ∧ (t.queue g).cqHead = v ∧
        (t.queue g).held.length < x.held.length ∧ Tab.getList 0 t.mem (hostBase + x.cqBase + x.cqTail * 16) 16 = c.bytes x.phase ∧ s.SameBut postFields t)))

/-- R24, R32 codes 0x01, 0x02, 0x03, 0x04: a doorbell that the ring does not admit leaves every index as it was and is a violation of the function: the count goes up by one,
the last violation names the queue and the code, and an event is recorded; the queue's error bit is set.
Where the spec leaves it open the statement follows the model's choices of log entries 36, 94. -/
def Obligations.BadDoorbellIsViolation : Prop :=
  ∀ (fn q v : Nat) (s : State), s.Wf → s.svc.halted = false → s.answers fn = true →
    (let g := (s.queueRange fn).1 + q
     let x := s.queue g
     let bad (b code : Nat) (t : State) : Prop :=
       t.queue g = { x with err := if bit x.err b then x.err else x.err + 2 ^ b } ∧ (∀ r, r ≠ g → t.queue r = s.queue r) ∧
       s.Violated t fn code q ∧ s.SameBut [.queues, .vecs, .regs, .recorder] t
     (q < (s.queueRange fn).2 → x.enable = true → x.sqSize ≤ v → ∃ t, exec (.sqTailDoorbell fn q v) s = .next t ∧ bad 0 0x01 t) ∧
     (q < (s.queueRange fn).2 → x.enable = true → v < x.sqSize → x.tailOk v = false → ∃ t, exec (.sqTailDoorbell fn q v) s = .next t ∧ bad 1 0x02 t) ∧
     (q < (s.queueRange fn).2 → (x.enable = true ∨ x.state = .draining) → x.headOk v = false → ∃ t, exec (.cqHeadDoorbell fn q v) s = .next t ∧ bad 2 0x03 t) ∧
     (((s.queueRange fn).2 ≤ q ∨ x.enable = false) → ∃ t, exec (.sqTailDoorbell fn q v) s = .next t ∧ t.queues = s.queues ∧ s.Violated t fn 0x04 q ∧ s.SameBut reportFields t) ∧
     (((s.queueRange fn).2 ≤ q ∨ (x.enable = false ∧ x.state ≠ .draining)) → ∃ t, exec (.cqHeadDoorbell fn q v) s = .next t ∧ t.queues = s.queues ∧ s.Violated t fn 0x04 q ∧
       s.SameBut reportFields t))

/-- R16, R18, R32 codes 0x0F and 0x10: enabling a queue whose configuration holds starts it with empty rings and PHASE 1; enabling one that is enabled, or whose configuration does not hold, is a
violation; disabling one with no job left shows DISABLED at once, or, where completions still wait on chip, once they are posted; disabling one with jobs ends each of them with DISCARDED: it is
gone, or, where units still hold it, killed with that status; disabling one that is not enabled takes the configuration fields.
Where the spec leaves it open the statement follows the model's choices of log entries 94. -/
def Obligations.QueueEnableAndDisable : Prop :=
  ∀ (fn v q : Nat) (s : State), s.Wf → s.svc.halted = false → s.answers fn = true → s.svc.stage ≠ 3 → s.selQueue fn = some q →
    ((s.queue q).enable = false → (s.queue q).state ≠ .draining →
      ((s.queue q).withCfg v).cfgOk fn (decide ((s.part ((s.queuePart q).getD 0)).state = .active)) = true →
      exec (.queueEnable fn v) s = .next { s with queues := Tab.put {} s.queues q { (s.queue q).withCfg v with
          enable := true, sqHead := 0, sqTail := 0, cqHead := 0, cqTail := 0, phase := true, state := .running, count := 0, timer := none, held := [], heldSince := none } }) ∧
    ((s.queue q).enable = true → ∃ t, exec (.queueEnable fn v) s = .next t ∧ t.queues = s.queues ∧ s.Violated t fn 0x0F (q - (s.queueRange fn).1) ∧ s.SameBut reportFields t) ∧
    ((s.queue q).enable = false → (s.queue q).state ≠ .draining →
      ((s.queue q).withCfg v).cfgOk fn (decide ((s.part ((s.queuePart q).getD 0)).state = .active)) = false →
      ∃ t, exec (.queueEnable fn v) s = .next t ∧ (t.queue q).enable = false ∧ bit (t.queue q).err 5 = true ∧ s.Violated t fn 0x10 (q - (s.queueRange fn).1) ∧
        s.SameBut (.queues :: reportFields) t) ∧
    ((s.queue q).enable = true → s.jobsOfQueue q = [] →
      ∃ t, exec (.queueDisable fn v) s = .next t ∧
        t.queue q = { s.queue q with enable := false, state := if (s.queue q).held = [] then .disabled else .draining } ∧
        (∀ r, r ≠ q → t.queue r = s.queue r) ∧ s.SameBut [.queues] t) ∧
    ((s.queue q).enable = true → ∃ t, exec (.queueDisable fn v) s = .next t ∧ (t.queue q).enable = false ∧
        (∀ id ∈ s.jobsOfQueue q, (t.job id).phase = .gone ∨ (t.job id).killed = some 0x10) ∧ s.SameBut releaseFields t) ∧
    ((s.queue q).enable = false → exec (.queueDisable fn v) s = .next { s with queues := Tab.put {} s.queues q ((s.queue q).withCfg v) })

/-! ## Interrupts, result slots, the BAR4 window -/

/-- R26, R29, R32 codes 0x06, 0x0A and 0x0E. COALESCE_TIMER_EXPIRY: a coalescing timer that has run out clears count and timer and sends the vector, or sets its pending bit where it is masked.
MSIX_VECTOR_UNMASK: the vector is no longer masked, and a pending one sends its message. RESULT_SLOT_ACK: a FULL slot acknowledged with its number is FREE; another value, or a slot that is not
FULL, is a violation, and leaves every slot as it was. CQ_FULL_WAIT_EXPIRY: a completion that has waited a second for CQ space is reported.
Where the spec leaves it open the statement follows the model's choices of log entries 3 (messages are counted), 4 (timers run out by their commands), 105 (the wait counts anew). -/
def Obligations.VectorsAndSlots : Prop :=
  (∀ (q t0 : Nat) (s : State), s.svc.halted = false → (s.queue q).timer = some t0 → (s.queue q).coalTime ≠ 0 → t0 + (s.queue q).coalTime ≤ s.ticks →
    (let k := s.queueFn q * 2048 + (s.queue q).vector
     let e := Tab.get {} s.vecs k
     exec (.coalesceTimerExpiry q) s = .next { s with
       queues := Tab.put {} s.queues q { s.queue q with count := 0, timer := none }
       vecs := if (s.queue q).vector = 0 ∧ (s.func (s.queueFn q)).resetting = true then s.vecs
         else Tab.put {} s.vecs k (if e.masked then { e with pend := true } else { e with sent := e.sent + 1 }) })) ∧
  (∀ (fn v : Nat) (s : State), s.svc.halted = false → s.answers fn = true → v < vectorsOf fn →
    exec (.msixVectorUnmask fn v) s = .next { s with
      vecs := Tab.put {} s.vecs (fn * 2048 + v)
        { Tab.get {} s.vecs (fn * 2048 + v) with
          masked := false, pend := false, sent := (Tab.get {} s.vecs (fn * 2048 + v)).sent + (if (Tab.get {} s.vecs (fn * 2048 + v)).pend then 1 else 0) } }) ∧
  (∀ (fn slot : Nat) (s : State), s.svc.halted = false → s.answers fn = true → slot < (s.queueRange fn).2 →
    (Tab.get {} s.slots ((s.queueRange fn).1 + slot)).state = .full →
    exec (.resultSlotAck fn slot (Tab.get {} s.slots ((s.queueRange fn).1 + slot)).seq) s = .next { s with
      slots := Tab.put {} s.slots ((s.queueRange fn).1 + slot) { Tab.get {} s.slots ((s.queueRange fn).1 + slot) with state := .free, payload := [] } }) ∧
  (∀ (fn slot v : Nat) (s : State), s.Wf → s.svc.halted = false → s.answers fn = true → slot < (s.queueRange fn).2 →
    ((Tab.get {} s.slots ((s.queueRange fn).1 + slot)).state ≠ .full ∨ v ≠ (Tab.get {} s.slots ((s.queueRange fn).1 + slot)).seq) →
    ∃ t, exec (.resultSlotAck fn slot v) s = .next t ∧ s.Violated t fn 0x0A 0 ∧ s.SameBut reportFields t) ∧
  (∀ (fn slot v : Nat) (s : State), s.Wf → s.svc.halted = false → s.answers fn = true → (s.queueRange fn).2 ≤ slot →
    ∃ t, exec (.resultSlotAck fn slot v) s = .next t ∧ s.Violated t fn 0x06 0 ∧ s.SameBut reportFields t) ∧
  (∀ (q t0 : Nat) (s : State), s.Wf → s.svc.halted = false → (s.queue q).heldSince = some t0 → t0 + 1000000 ≤ s.ticks →
    ∃ t, exec (.cqFullWaitExpiry q) s = .next t ∧ t.queue q = { s.queue q with heldSince := some s.ticks } ∧
      (∀ r, r ≠ q → t.queue r = s.queue r) ∧ s.Violated t (s.queueFn q) 0x0E (s.queueLocal q) ∧ s.SameBut [.queues, .vecs, .regs, .recorder] t)

/-- R14, R15, R294: the window takes a base that is a multiple of its size and lies wholly in one region, with the upper half last written; any other is a violation, and the base stays.
A read returns what the device holds there, marked poisoned where it meets a POISONED block, and UR beyond the window; a write stores its bytes, in plain GDDR6, in plate scratch that is ON and in
the local memory of a quiet cluster; one beyond the window is dropped. Accesses to GDDR6 pass its channels.
Where the spec leaves it open the statement follows the model's choices of log entries 3 (what a read returns), 8, 30 (the channels), 95. -/
def Obligations.Bar4Window : Prop :=
  (∀ (v : Nat) (s : State), s.svc.halted = false → s.answers 0 = true →
    (let base := v / 2 ^ 28 * 2 ^ 28 % 2 ^ 32 + (s.func 0).bar4HiStaged * 2 ^ 32
     (s.bar4Ok base = true → exec (.hifBar4BaseWrite v) s = .next { s with
        regs := Tab.put 0 (Tab.put 0 s.regs (regKey 0 pgHIF 0x110) (BitVec.ofNat 32 (base % 2 ^ 32))) (regKey 0 pgHIF 0x114) (BitVec.ofNat 32 (base / 2 ^ 32)) }) ∧
     (s.Wf → s.bar4Ok base = false → ∃ t, exec (.hifBar4BaseWrite v) s = .next t ∧ t.bar4Base = s.bar4Base ∧ s.Violated t 0 0x14 0 ∧ s.SameBut reportFields t))) ∧
  (∀ (off len : Nat) (s : State), s.svc.halted = false → s.answers 0 = true → len ≠ 0 →
    (let a := s.bar4Base + off
     let u (r : HostRead) : State := { s with hostRead := r }
     (s.bar4Size < off + len → exec (.bar4Read off len) s = .next (u { data := zeros len, unsupported := true })) ∧
     (off + len ≤ s.bar4Size →
      (regionOf a len = .gddr → s.Plain → s.svc.stage ≠ 3 →
        exec (.bar4Read off len) s = .next { (memRequests { cls := 7 } false a len).run s with hostRead := { data := s.bytesAt a len } }) ∧
      (regionOf a len = .gddr → s.cacheSegs = [] → s.gddr.frozen = false → s.svc.stage ≠ 3 → s.meetsPoison a len = true →
        ∃ t, exec (.bar4Read off len) s = .next t ∧ t.hostRead = { data := s.bytesAt a len, poisoned := true } ∧ t.pcie = { s.pcie with aerOther := true } ∧
          s.SameBut [.hostRead, .pcie, .regs, .vecs] t) ∧
      (regionOf a len = .plate → (segsOf a len).all (fun n => !s.bar4Refuses n && !s.segNotOn n) = true → s.badWords = [] →
        exec (.bar4Read off len) s = .next (u { data := s.bytesAt a len })) ∧
      (regionOf a len = .localMem → (a - localBase) / 0x400000 < 16 → (s.cluster ((a - localBase) / 0x400000)).withdrawn = false →
        exec (.bar4Read off len) s = .next (u { data := s.bytesAt a len }))))) ∧
  (∀ (off : Nat) (data : List Byte) (s : State), s.svc.halted = false → s.answers 0 = true → data ≠ [] →
    (let a := s.bar4Base + off
     let len := data.length
     (s.bar4Size < off + len → exec (.bar4Write off data) s = .next s) ∧
     (off + len ≤ s.bar4Size →
      (regionOf a len = .gddr → s.Plain → s.svc.stage ≠ 3 → s.foreign true a len = none →
        exec (.bar4Write off data) s = .next { (memRequests { cls := 7 } true a len).run s with mem := Tab.putList 0 s.mem a data }) ∧
      (regionOf a len = .plate → (segsOf a len).all (fun n => !s.bar4Refuses n && !s.segNotOn n) = true → s.badWords = [] → s.burnishOf [(a, data)] = none →
        exec (.bar4Write off data) s = .next { s with mem := Tab.putList 0 s.mem a data }) ∧
      (s.Wf → regionOf a len = .localMem → (a - localBase) / 0x400000 < 16 → (s.cluster ((a - localBase) / 0x400000)).withdrawn = false →
        (s.cluster ((a - localBase) / 0x400000)).quiet = true →
        ∃ t, exec (.bar4Write off data) s = .next t ∧ (∀ i, i < len → Tab.get 0 t.localMem (localKey (a + i)) = data.getD i 0) ∧
          (∀ k, (∀ i, i < len → k ≠ localKey (a + i)) → Tab.get 0 t.localMem k = Tab.get 0 s.localMem k) ∧ s.SameBut [.localMem] t))))

/-- R8, R32 codes 0x0B and 0x13: a poisoned TLP sets its AER status and counts as a violation; so does one whose ECRC fails, where the host has enabled the check in the function's AER, and without
that enable nothing happens. Memory, queues and jobs stay as they were.
Where the spec leaves it open the statement follows the model's choices of log entries 36, 85, 106. -/
def Obligations.BadTlpIsReported : Prop :=
  ∀ (fn : Nat) (s : State), s.Wf → s.svc.halted = false →
    (∃ t, exec (.poisonedTlpReceived fn) s = .next t ∧ t.pcie = { s.pcie with aerPoisoned := true } ∧ s.Violated t fn 0x0B 0 ∧ s.SameBut (.pcie :: reportFields) t) ∧
    ((s.func fn).ecrcCheck = true →
      ∃ t, exec (.ecrcFailTlp fn) s = .next t ∧ t.pcie = { s.pcie with aerEcrc := true } ∧ s.Violated t fn 0x13 0 ∧ s.SameBut (.pcie :: reportFields) t) ∧
    ((s.func fn).ecrcCheck = false → exec (.ecrcFailTlp fn) s = .next s)

/-! ## Registers -/

/-- R5, R6, R8, R11, R32 code 0x05, R328: a 4-byte write to a register of BAR0 that only holds a value sets exactly the bits of its mask, for every page and offset that the function's view shows,
and no other register changes; an access of another size, or off its alignment, is a violation. A write of Device Control, Device Control 2, Link Control or the AER capability takes the fields that
the spec names. A read of CLK_TIME_LO returns the low word of device time and latches the high word.
Where the spec leaves it open the statement follows the model's choices of log entries 28, 29, 62, 77, 106 (places of the configuration fields). -/
def Obligations.RegistersOfBar0 : Prop :=
  (∀ (fn off v pg mask : Nat) (k : PageKind) (s : State), s.svc.halted = false → fn < 9 → s.answers fn = true → s.svc.stage ≠ 3 → off % 4 = 0 →
    s.pageAt fn off = some pg → pageKind pg = some k → mapped fn k (off % 0x1000) = true → s.pageWithdrawn pg = false → 0x100 ≤ off % 0x1000 →
    plainMask k (off % 0x1000) = some mask → ¬ (fn ≠ 0 ∧ (k = .par ∨ (k = .pol ∧ off % 0x1000 = 0x114))) →
    exec (.registerWrite fn .bar0 off 4 v) s = .next { s with
      regs := Tab.put 0 s.regs (regKey fn pg (off % 0x1000)) (BitVec.ofNat 32 (Nat.land (v % 2 ^ 32) mask)) }) ∧
  (∀ (fn off size v : Nat) (sp : Space) (s : State), s.Wf → s.svc.halted = false → fn < 9 → s.answers fn = true → sp = .bar0 ∨ sp = .bar2 →
    ¬ (size = 4 ∧ off % 4 = 0) → ¬ (size = 8 ∧ off % 8 = 0) →
    ∃ t, exec (.registerWrite fn sp off size v) s = .next t ∧ s.Violated t fn 0x05 0 ∧ s.SameBut reportFields t) ∧
  (∀ (fn off size v : Nat) (s : State), s.svc.halted = false → fn < 9 → s.pcie.coreFailed = false →
    (let w (f : Func) : Host.Outcome State Fault Refusal := .next { s with funcs := Tab.put {} s.funcs fn f }
     exec (.registerWrite fn .devControl off size v) s = w { s.func fn with maxPayload := min 2 (fld v 7 5), maxRead := min 5 (fld v 14 12) } ∧
     exec (.registerWrite fn .devControl2 off size v) s = w { s.func fn with cplTimeout := fld v 3 0, tags10 := bit v 12 } ∧
     exec (.registerWrite fn .linkControl off size v) s = w { s.func fn with aspmL1 := bit v 1 } ∧
     exec (.registerWrite fn .aerControl off size v) s = w { s.func fn with ecrcGen := bit v 6, ecrcCheck := bit v 8 } ∧
     exec (.registerWrite fn .busMaster off size v) s = w { s.func fn with busMaster := bit v 0 })) ∧
  (∀ s : State, s.svc.halted = false → s.answers 0 = true →
    exec .clkTimeLoRead s = .next { s with hostRead := { data := leBytes 4 s.ticks }, svc := { s.svc with timeHi := s.ticks / 2 ^ 32 % 2 ^ 32 } })



/-! ## The mailbox -/

/-- R30, R307, R359, R368: IDENTITY, EVENT_SUMMARY and DUMP_READ are carried out at once: DONE with SUCCESS, the eight words of their answer, and vector 0 of the PF.
Where the spec leaves it open the statement follows the model's choices of log entries 3, 13, 38, 53. -/
def Obligations.MailboxReports : Prop :=
  ∀ (tag : Nat) (s : State), s.TakesMbx →
    exec (.mbxIdentity tag) s = .next (s.mbxAnswered 0x01 tag 0 (identityWords s)) ∧
    exec (.mbxEventSummary tag) s = .next (s.mbxAnswered 0x02 tag 0 (summaryWords s)) ∧
    (s.mbx.args.getD 0 0 % 32 = 0 → exec (.mbxDumpRead tag) s =
      .next (s.mbxAnswered 0x04 tag 0 ((List.range 8).map (fun k => rdN s.dumpNow (s.mbx.args.getD 0 0 + 4 * k) 4))))

/-- R356, R357, R368: SIGN with the preparation READY signs the report over the nonce of ARG1 to ARG7 and spends the next bottom leaf; READ returns eight words of the blob,
and CERT eight words of the identity area, at an offset that is a multiple of 32. The boot's preparation ends with every signature of its tree left; the SMBus answers the summary,
and an attestation request with a blob of its own.
Where the spec leaves it open the statement follows the model's choices of log entries 13 to 16. -/
def Obligations.AttestationAndSideBand : Prop :=
  (∀ (tag : Nat) (s : State), s.TakesMbx →
    (fld (s.mbx.args.getD 0 0) 7 0 = 1 → s.svc.fuseFailed = false → s.svc.attest = 1 → s.svc.sigsLeft ≠ 0 →
      exec (.attestSign tag) s = .next (State.mbxAnswered { s with
        svc := { s.svc with
          sigsLeft := s.svc.sigsLeft - 1, attest := if s.svc.sigsLeft = 1 then 2 else 1
          blob := blobBytes s (32768 - s.svc.sigsLeft) ((List.range 7).flatMap (fun k => leBytes 4 (s.mbx.args.getD (k + 1) 0))) } }
        0x03 tag 0 [5492, 32768 - s.svc.sigsLeft, s.svc.sigsLeft - 1])) ∧
    (fld (s.mbx.args.getD 0 0) 7 0 = 2 → fld (s.mbx.args.getD 0 0) 31 8 % 32 = 0 →
      exec (.attestRead tag) s = .next (s.mbxAnswered 0x03 tag 0 (attestRead s.svc.blob (fld (s.mbx.args.getD 0 0) 31 8)).rsps)) ∧
    (fld (s.mbx.args.getD 0 0) 7 0 = 3 → fld (s.mbx.args.getD 0 0) 31 8 % 32 = 0 →
      exec (.attestCert tag) s = .next (s.mbxAnswered 0x03 tag 0 (attestCert (fld (s.mbx.args.getD 0 0) 31 8)).rsps))) ∧
  (∀ (q : Nat) (s : State), s.svc.halted = false → s.svc.preparing = some q →
    exec .attestPreparationDone s = .next { s with svc := { s.svc with preparing := none, attest := 1, topLeaf := q, sigsLeft := 32768 } }) ∧
  (∀ s : State, s.svc.halted = false → exec .smbusEventSummary s = .next { s with svc := { s.svc with smbus := 0 :: summaryWords s } }) ∧
  (∀ (op off : Nat) (nonce : List Byte) (s : State), s.svc.halted = false →
    (let a := attestOp s op off nonce s.svc.smbusBlob
     exec (.smbusAttest op off nonce) s = .next { s with
       svc := { spendLeaf a s.svc with smbusBlob := a.signed.getD s.svc.smbusBlob, smbus := a.result :: words8 a.rsps } }))

/-- R302, R354, R349, R358, R369, R372: the long commands start: each takes the mailbox to BUSY, with what it has begun: a position in retraining, a staged object, a fuse blown,
the spare-in of a unit, or the clear of a part of the log.
Where the spec leaves it open the statement follows the model's choices of log entries 67, 69, 83, 84, 130. -/
def Obligations.LongMailboxCommandsStart : Prop :=
  ∀ (tag : Nat) (s : State), s.TakesMbx →
    (s.mbx.args.getD 0 0 < 8 → (s.pos (s.mbx.args.getD 0 0)).withdrawn = false →
      exec (.mbxGddr6Retrain tag) s = .next { s with
        mbx := s.mbxTaken 0x11 tag, svc := { s.svc with retrain := s.mbx.args.getD 0 0 }
        positions := Tab.put {} s.positions (s.mbx.args.getD 0 0) { s.pos (s.mbx.args.getD 0 0) with retraining := true } }) ∧
    (s.svc.fuseFailed = false → s.svc.steps < fuses →
      exec (.mbxAttestKeyRoll tag true) s = .next { s with mbx := s.mbxTaken 0x15 tag, svc := { s.svc with steps := s.svc.steps + 1 } }) ∧
    (let img := s.bytesAt (s.mbxAddr 0) (s.mbx.args.getD 2 0)
     s.mbx.args.getD 2 0 ≤ copySize → s.stagedOk true (s.mbxAddr 0) (s.mbx.args.getD 2 0) = true → profFormat img = true → profValid s.svc.owners img = true →
      (s.svc.profile = 0 ∨ s.svc.profileSeq < rdN img 8 8) → firstBadEntry s img = none →
      exec (.mbxProfileCommit tag) s = .next { s with mbx := s.mbxTaken 0x12 tag, svc := { s.svc with staged := img, stagedAt := s.spareCopy } }) ∧
    (let img := s.bytesAt (s.mbxAddr 1) (s.mbx.args.getD 3 0)
     s.mbx.args.getD 0 0 = 1 → s.mbx.args.getD 3 0 ≤ fwSize → s.stagedOk true (s.mbxAddr 1) (s.mbx.args.getD 3 0) = true → fwFault s.svc.minSvn img = 0 →
      exec (.mbxFlashWrite tag) s = .next { s with mbx := s.mbxTaken 0x13 tag, svc := { s.svc with staged := img, stagedAt := fwFlash } }) ∧
    (let tok := s.bytesAt (s.mbxAddr 0) (s.mbx.args.getD 2 0)
     s.stagedOk true (s.mbxAddr 0) (s.mbx.args.getD 2 0) = true → 32 ≤ s.mbx.args.getD 2 0 → s.mbx.args.getD 2 0 ≤ 0x10000 → rdN tok 0 4 = 0x52414C43 → rdN tok 4 2 = 1 →
      ownerSigned s.svc.owners tok 32 = true → rdN tok 8 8 = deviceIdNat → s.recorder.cleared < rdN tok 0x10 4 → rdN tok 0x10 4 < s.recorder.next →
      s.recorder.freezes = [] → s.recorder.opened = [] →
      exec (.mbxEventClear tag) s = .next { s with
        mbx := s.mbxTaken 0x14 tag, recorder := { s.recorder with clearing := some (rdN tok 0x10 4, (sigAt tok 32).signer) } }) ∧
    (let t : Trigger := { kind := fld (s.mbx.args.getD 0 0) 2 0, index := fld (s.mbx.args.getD 0 0) 15 8, cause := 6, retire := bit (s.mbx.args.getD 0 0) 16, byMailbox := true }
     t.kind < 3 → t.index < unitsOf t.kind → s.withdrawn t.kind t.index = false → s.hasSpare t.kind = true → s.svc.initialising = false →
      (Tab.get {} s.modeUnits (unitPage t.kind t.index)).pending = 0 → s.reserve.queue = [] → s.reserve.running = none →
      exec (.mbxSpareIn tag) s = .next { s with mbx := s.mbxTaken 0x10 tag, reserve := { s.reserve with running := some t, phase := 1 } })

/-- R32 codes 0x11 and 0x12: an unknown code ends at once with UNKNOWN_CMD and is a violation of the PF; while the mailbox is BUSY every command is dropped and counted, and nothing else changes.
Where the spec leaves it open the statement follows the model's choices of log entries 36. -/
def Obligations.DroppedMailboxCommands : Prop :=
  (∀ (code tag : Nat) (s : State), s.Wf → s.TakesMbx → code ∉ mbxCodes →
    ∃ t, exec (.mbxUnknownCmd code tag) s = .next t ∧
      t.mbx = { s.mbx with state := .done, cmd := code % 256, tag := tag % 256, latched := s.mbx.args, result := 1, rsps := words8 [], percent := 0 } ∧
      s.Violated t 0 0x12 0 ∧ s.SameBut [.mbx, .vecs, .regs, .recorder] t) ∧
  (∀ (c : Instr) (s : State), s.Open 0 → s.mbx.state = .busy → isMbxCommand c = true →
    exec c s = .next { s with regs := Tab.put 0 s.regs (regKey 0 pgSVC 0x148) (BitVec.ofNat 32 (satAdd 0xFFFFFFFF (s.reg 0 pgSVC 0x148) 1)) })

/-- R302, R349, R354, R358, R370: the long commands end: the margins of a trained position, the staged object in flash, the owner slots, a new attestation tree, the log cleared;
each with DONE, its response words and vector 0 of the PF.
Where the spec leaves it open the statement follows the model's choices of log entries 54, 70, 71, 84. -/
def Obligations.LongMailboxCommandsEnd : Prop :=
  (∀ (p r w : Nat) (s : State), s.svc.halted = false → p < 8 → (s.pos p).retraining = true → s.memServes = true → s.gddr.marginsOk r w = true →
    s.mbxRuns 0x11 = true → s.svc.retrain = p →
    exec (.gddr6RetrainDone p r w true) s = .next (State.mbxFinished { s with
      positions := Tab.put {} s.positions p { s.pos p with result := 1, readMargin := r % 256, writeMargin := w % 256, retraining := false, locked := true } } 0 [])) ∧
  (∀ s : State, s.Wf → s.svc.halted = false → s.mbxRuns 0x12 = true →
    ∃ t, exec (.profileCommitDone true) s = .next t ∧ t.flashAt s.svc.stagedAt s.svc.staged.length = s.svc.staged ∧
      t.svc = { s.svc with owners := (ownerRun (sigAt s.svc.staged (rdN s.svc.staged 0x18 4)).signer s.svc.owners (entriesOf s.svc.staged)).1, staged := [] } ∧
      t.mbx = s.mbx.ended 0 [rdN s.svc.staged 8 8 % 2 ^ 32, rdN s.svc.staged 8 8 / 2 ^ 32] ∧ s.SameBut [.flash, .svc, .mbx, .vecs] t) ∧
  (∀ s : State, s.Wf → s.svc.halted = false → s.mbxRuns 0x13 = true →
    ∃ t, exec (.flashWriteDone true) s = .next t ∧ t.flashAt fwFlash s.svc.staged.length = s.svc.staged ∧
      t.svc = { s.svc with staged := [] } ∧ t.mbx = s.mbx.ended 0 [] ∧ s.SameBut [.flash, .svc, .mbx, .vecs] t) ∧
  (∀ (upto slot : Nat) (s : State), s.svc.halted = false → s.mbxRuns 0x14 = true → s.recorder.clearing = some (upto, slot) →
    ∃ t, exec (.eventClearDone none) s = .next t ∧ t.recorder.cleared = upto ∧ t.recorder.clearing = none ∧ t.mbx = s.mbx.ended 0 [] ∧
      s.SameBut [.recorder, .regs, .vecs, .mbx] t) ∧
  (∀ s : State, s.svc.halted = false → s.mbxRuns 0x15 = true →
    exec .attestKeyRollDone s = .next (State.mbxFinished { s with
      svc := { s.svc with preparing := none, attest := 1, topLeaf := s.svc.steps - 1, sigsLeft := 32768 } } 0 [s.svc.steps - 1, 32768]))


/-! ## Resets of functions, and the single points -/

/-- R31, R334: an FLR takes its function, and one of the PF every function, into reset and out of service, with every job of it gone; the PF's has its cause, and leaves the mailbox IDLE
where no spare-in waits, with ABORTED where an operation ran that is no PROFILE_COMMIT. A VF's Power State field takes the written state.
Where the spec leaves it open the statement follows the model's choices of log entries 65, 108. -/
def Obligations.FunctionResetsBegin : Prop :=
  (∀ (vf : Nat) (s : State), s.Wf → s.svc.halted = false → 1 ≤ vf → vf ≤ 8 → (s.func vf).flr = false → (s.func 0).flr = false → s.pcie.coreFailed = false →
    ∃ t, exec (.flrVf vf) s = .next t ∧ (t.func vf).flr = true ∧ (t.func vf).resetting = true ∧ (t.func vf).ready = false ∧
      (∀ fn, fn ≠ vf → (t.func fn).flr = (s.func fn).flr) ∧ (∀ id, (s.job id).fn = vf → (t.job id).phase = .gone) ∧ t.svc = s.svc ∧ t.pcie = s.pcie) ∧
  (∀ s : State, s.Wf → s.svc.halted = false → (s.func 0).flr = false → s.pcie.coreFailed = false →
    ∃ t, exec .flrPf s = .next t ∧ (∀ fn < 9, (t.func fn).flr = true ∧ (t.func fn).resetting = true ∧ (t.func fn).ready = false) ∧
      (∀ id, (t.job id).phase = .gone) ∧ t.svc.resetCause = 3 ∧ t.svc.initialising = (s.svc.stage != 3) ∧ (s.reserve.queue = [] → t.mbx.state = .idle) ∧
      (s.reserve.queue = [] → s.mbx.state = .busy → s.mbx.cmd ≠ 0x12 → t.mbx = { result := 7 })) ∧
  (∀ (vf : Nat) (d3 : Bool) (s : State), s.svc.halted = false → 1 ≤ vf → vf ≤ 8 → (s.func vf).flr = false →
    exec (.vfPowerStateWrite vf d3) s = .next { s with funcs := Tab.put {} s.funcs vf { s.func vf with d3hot := d3 } })

/-- R25, R31: the end of a reset: a VF is in service again, unless DEVICE_FAULT stands or the device is not in service, with its queues, slots and registers at their reset values; a reset of the PF leaves every function, queue and slot so;
unit initialisation then returns every mode to 0, ends, and service is ready, where GDDR6 is not frozen and nothing waits for the reserve manager.
Where the spec leaves it open the statement follows the model's choices of log entries 62, 63, 65. -/
def Obligations.FunctionResetsEnd : Prop :=
  (∀ (vf : Nat) (s : State), s.Wf → s.svc.halted = false → 1 ≤ vf → vf ≤ 8 → (s.func vf).flr = true → (s.func 0).flr = false →
    ∃ t, exec (.functionResetComplete vf) s = .next t ∧ t.func vf = { fault := (s.func vf).fault, ready := !(s.func vf).fault && !s.gddr.frozen && !s.svc.initialising } ∧ (∀ fn, fn ≠ vf → t.func fn = s.func fn) ∧
      (∀ q, q < (s.queueRange vf).2 → t.queue ((s.queueRange vf).1 + q) = {} ∧ Tab.get {} t.slots ((s.queueRange vf).1 + q) = {}) ∧
      (∀ pg off, pg < 256 → off < 0x1000 → t.reg vf pg off = 0)) ∧
  (∀ s : State, s.Wf → s.svc.halted = false → (s.func 0).flr = true →
    ∃ t, exec (.functionResetComplete 0) s = .next t ∧ (∀ fn < 9, t.func fn = {}) ∧ (∀ q < 4096, t.queue q = {} ∧ Tab.get {} t.slots q = {} ∧ Tab.get {} t.sems q = {}) ∧
      t.pcie.vfEnable = false ∧ t.ruling = { maxUs := s.ruling.maxUs }) ∧
  (∀ s : State, s.Wf → s.svc.halted = false → s.svc.initialising = true → s.svc.stage = 2 → (s.func 0).flr = false → (s.func 0).d3hot = false → s.selfTestPends = false →
    ∃ t, exec .pfUnitInitDone s = .next t ∧ t.svc.initialising = false ∧ t.svc.stage = 2 ∧ (∀ pg < 256, t.mode pg = 0) ∧
      (s.gddr.frozen = false → s.gddr.again = 0 → s.reserve.queue = [] → ∀ fn < 9, (t.func fn).ready = true))

/-- R8, R31, R379: the scheduler's failure is a device-domain fault: every job ends, every function shows DEVICE_FAULT and is out of service; the failure of the PCIe core loses the link;
a lane fault retrains it at x4.
Where the spec leaves it open the statement follows the model's choices of log entries 93. -/
def Obligations.SinglePointsFail : Prop :=
  (∀ s : State, s.Wf → s.svc.halted = false →
    ∃ t, exec .schedulerFailure s = .next t ∧ t.pcie = { s.pcie with schedFailed := true } ∧ (∀ id, (t.job id).phase = .gone) ∧
      (∀ fn < 9, t.func fn = { s.func fn with fault := true, ready := false })) ∧
  (∀ s : State, s.svc.halted = false →
    ∃ t, exec .pcieCoreFailure s = .next t ∧ t.pcie = { s.pcie with coreFailed := true, up := false, width := 0, rate := 0, degraded := false } ∧
      s.SameBut [.pcie, .regs, .vecs, .recorder] t) ∧
  (∀ (lane : Nat) (s : State), s.svc.halted = false → lane < 8 → 4 < s.pcie.width →
    ∃ t, exec (.pcieLaneFault lane) s = .next t ∧ t.pcie = { s.pcie with width := 4, degraded := true } ∧ s.SameBut [.pcie, .reserve, .regs, .vecs, .recorder] t)


/-! ## Jobs and strokes -/

/-- R34, R35, R36: a job that may start, whose reads succeed and whose strokes all pass, takes its window chunks and runs with the strokes it read, evaluated once; a job that a stroke fails frees its
result slot, is a violation of its function, and leaves with REJECTED_FORMAT; a job that must wait for room or for an earlier one changes nothing.
Where the spec leaves it open the statement follows the model's choices of log entries 57, 88, 103, 104. -/
def Obligations.JobAdmission : Prop :=
  (∀ (id : Nat) (ans : HostAnswer) (s : State), s.Wf → s.svc.halted = false → s.Plain → (s.job id).phase = .entering → (s.job id).killed = none → s.waitsBehind id = false →
    ((s.job id).ordered = false ∨ s.earlierDone id = true) →
    s.chunksOf (s.job id).part + (s.job id).chunksNeeded ≤ (s.part (s.job id).part).window → s.chunksAll + (s.job id).chunksNeeded ≤ 1024 →
    (let j := s.job id
     let args := s.bytesAt j.argsAddr j.argsLen
     let l := readStrokes s j args
     let run : Job := { j with args := args, phase := .running, strokes := l.map (·.2), chunks := j.chunksNeeded, changed := s.ticks, entry := s.entries }
     let bad := (l.mapIdx (fun i x => badStroke s { j with args := args } (l.map (·.2)) i x.1 x.2)).any (fun b => b)
     (∀ r ∈ admitReads s j l, r.table = true ∨ (s.judge j.part true r.addr r.len = .ok ∧ (ans = .ok ∨ regionOf r.addr r.len ≠ .host))) →
     (bad = false →
       ∃ t, exec (.jobAdmit id ans) s = .next t ∧ (t.job id).phase = .running ∧ (t.job id).strokes = run.strokes.mapIdx (fun i x => evalStroke s id run i x) ∧
         (t.job id).args = args ∧ (t.job id).chunks = j.chunksNeeded ∧ (t.job id).entry = s.entries ∧ t.entries = s.entries + 1 ∧ s.SameBut [.jobs, .parts, .entries] t) ∧
     (bad = true →
       ∃ t, exec (.jobAdmit id ans) s = .next t ∧ (t.job id).phase = .gone ∧ t.entries = s.entries ∧
         t.reg j.fn pgHIF 0x118 = satAdd 0xFFFFFFFF (s.reg j.fn pgHIF 0x118) 1 ∧ (∀ g, j.slot = some g → (Tab.get {} t.slots g).state = .free) ∧
         (j.silent = false → (s.queue j.queue).cqFull = false → (s.queue j.queue).held = [] →
           (let x := s.queue j.queue
            let c : Cqe := { status := 0x20, queue := s.queueLocal j.queue, tag := j.tag, ptr := 0, irqNow := j.irqNow }
            t.mem = Tab.putList 0 (s.beforeCompletion id 0x20 (some 0x08)).mem (hostBase + x.cqBase + x.cqTail * 16) (c.bytes x.phase))) ∧
         s.SameBut ([.queues, .jobs, .slots] ++ gddrFields) t))) ∧
  (∀ (id : Nat) (ans : HostAnswer) (s : State), s.svc.halted = false →
    ((s.job id).phase ≠ .entering ∨ s.waitsBehind id = true ∨ ((s.job id).ordered = true ∧ s.earlierDone id = false) ∨
      (s.part (s.job id).part).window < s.chunksOf (s.job id).part + (s.job id).chunksNeeded ∨ 1024 < s.chunksAll + (s.job id).chunksNeeded) →
    exec (.jobAdmit id ans) s = .next s)

/-- R28, R40, R45, R46, R49, R93, R137: the first stroke in the order of placement is placed on the first of its suitable units that is free, and runs there. A stroke that has run is DONE, and its job
with it when no other is unfinished: a SLOT-mode job once its payload has been read into its slot. One that is pre-empted writes what it completed, its sequencer state and its live tiles to its
save frame, and leaves its unit PREEMPTED, with its tiles counted.
Where the spec leaves it open the statement follows the model's choices of log entries 41, 56, 88, 89, 115. -/
def Obligations.StrokesPlacedAndEnded : Prop :=
  (∀ (c : Candidate) (cs : List Candidate) (pl : Place) (s : State), s.Wf → s.svc.halted = false → s.pcie.schedFailed = false → s.candidates = c :: cs →
    (suitable s c.job c.idx).find? (fun x => s.isFree (s.job c.job).part x) = some pl →
    ∃ t, exec .strokePlace s = .next t ∧ ((t.job c.job).stroke c.idx).state = .running ∧ ((t.job c.job).stroke c.idx).place = some pl ∧
      ((t.job c.job).stroke c.idx).startTick = s.ticks ∧ s.SameBut [.jobs, .parts, .sems, .clusters, .starts] t) ∧
  (∀ (id i active stall : Nat) (ans : HostAnswer) (s : State), s.Wf → s.svc.halted = false → (s.job id).phase = .running → (s.job id).killed = none →
    ((s.job id).stroke i).state = .running → ((s.job id).stroke i).ran = true →
    ((∃ k, k < (s.job id).strokes.length ∧ k ≠ i ∧ ((s.job id).stroke k).finished = false) →
      ∃ t, exec (.strokeComplete id i active stall ans) s = .next t ∧ ((t.job id).stroke i).state = .done ∧ ((t.job id).stroke i).place = none ∧
        (t.job id).phase = .running ∧ s.SameBut killFields t) ∧
    ((∀ k, k < (s.job id).strokes.length → k ≠ i → ((s.job id).stroke k).finished = true) → (s.job id).slot = none →
      ∃ t, exec (.strokeComplete id i active stall ans) s = .next t ∧ (t.job id).phase = .gone ∧ s.SameBut finishFields t) ∧
    (∀ g, (∀ k, k < (s.job id).strokes.length → k ≠ i → ((s.job id).stroke k).finished = true) → (s.job id).slot = some g → s.Plain →
      s.judge (s.job id).part false (s.job id).resultAddr 48 = .ok → (s.job id).status ≤ 0x0F →
      ∃ t, exec (.strokeComplete id i active stall .ok) s = .next t ∧ (t.job id).phase = .gone ∧
        Tab.get {} t.slots g = (Tab.get {} s.slots g).fill (s.bytesAt (s.job id).resultAddr 48) ∧ s.SameBut finishFields t)) ∧
  (∀ (id i tiles now k : Nat) (pl : Place) (s : State), s.Wf → s.svc.halted = false → (s.job id).phase = .running → (s.job id).killed = none →
    ((s.job id).stroke i).state = .running → ((s.job id).stroke i).preempting = true → ((s.job id).stroke i).ran = false →
    ((s.job id).stroke i).frame = some k → ((s.job id).stroke i).place = some pl → s.hasRetry id i = false →
    (let j := s.job id
     let t0 := j.stroke i
     let u : State := { s with fresh := s.fresh + 2 }
     let q := if t0.cls = 1 then mmSave id i now tiles (Config.freeValue s.fresh) (Config.freeValue (s.fresh + 1)) u j t0 else attnSave tiles (Config.freeValue (s.fresh + 1)) u j t0
     let a := (s.part j.part).saveBase + k * 0x101000
     u.Admits id i q.out → s.foreign false a 0x101000 = none →
     ∃ t, exec (.preemptSave id i tiles now) s = .next t ∧ ((t.job id).stroke i).state = .preempted ∧ ((t.job id).stroke i).place = none ∧
       ((t.job id).stroke i).tilesDone = q.done ∧ ((t.job id).stroke i).frame = some k ∧
       t.mem = (q.out.more.run ((u.began id i q.out).storeAll id q.out.writes)).framed a (q.seq ++ leBytes 1 q.slots) q.acc ∧
       (t.part j.part).preempts = satAdd 0xFFFFFFFF (s.part j.part).preempts 1 ∧
       s.SameBut ([.fresh, .jobs, .clusters, .localMem, .claims] ++ gddrFields) t))

/-- R19, R44, R53: a job whose strokes have all waited past the partition's limit, or whose time limit has run out, is killed with TIMEOUT; once no unit holds a killed job, it is gone.
Where the spec leaves it open the statement follows the model's choices of log entries 4, 37. -/
def Obligations.LimitsAndKills : Prop :=
  ∀ (id : Nat) (s : State), s.Wf → s.svc.halted = false →
    ((s.job id).phase = .running → (s.job id).killed = none → (s.part (s.job id).part).waitLimit ≠ 0 →
      (s.job id).strokes.all (fun t => !(t.state = .running || t.state = .ready)) = true → (s.job id).changed + (s.part (s.job id).part).waitLimit * 1000 ≤ s.ticks →
      ∃ t, exec (.waitLimitExpiry id) s = .next t ∧ (t.job id).killed = some 0x32 ∧ (t.job id).phase = .running ∧ s.SameBut killFields t) ∧
    ((s.job id).phase ≠ .gone → (s.job id).killed = none → (s.job id).timeLimit ≠ 0 → (s.job id).fetchTick + (s.job id).timeLimit ≤ s.ticks →
      ∃ t, exec (.timeLimitExpiry id) s = .next t ∧
        (if (s.job id).phase = .running then (t.job id).killed = some 0x32 ∧ (t.job id).phase = .running else (t.job id).phase = .gone) ∧ s.SameBut releaseFields t) ∧
    ((s.job id).phase ≠ .gone → (s.job id).killed.isSome = true → s.stillHeld id = false →
      ∃ t, exec (.jobKillRelease id) s = .next t ∧ (t.job id).phase = .gone ∧ s.SameBut releaseFields t)

/-! ## The scheduler's own operations -/

/-- R38, R42, R43, R52: sch.bucket reads the actual size and skips the strokes of the ranges that do not fit it; sch.nop does nothing; sch.semset sets a counter; each is then carried out.
Where the spec leaves it open the statement follows the model's choices of log entries 26, 41, 100. -/
def Obligations.SchedulerStrokes : Prop :=
  ∀ (id i : Nat) (s : State),
    (s.Unhindered 0x0F 0x01 id i (bucketOp id i) →
      exec (.schBucket id i) s = .next (s.carried false id i (bucketOp id i s (s.job id) ((s.job id).stroke i))) ∧
      ∀ k n, ((s.job id).stroke i).buckets.findIdx? (fun b => decide (s.numAt (((s.job id).stroke i).opnds.getD 0 0) 4 ≤ b.1)) = some k →
        n ≠ i → n < (s.job id).strokes.length →
        (∃ m b, m ≠ k ∧ ((s.job id).stroke i).buckets[m]? = some b ∧ b.2.1 ≤ n ∧ n < b.2.1 + b.2.2) →
        (((s.carried false id i (bucketOp id i s (s.job id) ((s.job id).stroke i))).job id).stroke n).state = .skipped) ∧
    (s.Unhindered 0x0F 0x03 id i (fun _ _ _ => {}) → exec (.schNop id i) s = .next (s.carried false id i {})) ∧
    (s.Unhindered 0x0F 0x04 id i (semsetOp i) → (s.semOf (s.job id).part (fld ((s.job id).stroke i).param 27 16)).mutex = false →
      ∃ t, exec (.schSemset id i) s = .next t ∧
        t.semOf (s.job id).part (fld ((s.job id).stroke i).param 27 16) =
          { s.semOf (s.job id).part (fld ((s.job id).stroke i).param 27 16) with value := fld ((s.job id).stroke i).param 15 0 } ∧
        s.SameBut [.sems, .jobs, .parts, .localMem, .fresh] t)

/-- R42, R43: SCH_SEM_CTRL sets the selected semaphore of the function's partition to COUNTER with VALUE, or to MUTEX, free where it was not one; no stroke waits on it and no job holds it.
Where the spec leaves it open the statement follows the model's choices of log entries 58, 101. -/
def Obligations.SemaphoreControl : Prop :=
  ∀ (fn v p : Nat) (s : State), s.Wf → s.Open fn → s.partOf fn = some p → s.reg fn pgSCH 0x120 < (s.part p).semCount →
    (let n := s.reg fn pgSCH 0x120
     let k := (s.part p).semFirst + n
     (bit v 31 = (s.semOf p n).mutex ∨ (s.semOf p n).holder = 0 ∧ s.semHasWaiter p n = false) →
     ∃ t, exec (.schSemCtrlWrite fn v) s = .next t ∧
       t.sems = Tab.put {} s.sems k (if bit v 31 then { mutex := true, value := 0, holder := (s.semOf p n).holder } else { mutex := false, value := fld v 15 0, holder := 0 }) ∧
       s.SameBut [.sems, .jobs, .parts] t)

/-! ## Mode changes -/

/-- R54: MODE_STAGE takes mode, ARMED and owner; a unit that another function has armed keeps its own. SCH_MODE_COMMIT takes every unit that the function armed into a pending change,
or ends at once without any; while a change is pending it is refused.
Where the spec leaves it open the statement follows the model's choices of log entries 28. -/
def Obligations.ModeChangesBegin : Prop :=
  (∀ (fn page v kind n : Nat) (s : State), s.Open fn → modePage page = some (kind, n) → s.shows fn page = true → modeLegal kind (fld v 15 0) = true →
    ((s.modeUnit page).armed = false ∨ (s.modeUnit page).owner = fn) → (s.modeUnit page).pending = 0 → (kind < 5 → s.withdrawn kind n = false) →
    (kind < 2 → s.moving kind n = false) → (kind = 3 → s.gddr.migrating = false) →
    exec (.modeStageWrite fn page v) s = .next { s with
      modeUnits := Tab.put {} s.modeUnits page { s.modeUnit page with armed := bit v 31, owner := fn, newMode := fld v 15 0 } }) ∧
  (∀ (fn page v : Nat) (s : State), s.Open fn → (s.modeUnit page).armed = true → (s.modeUnit page).owner ≠ fn → exec (.modeStageWrite fn page v) s = .next s) ∧
  (∀ (fn v : Nat) (s : State), s.Wf → s.Open fn → bit v 0 = true → (s.change fn).state ≠ .pending →
    (let pages := (s.modeUnits.filter (fun e => e.2.armed && e.2.owner == fn && e.2.pending == 0)).map (·.1)
     ∃ t, exec (.schModeCommit fn v) s = .next t ∧
       (pages ≠ [] → t.change fn = { s.change fn with state := .pending, result := 0, armed := pages.length, applied := 0, start := s.ticks, byStroke := none } ∧
         (∀ p ∈ pages, t.modeUnit p = { s.modeUnit p with applied := false, rolledBack := false, pending := fn + 1, old := (s.modeUnit p).current }) ∧
         s.SameBut [.modeChanges, .modeUnits, .jobs, .parts] t) ∧
       (pages = [] → (t.change fn).state = .committed ∧ (t.change fn).result = 0))) ∧
  (∀ (fn v : Nat) (s : State), s.Open fn → bit v 0 = true → (s.change fn).state = .pending →
    exec (.schModeCommit fn v) s = .next { s with modeChanges := Tab.put {} s.modeChanges fn { s.change fn with refused := true } }) ∧
  (∀ (id i : Nat) (s : State), s.Wf → s.svc.halted = false → s.runnable id i 0x0F 0x02 = true → (s.change (s.job id).fn).state ≠ .pending →
    s.modeUnits.any (fun e => e.2.armed && e.2.owner == (s.job id).fn && e.2.pending == 0) = true →
    ∃ t, exec (.schMode id i) s = .next t ∧ (t.change (s.job id).fn).state = .pending ∧ (t.change (s.job id).fn).byStroke = some (id, i) ∧
      ((t.job id).stroke i).begun = true ∧ s.SameBut [.modeChanges, .modeUnits, .jobs, .parts] t)

/-- R55, R145: a unit at its safe point applies the mode it took, and the change is COMMITTED with the last of its units; a segment that no partition owns, or whose cache window lies outside its partition, does not apply cache mode.
At the timeout the change is rolled back with MODE_ROLLBACK: every unit that it took in has its old mode again.
Where the spec leaves it open the statement follows the model's choices of log entries 4. -/
def Obligations.ModeChangesEnd : Prop :=
  (∀ (page kind n : Nat) (s : State), s.Wf → s.svc.halted = false → modePage page = some (kind, n) → (s.modeUnit page).pending ≠ 0 → (s.modeUnit page).applied = false →
    s.safePoint kind n = true →
    ((kind = 1 → (s.modeUnit page).newMode = 1 → (s.modeUnit page).old ≠ 1 → (s.seg n).owner ≠ 0 ∧ s.windowOk n ((s.seg n).owner - 1) = true) →
      ∃ t, exec (.modeUnitApply page) s = .next t ∧ t.mode page = (s.modeUnit page).newMode ∧ (t.modeUnit page).applied = true ∧
        (t.change ((s.modeUnit page).pending - 1)).applied = (s.change ((s.modeUnit page).pending - 1)).applied + 1 ∧
        ((∀ p ∈ s.takenIn ((s.modeUnit page).pending - 1), p ≠ page → (s.modeUnit p).applied = true) →
          (t.change ((s.modeUnit page).pending - 1)).state = .committed)) ∧
    (kind = 1 → (s.modeUnit page).newMode = 1 → (s.modeUnit page).old ≠ 1 → ((s.seg n).owner = 0 ∨ s.windowOk n ((s.seg n).owner - 1) = false) →
      ∃ t, exec (.modeUnitApply page) s = .next t ∧ t.modeUnits = s.modeUnits ∧ s.SameBut [.regs, .vecs] t)) ∧
  (∀ (fn : Nat) (s : State), s.Wf → s.svc.halted = false → (s.change fn).state = .pending → (s.change fn).start + (s.change fn).timeout ≤ s.ticks →
    ∃ t, exec (.modeTimeoutExpiry fn) s = .next t ∧ (t.change fn).state = .rolledBack ∧ (t.change fn).result = 0x40 ∧
      ∀ p ∈ s.takenIn fn, t.modeUnit p = { s.modeUnit p with
        armed := false, applied := false, rolledBack := true, pending := 0, current := if (s.modeUnit p).applied then (s.modeUnit p).old else (s.modeUnit p).current })


/-! ## The matrix array, the hatch unit and the move engine -/

/-- R95: every NaN that a conversion to a float format produces is the format's canonical one, positive, whatever the value; and a NaN read from memory is accepted with any payload and sign. -/
def Obligations.NansAreCanonical : Prop :=
  Fmt.nanBits .fp32 = 0x7FC00000 ∧ Fmt.nanBits .bf16 = 0x7FC0 ∧ Fmt.nanBits .fp16 = 0x7E00 ∧ Fmt.nanBits .e4m3 = 0x7F ∧ Fmt.nanBits .e5m2 = 0x7E ∧
  (∀ (f : Fmt) (v : FVal), f.isInt = false →
    (convert f .nan).bits = f.nanBits ∧ (convertCode f .nan).bits = f.nanBits ∧
    (decodeElem f (convert f v).bits = .nan → (convert f v).bits = f.nanBits) ∧ (decodeElem f (convertCode f v).bits = .nan → (convertCode f v).bits = f.nanBits)) ∧
  (∀ w : Nat,
    (w % 2 ^ 7 = 0x7F → decodeElem .e4m3 w = .nan) ∧ (w / 4 % 32 = 31 → w % 4 ≠ 0 → decodeElem .e5m2 w = .nan) ∧
    (w / 2 ^ 7 % 2 ^ 8 = 255 → w % 2 ^ 7 ≠ 0 → decodeElem .bf16 w = .nan) ∧ (w / 2 ^ 10 % 2 ^ 5 = 31 → w % 2 ^ 10 ≠ 0 → decodeElem .fp16 w = .nan) ∧
    (w / 2 ^ 23 % 2 ^ 8 = 255 → w % 2 ^ 23 ≠ 0 → decodeElem .fp32 w = .nan))

/-- R96: every widening conversion is exact: INT4 to INT8, any integer format to INT32, each 8-bit float to BF16, FP16 or FP32, and BF16 or FP16 to FP32; infinities, NaN and the sign of zero are kept. -/
def Obligations.WideningIsExact : Prop :=
  ∀ p ∈ ([(.int4, .int8), (.int4, .int32), (.int8, .int32), (.int32, .int32), (.e4m3, .bf16), (.e4m3, .fp16), (.e4m3, .fp32), (.e5m2, .bf16), (.e5m2, .fp16), (.e5m2, .fp32),
      (.bf16, .fp32), (.fp16, .fp32)] : List (Fmt × Fmt)),
    ∀ w : Nat, w < 2 ^ p.1.bits → (convert p.2 (decodeElem p.1 w)).sat = false ∧ (decodeElem p.2 (convert p.2 (decodeElem p.1 w)).bits).equals (decodeElem p.1 w) = true

/-- R57, R79, R91, R106, R110-R115, R128, R131, R134, R158: an operation of the matrix array, the attention path, the hatch unit or the move engine that nothing hinders is carried out whole:
what it computes is written to its destination, its passes issue (R58: exactly one for mm.pass), its counters count, and its stroke has run.
Where the spec leaves it open the statement follows the model's choices of log entries 26, 39, 41, 42, 43, 98, 110, 112-114, 116, 117; free values: 10. -/
def Obligations.UnitStrokes : Prop :=
  ∀ (id i now accRow : Nat) (s : State), ∀ x ∈ arrayOps id i now accRow ++ hatchOps ++ moveOps, s.Unhindered x.cls x.op id i x.out →
    exec (x.cmd id i) s = .next (s.carried false id i (x.out s (s.job id) ((s.job id).stroke i)))

/-- R106, R110: what the elementwise operations compute, element by element with broadcast, each step rounded to FP32.
Where the spec leaves it open the statement follows the model's choices of log entries 10. -/
def Obligations.HatchValues : Prop :=
  ∀ h : HatchIn,
    (let is1 (o : HatchOut) (f : FVal → FVal) : Prop := ∃ z, o.outs = [(h.z, z)] ∧ ∀ i ∈ indices h.z.ext, z.at i = f (h.xt.bcast i)
     let is2 (o : HatchOut) (f : FVal → FVal → FVal) : Prop := ∃ z, o.outs = [(h.z, z)] ∧ ∀ i ∈ indices h.z.ext, z.at i = f (h.xt.bcast i) (h.yt.bcast i)
     is2 (hatchAdd h) (fun a b => (a.addX b).r32) ∧ is2 (hatchSub h) (fun a b => (a.addX b.neg).r32) ∧ is2 (hatchMul h) (fun a b => (a.mulX b).r32) ∧
     is2 (hatchMax h) FVal.max ∧ is2 (hatchMin h) FVal.min ∧ is2 (hatchAxpby h) (fun a b => ((h.pf 0).mul a).add ((h.pf 1).mul b)) ∧
     is1 (hatchAffine h) (fun a => ((h.pf 0).mul a).add (h.pf 1)) ∧ is1 (hatchClamp h) (fun a => (a.max (h.pf 0)).min (h.pf 1)) ∧
     is1 (hatchRelu h) (fun a => a.max .zero) ∧ is1 (hatchCast h) (fun a => a) ∧
     (∃ z, (hatchFill h).outs = [(h.z, z)] ∧ ∀ i ∈ indices h.z.ext, z.at i = if h.z.fmt.isInt then FVal.ofInt (toSigned 32 (h.pw 0)) else h.pf 0) ∧
     (∃ z, (hatchIota h).outs = [(h.z, z)] ∧ ∀ i ∈ indices h.z.ext, z.at i = FVal.ofInt (linear h.z.ext i)))

/-- R158: move.linear leaves at its destination what its source held, and no byte elsewhere changes; move.fill leaves its pattern there; a failed read of host memory kills the job
(R32 code 0x0D). move.prefetch, move.flush and move.evict act on the cache lines of their range, whatever the cache holds; a length of 0 touches no line;
an OFF segment that serves one of the lines makes the access late and kills the job (R155), one in transition makes the stroke wait.
Where the spec leaves it open the statement follows the model's choices of log entries 26, 41, 43, 91, 98, 103. -/
def Obligations.MoveStrokes : Prop :=
  (∀ (id i : Nat) (s : State), s.Unhindered 0x04 0x02 id i linearOp →
    ∃ t, exec (.moveLinear id i .ok) s = .next t ∧
      t.bytesAt (((s.job id).stroke i).opnds.getD 1 0) ((s.job id).stroke i).param = s.bytesAt (((s.job id).stroke i).opnds.getD 0 0) ((s.job id).stroke i).param ∧
      ∀ a, (a < ((s.job id).stroke i).opnds.getD 1 0 ∨ ((s.job id).stroke i).opnds.getD 1 0 + ((s.job id).stroke i).param ≤ a) →
        Tab.get 0 t.mem a = Tab.get 0 s.mem a) ∧
  (∀ (id i : Nat) (s : State), s.Unhindered 0x04 0x03 id i fillOp →
    ∃ t, exec (.moveFill id i) s = .next t ∧
      ∀ k, k < ((s.job id).stroke i).param →
        Tab.get 0 t.mem (((s.job id).stroke i).opnds.getD 0 0 + k) = (leBytes 8 (((s.job id).stroke i).opnds.getD 1 0)).getD (k % 8) 0) ∧
  (∀ (id i : Nat) (ans : HostAnswer) (s : State), s.Wf → s.svc.halted = false → ans ≠ .ok → s.runnable id i 0x04 0x02 = true →
    (linearOp s (s.job id) ((s.job id).stroke i)).check = none → ((s.job id).stroke i).param ≠ 0 →
    regionOf (((s.job id).stroke i).opnds.getD 0 0) ((s.job id).stroke i).param = .host →
    ∃ t, exec (.moveLinear id i ans) s = .next t ∧ (t.job id).killed = some (if ans = .timeout then 0x32 else 0x30) ∧ t.pcie = { s.pcie with aerOther := true } ∧
      s.SameBut (.pcie :: killFields) t) ∧
  (∀ x ∈ cacheOps, ∀ (id i : Nat) (s : State), s.Wf → s.svc.halted = false → s.runnable id i 0x04 x.2.1 = true → s.hasRetry id i = false →
    (let j := s.job id
     let l := linesOf ((j.stroke i).opnds.getD 0 0) (j.stroke i).param
     let inRange := moveRangeOk s j.part false ((j.stroke i).opnds.getD 0 0) (j.stroke i).param = true
     let off := s.servingSeg l (fun g => decide ((s.seg g).power = .off))
     let moving := s.servingSeg l s.segRetries
     ((j.stroke i).param = 0 ∨ (inRange ∧ off = none ∧ moving = none) →
       ∃ t, exec (x.1 id i) s = .next t ∧ t = State.marked ((x.2.2 l).run (s.began id i {})) false id i ∧ s.SameBut ([.jobs, .localMem, .fresh] ++ gddrFields) t) ∧
     (inRange ∧ off ≠ none → ∃ t, exec (x.1 id i) s = .next t ∧ (t.job id).killed = some 0x30) ∧
     (∀ g, inRange ∧ off = none ∧ moving = some g →
       exec (x.1 id i) s = .next { s with retries := s.retries ++ [{ who := { job := id, idx := i }, seg := g, isWrite := false, addr := (j.stroke i).opnds.getD 0 0 }] })))

/-- What an operation of the array, the hatch unit or the move engine leaves as it was: every byte of memory outside the ranges it writes, every other job, and every field but memory,
the claims of plate blocks, the GDDR6 channels, the local memory and the array of its cluster, the registers that count, the vectors and the jobs.
Where the spec leaves it open the statement follows the model's choices of log entries 26, 41, 43, 110. -/
def Obligations.OperationFrame : Prop :=
  ∀ (id i now accRow : Nat) (s : State), ∀ x ∈ arrayOps id i now accRow ++ hatchOps ++ moveOps, s.Unhindered x.cls x.op id i x.out →
    ∃ t, exec (x.cmd id i) s = .next t ∧
      (∀ a, (∀ w ∈ (x.out s (s.job id) ((s.job id).stroke i)).writes, a < w.1 ∨ w.1 + w.2.length ≤ a) → Tab.get 0 t.mem a = Tab.get 0 s.mem a) ∧
      (∀ k, k ≠ id → t.job k = s.job k) ∧ s.SameBut [.mem, .claims, .regs, .vecs, .jobs, .clusters, .channels, .localMem, .fresh] t


/-! ## Clusters and plate memory -/

/-- R57, R65, R66, R67, R68, R71, R72, R73, R74, R403: PASS_ISSUE issues the next pass of the mm or attn stroke that runs on the cluster or in the half, counts it, and leaves row i of an mm pass in
accumulator row R0 + i. A parity detection ends the job of every stroke it is charged to, a single one is counted and, as the first, captured; an injected one fires and disarms the injection.
BC_INJECT takes PATH and HALF and arms a path that exists; a local share is free again when its burnish ends.
Where the spec leaves it open the statement follows the model's choices of log entries 41, 44, 109, 110. -/
def Obligations.ClusterEvents : Prop :=
  (∀ (n accRow wAt aAt : Nat) (right : Bool) (shape : PassShape) (r : StrokeRef) (pl : Place) (s : State), s.Wf → s.svc.halted = false →
    (if right then (s.cluster n).right else (s.cluster n).left) = some r → (s.job r.job).phase = .running → (s.job r.job).killed = none →
    ((s.job r.job).stroke r.idx).state = .running → ((s.job r.job).stroke r.idx).ran = false → ((s.job r.job).stroke r.idx).place = some pl → pl.cluster = n → pl.right = right →
    s.firesOn pl [4, 1, 2, 0, 3] = none →
    (let t0 := (s.job r.job).stroke r.idx
     (∀ g gs, t0.cls = 1 → t0.preempting = false → mmCheck s (s.job r.job) t0 = none → ((mmOf s (s.job r.job) t0).plan t0).passes.drop t0.passes = g :: gs →
       g.m ≤ 2048 → g.n ≤ (if pl.isHalf then 64 else 128) →
       (let x := mmOf s (s.job r.job) t0
        let pr := x.product s t0
        ∃ t, exec (.passIssue n right accRow wAt aAt shape) s = .next t ∧
          s.Issued t n right x.ncol wAt aAt 0 (x.passIn pr g) ((gs.head?).map (fun h => pr.tile (x.batch h.b) x.B.d.fmtCode h)) ∧
          ((t.job r.job).stroke r.idx).passes = t0.passes + 1 ∧
          (∀ i c, i < g.m → c < g.n → Tab.getList 0 t.localMem (accKey n (min accRow (2048 - g.m) + i) (c + if right then 64 else 0)) 4 =
            leBytes 4 (pr.word (mmPartial (x.plan t0) pr t0 g.b (x.batch g.b) (g.m0 + i) (g.n0 + c) (g.k0 + g.k)).1)) ∧
          s.SameBut [.clusters, .regs, .jobs, .localMem, .fresh] t)) ∧
     (t0.cls = 2 → right = false → (attnOf s (s.job r.job) t0).check t0.op = none → 1 ≤ shape.k → shape.k ≤ 128 → 1 ≤ shape.n → shape.n ≤ 128 → 1 ≤ shape.m → shape.m ≤ 2048 →
       shape.gated ≤ 128 * shape.m →
       ∃ t tile, exec (.passIssue n right accRow wAt aAt shape) s = .next t ∧ tile.k = shape.k ∧ tile.n = shape.n ∧
         s.Issued t n false 128 wAt aAt shape.gated { wide := shape.wide, tile := tile, rows := shape.m, finite := 0 } none ∧
         ((t.job r.job).stroke r.idx).passes = t0.passes + 1 ∧ s.SameBut [.clusters, .regs, .jobs, .localMem, .fresh] t))) ∧
  (∀ (n : Nat) (right : Bool) (hits : List ParityHit) (s : State), s.Wf → s.svc.halted = false → n < 16 → hits ≠ [] →
    (∀ h ∈ hits, h.path ≤ 5 ∧ ∃ r rest, faultedStrokes (s.cluster n) h.path right (s.splitMode n) = r :: rest ∧ ((s.job r.job).stroke r.idx).reached h = true) →
    ∃ t, exec (.clusterParityDetect n right false hits) s = .next t ∧
      (∀ h ∈ hits, ∀ r ∈ faultedStrokes (s.cluster n) h.path right (s.splitMode n), (t.job r.job).killed ≠ none ∨ (t.job r.job).phase = .gone) ∧
      (∀ h r rest, hits = [h] → faultedStrokes (s.cluster n) h.path right (s.splitMode n) = r :: rest →
        (let w := s.reg 0 (pgBC n) 0x120
         t.reg 0 (pgBC n) 0x120 = (if h.path = 5 then w else if h.path = 3 then w - fld w 29 20 * 2 ^ 20 + satAdd 0x3FF (fld w 29 20) 1 * 2 ^ 20
           else if h.path = 1 ∨ h.path = 2 then w - fld w 19 10 * 2 ^ 10 + satAdd 0x3FF (fld w 19 10) 1 * 2 ^ 10 else w - fld w 9 0 + satAdd 0x3FF (fld w 9 0) 1) ∧
         bit (t.reg 0 (pgBC n) 0x018) (clusterErrBit h.path right h.column (s.splitMode n)) = true ∧
         (Nat.land (s.reg 0 (pgBC n) 0x018) 0xFF = 0 →
           t.reg 0 (pgBC n) 0x028 = (clusterHalf h.path right (s.splitMode n) * 2 ^ 29 + (s.job r.job).fn * 2 ^ 25 + (s.job r.job).tableIndex r.idx) % 2 ^ 32 ∧
           t.reg 0 (pgBC n) 0x02C = h.pass % 2 ^ 32)))) ∧
  (∀ (n : Nat) (right : Bool) (h : ParityHit) (r : StrokeRef) (rest : List StrokeRef) (s : State), s.Wf → s.svc.halted = false → n < 16 → h.path ≤ 5 →
    faultedStrokes (s.cluster n) h.path right (s.splitMode n) = r :: rest → ((s.job r.job).stroke r.idx).reached h = true → s.armed n h.path right = true →
    ∃ t, exec (.clusterParityDetect n right true [h]) s = .next t ∧ t.reg 0 (pgBC n) 0x128 = fld (s.reg 0 (pgBC n) 0x128) 5 1 * 2 + 256 ∧
      t.reg 0 (pgBC n) 0x120 = s.reg 0 (pgBC n) 0x120 ∧
      ∀ r' ∈ faultedStrokes (s.cluster n) h.path right (s.splitMode n), (s.job r'.job).phase ≠ .gone → (s.job r'.job).killed = none → (t.job r'.job).killed = some 0x31) ∧
  (∀ (n v : Nat) (s : State), s.Open 0 → n ≤ 16 → (s.cluster n).withdrawn = false →
    exec (.bcInjectWrite 0 n v) s = .next { s with
      regs := Tab.put 0 s.regs (regKey 0 (pgBC n) 0x128) (BitVec.ofNat 32 (bitAt (bit (s.reg 0 (pgBC n) 0x128) 8 && !bit v 8) 8 + fld v 5 4 * 16 + fld v 3 1 * 2 +
        bitAt ((bit (s.reg 0 (pgBC n) 0x128) 0 || bit v 0) && decide (fld v 3 1 ≤ 4)) 0)) }) ∧
  (∀ (n : Nat) (s : State), s.svc.halted = false → n < 16 →
    ((s.cluster n).burnishL = true ∨ (s.cluster n).burnishW = true →
      exec (.localBurnishDone n 0) s = .next { s with clusters := Tab.put {} s.clusters n { s.cluster n with burnishL := false, burnishW := false } }) ∧
    ((s.cluster n).burnishR = true → exec (.localBurnishDone n 1) s = .next { s with clusters := Tab.put {} s.clusters n { s.cluster n with burnishR := false } }) ∧
    ((s.cluster n).burnishH = true → exec (.localBurnishDone n 2) s = .next { s with clusters := Tab.put {} s.clusters n { s.cluster n with burnishH := false } }) ∧
    ((s.cluster n).burnishM = true → exec (.localBurnishDone n 3) s = .next { s with clusters := Tab.put {} s.clusters n { s.cluster n with burnishM := false } }))

/-- R148, R149, R150: a parity detection on a word of plate scratch abandons a stroke that may run again, once, and else ends its job with FAULT_PARITY; a clean cache line is invalidated and the
stroke goes on, a dirty one is marked; every detection is counted. A bit that is flipped in the array stays bad until it is written.
Where the spec leaves it open the statement follows the model's choices of log entries 78, 97, 126, 118. -/
def Obligations.PlateParity : Prop :=
  ∀ (id i seg off : Nat) (stored : Bool) (s : State), s.Wf → s.svc.halted = false → (s.job id).phase = .running → (s.job id).killed = none → ((s.job id).stroke i).state = .running →
    ((s.job id).stroke i).ran = false → seg < 32 → off < segSize → (s.seg seg).withdrawn = false →
    (let j := s.job id
     let t0 := j.stroke i
     let k := seg * 65536 + off / 128
     let word := (plateBase + seg * segSize + off) / 4
     (s.mode (pgPS seg) ≠ 1 → t0.reRunnable (inPlace s j t0) = true → t0.rerun = false →
       ∃ t, exec (.plateParityDetect id i seg off false stored) s = .next t ∧ ((t.job id).stroke i).rerun = true ∧ ((t.job id).stroke i).place = none ∧
         ((t.job id).stroke i).state ≠ .running ∧ (t.job id).rerun = true ∧ (t.job id).killed = none ∧
         t.badWords = (if stored then Tab.put false s.badWords word true else s.badWords) ∧
         t.reg 0 pgPLT 0x110 = satAdd 0xFFFFFFFF (s.reg 0 pgPLT 0x110) 1 ∧ t.reg 0 pgPLT 0x114 = satAdd 0xFFFFFFFF (s.reg 0 pgPLT 0x114) 1) ∧
     (s.mode (pgPS seg) ≠ 1 → (t0.reRunnable (inPlace s j t0) = false ∨ t0.rerun = true) →
       ∃ t, exec (.plateParityDetect id i seg off false stored) s = .next t ∧ (t.job id).killed = some 0x31 ∧
         (s.cacheSegs = [] → t.reg 0 pgPLT 0x110 = satAdd 0xFFFFFFFF (s.reg 0 pgPLT 0x110) 1)) ∧
     (∀ tagPar, s.mode (pgPS seg) = 1 → (Tab.get {} s.lines k).valid = true → (Tab.get {} s.lines k).dirty = false →
       ∃ t, exec (.plateParityDetect id i seg off tagPar stored) s = .next t ∧ t.lines = Tab.put {} s.lines k {} ∧ t.job id = j ∧
         t.reg 0 pgPLT 0x110 = satAdd 0xFFFFFFFF (s.reg 0 pgPLT 0x110) 1) ∧
     (∀ tagPar, s.mode (pgPS seg) = 1 → (Tab.get {} s.lines k).valid = true → (Tab.get {} s.lines k).dirty = true →
       t0.reRunnable (inPlace s j t0) = true → t0.rerun = false →
       ∃ t, exec (.plateParityDetect id i seg off tagPar stored) s = .next t ∧
         t.lines = Tab.put {} s.lines k { Tab.get {} s.lines k with marked := true, badTag := (Tab.get {} s.lines k).badTag || (stored && tagPar) } ∧
         t.badWords = (if stored && !tagPar then Tab.put false s.badWords word true else s.badWords) ∧
         (t.job id).rerun = true ∧ (t.job id).killed = none ∧ t.reg 0 pgPLT 0x110 = satAdd 0xFFFFFFFF (s.reg 0 pgPLT 0x110) 1) ∧
     (∀ tagPar, s.mode (pgPS seg) = 1 → (Tab.get {} s.lines k).valid = true → (Tab.get {} s.lines k).dirty = true →
       (t0.reRunnable (inPlace s j t0) = false ∨ t0.rerun = true) →
       ∃ t, exec (.plateParityDetect id i seg off tagPar stored) s = .next t ∧ (t.job id).killed = some 0x31))

/-- R145, R152, R155: a block under burnish ends as zeros, without claim and with good parity; a waiting access goes on when its segment serves again, waits while it does not, and is late at a
segment that is OFF; a write that waits is then made, and its stroke has run; a cache window is taken in scratch mode, aligned to its size.
Where the spec leaves it open the statement follows the model's choices of log entries 3, 98, 128. -/
def Obligations.PlateEvents : Prop :=
  (∀ (n b : Nat) (bs : List Nat) (s : State), s.svc.halted = false → (s.seg n).burnish = b :: bs →
    (let a := plateBase + n * segSize + b * 0x10000
     exec (.plateBurnishDone n) s = .next { s with
       mem := Tab.clear s.mem a 0x10000, badWords := Tab.clear s.badWords (a / 4) 0x4000
       claims := Tab.put 0 s.claims (n * 128 + b) 0, segs := Tab.put {} s.segs n { s.seg n with burnish := bs } })) ∧
  (∀ (k : Nat) (r : RetryReq) (s : State), s.Wf → s.svc.halted = false → s.retries[k]? = some r → (s.job r.who.job).phase = .running → (s.job r.who.job).killed = none →
    ((s.job r.who.job).stroke r.who.idx).state = .running →
    (r.data = [] → (s.seg r.seg).power ≠ .off → s.segRetries r.seg = false → exec (.plateAccessRetry k) s = .next { s with retries := s.retries.eraseIdx k }) ∧
    (r.data ≠ [] → (s.seg r.seg).power ≠ .off → s.segRetries r.seg = false → s.Plain → s.Writable r.who.job false (r.addr, r.data) → s.burnishOf [(r.addr, r.data)] = none →
      ((s.part (s.job r.who.job).part).measure = true ∨ ((s.part (s.job r.who.job).part).gddr.rate = 0 ∧ (s.part (s.job r.who.job).part).plate.rate = 0)) →
      ∃ t, exec (.plateAccessRetry k) s = .next t ∧ t.mem = Tab.putList 0 s.mem r.addr r.data ∧ t.retries = s.retries.eraseIdx k ∧
        ((t.job r.who.job).stroke r.who.idx).ran = true ∧ s.SameBut [.mem, .claims, .channels, .retries, .jobs] t) ∧
    ((s.seg r.seg).power ≠ .off → s.segRetries r.seg = true → exec (.plateAccessRetry k) s = .next s) ∧
    ((s.seg r.seg).power = .off → ∃ t, exec (.plateAccessRetry k) s = .next t ∧ (t.job r.who.job).killed = some 0x30 ∧ t.retries = s.retries.eraseIdx k ∧
      t.reg 0 pgPLT 0x118 = satAdd 0xFFFFFFFF (s.reg 0 pgPLT 0x118) 1)) ∧
  (∀ (fn n v : Nat) (s : State), s.Open fn → n < 34 → (s.seg n).withdrawn = false → s.shows fn (pgPS n) = true → s.mode (pgPS n) = 0 →
    (s.modeUnit (pgPS n)).pending = 0 → 23 ≤ fld v 5 0 → fld v 5 0 ≤ 34 → (fld v 31 23 * 2 ^ 23 + (s.seg n).windowHiStaged * 2 ^ 32) % 2 ^ fld v 5 0 = 0 →
    exec (.psCacheBaseWrite fn n v) s = .next { s with
      segs := Tab.put {} s.segs n { s.seg n with windowBase := fld v 31 23 * 2 ^ 23 + (s.seg n).windowHiStaged * 2 ^ 32, windowLog2 := fld v 5 0 } })

/-- R154, R156, R405: PS_POWER takes the drain limit and the request; a segment at rest starts the transition asked for, one under a pending mode change or a spare-in refuses it. A drained segment
is OFF with its contents lost, a woken one ON and burnished, unless the request has turned; at the drain limit the power-down is abandoned.
Where the spec leaves it open the statement follows the model's choices of log entries 4, 59, 76. -/
def Obligations.PlatePower : Prop :=
  (∀ (n v : Nat) (s : State), s.Wf → s.Open 0 → n < 34 → (s.seg n).withdrawn = false → s.moving 1 n = false →
    (let g := s.seg n
     let y : Seg := { g with drainLimit := fld v 31 16 }
     (bit v 0 = g.req → exec (.psPowerWrite n v) s = .next { s with segs := Tab.put {} s.segs n y }) ∧
     (bit v 0 ≠ g.req → (s.modeUnit (pgPS n)).pending = 0 → s.sparing 1 n = false →
       ∃ t, exec (.psPowerWrite n v) s = .next t ∧
         t.seg n = (if bit v 0 && g.power = .on then { y with req := true, power := .draining, drainStart := s.ticks }
                    else if !bit v 0 && g.power = .off then { y with req := false, power := .waking } else { y with req := bit v 0 }) ∧
         (∀ m, m ≠ n → t.seg m = s.seg m) ∧ s.SameBut [.segs] t) ∧
     (bit v 0 ≠ g.req → (s.modeUnit (pgPS n)).pending ≠ 0 ∨ s.sparing 1 n = true →
       ∃ t, exec (.psPowerWrite n v) s = .next t ∧ t.seg n = y ∧ s.SameBut [.segs, .regs, .vecs] t))) ∧
  (∀ (n : Nat) (s : State), s.Wf → s.svc.halted = false →
    ((s.seg n).power = .draining → (s.seg n).inReads = 0 → (s.seg n).inWrites = 0 →
      ∃ t, exec (.psDrainDone n) s = .next t ∧ (t.seg n).power = (if (s.seg n).req then .off else .waking) ∧
        (∀ o, o < segSize → Tab.get 0 t.mem (plateBase + n * segSize + o) = 0) ∧ (∀ k, k < 65536 → Tab.get {} t.lines (n * 65536 + k) = {}) ∧
        s.SameBut (.segs :: gddrFields) t) ∧
    ((s.seg n).power = .waking →
      ∃ t, exec (.psWakeDone n) s = .next t ∧ (t.seg n).power = (if (s.seg n).req then .draining else .on) ∧
        (∀ o, o < segSize → Tab.get 0 t.mem (plateBase + n * segSize + o) = 0) ∧ (∀ k, k < 65536 → Tab.get {} t.lines (n * 65536 + k) = {}) ∧
        s.SameBut [.segs, .badWords, .mem, .lines, .plru] t) ∧
    ((s.seg n).power = .draining → (s.seg n).drainStart + (s.seg n).drainLimit ≤ s.ticks →
      ∃ t, exec (.drainLimitExpiry n) s = .next t ∧ t.seg n = { s.seg n with power := .on, req := false } ∧ (∀ m, m ≠ n → t.seg m = s.seg m) ∧
        t.fresh = s.fresh + 1 ∧ s.SameBut (.segs :: .fresh :: reportFields) t))


/-! ## The lettering engine -/

/-- R163, R164, R167, R172, R173, R175, R177, R179: the operations of the lettering engine that nothing hinders are carried out: let.join leaves a WAITING session in its group's list and stays in
its slot; let.step, once no session still waits for its mask, commits the next step in the other copy; let.tok and let.detok; let.bind binds or unbinds its slot with a new generation.
Where the spec leaves it open the statement follows the model's choices of log entries 20, 21, 22, 23, 26, 41, 45, 47, 128. -/
def Obligations.LetteringStrokes : Prop :=
  ∀ (id i : Nat) (s : State),
    (let j := s.job id
     let t0 := j.stroke i
     let join := parseJoin (s.bytesAt (t0.opnds.getD 0 0) 64)
     let rec_ := parseStep (s.bytesAt (t0.opnds.getD 0 0) 64)
     (∀ n, t0.place = some (.session n) → s.Unhindered 0x05 0x01 id i (joinOp id i) →
       ∃ t, exec (.letJoin id i) s = .next t ∧ t = s.carried true id i (joinOp id i s j t0) ∧ (t.session n).state = .waiting ∧ (t.session n).job = id ∧
         (t.session n).idx = i ∧ (t.session n).group = join.group ∧ (t.group join.group).owner = j.part + 1 ∧ n ∈ (t.group join.group).waiting) ∧
     (s.Unhindered 0x05 0x02 id i stepOp → (s.group rec_.group).slots.any (fun e => s.awaitsMask e.2) = false →
       ∃ t, exec (.letStep id i) s = .next t ∧ t = s.carried false id i (stepOp s j t0) ∧ (t.group rec_.group).step = (s.group rec_.group).step + 1 ∧
         (t.group rec_.group).copy = 1 - (s.group rec_.group).copy) ∧
     (s.svc.halted = false → (s.group rec_.group).slots.any (fun e => s.awaitsMask e.2) = true → exec (.letStep id i) s = .next s) ∧
     (s.Unhindered 0x05 0x03 id i tokOp → exec (.letTok id i) s = .next (s.carried false id i (tokOp s j t0))) ∧
     (s.Unhindered 0x05 0x04 id i detokOp → exec (.letDetok id i) s = .next (s.carried false id i (detokOp s j t0))) ∧
     (s.Unhindered 0x05 0x08 id i bindOp →
       ∃ t, exec (.letBind id i) s = .next t ∧ t = s.carried false id i (bindOp s j t0) ∧
         (let a := t0.opnds.getD 0 0
          let n := fld t0.param 4 0
          if bit t0.param 8 then t.gramSlot n = { owner := if a = 0 then 0 else j.part + 1, base := a, gen := (s.gramSlot n).gen + 1 }
          else t.vocabSlot n = { owner := if a = 0 then 0 else j.part + 1, base := a, gen := (s.vocabSlot n).gen + 1 })))

/-- R180, R181, R182: a walked mask is ready; at the deadline of a let.step every session without a mask is late; a session that the host stops is free at once while it waits, and is
marked while it holds a slot, and the stop of a FREE session does nothing; a write of the mask cache's registers empties it.
Where the spec leaves it open the statement follows the model's choices of log entries 4, 22, 46. -/
def Obligations.LetteringEvents : Prop :=
  (∀ (n : Nat) (s : State), s.Wf → s.svc.halted = false → (s.session n).grammar ≠ 0xFF → (s.session n).ready = false →
    ((s.session n).state = .waiting ∨ (s.session n).state = .active) →
    ∃ t, exec (.maskWalkDone n) s = .next t ∧ t.session n = { s.session n with ready := true } ∧ (∀ m, m ≠ n → t.session m = s.session m) ∧
      s.SameBut ([.sessions, .maskTags, .fresh] ++ gddrFields) t) ∧
  (∀ (id i : Nat) (s : State), s.Wf → s.svc.halted = false → s.runningStep = some (id, i) →
    ((s.job id).stroke i).startTick + fld (s.reg 0 pgLET 0x114) 31 20 ≤ s.ticks →
    ∃ t, exec .stepDeadline s = .next t ∧
      (∀ e ∈ (s.group (parseStep (s.bytesAt (((s.job id).stroke i).opnds.getD 0 0) 64)).group).slots,
        s.awaitsMask e.2 = true → t.session e.2 = { s.session e.2 with late := true }) ∧ s.SameBut [.sessions] t) ∧
  (∀ (v : Nat) (s : State), s.Wf → s.Open 0 →
    ((s.session (v % 16384)).state = .waiting →
      ∃ t, exec (.letSessionStop v) s = .next t ∧ t.session (v % 16384) = {} ∧ v % 16384 ∉ (t.group (s.session (v % 16384)).group).waiting) ∧
    ((s.session (v % 16384)).state = .active ∨ (s.session (v % 16384)).state = .closing →
      exec (.letSessionStop v) s = .next { s with sessions := Tab.put {} s.sessions (v % 16384) { s.session (v % 16384) with stopped := true } }) ∧
    ((s.session (v % 16384)).state = .free → exec (.letSessionStop v) s = .next s)) ∧
  (∀ (v : Nat) (s : State), s.Wf → s.Open 0 →
    (∃ t, exec (.letMaskCfgWrite 0x10C v) s = .next t ∧ t.maskTags = [] ∧ t.reg 0 pgLET 0x10C = v / 0x10000 % 0x10000 * 0x10000 ∧
      t.base pgLET 0x10C = v / 0x10000 % 0x10000 * 0x10000 + s.reg 0 pgLET 0x110 * 2 ^ 32 ∧ s.SameBut [.regs, .bases, .maskTags] t) ∧
    (∃ t, exec (.letMaskCfgWrite 0x110 v) s = .next t ∧ t.maskTags = [] ∧ t.reg 0 pgLET 0x110 = v % 0x10000 ∧ s.SameBut [.regs, .maskTags] t) ∧
    (∃ t, exec (.letMaskCfgWrite 0x114 v) s = .next t ∧ t.maskTags = [] ∧ t.reg 0 pgLET 0x114 = Nat.land v 0xFFF03F1F ∧ s.SameBut [.regs, .maskTags] t))


/-! ## The media engine -/

/-- R191, R192, R193, R195, R197, R204, R205, R207, R213: the media strokes that nothing hinders are carried out, each in its turn within its context: med.open leaves the context as its block
says, med.close CLOSED, med.class in its class; med.decode, med.encode and med.page leave their pictures in the queue and stay; med.cws, whose buffers are there, writes its output, and without them
keeps nothing and waits. A med.close whose turn has not come tells that the last picture of its stream has ended.
Where the spec leaves it open the statement follows the model's choices of log entries 26, 32, 33, 41, 82, 120. -/
def Obligations.MediaStrokes : Prop :=
  ∀ (id i : Nat) (s : State),
    (let j := s.job id
     let t0 := j.stroke i
     let c := fld t0.param 7 0
     (s.medTurn id i true = true → s.Unhindered 0x06 0x01 id i medOpenOp →
       ∃ t, exec (.medOpen id i) s = .next t ∧ t = s.carried false id i (medOpenOp s j t0) ∧
         t.stream c = parseStream (j.part + 1) (s.bytesAt (t0.opnds.getD 0 0) 64)) ∧
     (s.medTurn id i true = true → s.Unhindered 0x06 0x04 id i medCloseOp →
       ∃ t, exec (.medClose id i) s = .next t ∧ t = s.carried false id i (medCloseOp s j t0) ∧ (t.stream c).state = 0 ∧ (t.stream c).dpb = [] ∧ (t.stream c).group = 0 ∧
         (t.stream c).owner = (s.stream c).owner) ∧
     (s.medTurn id i true = false → exec (.medOpen id i) s = .next s) ∧
     (s.Wf → s.svc.halted = false → s.medTurn id i true = false → s.runnable id i 0x06 0x04 = true →
       ∃ t, exec (.medClose id i) s = .next t ∧ s.SameBut [.medQueue] t ∧ t.medQueue.length = s.medQueue.length ∧
         ∀ w ∈ t.medQueue, w.ctx = c → w.kind = .decode → w.tail = false) ∧
     (s.medTurn id i false = true → s.Unhindered 0x06 0x05 id i medClassOp → t0.place = some .media →
       ∃ t, exec (.medClass id i) s = .next t ∧ t = s.carried false id i (medClassOp s j t0) ∧ t.stream c = { s.stream c with cls := fld t0.param 9 8 } ∧
         s.SameBut [.streams, .jobs] t) ∧
     (∀ pics sets opens, s.medTurn id i false = true → s.Unhindered 0x06 0x02 id i (medDecodeOp id i pics sets opens) →
       ∃ t, exec (.medDecode id i pics sets opens) s = .next t ∧ t = s.carried true id i (medDecodeOp id i pics sets opens s j t0) ∧
         ((t.job id).stroke i).begun = true ∧ s.medQueue.map (·.id) <+: t.medQueue.map (·.id)) ∧
     (s.medTurn id i false = true → s.Unhindered 0x06 0x03 id i (medEncodeOp id i) →
       ∃ t, exec (.medEncode id i) s = .next t ∧ t = s.carried true id i (medEncodeOp id i s j t0) ∧ t.medQueue.length = s.medQueue.length + 1 ∧ t.medNext = s.medNext + 1) ∧
     (∀ page, s.Unhindered 0x06 0x08 id i (medPageOp id i page) →
       ∃ t, exec (.medPage id i page) s = .next t ∧ t = s.carried true id i (medPageOp id i page s j t0) ∧ t.medQueue.length = s.medQueue.length + 1 ∧
         t.medNext = s.medNext + 1) ∧
     (cwsWaits id i s = none → State.Unhindered { s with fresh := s.fresh + 1 } 0x06 0x10 id i (medCwsOp id i (Config.freeValue s.fresh)) →
       exec (.medCws id i) s = .next (State.carried { s with fresh := s.fresh + 1 } false id i
         (medCwsOp id i (Config.freeValue s.fresh) { s with fresh := s.fresh + 1 } j t0))) ∧
     (∀ es, s.svc.halted = false → cwsWaits id i s = some es → exec (.medCws id i) s = .next (s.applyAll es)))

/-- R194, R196, R198-R200, R202-R209, R215: the first picture that a free core may serve starts there, with a buffer, and waits without one; it is tried again, and at the limit
dropped, or its job killed; the last part of a picture, or a page, frees its core and leaves the queue once its accesses go through, an earlier part leaves its damage with the others; an encoded
picture's bytes and their count are written, or with too many bytes a count of 0; a LIVE picture is found late or in time as it finishes a row, and asserts the panic when it is late, which ends at
its limit; a parity detection ends the job; MED_CTX_CLASS sets class and deadline of an open context, but no class 3, and nothing of a CLOSED one.
Where the spec leaves it open the statement follows the model's choices of log entries 4, 32, 82, 91, 128. -/
def Obligations.MediaEvents : Prop :=
  (∀ (w : MedWork) (n : Nat) (s : State), s.Wf → s.svc.halted = false → s.nextWork = some (w, n) →
    (w.handle ≠ 0 ∨ w.kind = .encode ∨ w.pic.existing = true ∨ w.intake.isSome = true → ∃ t, exec .pictureStart s = .next t ∧ (t.core n).work = w.id + 1 ∧
      (t.core n).rows = 0 ∧ s.SameBut [.cores, .medQueue] t) ∧
    (w.handle = 0 → w.kind ≠ .encode → w.pic.existing = false → w.intake = none → (∀ v ∈ s.medQueue, v.id = w.id → v = w) →
      (let al := allocate s w.owner w.pool (pictureBytes w.pic.width w.pic.height w.format)
       (∀ h a, al.1 = .got h a →
         ∃ t, exec .pictureStart s = .next t ∧ (t.core n).work = w.id + 1 ∧ ∃ v ∈ t.medQueue, v.id = w.id ∧ v.handle = h + 1 ∧ v.core = some n) ∧
       (al.1 = .wait ∨ al.1 = .empty → al.2 s = [] →
         exec .pictureStart s = .next { s with medQueue := s.medQueue.map (fun v =>
           if v.order = w.order then { v with waitSince := some (v.waitSince.getD s.ticks), tried := s.ticks } else v) }) ∧
       (al.1 = .noFit → w.isPage = false →
         ∃ t, exec .pictureStart s = .next t ∧ (∀ v ∈ t.medQueue, v.order ≠ w.order) ∧
           (t.stream w.ctx).dropped = satAdd 0xFFFFFFFF (s.stream w.ctx).dropped 1)))) ∧
  (∀ (w : MedWork) (t0 : Nat) (s : State), s.Wf → s.svc.halted = false → s.medQueue.find? (fun v => v.id == w.id) = some w → w.waitSince = some t0 →
    (w.tried + 100 ≤ s.ticks → ∀ h a, (allocate s w.owner w.pool (pictureBytes w.pic.width w.pic.height w.format)).1 = .got h a →
      ∃ t, exec (.poolWaitRetry w.id) s = .next t ∧ (∀ v ∈ t.medQueue, v.order = w.order → v.handle = h + 1 ∧ v.waitSince = none) ∧
        s.SameBut ([.medQueue] ++ refFields) t) ∧
    (t0 + s.reg 0 pgMED 0x128 % 2 ^ 16 ≤ s.ticks →
      (w.isPage = false → ∃ t, exec (.medPoolWaitExpiry w.id) s = .next t ∧ (∀ v ∈ t.medQueue, v.order ≠ w.order) ∧
        (t.stream w.ctx).dropped = satAdd 0xFFFFFFFF (s.stream w.ctx).dropped 1) ∧
      (w.isPage = true → (s.job w.job).phase = .running → (s.job w.job).killed = none →
        ∃ t, exec (.medPoolWaitExpiry w.id) s = .next t ∧ (t.job w.job).killed = some 0x32))) ∧
  (∀ (n : Nat) (damaged : List Nat) (coded : List Byte) (w : MedWork) (s : State), s.Wf → s.svc.halted = false → s.workOn n = some w → w.isPage = false →
    (∀ v ∈ s.medQueue, v.id = w.id → v = w) →
    (∀ v ∈ s.medQueue, v.order = w.order → v.id ≠ w.id →
      ∃ t, exec (.pictureDone n damaged coded) s = .next t ∧ (t.core n).work = 0 ∧ (t.core n).panic = false ∧ (∀ u ∈ t.medQueue, u.id ≠ w.id) ∧
        { v with damaged := v.damaged ++ damaged } ∈ t.medQueue ∧ s.SameBut [.cores, .medQueue, .regs] t) ∧
    ((∀ v ∈ s.medQueue, v.order = w.order → v = w) → w.kind = .decode →
      (let s2 := { s with fresh := s.fresh + 2 }
       let x := s.stream w.ctx
       let units := (w.damaged ++ damaged).dedup
       let rows := if w.pic.existing then []
         else decodedRows s2 (bufferDesc s2 (w.handle - 1) w.pic.width w.pic.height w.format) w.pic.unit units
           ((x.nearestRef w).map (fun d => bufferDesc s2 d.handle d.width d.height d.format)) (Config.freeValue s.fresh) (Config.freeValue (s.fresh + 1))
       let y := x.afterPicture w units.length
       let outs := if y.group = 0 then y.leaving w.pic.outputs else []
       s2.Granted w.job { cls := 0, core := some n } (y.ringReads outs) (rows ++ y.ringWrites s2 outs) →
       ∃ t, exec (.pictureDone n damaged coded) s = .next t ∧ (t.core n).work = 0 ∧ (t.core n).panic = false ∧ ∀ v ∈ t.medQueue, v.id ≠ w.id)) ∧
    ((∀ v ∈ s.medQueue, v.order = w.order → v = w) → w.kind = .encode →
      (let s1 := { s with fresh := s.fresh + 1 }
       let t0 := (s.job w.job).stroke w.idx
       let excess := decide (t0.opnds.getD 3 0 < coded.length)
       let x := s.stream w.ctx
       let newSweep := bit t0.param 8
       let writes := (if excess then [] else [(t0.opnds.getD 1 0, coded)]) ++ [(t0.opnds.getD 2 0, leBytes 4 (if excess then 0 else coded.length))]
       s1.Granted w.job { cls := 0, core := some n } [] writes →
       ∃ t, exec (.pictureDone n damaged coded) s = .next t ∧ (t.core n).work = 0 ∧ (∀ v ∈ t.medQueue, v.id ≠ w.id) ∧ t.mem = (s.storeAll w.job writes).mem ∧
         t.stream w.ctx = x.coded' (encodePlan x newSweep (Config.freeValue s.fresh)) newSweep excess))) ∧
  (∀ (d : Nat) (errors : List Nat) (w : MedWork) (s : State), s.Wf → s.svc.halted = false → d < 4 → s.workOn (16 + d) = some w → w.intake = none →
    (let o := { bufferDesc s (w.handle - 1) w.pic.width w.pic.height w.format with fullRange := true, context := 0xFF }
     let r := decodedPage s w.page o errors
     let writes := r.1 ++ [(((s.job w.job).stroke w.idx).opnds.getD 1 0, PicDesc.bytes { o with concealed := r.2, flags := bitAt (r.2 != 0) 0 })]
     s.Granted w.job { cls := 1 } [] writes →
     ∃ t, exec (.pageDecodeDone d errors) s = .next t ∧ (t.core (16 + d)).work = 0 ∧ (∀ v ∈ t.medQueue, v.id ≠ w.id) ∧ t.mem = (s.storeAll w.job writes).mem)) ∧
  (∀ (n : Nat) (w : MedWork) (s : State), s.Wf → s.svc.halted = false → n < 8 → s.workOn n = some w →
    (let c := s.core n
     let rows := max 1 w.pic.rows
     let done := min rows (c.rows + 1)
     let late := c.cls == 2 && !c.cut && (match w.deadline with
       | some due => decide (due * (rows * 1000) < s.ticks * (rows * 1000) +
           ((rows - done) * codedSamples (s.stream w.ctx).codec w.pic.width w.pic.height + fld (s.reg 0 pgMED 0x120) 15 0 * rows * 1000))
       | none => false)
     (∃ t, exec (.ctuRowDone n) s = .next t ∧ t.core n = { c with rows := done, panic := late, panicStart := if c.panic then c.panicStart else s.ticks } ∧
       fld (t.reg 0 pgMED 0x124) 15 0 = (if late && !c.panic then satAdd 0xFFFF (fld (s.reg 0 pgMED 0x124) 15 0) 1 else fld (s.reg 0 pgMED 0x124) 15 0) ∧
       s.SameBut [.cores, .regs] t) ∧
     (c.panic = true → c.panicStart + fld (s.reg 0 pgMED 0x120) 31 16 ≤ s.ticks →
       ∃ t, exec (.panicMaxExpiry n) s = .next t ∧ t.core n = { c with panic := false, cut := true } ∧ s.SameBut (.cores :: reportFields) t) ∧
     ((s.job w.job).phase = .running → (s.job w.job).killed = none → s.reserve.queue = [] →
       ∃ t, exec (.mediaParityDetect (.core n)) s = .next t ∧ (t.job w.job).killed = some 0x31))) ∧
  (∀ (d : Nat) (w : MedWork) (s : State), s.Wf → s.svc.halted = false → s.workOn (16 + d) = some w → (s.job w.job).phase = .running → (s.job w.job).killed = none →
    ∃ t, exec (.mediaParityDetect (.page d)) s = .next t ∧ (t.job w.job).killed = some 0x31) ∧
  (∀ (id i : Nat) (s : State), s.Wf → s.svc.halted = false → (s.job id).phase = .running → (s.job id).killed = none → ((s.job id).stroke i).state = .running →
    (((s.job id).stroke i).cls = 6 ∧ ((s.job id).stroke i).op = 0x10 ∨ ((s.job id).stroke i).cls = 7 ∧ ((s.job id).stroke i).op = 2) →
    ∃ t, exec (.mediaParityDetect (.cws id i)) s = .next t ∧ (t.job id).killed = some 0x31) ∧
  (∀ (v c : Nat) (s : State), s.Open 0 → c = s.reg 0 pgMED 0x104 % 256 →
    ((s.stream c).state ≠ 0 →
      exec (.medCtxClassWrite v) s = .next { s with
        streams := Tab.put {} s.streams c { s.stream c with cls := (if fld v 31 30 = 3 then (s.stream c).cls else fld v 31 30), deadline := fld v 23 0 } }) ∧
    ((s.stream c).state = 0 → exec (.medCtxClassWrite v) s = .next s))


/-! ## The intake pipeline and sensor registration -/

/-- R221, R223, R234, R237: the strokes of the intake pipeline that nothing hinders are carried out: int.open opens its context on its block and int.close closes it, int.epoch starts its epoch and
stays in the pipeline, int.regopen opens a group over its member contexts and int.regclose closes it, its contexts returning to their rings.
Where the spec leaves it open the statement follows the model's choices of log entries 26, 34, 41. -/
def Obligations.IntakeStrokes : Prop :=
  ∀ (id i : Nat) (s : State),
    (let j := s.job id
     let t0 := j.stroke i
     let a := t0.opnds.getD 0 0
     let c := fld t0.param 2 0
     let g := fld t0.param 3 0
     let e := s.bytesAt a 64
     (s.Unhindered 0x07 0x01 id i intOpenOp →
       ∃ t, exec (.intOpen id i) s = .next t ∧ t = s.carried false id i (intOpenOp s j t0) ∧
         t.intake c = { owner := j.part + 1, state := 1, block := s.bytesAt a 64 }) ∧
     (s.Unhindered 0x07 0x03 id i intCloseOp →
       ∃ t, exec (.intClose id i) s = .next t ∧ t = s.carried false id i (intCloseOp s j t0) ∧ t.intake c = { s.intake c with state := 0, window := [], kept := [] }) ∧
     (s.Unhindered 0x07 0x02 id i (epochStartOp id i) →
       ∃ t, exec (.intEpoch id i) s = .next t ∧ t = s.carried true id i (epochStartOp id i s j t0) ∧ ((t.job id).stroke i).begun = true ∧
         (let x := t.intake c
          { x with sent := 0, window := [] } = { s.intake c with state := 2, epoch := e, job := id, idx := i, next := rdN e 4 4, sent := 0, window := [],
                                                                 tail := s.numAt (rdN e 0x10 6) 4, batches := 0, valid := 0, hits := 0, decodes := 0, corrupt := [] } ∧
          x.next ≤ x.sent ∧ ∀ p, Tab.get .pending x.window p ≠ .pending → x.next ≤ p ∧ p < x.sent ∧ Tab.get .pending x.window p = .fetch s.ticks)) ∧
     (s.Unhindered 0x07 0x08 id i regOpenOp →
       (let ctxs := (List.range (fld (rdN e 0 1) 3 0)).map (fun k => rdN e (0x18 + k) 1)
        ∃ t, exec (.intRegopen id i) s = .next t ∧ t = s.carried false id i (regOpenOp s j t0) ∧ (t.regGroup g).isOpen = true ∧ (t.regGroup g).contexts = ctxs ∧
          (t.regGroup g).sets = [] ∧ ∀ k x, ctxs[k]? = some x → (t.stream x).group = g + 1 ∧ (t.stream x).member = k)) ∧
     (s.Unhindered 0x07 0x09 id i regCloseOp →
       ∃ t, exec (.intRegclose id i) s = .next t ∧ t = s.carried false id i (regCloseOp s j t0) ∧ (t.regGroup g).isOpen = false ∧ (t.regGroup g).sets = [] ∧
         (t.regGroup g).arrivals = [] ∧ ∀ x, (t.stream x).group ≠ g + 1))

/-- R223-R227, R229-R233, R235, R236: a dispatched sample whose accesses go through is decided: corrupt with its reason, raw bytes as they are, or a picture in a buffer, cached where its object
fits; without a buffer it waits; at its time limit it is corrupt with reason 5, and DECODE_LIMIT is shown. The batch that is served first is written and counted, and the epoch ends with its last; a
picture that arrives at a group joins the nearest open set, opens one, or is late, and with 16 sets open the lowest one leaves first; a set whose deadline has passed leaves its group, emitted or, with
a full ring, dropped.
Where the spec leaves it open the statement follows the model's choices of log entries 4, 32, 34, 91, 121, 122, 128. -/
def Obligations.IntakeEvents : Prop :=
  (∀ (c p : Nat) (page : PageInfo) (errors : List Nat) (s : State), s.Wf → s.svc.halted = false → c < 8 → (runsOnUnit s c p).isSome = true →
    (let x := s.intake c
     let j := s.job x.job
     let i := x.sampleAt p
     let ra := recordAddr s x i
     let a := ra.1
     let n := (recordFault s x j a).2
     let waited := match Tab.get .pending x.window p with | .waiting _ => true | _ => false
     let reads := if waited then [] else ra.2 ++ [(a, n)]
     let b := s.bytesAt a n
     let lab := (b.drop (32 + rdN b 4 4)).take (rdN b 8 4)
     ((recordFault s x j a).1 ≠ 0 → sampleEnd s x j a page errors = .corrupt (recordFault s x j a).1) ∧
     ((recordFault s x j a).1 = 0 → crc32c (s.bytesAt a (n - 4)) = s.numAt (a + n - 4) 4) ∧
     ((recordFault s x j a).1 = 0 → s.numAt (a + 2) 1 = 3 → sampleEnd s x j a page errors = .raw) ∧
     ((recordFault s x j a).1 = 0 → s.numAt (a + 2) 1 = 1 → page.ok = false → sampleEnd s x j a page errors = .corrupt 4) ∧
     (waited = true ∨ (s.samplePage c p).isSome = true ∨ needsPage s x j a = false →
       (∀ r, sampleEnd s x j a page errors = .corrupt r → s.Granted x.job { cls := 1 } reads [(x.indexAddr i, corruptWord r)] →
         ∃ t, exec (.sampleDecodeDone c p page errors) s = .next t ∧ Tab.get .pending (t.intake c).window p = .ready { reason := r, id := recordId s j a }) ∧
       (sampleEnd s x j a page errors = .raw → s.Granted x.job { cls := 1 } reads [] →
         ∃ t, exec (.sampleDecodeDone c p page errors) s = .next t ∧
           Tab.get .pending (t.intake c).window p = .ready { id := recordId s j a, label := lab, raw := true, data := (b.drop 32).take (rdN b 4 4) } ∧
           (t.intake c).decodes = x.decodes + 1) ∧
       (∀ spec w h, sampleEnd s x j a page errors = .picture spec w h →
         (let fmt := pageFormat spec
          let al := allocate s j.part x.pool (pictureBytes w h fmt)
          (∀ hd ad, al.1 = .got hd ad →
            (let o := { bufferDesc s hd w h fmt with fullRange := true, context := 0xFF }
             s.Granted x.job { cls := 1 } reads ((decodedPage s spec o errors).1 ++ cacheWrites x i w h fmt) →
             ∃ t d, exec (.sampleDecodeDone c p page errors) s = .next t ∧ Tab.get .pending (t.intake c).window p = .ready d ∧ d.reason = 0 ∧ d.label = lab ∧
               (x.fits (objectBytes w h fmt) = false → d.handle = hd + 1 ∧ (t.intake c).cached = x.cached) ∧
               (x.fits (objectBytes w h fmt) = true → d.handle = 0 ∧ (t.intake c).cached = x.cached + 1 ∧ (t.intake c).used = x.used + objectBytes w h fmt))) ∧
          (al.1 = .wait ∨ al.1 = .empty → al.2 s = [] → waited = false → s.Granted x.job { cls := 1 } reads [] →
            ∃ t, exec (.sampleDecodeDone c p page errors) s = .next t ∧ Tab.get .pending (t.intake c).window p = .waiting s.ticks)))) ∧
     (∀ since, runsOnUnit s c p = some since → waited = false → since + s.reg 0 pgINT 0x100 % 2 ^ 16 * 1000 ≤ s.ticks →
       s.Granted x.job { cls := 1 } [] [(x.indexAddr i, corruptWord 5)] →
       ∃ t, exec (.decodeLimitExpiry c p) s = .next t ∧ Tab.get .pending (t.intake c).window p = .ready { reason := 5, id := recordId s j a } ∧
         bit (t.reg 0 pgINT 0x018) 0 = true ∧ s.SameBut ([.intakes, .mem, .claims, .channels, .parts, .cores, .medQueue, .medNext] ++ reportFields) t))) ∧
  (∀ (c : Nat) (s : State), s.Wf → s.svc.halted = false → nextEmitter s = some c →
    (let s1 := { s with fresh := s.fresh + 1 }
     let x := s.intake c
     let j := s.job x.job
     let r := x.scan s
     let next := r.nextPos x
     let k := x.tail % x.bufs
     let last := decide (r.stop = .last)
     let corrupt := if last then r.corrupt else r.corrupt.filter (fun e => decide (e.1 < next))
     let y := x.afterBatch r.slots corrupt next (!r.slots.isEmpty)
     let o := s1.operand j (x.ep 0x20 6 + 64 * k)
     let cw := epochCws s1 x.epoch
     let reads := if r.slots.isEmpty then [] else batchReads s1 x o cw r.slots
     let writes := (if r.slots.isEmpty then [] else (batchTensor s1 x o cw (Config.freeValue s.fresh) r.slots).writes ++ batchMeta x k r.slots ++
       [(x.ep 0x10 6 + 64 + k * 64, batchDesc x k next last r.slots), (x.ep 0x10 6, leBytes 4 ((x.tail + 1) % 2 ^ 32))]) ++
       (if last then [(x.blk 0x28 6, epochReport y)] else [])
     s1.Granted x.job { cls := 1 } reads writes →
     ∃ t, exec .batchEmit s = .next t ∧
       (last = false → { t.intake c with sent := y.sent, window := y.window } = y ∧ ((∀ e ∈ r.slots, e.2.handle = 0) → t.mem = (s.storeAll x.job writes).mem)) ∧
       (last = true → t.intake c = { y with state := 1, window := [] } ∧ ((t.job x.job).stroke x.idx).ran = true))) ∧
  (∀ (n i : Nat) (p : RegPic) (rest : List (Nat × RegPic)) (s : State), s.Wf → s.svc.halted = false → n < 16 → (s.regGroup n).arrivals = (i, p) :: rest →
    (let g := s.regGroup n
     let time := toSigned 64 (ofSigned 64 (toSigned 64 (parsePic p.desc).time + g.offsets.getD i 0))
     (g.sets.length < 16 → ∃ t, exec (.regPictureArrive n) s = .next t ∧ (t.regGroup n).arrivals = rest) ∧
     (∀ x, g.sets = [x] → x.pic i = none → (time - x.anchor).natAbs ≤ g.tol → s.ticks < x.due → (∃ m ∈ g.members, m ≠ i ∧ x.pic m = none) →
       exec (.regPictureArrive n) s = .next { s with
         regGroups := Tab.put {} s.regGroups n { g with arrivals := rest, sets := [{ x with pics := Tab.put none x.pics i (some p) }] } }) ∧
     (g.sets = [] → (∀ a, g.lastAnchor = some a → a + g.tol < time) → 0 < g.deadline → (∃ m ∈ g.members, m ≠ i) →
       exec (.regPictureArrive n) s = .next { s with
         regGroups := Tab.put {} s.regGroups n { g with arrivals := rest, sets := [{ anchor := time, due := s.ticks + g.deadline, pics := [(i, some p)] }] } }) ∧
     (∀ a, g.sets = [] → g.lastAnchor = some a → time ≤ a + g.tol →
       ∃ t, exec (.regPictureArrive n) s = .next t ∧ (t.regGroup n).late = satAdd 0xFFFFFFFF g.late 1 ∧ (t.regGroup n).sets = []) ∧
     (∀ x xs, g.sets = x :: xs → 16 ≤ g.sets.length → setReady s g x = false → nearestSet g i time = none → (∀ a, g.lastAnchor = some a → a + g.tol < time) →
       s.PartGranted (g.owner - 1) [(g.ring + 4, 4)] (setWrites s g x true) →
       ∃ t, exec (.regPictureArrive n) s = .next t ∧ (t.regGroup n).arrivals = rest ∧ bit (t.reg 0 pgINT 0x018) 2 = true))) ∧
  (∀ (n : Nat) (x : RegSet) (s : State), s.Wf → s.svc.halted = false → n < 16 → (s.regGroup n).sets = [x] → x.due ≤ s.ticks →
    (let g := s.regGroup n
     s.PartGranted (g.owner - 1) [(g.ring + 4, 4)] (setWrites s g x false) →
     (g.full s = false →
       ∃ t, exec (.setDeadlineExpiry n) s = .next t ∧ (t.regGroup n).sets = [] ∧ (t.regGroup n).emitted = (g.emitted + 1) % 2 ^ 32 ∧
         (t.regGroup n).tail = (g.tail + 1) % 2 ^ 32 ∧ (t.regGroup n).lastAnchor = some x.anchor ∧ (t.regGroup n).dropped = g.dropped) ∧
     (g.full s = true →
       ∃ t, exec (.setDeadlineExpiry n) s = .next t ∧ (t.regGroup n).sets = [] ∧ (t.regGroup n).emitted = g.emitted ∧ (t.regGroup n).tail = g.tail ∧
         (t.regGroup n).dropped = satAdd 0xFFFFFFFF g.dropped 1)))


/-! ## The tracking and metadata unit -/

/-- R240, R241, R244, R245, R247, R249, R251, R253, R257, R259: in their turn the strokes of the tracking unit that nothing hinders are carried out: trk.ring opens its ring and trk.ringclose closes it;
trk.open starts tracking on a stream and trk.close ends it; trk.prep notes its picture and trk.update takes it up; trk.text, trk.page and trk.clip write one record.
Where the spec leaves it open the statement follows the model's choices of log entries 26, 35, 41. -/
def Obligations.TrackingStrokes : Prop :=
  ∀ (id i : Nat) (ans : HostAnswer) (s : State), s.trkTurn id i = true →
    (let j := s.job id
     let t0 := j.stroke i
     let a := t0.opnds.getD 0 0
     let c := fld t0.param 7 0
     let k := fld t0.param 5 0
     let s1 := { s with fresh := s.fresh + 1 }
     let f := Config.freeValue s.fresh
     (s.Unhindered 0x08 0x01 id i trkRingOp →
       ∃ t, exec (.trkRing id i) s = .next t ∧ t = s.carried false id i (trkRingOp s j t0) ∧
         t.outRing k = { state := 1, part := j.part, ctrl := s.numAt a 6, data := s.numAt (a + 8) 6, log2 := fld (s.numAt (a + 0x10) 1) 4 0 }) ∧
     (s.Unhindered 0x08 0x02 id i trkRingcloseOp →
       ∃ t, exec (.trkRingclose id i) s = .next t ∧ t = s.carried false id i (trkRingcloseOp s j t0) ∧ t.outRing k = { s.outRing k with state := 0 }) ∧
     (s.Unhindered 0x08 0x04 id i trkOpenOp →
       ∃ t, exec (.trkOpen id i) s = .next t ∧ t = s.carried false id i (trkOpenOp s j t0) ∧ 
         t.track c = { parseTrack j.part (s.bytesAt a 64) with overflow := (s.track c).overflow, full := (s.track c).full, small := (s.track c).small,
                                                               rejected := (s.track c).rejected, stale := (s.track c).stale }) ∧
     (s.Unhindered 0x08 0x05 id i trkCloseOp → t0.place = some .trk →
       ∃ t, exec (.trkClose id i) s = .next t ∧ t.track c = { s.track c with isOpen := false, slots := [], prepped := false } ∧ s.SameBut [.tracks, .jobs] t) ∧
     (s1.Unhindered 0x08 0x06 id i (trkPrepOp f ans) →
       ∃ t, exec (.trkPrep id i ans) s = .next t ∧ t = s1.carried false id i (trkPrepOp f ans s1 j t0) ∧ (t.track c).prepped = true ∧
         (t.track c).prepNumber = s.numAt (t0.opnds.getD 1 0 + 0x28) 4) ∧
     (s1.Unhindered 0x08 0x07 id i (trkUpdateOp i f ans) →
       ∃ t, exec (.trkUpdate id i ans) s = .next t ∧ t = s1.carried false id i (trkUpdateOp i f ans s1 j t0) ∧ (t.track c).prepped = false ∧
         ((s.track c).stalePrep = false → (t.track c).lastNumber = some (s.numAt (t0.opnds.getD 1 0 + 0x28) 4)) ∧
         ((s.track c).stalePrep = true → (t.track c).slots = (s.track c).slots)) ∧
     (s.Unhindered 0x08 0x10 id i (trkTextOp ans) → exec (.trkText id i ans) s = .next (s.carried false id i (trkTextOp ans s j t0))) ∧
     (s.Unhindered 0x08 0x11 id i (trkPageOp ans) → exec (.trkPage id i ans) s = .next (s.carried false id i (trkPageOp ans s j t0))) ∧
     (s.Unhindered 0x08 0x12 id i (trkClipOp ans) →
       ∃ t, exec (.trkClip id i ans) s = .next t ∧ t = s.carried false id i (trkClipOp ans s j t0) ∧
         ((s.outRing k).state = 1 → (s.outRing k).pad 64 + 64 ≤ (s.outRing k).free →
           (t.outRing k).tail = ((s.outRing k).tail + (s.outRing k).pad 64 + 64) % 2 ^ 32 ∧
           (t.outRing k).seq = (if (s.outRing k).seq = 2 ^ 32 - 1 then 1 else (s.outRing k).seq + 1) ∧ (t.outRing k).gap = 0 ∧
           (t.outRing k).dropped = (s.outRing k).dropped)))


/-! ## The Ulzia links -/

/-- R311, R314, R315, R316, R317, R318, R325, R329: a port that trains with its neighbour is UP at the width both have, one without a partner stays DOWN, and one with another partner is a violation; a port of a device in D3hot stays as it is; a retraining,
after flit errors or the loss of its PLL's lock, gives the port back, and the third that fails in a row takes it DOWN; a flit in sequence is taken, any other asks for a replay; a grant within the receive buffer is taken;
NODE and RING take writes while both ports are DOWN.
Where the spec leaves it open the statement follows the model's choices of log entries 24, 49, 91, 55, 134. -/
def Obligations.LinkPorts : Prop :=
  (∀ (p : Nat) (good : List Bool) (s : State), s.Wf → s.svc.halted = false → p < 2 → (s.port p).state < 2 → s.ring ≠ 1 → (s.func 0).d3hot = false →
    exec (.ulzTrain p good none) s = .next { s with ports := Tab.put {} s.ports p { s.port p with state := 0, tried := s.ticks } } ∧
    (∀ node ring width, ring + 1 = s.ring → node = s.neighbour p → laneMap (andLanes (s.port p).good good) ≠ [] → width ≠ 0 →
      ∃ t, exec (.ulzTrain p good (some (node, ring, width))) s = .next t ∧ (t.port p).state = 2 ∧ (t.port p).partner = node ∧ (t.port p).rxSeq = 4095 ∧
        (t.port p).nak = false ∧ (t.port p).width = min (widthOf (laneMap (andLanes (s.port p).good good)).length) (widthOf width)) ∧
    (∀ node ring width, ring + 1 ≠ s.ring ∨ node ≠ s.neighbour p →
      ∃ t, exec (.ulzTrain p good (some (node, ring, width))) s = .next t ∧ (t.port p).state = 0 ∧
        t.reg 0 (pgU p) 0x110 = satAdd 0xFFFFFF (fld (s.reg 0 (pgU p) 0x110) 31 8) 1 * 256 + 1 ∧ s.SameBut (.ports :: reportFields) t)) ∧
  (∀ (p : Nat) (s : State), s.svc.halted = false → p < 2 → (s.port p).state = 0 → s.ring ≠ 1 → (s.func 0).d3hot = false → (s.port p).tried + 100000 ≤ s.ticks →
    exec (.ulzTrainRetry p) s = .next { s with ports := Tab.put {} s.ports p { s.port p with state := 1 } }) ∧
  (∀ (p : Nat) (good : List Bool) (peer : Option (Nat × Nat × Nat)) (s : State), s.svc.halted = false → (s.func 0).d3hot = true →
    exec (.ulzTrain p good peer) s = .next s ∧ exec (.ulzTrainRetry p) s = .next s) ∧
  (∀ (p width : Nat) (good : List Bool) (pll : Bool) (s : State), s.Wf → s.svc.halted = false → p < 2 →
    (s.port p).state = 3 ∨ (pll = true ∧ (s.port p).state = 2) →
    (laneMap (andLanes (s.port p).good good) ≠ [] → width ≠ 0 →
      ∃ t, exec (.ulzRetrain p good width true pll) s = .next t ∧ (t.port p).state = 2 ∧ (t.port p).failed = 0 ∧
        (t.port p).width = min (widthOf (laneMap (andLanes (s.port p).good good)).length) (widthOf width)) ∧
    ((s.port p).failed < 2 →
      ∃ t, exec (.ulzRetrain p good width false pll) s = .next t ∧ (t.port p).state = 3 ∧ (t.port p).failed = (s.port p).failed + 1 ∧ s.SameBut (.ports :: reportFields) t ∧
        fld (t.reg 0 pgCLK 0x110) 15 8 = (if pll then satAdd 0xFF (fld (s.reg 0 pgCLK 0x110) 15 8) 1 else fld (s.reg 0 pgCLK 0x110) 15 8)) ∧
    (2 ≤ (s.port p).failed →
      ∃ t, exec (.ulzRetrain p good width false pll) s = .next t ∧ (t.port p).state = 0 ∧ (t.port p).replay = [] ∧ (∀ x ∈ t.xfers, x.port ≠ p))) ∧
  (∀ (p lane : Nat) (body : List Byte) (s : State), s.Wf → s.svc.halted = false → p < 2 → (s.port p).alive = true → body.length = 0xF8 →
    (let x := s.port p
     let d := (fld (rdN body 0 4) 11 0 + 4096 - (x.rxSeq + 1)) % 4096
     (d = 0 → ∃ t, exec (.flitReceive p body true lane) s = .next t ∧ (t.port p).rxSeq = fld (rdN body 0 4) 11 0 ∧ (t.port p).nak = false) ∧
     (d ≠ 0 → d < 2048 → exec (.flitReceive p body true lane) s = .next { s with ports := Tab.put {} s.ports p { x with nak := true } }) ∧
     (2048 ≤ d → exec (.flitReceive p body true lane) s = .next s) ∧
     (∃ t, exec (.flitReceive p body false lane) s = .next t ∧ (t.port p).nak = true ∧ (t.port p).rxSeq = x.rxSeq ∧ s.SameBut [.ports, .regs] t))) ∧
  (∀ (p g : Nat) (s : State), s.Wf → s.Open 0 → p < 2 → g ≤ 4096 → (∀ k, k < 8 → Tab.get 0 (s.port p).grantNext k = 0) →
    (let x := s.port p
     let vc := s.reg 0 (pgU p) 0x108 % 8
     ((((List.range 8).filter (· != vc)).map x.grantOf).sum + g ≤ 4096 →
       (Tab.get 0 x.used vc = 0 → exec (.uVcCreditWrite p g) s = .next { s with
         ports := Tab.put {} s.ports p { x with grant := Tab.put 0x200 x.grant vc g, grantNext := Tab.put 0 x.grantNext vc 0 } }) ∧
       (Tab.get 0 x.used vc ≠ 0 → exec (.uVcCreditWrite p g) s = .next { s with
         ports := Tab.put {} s.ports p { x with grantNext := Tab.put 0 x.grantNext vc (g + 1) } })) ∧
     (4096 < (((List.range 8).filter (· != vc)).map x.grantOf).sum + g → exec (.uVcCreditWrite p g) s = .next s))) ∧
  (∀ (v : Nat) (s : State), s.Open 0 →
    ((s.port 0).state = 0 → (s.port 1).state = 0 → exec (.ulzNodeWrite v) s = .next { s with
      regs := Tab.put 0 s.regs (regKey 0 pgULZ 0x100) (BitVec.ofNat 32 (Nat.land v 0xF0F)) }) ∧
    ((s.port 0).state ≠ 0 ∨ (s.port 1).state ≠ 0 → exec (.ulzNodeWrite v) s = .next s))

/-- R152, R155, R321, R322, R323, R324, R325: the packets that a node serves: a WRITE stores its data, a READ leaves memory as it is and answers with it, a SEM changes its counter, each answered; one
that meets a segment in transition waits; what may not be served, or comes late, is a violation; an answer ends its transfer, or its job; a packet of a collective reaches it; an answer or a collective
that is late ends the job with FAULT_LINK.
Where the spec leaves it open the statement follows the model's choices of log entries 25, 48, 50, 88, 123, 125, 128. -/
def Obligations.LinkPackets : Prop :=
  (∀ (p : Nat) (k : Packet) (s : State), s.Wf → s.svc.halted = false →
    (let q := s.part k.vc
     let free := q.measure = true ∨ (q.gddr.rate = 0 ∧ q.plate.rate = 0)
     let n := k.data.length - k.pad
     (nextOf (s.port p).inbox (fun k => k.typ == 1) = some k →
       (let r := remoteRange s k.vc k.addr n
        (r.2 = .ok → s.burnishOf [(r.1, zeros n)] = none → s.foreign false r.1 n = none → s.Plain → free →
          (let u := (servePacket p k).run ((memRequests { cls := 7 } true r.1 n).run s)
           exec (.remoteWrite p) s = .next ((answerPacket k 0 []).run { u with mem := Tab.putList 0 s.mem r.1 (k.data.take n) }))) ∧
        (∀ g, r.2 = .retry g → exec (.remoteWrite p) s = .next s) ∧
        (∀ g, r.2 = .refused g ∨ (∃ x, g = some x ∧ r.2 = .late x) → ∃ t, exec (.remoteWrite p) s = .next t ∧ t.reg 0 (pgU p) 0x110 % 256 = 5 ∧ t.mem = s.mem))) ∧
     (nextOf (s.port p).inbox (fun k => k.typ == 2) = some k →
       (let r := remoteRange s k.vc k.addr k.want
        (r.2 = .ok → s.Plain → free →
          (let u := (servePacket p k).run ((memRequests { cls := 7 } false r.1 k.want).run s)
           exec (.remoteRead p) s = .next ((answerPacket k 0 (s.bytesAt r.1 k.want)).run u))) ∧
        (∀ g, r.2 = .retry g → exec (.remoteRead p) s = .next s) ∧
        (∀ g, r.2 = .refused g ∨ (∃ x, g = some x ∧ r.2 = .late x) → ∃ t, exec (.remoteRead p) s = .next t ∧ t.reg 0 (pgU p) 0x110 % 256 = 5 ∧ t.mem = s.mem))) ∧
     (nextOf (s.port p).inbox (fun k => k.typ == 5) = some k → partServes s k.vc = true → fld k.arg 11 0 < q.semCount → (s.semOf k.vc (fld k.arg 11 0)).mutex = false →
       ∃ t, exec (.remoteSem p) s = .next t ∧
         t.semOf k.vc (fld k.arg 11 0) = semChange (s.semOf k.vc (fld k.arg 11 0)) (bit k.arg 16) (fld k.arg 47 32) ∧ s.SameBut [.ports, .sems, .jobs, .parts] t))) ∧
  (∀ (p : Nat) (k : Packet) (x : Xfer) (s : State), s.Wf → s.svc.halted = false →
    nextOf (s.port p).inbox (fun k => k.typ == 3 || k.typ == 4 || k.typ == 6) = some k → s.xfers.find? (fun x => x.tag == k.tag && x.vc == k.vc && x.typ == k.typ) = some x →
    (s.job x.job).phase = .running → (s.job x.job).killed = none →
    (k.status = 0 → k.typ ≠ 3 → ((s.job x.job).stroke x.idx).begun = true → (∀ y ∈ s.xfers.erase x, y.job ≠ x.job ∨ y.idx ≠ x.idx) →
      ∃ t, exec (.linkAnswer p) s = .next t ∧ t.xfers = s.xfers.erase x ∧ ((t.job x.job).stroke x.idx).ran = true ∧ s.SameBut [.ports, .xfers, .jobs, .parts] t) ∧
    (k.status = 0 → k.typ = 3 → s.Granted x.job { cls := 7 } [] [(x.addr, k.data.take x.len)] →
      ∃ t, exec (.linkAnswer p) s = .next t ∧ t.xfers = s.xfers.erase x ∧ t.mem = Tab.putList 0 s.mem x.addr (k.data.take x.len)) ∧
    (k.status ≠ 0 → ∃ t, exec (.linkAnswer p) s = .next t ∧ t.xfers = s.xfers.erase x ∧ (t.job x.job).killed = some (if k.status = 2 then 0x30 else 0x33))) ∧
  (∀ (p : Nat) (k : Packet) (s : State), s.Wf → s.svc.halted = false → nextOf (s.port p).inbox (fun k => k.typ == 7) = some k →
    (s.colls.find? (fun c => c.id == fld k.arg 15 0 && c.vc == k.vc) = none →
      (s.ticks < k.tick + s.reg 0 pgULZ 0x104 % 65536 * 1000 → exec (.collPacket p) s = .next s) ∧
      (k.tick + s.reg 0 pgULZ 0x104 % 65536 * 1000 ≤ s.ticks →
        ∃ t, exec (.collPacket p) s = .next t ∧ t.reg 0 (pgU p) 0x110 % 256 = 8 ∧ s.SameBut (.ports :: reportFields) t)) ∧
    (∀ c, s.colls.find? (fun c => c.id == fld k.arg 15 0 && c.vc == k.vc) = some c → (s.job c.job).phase = .running → (s.job c.job).killed = none →
      (k.status ≠ 0 → ∃ t, exec (.collPacket p) s = .next t ∧ (t.job c.job).killed = some 0x33 ∧ ∀ x ∈ t.colls, x.job ≠ c.job ∨ x.idx ≠ c.idx) ∧
      (let dir := 1 - p
       let step := fld k.arg 31 16
       let chunk := fld k.arg 47 32
       let part := c.part dir chunk
       let g := Tab.get 0 c.got (dir * 2 ^ 32 + step * 2 ^ 16 + chunk)
       let d := k.data.take (part.2 - g)
       let a := c.dst + chunk * c.size + part.1 + g
       k.status = 0 →
       (c.reduce = false → chunk < c.ring → step = c.lastStep → d ≠ [] → s.Granted c.job { cls := 7 } [] [(a, d)] →
         ∃ t, exec (.collPacket p) s = .next t ∧ t.mem = Tab.putList 0 s.mem a d) ∧
       (∀ x, collStep c dir step chunk k.data s = some x → s.Granted c.job { cls := 7 } x.reads x.writes →
         (let total := if c.reduce then c.size else c.size * c.ring
          ∃ t, exec (.collPacket p) s = .next t ∧ t.mem = (s.storeAll c.job x.writes).mem ∧
            (x.next.done < total → x.next ∈ t.colls) ∧
            (total ≤ x.next.done → ((s.job c.job).stroke c.idx).begun = true →
              ((t.job c.job).stroke c.idx).ran = true ∧ ∀ y ∈ t.colls, y.job ≠ c.job ∨ y.idx ≠ c.idx))) ∧
       (collStep c dir step chunk k.data s = none →
         ∃ t, exec (.collPacket p) s = .next t ∧ (t.job c.job).killed = some 0x33 ∧ ∀ x ∈ t.colls, x.job ≠ c.job ∨ x.idx ≠ c.idx)))) ∧
  (∀ (id i start : Nat) (s : State), s.Wf → s.svc.halted = false → (∃ x ∈ s.xfers, x.job = id ∧ x.idx = i ∧ x.start = start) ∨ (∃ c ∈ s.colls, c.job = id ∧ c.idx = i ∧ c.start = start) →
    start + s.reg 0 pgULZ 0x104 % 65536 * 1000 ≤ s.ticks → (s.job id).phase = .running → (s.job id).killed = none →
    ∃ t, exec (.ulzTimeoutExpiry id i) s = .next t ∧ (t.job id).killed = some 0x33 ∧ (∀ y ∈ t.xfers, y.job ≠ id ∨ y.idx ≠ i) ∧ ∀ y ∈ t.colls, y.job ≠ id ∨ y.idx ≠ i)

/-- R320, R322, R323, R324: the link strokes that nothing hinders begin: link.copy and link.sem leave the transfers that they await, link.sem on its own node changes its counter at once,
link.allreduce and link.allgather join their collective, or end their job where one is open under its COLL_ID or a port is DOWN.
Where the spec leaves it open the statement follows the model's choices of log entries 25, 41, 48, 88, 123. -/
def Obligations.LinkStrokes : Prop :=
  ∀ (id i : Nat) (s : State),
    (let j := s.job id
     let t0 := j.stroke i
     let dst := fld (t0.opnds.getD 0 0) 3 0
     let n := fld t0.param 27 16
     (s.Unhindered 0x09 0x01 id i (copyLinkOp id i) →
       ∃ t, exec (.linkCopy id i) s = .next t ∧ t = s.carried true id i (copyLinkOp id i s j t0) ∧
         (∀ d a, copySides t0 = .push d a → d.1 ≠ s.node → ∃ x ∈ t.xfers, x.job = id ∧ x.idx = i ∧ x.typ = 4) ∧
         (∀ d a, copySides t0 = .pull d a → d.1 ≠ s.node → ∃ x ∈ t.xfers, x.job = id ∧ x.idx = i ∧ x.typ = 3)) ∧
     (s.Unhindered 0x09 0x02 id i (semLinkOp id i) →
       ∃ t, exec (.linkSem id i) s = .next t ∧ t = s.carried true id i (semLinkOp id i s j t0) ∧
         (dst ≠ s.node → ∃ x ∈ t.xfers, x.job = id ∧ x.idx = i ∧ x.typ = 6) ∧
         (dst = s.node → n < (s.part j.part).semCount → (s.semOf j.part n).mutex = false →
           t.semOf j.part n = semChange (s.semOf j.part n) (bit t0.param 31) (fld t0.param 15 0) ∧ ((t.job id).stroke i).ran = true)) ∧
     (s.Unhindered 0x09 0x03 id i (allreduceOp id i) →
       ∃ t, exec (.linkAllreduce id i) s = .next t ∧ t = s.carried true id i (allreduceOp id i s j t0) ∧
         (1 < s.ring → (s.port 0).alive = true → (s.port 1).alive = true → (∀ x ∈ s.colls, x.id ≠ fld t0.param 15 0 ∨ x.vc ≠ j.part) →
           ∃ c ∈ t.colls, c.job = id ∧ c.idx = i ∧ c.reduce = true) ∧
         ((s.port 0).alive = false ∨ (s.port 1).alive = false ∨ (∃ x ∈ s.colls, x.id = fld t0.param 15 0 ∧ x.vc = j.part) → (t.job id).killed = some 0x33)) ∧
     (s.Unhindered 0x09 0x04 id i (allgatherOp id i) →
       ∃ t, exec (.linkAllgather id i) s = .next t ∧ t = s.carried true id i (allgatherOp id i s j t0) ∧
         (1 < s.ring → (s.port 0).alive = true → (s.port 1).alive = true → (∀ x ∈ s.colls, x.id ≠ fld t0.param 15 0 ∨ x.vc ≠ j.part) →
           ∃ c ∈ t.colls, c.job = id ∧ c.idx = i ∧ c.reduce = false) ∧
         ((s.port 0).alive = false ∨ (s.port 1).alive = false ∨ (∃ x ∈ s.colls, x.id = fld t0.param 15 0 ∧ x.vc = j.part) → (t.job id).killed = some 0x33)))


/-! ## Buffer pools -/

/-- R279, R280, R281, R283, R284, R285: a pool's enable is refused or taken, and its enabled slices then build their lists; it is disabled only with every buffer free; an allocation is answered with its buffer,
or with what it lacks, and waits for a rebuild; a count is added or released, and freed at 0, or refused and counted; a rebuild ends with the free list of what has no reference.
Where the spec leaves it open the statement follows the model's choices of log entries 50, 51, 99. -/
def Obligations.BufferPools : Prop :=
  (∀ (v : Nat) (s : State), s.Wf → s.Open 0 →
    (let n := s.reg 0 pgPOL 0x108 % 16
     let x := s.pool n
     let y := { x with stepUp := bit v 30, nextEn := bit v 29, next := fld v 27 24, size4k := fld v 17 0 }
     (x.enable = true → bit v 31 = true ∨ (∃ p, p < 8 ∧ (x.slice p).free ≠ (x.slice p).count) → exec (.polPoolEnable v) s = .next s) ∧
     (x.enable = true → bit v 31 = false → (∀ p, p < 8 → (x.slice p).free = (x.slice p).count) →
       exec (.polPoolEnable v) s = .next { s with
         pools := Tab.put {} s.pools n { x with enable := false, slices := x.slices.map (fun e => (e.1, { e.2 with state := 0 })) } }) ∧
     (x.enable = false → bit v 31 = false → exec (.polPoolEnable v) s = .next { s with pools := Tab.put {} s.pools n y }) ∧
     (x.enable = false → bit v 31 = true → poolRefused { s with pools := Tab.put {} s.pools n y } n = true →
       ∃ t, exec (.polPoolEnable v) s = .next t ∧ t.pool n = y ∧ bit (t.reg 0 pgPOL 0x018) 0 = true ∧ s.SameBut [.pools, .regs, .vecs] t) ∧
     (x.enable = false → bit v 31 = true → poolRefused { s with pools := Tab.put {} s.pools n y } n = false →
       ∃ t, exec (.polPoolEnable v) s = .next t ∧ (t.pool n).enable = true ∧ (∀ p, p < 8 → (x.slice p).enable = true → ((t.pool n).slice p).state = 3) ∧
         s.SameBut [.pools] t))) ∧
  (∀ (fn v p : Nat) (s : State), s.Wf → s.Open fn → v < 2 ^ 32 → s.partOf fn = some p →
    (let a := (allocate s p (fld v 31 28) (fld v 25 8 * 4096)).1
     let tag := fld v 5 0 * 2 ^ 24
     (Tab.get 0 s.polWaits fn ≠ 0 → exec (.polAlloc fn v) s = .next s) ∧
     (Tab.get 0 s.polWaits fn = 0 →
       (∀ h addr, a = .got h addr → ∃ t, exec (.polAlloc fn v) s = .next t ∧ t.reg fn pgPOL 0x138 = (2 ^ 30 + tag + h) % 2 ^ 32 ∧
         t.reg fn pgPOL 0x13C = addr % 2 ^ 32 ∧ t.reg fn pgPOL 0x140 = addr / 2 ^ 32 % 2 ^ 32 ∧ s.SameBut [.pools, .refs, .regs, .polWaits] t) ∧
       (a = .noFit → ∃ t, exec (.polAlloc fn v) s = .next t ∧ t.reg fn pgPOL 0x138 = (3 * 2 ^ 30 + tag) % 2 ^ 32 ∧ s.SameBut [.regs, .polWaits] t) ∧
       (a = .empty → ∃ t, exec (.polAlloc fn v) s = .next t ∧ t.reg fn pgPOL 0x138 = (2 * 2 ^ 30 + tag) % 2 ^ 32) ∧
       (a = .wait → exec (.polAlloc fn v) s = .next { s with polWaits := Tab.put 0 s.polWaits fn (v + 1) })))) ∧
  (∀ (fn v p : Nat) (s : State), s.Wf → s.Open fn → s.partOf fn = some p →
    (let pool := fld v 23 20
     let i := fld v 19 0
     let n := s.refCount pool i
     let k := (s.pool pool).first + i
     ((s.pool pool).enable = true → (s.pool pool).sliceOf i = some p →
       (bit v 31 = true → n ≠ 0 → n ≠ 0xFFFF → exec (.polRef fn v) s = .next { s with refs := Tab.put 0 s.refs k (n + 1) }) ∧
       (bit v 31 = true → n = 0 ∨ n = 0xFFFF →
         ∃ t, exec (.polRef fn v) s = .next t ∧ ((t.pool pool).slice p).refused = satAdd 0xFFFF ((s.pool pool).slice p).refused 1 ∧ s.SameBut [.pools] t) ∧
       (bit v 31 = false → 1 < n → exec (.polRef fn v) s = .next { s with refs := Tab.put 0 s.refs k (n - 1) }) ∧
       (bit v 31 = false → n = 1 → ((s.pool pool).slice p).state = 1 →
         ∃ t, exec (.polRef fn v) s = .next t ∧ t.refs = Tab.put 0 s.refs k 0 ∧ ((t.pool pool).slice p).head = i ∧
           ((t.pool pool).slice p).free = ((s.pool pool).slice p).free + 1 ∧ s.SameBut ([.refs, .pools] ++ gddrFields) t) ∧
       (bit v 31 = false → n = 0 →
         ∃ t, exec (.polRef fn v) s = .next t ∧ ((t.pool pool).slice p).underflow = satAdd 0xFFFF ((s.pool pool).slice p).underflow 1 ∧
           s.SameBut (.pools :: reportFields) t)) ∧
     ((s.pool pool).enable = false ∨ (s.pool pool).sliceOf i ≠ some p → ((s.pool pool).slice p).enable = true →
       ∃ t, exec (.polRef fn v) s = .next t ∧ ((t.pool pool).slice p).refused = satAdd 0xFFFF ((s.pool pool).slice p).refused 1 ∧ s.SameBut [.pools] t))) ∧
  (∀ (v : Nat) (s : State), s.Open 0 →
    (let n := s.reg 0 pgPOL 0x108 % 16
     let p := s.reg 0 pgPOL 0x114 % 8
     (bit v 0 = false → exec (.polInit v) s = .next s) ∧
     (bit v 0 = true → (s.pool n).enable = true → ((s.pool n).slice p).enable = true →
       exec (.polInit v) s = .next { s with pools := Tab.put {} s.pools n ((s.pool n).setSlice p { (s.pool n).slice p with state := 3, free := 0 }) }))) ∧
  (∀ (pool p : Nat) (s : State), s.Wf → s.svc.halted = false → ((s.pool pool).slice p).state = 3 → s.polWaits = [] →
    (let x := s.pool pool
     let free := ((List.range (x.slice p).count).map (· + x.firstIndex p)).filter (fun i => s.refCount pool i == 0)
     ∃ t, exec (.sliceRebuildDone pool p) s = .next t ∧
       (t.pool pool).slice p = { x.slice p with state := 1, head := free.headD 0, free := free.length, gen := ((x.slice p).gen + 1) % 2 ^ 32 } ∧
       s.SameBut (.pools :: gddrFields) t))


/-! ## Partitions and the ruling table -/

/-- R264, R268, R269, R270, R271, R272, R274: PAR_STATE is taken whole, as R264 allows, or refused; a unit is moved to its new partition, a cluster and a segment once they are free and burnished;
a table of the ruling is taken or refused at the entry in error, starts, steps at the end of its entries and stops; a tick of a microsecond refills the buckets and puts a changed MEASURE in force.
Where the spec leaves it open the statement follows the model's choices of log entries 4 (a tick is REGULATOR_TICK), 43, 79, 81, 30 (a tick issues what waits). -/
def Obligations.PartitionsAndRuling : Prop :=
  (∀ (v : Nat) (s : State), s.Wf → s.Open 0 →
    (let p := fld (s.reg 0 pgPAR 0x100) 2 0
     (parStateOk s p v = true →
       ∃ t, exec (.parStateWrite v) s = .next t ∧ (t.part p).state = (match fld v 31 30 with | 0 => .unused | 1 => .config | _ => .active) ∧
         (t.part p).window = fld v 10 0 ∧ (t.part p).maxPriority = fld v 22 20 ∧ (∀ q, q ≠ p → t.part q = s.part q) ∧ s.SameBut [.parts] t) ∧
     (parStateOk s p v = false →
       ∃ t, exec (.parStateWrite v) s = .next t ∧ bit (t.reg 0 pgPAR 0x018) 0 = true ∧ s.SameBut [.regs, .vecs] t))) ∧
  (∀ (v : Nat) (s : State), s.Wf → s.Open 0 →
    (let kind := fld v 18 16
     let n := fld v 7 0
     let dest := fld v 26 24
     (s.unitMove.status = 1 → exec (.parMoveWrite v) s = .next s) ∧
     (s.unitMove.status ≠ 1 → moveReason s kind n dest ≠ 0 →
       ∃ t, exec (.parMoveWrite v) s = .next t ∧ t.unitMove = { status := 3, reason := moveReason s kind n dest, kind := kind, index := n, dest := dest } ∧
         bit (t.reg 0 pgPAR 0x018) 1 = true ∧ s.SameBut [.unitMove, .regs, .vecs] t) ∧
     (s.unitMove.status ≠ 1 → moveReason s kind n dest = 0 →
       (kind < 2 → ∃ t, exec (.parMoveWrite v) s = .next t ∧ t.unitMove = { status := 1, reason := 0, kind := kind, index := n, dest := dest }) ∧
       (2 ≤ kind → ∃ t, exec (.parMoveWrite v) s = .next t ∧ t.unitMove.status = 2 ∧ ownerOf t kind n = dest + 1)))) ∧
  (∀ s : State, s.Wf → s.svc.halted = false → s.unitMove.status = 1 →
    (s.unitMove.kind = 0 → s.safePoint 0 s.unitMove.index = true →
      ∃ t, exec .moveDone s = .next t ∧ t.unitMove.status = 2 ∧ (t.cluster s.unitMove.index).owner = s.unitMove.dest ∧
        (∀ o, o < 0x400000 → Tab.get 0 t.localMem (s.unitMove.index * 0x400000 + o) = 0) ∧ s.SameBut [.clusters, .localMem, .unitMove, .vecs] t) ∧
    (s.unitMove.kind = 1 → s.safePoint 1 s.unitMove.index = true →
      ∃ t, exec .moveDone s = .next t ∧ t.unitMove.status = 2 ∧ (t.seg s.unitMove.index).owner = s.unitMove.dest + 1 ∧
        (∀ o, o < segSize → Tab.get 0 t.mem (plateBase + s.unitMove.index * segSize + o) = 0))) ∧
  (∀ s : State, s.Wf → s.Open 0 →
    (let l := fld (s.reg 0 pgPAR 0x148) 9 0
     let n := if l = 0 then 512 else l
     let base := s.reg 0 pgPAR 0x140 + s.reg 0 pgPAR 0x144 * 2 ^ 32
     let ok (k : Nat) : Prop := k < 512 ∧ regionOf (base + 16 * k) 16 = .gddr ∧ s.meetsPoison (base + 16 * k) 16 = false ∧ badRul s (s.bytesAt (base + 16 * k) 16) = false
     let table := (List.range n).map (fun k => parseRul (s.bytesAt (base + 16 * k) 16))
     ((∀ k, k < n → ok k) → exec .rulingLoad s = .next { s with
       ruling := if s.ruling.enable then { s.ruling with pendingTable := some table } else { s.ruling with table := table, pendingTable := none, entry := 0 } }) ∧
     (∀ k, k < n → ¬ ok k → (∀ m, m < k → ok m) →
       ∃ t, exec .rulingLoad s = .next t ∧ t.ruling = { s.ruling with errEntry := k % 512 } ∧ bit (t.reg 0 pgPAR 0x018) 2 = true ∧ s.SameBut [.ruling, .regs, .vecs] t))) ∧
  (∀ s : State, s.Wf → s.Open 0 →
    (s.ruling.enable = false → ∃ t, exec (.rulingEnable true) s = .next t ∧ t.ruling.enable = true ∧ t.ruling.entry = 0 ∧ t.ruling.slotStart = s.ticks ∧
      t.ruling.table = s.ruling.table) ∧
    (s.ruling.enable = true → exec (.rulingEnable false) s = .next { s with
      ruling := { s.ruling with enable := false, table := s.ruling.pendingTable.getD s.ruling.table, pendingTable := none } }) ∧
    exec (.rulingEnable s.ruling.enable) s = .next s) ∧
  (∀ (e : RulEntry) (s : State), s.Wf → s.svc.halted = false → s.ruling.enable = true → s.ruling.table[s.ruling.entry]? = some e →
    (s.ruling.slotStart + e.duration ≤ s.ticks →
      ∃ t, exec .rulingSlotStart s = .next t ∧ t.ruling.slotStart = s.ruling.slotStart + e.duration ∧
        (s.ruling.entry + 1 < s.ruling.table.length → t.ruling.entry = s.ruling.entry + 1 ∧ t.ruling.table = s.ruling.table) ∧
        (s.ruling.entry + 1 = s.ruling.table.length → t.ruling.entry = 0 ∧ t.ruling.table = s.ruling.pendingTable.getD s.ruling.table ∧ t.ruling.pendingTable = none)) ∧
    (s.ticks < s.ruling.slotStart + e.duration → exec .rulingSlotStart s = .next s)) ∧
  (∀ s : State, s.Wf → s.svc.halted = false →
    ∃ t, exec .regulatorTick s = .next t ∧ t.ticks = s.ticks + 1 ∧
      (∀ p, (t.part p).gddr = (s.part p).tick.gddr ∧ (t.part p).plate = (s.part p).tick.plate ∧ (t.part p).measure = (s.part p).tick.measure) ∧
      ((s.port 0).waiting = [] → (s.port 1).waiting = [] → (∀ p, t.part p = (s.part p).tick) ∧ s.SameBut [.ticks, .parts, .ruling, .channels] t))


/-! ## GDDR6 -/

/-- R291, R293, R294, R295, R296, R306: an error that the code corrects is counted and captured; one that it detects poisons its block, ends the job that read it and starts the position's retirement,
by migration where a spare is there, and else the controllers freeze; a POISONED block is recognised first, counts as a poison read and ends the job; a block without an error changes nothing; retries
are counted against their limit and a write that fails poisons its block; the patrol scrubber goes on block by block; a position that does not answer freezes the controllers.
Where the spec leaves it open the statement follows the model's choices of log entries 52, 53, 54, 127. -/
def Obligations.MemoryErrors : Prop :=
  (∀ (a syndrome c : Nat) (err : BlockErr) (by_ : MemAgent) (s : State), s.Wf → s.svc.halted = false → s.memServes = true → a < s.usable →
    (let n := s.servingPage a
     let p := s.posOf a
     (Tab.get false s.poisoned (a / 64) = false → decodeBlock err = .clean →
       exec (.correctableError a err syndrome by_) s = .next s ∧ exec (.uncorrectableError a err syndrome by_) s = .next s) ∧
     (Tab.get false s.poisoned (a / 64) = true →
       (let m := s.servingPage (a / 64 * 64)
        (∃ t, exec (.correctableError a err syndrome (.unit c)) s = .next t ∧ bit (t.reg 0 (pgM m) 0x018) 2 = true ∧
          fld (t.reg 0 (pgM m) 0x108) 31 16 = satAdd 0xFFFF (fld (s.reg 0 (pgM m) 0x108) 31 16) 1 ∧ s.SameBut reportFields t) ∧
        (∀ id i, (s.job id).phase = .running → (s.job id).killed = none →
          ∃ t, exec (.uncorrectableError a err syndrome (.stroke id i)) s = .next t ∧ (t.job id).killed = some 0x30))) ∧
     (Tab.get false s.poisoned (a / 64) = false → decodeBlock err = .corrected ∨ decodeBlock err = .unstated → s.calm 3 2 p 1 →
       ∃ t, exec (.correctableError a err syndrome by_) s = .next t ∧ t.reg 0 (pgM n) 0x104 = satAdd 0xFFFFFFFF (s.reg 0 (pgM n) 0x104) 1 ∧
         t.reg 0 pgMEM 0x114 = satAdd 0xFFFFFFFF (s.reg 0 pgMEM 0x114) 1 ∧ bit (t.reg 0 (pgM n) 0x018) 0 = true ∧ s.SameBut (.gddr :: .reserve :: reportFields) t) ∧
     (Tab.get false s.poisoned (a / 64) = false → decodeBlock err = .detected ∨ decodeBlock err = .unstated → s.servedByM8 a = false → (s.pos p).withdrawn = false →
      s.gddr.migrating = false →
       (s.gddr.spare = true →
         (∃ t, exec (.uncorrectableError a err syndrome (.unit c)) s = .next t ∧ t.poisoned = Tab.put false s.poisoned (a / 64) true ∧ t.gddr.migrating = true ∧
           t.gddr.source = p ∧ t.reg 0 pgMEM 0x118 = satAdd 0xFFFFFFFF (s.reg 0 pgMEM 0x118) 1 ∧ bit (t.reg 0 (pgM p) 0x018) 1 = true ∧
           s.SameBut ([.poisoned, .gddr, .positions, .reserve] ++ reportFields) t) ∧
         (∀ id i, by_ = .stroke id i → (s.job id).phase = .running → (s.job id).killed = none →
           ∃ t, exec (.uncorrectableError a err syndrome by_) s = .next t ∧ (t.job id).killed = some 0x30 ∧ t.gddr.migrating = true ∧ t.gddr.source = p)) ∧
       (s.gddr.spare = false →
         ∃ t, exec (.uncorrectableError a err syndrome by_) s = .next t ∧ t.gddr.frozen = true ∧ t.gddr.cause = 1 ∧ (∀ fn < 9, (t.func fn).ready = false))) ∧
     (s.servedByM8 a = false → s.calm 3 3 p 3 →
       (let x := s.pos p
        let count := if x.edcSecond = s.ticks / 1000000 then x.edcCount + 3 else 3
        (∃ t, exec (.edcRetryExhausted a false false (.unit c)) s = .next t ∧ fld (t.reg 0 (pgM p) 0x10C) 15 0 = satAdd 0xFFFF (fld (s.reg 0 (pgM p) 0x10C) 15 0) 3 ∧
          t.pos p = { x with edcSecond := s.ticks / 1000000, edcCount := count, retraining := x.retraining || decide (s.gddr.edcLimit < count) } ∧
          bit (t.reg 0 (pgM p) 0x018) 3 = true ∧ s.SameBut ([.gddr, .positions, .reserve] ++ reportFields) t) ∧
        (∃ t, exec (.edcRetryExhausted a true false (.unit c)) s = .next t ∧ t.poisoned = Tab.put false s.poisoned (a / 64) true ∧
          fld (t.reg 0 (pgM p) 0x10C) 31 16 = satAdd 0xFFFF (fld (s.reg 0 (pgM p) 0x10C) 31 16) 3 ∧ bit (t.reg 0 (pgM p) 0x018) 4 = true ∧
          s.SameBut ([.poisoned, .gddr, .positions, .reserve] ++ reportFields) t))))) ∧
  (∀ (syndrome found : Nat) (err : BlockErr) (s : State), s.Wf → s.svc.halted = false → s.memServes = true → s.reg 0 pgMEM 0x10C % 65536 ≠ 0 →
    (let b := s.gddr.scrub
     let next := if s.usable / 64 ≤ b + 1 then 0 else b + 1
     (Tab.get false s.poisoned b = false → decodeBlock err = .clean ∨ (decodeBlock err = .unstated ∧ found ≠ 1 ∧ found ≠ 2) →
       exec (.patrolScrub err found syndrome) s = .next { s with fresh := s.fresh + 1, gddr := { s.gddr with scrub := next } }) ∧
     (Tab.get false s.poisoned b = true → ∃ t, exec (.patrolScrub err found syndrome) s = .next t ∧ t.gddr.scrub = next ∧
       bit (t.reg 0 (pgM (s.servingPage (b * 64))) 0x018) 2 = true ∧ s.SameBut (.fresh :: .gddr :: reportFields) t) ∧
     (Tab.get false s.poisoned b = false → decodeBlock err = .corrected ∨ (decodeBlock err = .unstated ∧ found = 1) → s.calm 3 2 (s.posOf (b * 64)) 1 →
       ∃ t, exec (.patrolScrub err found syndrome) s = .next t ∧ t.gddr.scrub = next ∧ t.reg 0 pgMEM 0x114 = satAdd 0xFFFFFFFF (s.reg 0 pgMEM 0x114) 1) ∧
     (Tab.get false s.poisoned b = false → decodeBlock err = .detected ∨ (decodeBlock err = .unstated ∧ found = 2) →
      s.servedByM8 (b * 64) = false → (s.pos (s.posOf (b * 64))).withdrawn = false → s.gddr.migrating = false → s.gddr.spare = true →
       ∃ t, exec (.patrolScrub err found syndrome) s = .next t ∧ t.gddr.scrub = next ∧ t.poisoned = Tab.put false s.poisoned b true ∧ t.gddr.source = s.posOf (b * 64)))) ∧
  (∀ (p : Nat) (s : State), s.Wf → s.svc.halted = false → p < 8 → s.powered p = true → s.memServes = true →
    ∃ t, exec (.positionNotAnswering p) s = .next t ∧ t.gddr.frozen = true ∧ t.gddr.cause = 3 ∧ t.gddr.freezePos = s.physOf 3 p ∧ (∀ fn < 9, (t.func fn).ready = false))

/-- R289, R301, R302, R303, R304, R329: refreshes of a bank with queued reads are postponed at most 8 intervals; readings above 85 degrees halve the refresh period; a run of training leaves its margins, and a position that fails
retires; a migration trains M8, copies page by page, poisons what it cannot correct, and ends with the name moved to M8; a position whose PLL loses lock is retrained; the cold-boot training leaves
the positions that pass ACTIVE and sets the capacity.
Where the spec leaves it open the statement follows the model's choices of log entries 52, 54, 55, 91, 30. -/
def Obligations.MemoryService : Prop :=
  (∀ (p ch bank : Nat) (s : State), s.svc.halted = false → p < 8 → (s.pos p).withdrawn = false → s.memServes = true → ch < 2 → bank < 16 →
    (let n := Tab.get 0 (s.pos p).postponed (ch * 16 + bank)
     exec (.refreshInterval p ch bank true) s = .next { s with
       positions := Tab.put {} s.positions p { s.pos p with postponed := Tab.put 0 (s.pos p).postponed (ch * 16 + bank) (if s.readsQueued p ch bank = true ∧ n < 8 then n + 1 else 0) } } ∧
     exec (.refreshInterval p ch bank false) s = .next { s with
       positions := Tab.put {} s.positions p { s.pos p with postponed := Tab.put 0 (s.pos p).postponed (ch * 16 + bank) 0 } })) ∧
  (∀ (temps : List Nat) (s : State), s.Wf → s.svc.halted = false →
    ∃ t, exec (.gddr6TemperatureRead temps) s = .next t ∧
      (∀ n x, n < 9 → s.powered n = true → temps[n]? = some x → t.pos n = { s.pos n with temp := x % 256, hot := decide (85 < x % 256) }) ∧ s.SameBut [.positions] t) ∧
  (∀ (p r w : Nat) (s : State), s.Wf → s.svc.halted = false → p < 8 → s.powered p = true → s.memServes = true → (s.pos p).retraining = false →
    (s.mbxRuns 0x11 = false ∨ s.svc.retrain ≠ p) →
    (s.gddr.marginsOk r w = true → exec (.periodicRetrain p r w) s = .next { s with
      positions := Tab.put {} s.positions p { s.pos p with result := 1, readMargin := r % 256, writeMargin := w % 256, retraining := false, locked := true } }) ∧
    (s.gddr.marginsOk r w = false → s.gddr.migrating = false → s.gddr.spare = true →
      ∃ t, exec (.periodicRetrain p r w) s = .next t ∧ (t.pos p).result = 3 ∧ bit (t.reg 0 (pgM p) 0x018) 5 = true ∧ t.gddr.migrating = true ∧ t.gddr.source = p)) ∧
  (∀ (p : Nat) (s : State), s.Wf → s.svc.halted = false → p < 8 → s.powered p = true → s.memServes = true →
    ∃ t, exec (.gddr6PllLockLoss p) s = .next t ∧ t.pos p = { s.pos p with locked := false, retraining := true } ∧
      fld (t.reg 0 pgCLK 0x110) 31 16 = satAdd 0xFFFF (fld (s.reg 0 pgCLK 0x110) 31 16) 1 ∧ s.SameBut (.positions :: reportFields) t) ∧
  (∀ (bad : List Nat) (s : State), s.Wf → s.svc.halted = false → s.gddr.migrating = true → s.memServes = true →
    (let g := s.gddr
     (g.copying = false → g.source < 8 →
       (∃ t, exec (.migrationPageCopy true bad) s = .next t ∧ t.gddr = { g with copying := true, page := 0 } ∧ (t.pos 8).state = 4 ∧ (t.pos g.source).state = 3 ∧
         t.reserve = { s.reserve with phase := 3 } ∧ s.SameBut [.gddr, .positions, .reserve] t) ∧
       (∃ t, exec (.migrationPageCopy false bad) s = .next t ∧ t.gddr.frozen = true ∧ t.gddr.cause = 2)) ∧
     (∀ trained, g.copying = true → g.page < g.pages →
       ∃ t, exec (.migrationPageCopy trained bad) s = .next t ∧ t.gddr.page = g.page + 1 ∧
         (∀ a ∈ bad, a < s.usable → s.posOf a = g.source → s.dramPage a = g.page → Tab.get false t.poisoned (a / 64) = true) ∧
         s.SameBut ([.fresh, .poisoned, .gddr] ++ reportFields) t) ∧
     (g.copying = true → g.pages ≤ g.page → g.source < 8 → s.reserve.queue = [] →
       ∃ t, exec .migrationDone s = .next t ∧ t.gddr.migrating = false ∧ t.gddr.copying = false ∧ t.gddr.spare = false ∧ (t.pos g.source).state = 2 ∧
         t.physOf 3 g.source = s.physOf 3 8 ∧ t.physOf 3 8 = s.physOf 3 g.source ∧ (t.pos 8).retired = true))) ∧
  (∀ (results : List TrainRun) (s : State), s.Wf → s.svc.halted = false → s.gddr.trained = false → s.svc.stage ≠ 3 → s.gddr.frozen = false →
    (let dense := bootDensity (results.take 9)
     ∃ t, exec (.gddr6TrainingDone results) s = .next t ∧ t.gddr.trained = true ∧ t.gddr.dense = dense ∧ t.gddr.rate = s.gddr.cfgRate ∧
      t.reg 0 pgMEM 0x108 = t.gddr.inService * (if dense then 1984 else 992) ∧
      ∀ n r, n < 8 → (s.pos n).withdrawn = false → results[s.physOf 3 n]? = some r → coldResult s.gddr dense r = 1 →
        (t.pos n).state = 2 ∧ (t.pos n).result = 1 ∧ (t.pos n).readMargin = r.read % 256 ∧ (t.pos n).writeMargin = r.write % 256)) ∧
  (∀ (g : Gddr) (dense : Bool) (r : TrainRun), (coldResult g dense r = 1 ↔ r.answers = true ∧ r.dense = dense ∧ r.ok = true ∧ g.minRead ≤ r.read ∧ g.minWrite ≤ r.write) ∧
    (r.answers = false → coldResult g dense r = 5) ∧ (r.answers = true → r.dense ≠ dense → coldResult g dense r = 4))


/-! ## Boot, resets of the device, power and temperature -/

/-- R329, R330, R331, R333, R335, R337, R338, R340, R347, R348, R391: a cold reset leaves every register, memory and queue at its reset value and boots the firmware, or enters recovery, or waits
while a sensor reads 110 degrees or more and goes on when every one reads less; service is ready once training and unit initialisation have ended; a link reset and the return from D3hot reset every function; entry to D3hot ends every job; a restart of the controller is shown, or, with a wrong digest,
is a device fault; the loss of the reference and a dip of a rail halt the device; a sample sets temperatures and throttling, and from 115 degrees shuts the device down.
Where the spec leaves it open the statement follows the model's choices of log entries 5, 9, 27, 64, 65, 67, 72, 73, 131, 135. -/
def Obligations.BootAndPower : Prop :=
  (∀ (strap lanes rate : Nat) (testEn flashOk fuseOk hot : Bool) (s : State), s.Wf → s.mbx.state ≠ .busy →
    (let why := if flashOk then fwFault s.svc.minSvn (s.flashAt fwFlash fwSize) else 1
     ∃ t, exec (.coldReset strap lanes rate testEn flashOk fuseOk hot) s = .next t ∧ t.ticks = 0 ∧ t.flash = s.flash ∧ (∀ a < hostBase, Tab.get 0 t.mem a = 0) ∧ t.localMem = [] ∧
       (∀ q < 4096, t.queue q = {} ∧ Tab.get {} t.slots q = {} ∧ Tab.get {} t.sems q = {}) ∧ (∀ id < 2 ^ 64, t.job id = {}) ∧
       (testEn = true → t.svc.halted = true ∧ t.svc.bootWait = none) ∧
       (testEn = false → hot = true →
         t.svc.halted = true ∧ t.svc.bootWait = some { strap := strap, lanes := lanes, rate := rate, flashOk := flashOk, fuseOk := fuseOk }) ∧
       (testEn = false → hot = false → t.svc.halted = false ∧ t.svc.stage = (if why = 0 then 1 else 3) ∧ t.svc.reason = why ∧ t.svc.resetCause = 1 ∧
         t.svc.smbusAddr = 0x24 + strap % 4 ∧ t.pcie = { up := true, width := lanes, rate := rate }))) ∧
  (∀ (b : BootIn) (readings : List Nat) (estimate : Nat) (s : State), s.Wf → s.svc.halted = true → s.svc.bootWait = some b →
    (let temps := s.svc.temps.mapIdx (fun k t => readings.getD k t % 256)
     let why := if b.flashOk then fwFault s.svc.minSvn (s.flashAt fwFlash fwSize) else 1
     ((∀ v ∈ temps, degC v < 110) → ∃ t, exec (.thermalSample readings estimate) s = .next t ∧ t.svc.halted = false ∧ t.svc.bootWait = none ∧
       t.svc.stage = (if why = 0 then 1 else 3) ∧ t.svc.temps = temps ∧ t.pcie = { up := true, width := b.lanes, rate := b.rate }) ∧
     ((∃ v ∈ temps, 110 ≤ degC v) → exec (.thermalSample readings estimate) s = .next s))) ∧
  (∀ s : State, s.Wf → s.svc.halted = false → s.svc.stage = 1 → s.svc.initialising = true → s.gddr.trained = true → s.selfTestPends = false → (s.func 0).flr = false →
    (s.gddr.frozen = false → s.gddr.again = 0 → s.reserve.queue = [] →
      ∃ t, exec .bootServiceReady s = .next t ∧ t.svc.stage = 2 ∧ t.svc.initialising = false ∧ (∀ fn < 9, (t.func fn).ready = true) ∧
        t.svc.minSvn = (if s.svc.fwRaise then max s.svc.minSvn s.svc.svn else s.svc.minSvn)) ∧
    (s.gddr.frozen = true → ∃ t, exec .bootServiceReady s = .next t ∧ t.svc.stage = 1 ∧ t.svc.initialising = false ∧ t.funcs = s.funcs)) ∧
  (∀ (pllLoss : Bool) (s : State), s.Wf → s.svc.halted = false → (s.func 0).flr = false → s.pcie.coreFailed = false →
    (∃ t, exec (.linkReset pllLoss) s = .next t ∧ (∀ fn < 9, (t.func fn).flr = true ∧ (t.func fn).ready = false) ∧ (∀ id, (t.job id).phase = .gone) ∧ t.svc.resetCause = 2) ∧
    ((s.func 0).d3hot = false →
      ∃ t, exec .d3hotEntry s = .next t ∧ (t.func 0).d3hot = true ∧ (t.func 0).ready = false ∧ (∀ id, (t.job id).phase = .gone) ∧ (t.port 0).state = 0 ∧ (t.port 1).state = 0) ∧
    ((s.func 0).d3hot = true →
      ∃ t, exec .d3hotToD0 s = .next t ∧ (t.func 0).d3hot = false ∧ (∀ fn < 9, (t.func fn).flr = true ∧ (t.func fn).ready = false) ∧ t.svc.resetCause = 4)) ∧
  (∀ s : State, s.Wf → s.svc.halted = false → (s.svc.stage = 1 ∨ s.svc.stage = 2) → s.mbx.state ≠ .busy →
    (∃ t, exec (.serviceRestart true) s = .next t ∧ bit (t.reg 0 pgCLK 0x018) 3 = true ∧ s.SameBut reportFields t) ∧
    (∃ t, exec (.serviceRestart false) s = .next t ∧ (∀ id, (t.job id).phase = .gone) ∧ ∀ fn < 9, t.func fn = { s.func fn with fault := true, ready := false })) ∧
  (∀ (rootPll : Bool) (s : State), s.Wf → s.svc.halted = false →
    ∃ t, exec (.referenceLoss rootPll) s = .next t ∧ t.svc = { s.svc with refOk := s.svc.refOk && rootPll, rootLock := false, halted := true } ∧ t.pcie.up = false ∧
      (t.port 0).state = 0 ∧ (t.port 1).state = 0 ∧ s.SameBut ([.svc, .pcie, .ports] ++ reportFields) t) ∧
  (∀ s : State, s.Wf → ∃ t, exec .railDip s = .next t ∧ t.svc.halted = true ∧ t.tap = {} ∧ t.ticks = 0 ∧ (∀ a < hostBase, Tab.get 0 t.mem a = 0)) ∧
  (∀ (readings : List Nat) (estimate : Nat) (s : State), s.Wf → s.svc.halted = false → s.svc.bootWait = none →
    (let temps := s.svc.temps.mapIdx (fun k t => readings.getD k t % 256)
     let tj := degC (hottest temps).2
     let lim := s.reg 0 pgCLK 0x124
     let duty := nextDuty s.svc.duty tj estimate (fld lim 7 0) (fld lim 19 16) (fld (s.reg 0 pgCLK 0x12C) 7 0)
     ∃ t, exec (.thermalSample readings estimate) s = .next t ∧ t.svc.temps = temps ∧ t.svc.peaks = List.zipWith warmer s.svc.peaks temps ∧ t.svc.tj = (hottest temps).2 ∧
       t.svc.tjSensor = (hottest temps).1 ∧ t.svc.estimate = estimate % 256 ∧ t.svc.duty = duty ∧
       t.svc.throttles = (if duty < s.svc.duty then satAdd 0xFFFF s.svc.throttles 1 else s.svc.throttles) ∧ t.svc.halted = decide (115 ≤ tj) ∧
       s.SameBut ([.svc, .pcie, .ports] ++ reportFields) t)) ∧
  (∀ (sensor reading : Nat) (s : State), s.Wf → s.svc.halted = false → sensor < 24 →
    (115 ≤ degC reading → ∃ t, exec (.thermalShutdown sensor reading) s = .next t ∧ t.svc = { s.svc with alert := true, halted := true, shut := true } ∧ t.pcie.up = false ∧
      s.SameBut ([.svc, .pcie, .ports] ++ reportFields) t) ∧
    (degC reading < 115 → exec (.thermalShutdown sensor reading) s = .next s))

/-- R339: THERM_ALERT_N is asserted while Tj ≥ ALERT_C and released when Tj ≤ ALERT_C − HYST_C, as each sample leaves it, and keeps its level in between; it is asserted at once with thermal shutdown.
(Where HYST_C = 0 and Tj = ALERT_C meets both, it is asserted.)
Where the spec leaves it open the statement follows the model's choices of log entries 86. -/
def Obligations.ThermalAlertLine : Prop :=
  (∀ (readings : List Nat) (estimate : Nat) (s : State), s.Wf → s.svc.halted = false → s.svc.bootWait = none →
    (let lim := s.reg 0 pgCLK 0x124
     let alertC : Int := fld lim 15 8
     let hystC : Int := fld lim 19 16
     ∃ t, exec (.thermalSample readings estimate) s = .next t ∧
       (alertC ≤ degC t.svc.tj → t.svc.alert = true) ∧
       (degC t.svc.tj ≤ alertC - hystC → degC t.svc.tj < alertC → degC t.svc.tj < 115 → t.svc.alert = false) ∧
       (alertC - hystC < degC t.svc.tj → degC t.svc.tj < alertC → degC t.svc.tj < 115 → t.svc.alert = s.svc.alert) ∧
       (115 ≤ degC t.svc.tj → t.svc.alert = true ∧ t.svc.halted = true))) ∧
  (∀ (sensor reading : Nat) (s : State), s.Wf → s.svc.halted = false → sensor < 24 → 115 ≤ degC reading →
    ∃ t, exec (.thermalShutdown sensor reading) s = .next t ∧ t.svc.alert = true ∧ t.svc.halted = true)

/-! ## The TAP -/

/-- R394: the instructions of the TAP act on the TAP alone, whatever the device does: IDCODE captures the device's code, SAMPLE/PRELOAD the boundary; EXTEST and the AC tests drive it, CLAMP holds the
outputs and HIGHZ floats them while PERST_N is asserted, and act as BYPASS while it is not; a TAP reset selects IDCODE.
Where the spec leaves it open the statement follows the model's choices of log entries 73, 74. -/
def Obligations.TapInstructions : Prop :=
  ∀ (perst : Bool) (pins drive : Nat) (s : State),
    (let driven (i : Nat) : State := { s with tap :=
       if perst then { instr := i, data := pins % 2 ^ 2028, latch := drive % 2 ^ 2028, drive := 1 } else { s.tap with instr := i, data := 0, drive := 0 } }
     exec .tapReset s = .next { s with tap := { instr := 0x01, data := 0, latch := 0, drive := 0 } } ∧
     exec .tapIdcode s = .next { s with tap := { s.tap with instr := 0x01, data := 0x17730A4B, drive := 0 } } ∧
     exec (.samplePreload pins drive) s = .next { s with tap := { instr := 0x02, data := pins % 2 ^ 2028, latch := drive % 2 ^ 2028, drive := 0 } } ∧
     exec (.tapExtest perst pins drive) s = .next (driven 0x00) ∧ exec (.extestPulse perst pins drive) s = .next (driven 0x08) ∧
     exec (.extestTrain perst pins drive) s = .next (driven 0x09) ∧
     exec (.tapHighz perst) s = .next { s with tap := { s.tap with instr := 0x04, data := 0, drive := if perst then 2 else 0 } } ∧
     exec (.tapClamp perst) s = .next { s with tap := { s.tap with instr := 0x05, data := 0, drive := if perst then 1 else 0 } } ∧
     exec .tapBypass s = .next { s with tap := { s.tap with instr := 0xFF, data := 0, drive := 0 } })


/-! ## The event recorder and the reserve -/

/-- R362, R364, R365, R366, R367: an open record is committed 1 s after it opened; every hour of operation is recorded; a selected record is loaded into its function's window; a freeze commits the open
records and lasts until its function ends it or its limit does, and with the last one the staged records are appended.
Where the spec leaves it open the statement follows the model's choices of log entries 4, 38. -/
def Obligations.EventRecorder : Prop :=
  (∀ (l : LogRec) (ls : List LogRec) (s : State), s.Wf → s.svc.halted = false → s.recorder.opened = l :: ls →
    (l.ev.tick + 1000000 ≤ s.ticks →
      ∃ t, exec .eventRecordCommit s = .next t ∧ t.recorder.opened = ls ∧ (∃ x ∈ t.recorder.log, x.num = l.num ∧ x.cycle = l.cycle ∧ x.ev = l.ev) ∧
        t.recorder.next = s.recorder.next ∧ s.SameBut reportFields t) ∧
    (s.ticks < l.ev.tick + 1000000 → exec .eventRecordCommit s = .next s)) ∧
  (∀ s : State, s.Wf → s.svc.halted = false →
    (s.recorder.checkpoint + 3600000000 ≤ s.ticks → ∃ t, exec .recorderCheckpoint s = .next t ∧ t.recorder.checkpoint = s.ticks ∧ s.SameBut reportFields t) ∧
    (s.ticks < s.recorder.checkpoint + 3600000000 → exec .recorderCheckpoint s = .next s)) ∧
  (∀ (fn num : Nat) (s : State), s.Open fn → fn < 9 → num < 2 ^ 32 →
    exec (.evtSelWrite fn num) s = .next { s with evtSels := Tab.put {} s.evtSels fn (s.select fn num) } ∧
    (∀ l, s.recorder.present.find? (fun l => l.num == num) = some l → s.mayRead fn l.ev = true →
      (s.select fn num).state = 1 ∧ (s.select fn num).data = l.ev.bytes ∧ (s.select fn num).cycle = l.cycle) ∧
    (∀ l, s.recorder.present.find? (fun l => l.num == num) = some l → s.mayRead fn l.ev = false → (s.select fn num).state = 2 ∧ (s.select fn num).data = [])) ∧
  (∀ (fn v : Nat) (s : State), s.Wf → s.Open fn → fn < 9 →
    (bit v 0 = true → (∀ f ∈ s.recorder.freezes, f.1 ≠ fn) →
      ∃ t, exec (.evtFreezeWrite fn v) s = .next t ∧ t.recorder.freezes = s.recorder.freezes ++ [(fn, s.ticks)] ∧ t.recorder.opened = [] ∧ s.SameBut reportFields t) ∧
    (bit v 0 = true → (∃ f ∈ s.recorder.freezes, f.1 = fn) → exec (.evtFreezeWrite fn v) s = .next s) ∧
    (bit v 0 = false → (∃ f ∈ s.recorder.freezes, f.1 = fn) →
      ((∃ f ∈ s.recorder.freezes, f.1 ≠ fn) →
        exec (.evtFreezeWrite fn v) s = .next { s with recorder := { s.recorder with freezes := s.recorder.freezes.filter (fun f => f.1 != fn) } }) ∧
      ((∀ f ∈ s.recorder.freezes, f.1 = fn) → s.recorder.clearing = none → s.recorder.lostNow = 0 →
        ∃ t, exec (.evtFreezeWrite fn v) s = .next t ∧ t.recorder.freezes = [] ∧ t.recorder.staged = [] ∧ t.recorder.next = s.recorder.next + s.recorder.staged.length ∧
          s.SameBut reportFields t))) ∧
  (∀ (fn since : Nat) (s : State), s.Wf → s.svc.halted = false → (fn, since) ∈ s.recorder.freezes → since + s.recorder.freezeLimit * 1000 ≤ s.ticks →
    ∃ t, exec (.freezeLimitExpiry fn) s = .next t ∧ (∀ f ∈ t.recorder.freezes, f.1 ≠ fn) ∧ bit (t.reg 0 pgEVT 0x018) 1 = true ∧ s.SameBut reportFields t)

/-- R366: a VF reads only records with CHARGED = 1 and PARTITION its own; every other record reads as ABSENT (EVT_SEL_STATUS 2, no data), and EVT_SEL_NEXT passes over it: it gives the lowest number
above the selection among the records the function reads, or 0 without one. The PF reads every record.
Where the spec leaves it open the statement follows the model's choices of log entries 38. -/
def Obligations.VfReadsItsRecords : Prop :=
  ∀ (fn num : Nat) (s : State), s.Open fn → fn < 9 → num < 2 ^ 32 →
    (let reads (l : LogRec) : Prop := fn = 0 ∨ (l.ev.charged = true ∧ s.partOf fn = some l.ev.part)
     ∃ t e, exec (.evtSelWrite fn num) s = .next t ∧ Tab.get {} t.evtSels fn = e ∧ e.num = num ∧
       (∀ l, s.recorder.present.find? (fun l => l.num == num) = some l →
         (reads l → e.state = 1 ∧ e.data = l.ev.bytes) ∧ (¬ reads l → e.state = 2 ∧ e.data = [])) ∧
       (e.next = 0 → ∀ l ∈ s.recorder.present, num < l.num → ¬ reads l) ∧
       (e.next ≠ 0 → num < e.next ∧ (∃ l ∈ s.recorder.present, l.num = e.next ∧ reads l) ∧ ∀ l ∈ s.recorder.present, num < l.num → reads l → e.next ≤ l.num))

/-- R371, R373, R374, R375: a trigger of a unit starts its spare-in, or its retirement without a spare, when none runs, and waits in order while one runs; a margin below its threshold is such a trigger;
a unit that holds nothing more moves to the spare, or is withdrawn; a unit that still holds work keeps the spare-in waiting; a lane that is mapped out retrains its port.
Where the spec leaves it open the statement follows the model's choices of log entries 68, 80. -/
def Obligations.ReserveManager : Prop :=
  (∀ (kind n cause : Nat) (s : State), s.Wf → s.svc.halted = false → kind < 3 → n < unitsOf kind → 1 ≤ cause → cause ≤ 5 → s.withdrawn kind n = false →
    s.reserve.hasTrigger kind n = false →
    (let t0 : Trigger := { kind := kind, index := n, cause := cause, retire := true, byMailbox := false }
     (s.reserve.running = none → s.reserve.queue = [] → s.svc.initialising = false → (Tab.get {} s.modeUnits (unitPage kind n)).pending = 0 →
       exec (.spareInTrigger kind n cause) s = .next { s with reserve := { s.reserve with running := some t0, phase := if s.hasSpare kind then 1 else 2 } }) ∧
     (s.reserve.running ≠ none →
       exec (.spareInTrigger kind n cause) s = .next { s with reserve := { s.reserve with queue := s.reserve.queue ++ [t0] } }))) ∧
  (∀ (kind n cause : Nat) (s : State), s.svc.halted = false → s.withdrawn kind n = true → exec (.spareInTrigger kind n cause) s = .next s) ∧
  (∀ (n margin : Nat) (s : State), s.Wf → s.svc.halted = false →
    (n < 16 → (s.cluster n).withdrawn = false → s.reserve.wearCluster ≤ margin →
      (let old := fld (s.reg 0 (pgBC n) 0x124) 7 0
       exec (.wearCheck 0 n margin) s = .next { s with
         regs := Tab.put 0 s.regs (regKey 0 (pgBC n) 0x124) (BitVec.ofNat 32 (if old = 0 then margin % 256 else min old (margin % 256))) })) ∧
    (n < 8 → (s.core n).withdrawn = false → s.reserve.wearCore ≤ margin → exec (.wearCheck 2 n margin) s = .next s) ∧
    (n < 8 → (s.core n).withdrawn = false → margin < s.reserve.wearCore → s.reserve.queue = [] →
      ∃ t, exec (.wearCheck 2 n margin) s = .next t ∧ t.reserve.hasTrigger 2 n = true ∧ bit (t.reg 0 (pgCC n) 0x018) 1 = true ∧ s.SameBut [.reserve, .regs, .vecs] t) ∧
    (n < 16 → (s.cluster n).withdrawn = false → margin < s.reserve.wearCluster → s.reserve.queue = [] →
      ∃ t, exec (.wearCheck 0 n margin) s = .next t ∧ t.reserve.hasTrigger 0 n = true ∧ bit (t.reg 0 (pgBC n) 0x018) 9 = true)) ∧
  (∀ (ok : Bool) (t0 : Trigger) (s : State), s.Wf → s.svc.halted = false → s.reserve.running = some t0 → s.reserve.queue = [] →
    (t0.kind < 3 → t0.index < unitsOf t0.kind → s.reserve.phase = 2 → s.hasSpare t0.kind = true →
      (s.drained t0.kind t0.index = false → exec (.spareInComplete ok) s = .next s) ∧
      (s.drained t0.kind t0.index = true →
        ∃ t, exec (.spareInComplete ok) s = .next t ∧ t.physOf t0.kind t0.index = s.physOf t0.kind (sparePage s t0.kind) ∧
          t.physOf t0.kind (sparePage s t0.kind) = s.physOf t0.kind t0.index ∧ t.reserve.running = none ∧ t.reserve.phase = 0)) ∧
    (t0.kind < 3 → t0.index < unitsOf t0.kind → s.reserve.phase = 6 → s.drained t0.kind t0.index = true →
      ∃ t, exec (.spareInComplete ok) s = .next t ∧ t.withdrawn t0.kind t0.index = true ∧ t.reserve.running = none ∧ t.reserve.phase = 0) ∧
    (t0.kind = 4 → s.reserve.phase ≠ 4 → (s.port (t0.index % 2)).state = 2 →
      ∃ t, exec (.spareInComplete ok) s = .next t ∧ (t.port (t0.index % 2)).state = 3 ∧
        (t.port (t0.index % 2)).good = (s.port (t0.index % 2)).good.set ((s.port (t0.index % 2)).lanes.getD (t0.index / 2) 0) false ∧
        t.reserve = { s.reserve with phase := 4 } ∧ s.SameBut [.ports, .reserve] t))
end

