-- ==== Sys2Proof/Laws/Tab.lean ====
section
/-! SUPPORT. Laws of the sparse tables: reading after a write, ranges, and the canonical form that every table operation keeps. -/
namespace Sys2Proof.Machine

variable {α : Type} [DecidableEq α] {d : α}

/-! ## The canonical form -/

omit [DecidableEq α] in
/-- Every key at or above `b`, as the canonical form asks of the rest of a table. -/
theorem Tab.above_mono {b c : Nat} (h : b ≤ c) : ∀ {t : Tab α}, Tab.above c t = true → Tab.above b t = true
  | [], _ => rfl
  | (k, v) :: t, ht => by
    simp only [Tab.above, Bool.and_eq_true, decide_eq_true_eq] at ht ⊢
    exact ⟨by omega, ht.2⟩

omit [DecidableEq α] in
theorem Tab.above_filter (p : Nat × α → Bool) : ∀ {b : Nat} {t : Tab α}, Tab.above b t = true → Tab.above b (t.filter p) = true
  | _, [], _ => rfl
  | b, (k, v) :: t, ht => by
    simp only [Tab.above, Bool.and_eq_true, decide_eq_true_eq] at ht
    have ih := Tab.above_filter p ht.2
    by_cases hp : p (k, v) = true
    · simp only [List.filter_cons, hp, if_true, Tab.above, Bool.and_eq_true, decide_eq_true_eq]
      exact ⟨ht.1, ih⟩
    · simp only [List.filter_cons, hp]
      exact Tab.above_mono (by omega) ih

theorem Tab.wf_filter (p : Nat × α → Bool) {t : Tab α} (h : Tab.wf d t = true) : Tab.wf d (t.filter p) = true := by
  simp only [Tab.wf, Bool.and_eq_true, List.all_eq_true] at h ⊢
  exact ⟨Tab.above_filter p h.1, fun e he => h.2 e (List.mem_filter.mp he).1⟩

theorem Tab.above_put (k : Nat) (v : α) : ∀ {b : Nat} {t : Tab α}, b ≤ k → Tab.above b t = true → Tab.above b (Tab.put d t k v) = true
  | b, [], hb, _ => by
    simp only [Tab.put]
    split
    · rfl
    · simp [Tab.above, hb]
  | b, (k', v') :: t, hb, ht => by
    simp only [Tab.above, Bool.and_eq_true, decide_eq_true_eq] at ht
    simp only [Tab.put]
    split
    · split
      · simp [Tab.above, ht]
      · simp only [Tab.above, Bool.and_eq_true, decide_eq_true_eq]
        exact ⟨hb, by omega, ht.2⟩
    · split
      · split
        · exact Tab.above_mono (by omega) ht.2
        · simp only [Tab.above, Bool.and_eq_true, decide_eq_true_eq]
          rename_i h _
          exact ⟨hb, h ▸ ht.2⟩
      · simp only [Tab.above, Bool.and_eq_true, decide_eq_true_eq]
        exact ⟨ht.1, Tab.above_put k v (by omega) ht.2⟩

theorem Tab.put_all (k : Nat) (v : α) : ∀ {t : Tab α}, (∀ e ∈ t, e.2 ≠ d) → ∀ e ∈ Tab.put d t k v, e.2 ≠ d
  | [], _ => by
    simp only [Tab.put]
    split
    · simp
    · simp_all
  | (k', v') :: t, ht => by
    have h1 : v' ≠ d := ht (k', v') (by simp)
    have h2 : ∀ e ∈ t, e.2 ≠ d := fun e he => ht e (by simp [he])
    have ih := Tab.put_all k v h2
    simp only [Tab.put]
    intro e he
    split at he <;> try split at he
    · exact ht e he
    · rcases List.mem_cons.mp he with rfl | he
      · assumption
      · exact ht e he
    · split at he
      · exact h2 e he
      · rcases List.mem_cons.mp he with rfl | he
        · assumption
        · exact h2 e he
    · rcases List.mem_cons.mp he with rfl | he
      · exact h1
      · exact ih e he

/-- A write keeps the canonical form. -/
theorem Tab.wf_put (k : Nat) (v : α) {t : Tab α} (h : Tab.wf d t = true) : Tab.wf d (Tab.put d t k v) = true := by
  simp only [Tab.wf, Bool.and_eq_true, List.all_eq_true, decide_eq_true_eq] at h ⊢
  exact ⟨Tab.above_put k v (Nat.zero_le _) h.1, Tab.put_all k v h.2⟩

theorem Tab.wf_clear (a n : Nat) {t : Tab α} (h : Tab.wf d t = true) : Tab.wf d (Tab.clear t a n) = true := Tab.wf_filter _ h

theorem Tab.wf_putList : ∀ (vs : List α) (a : Nat) {t : Tab α}, Tab.wf d t = true → Tab.wf d (Tab.putList d t a vs) = true
  | [], _, _, h => h
  | v :: vs, a, _, h => Tab.wf_putList vs (a + 1) (Tab.wf_put a v h)

@[simp] theorem Tab.wf_nil : Tab.wf d ([] : Tab α) = true := rfl

/-! ## Reading -/

omit [DecidableEq α] in
@[simp] theorem Tab.get_nil (k : Nat) : Tab.get d ([] : Tab α) k = d := rfl

omit [DecidableEq α] in
theorem Tab.get_of_above : ∀ {b : Nat} {t : Tab α}, Tab.above b t = true → ∀ {k : Nat}, k < b → Tab.get d t k = d
  | _, [], _, _, _ => rfl
  | b, (k', v') :: t, ht, k, hk => by
    simp only [Tab.above, Bool.and_eq_true, decide_eq_true_eq] at ht
    simp only [Tab.get]
    rw [if_neg (by omega)]
    exact Tab.get_of_above ht.2 (by omega)

theorem Tab.get_put_above (k : Nat) (v : α) (j : Nat) :
    ∀ {b : Nat} {t : Tab α}, Tab.above b t = true → Tab.get d (Tab.put d t k v) j = if j = k then v else Tab.get d t j
  | _, [], _ => by
    simp only [Tab.put]
    split <;> rename_i h
    · split <;> simp_all [Tab.get]
    · simp only [Tab.get]
      by_cases hj : j = k
      · simp [hj]
      · simp [hj, Ne.symm hj]
  | b, (k', v') :: t, ht => by
    simp only [Tab.above, Bool.and_eq_true, decide_eq_true_eq] at ht
    simp only [Tab.put]
    by_cases h1 : k < k'
    · rw [if_pos h1]
      have hd : Tab.get d t k = d := Tab.get_of_above ht.2 (by omega)
      by_cases hv : v = d
      · rw [if_pos hv]
        by_cases hj : j = k
        · subst hj
          simp only [Tab.get, if_true]
          rw [if_neg (by omega), hd, hv]
        · rw [if_neg hj]
      · rw [if_neg hv]
        by_cases hj : j = k
        · subst hj; simp [Tab.get]
        · rw [if_neg hj]
          simp only [Tab.get]
          rw [if_neg (Ne.symm hj)]
    · rw [if_neg h1]
      by_cases h2 : k = k'
      · subst h2
        rw [if_pos rfl]
        by_cases hv : v = d
        · rw [if_pos hv]
          by_cases hj : j = k
          · subst hj
            rw [if_pos rfl, Tab.get_of_above ht.2 (by omega), hv]
          · rw [if_neg hj]
            simp only [Tab.get]
            rw [if_neg (Ne.symm hj)]
        · rw [if_neg hv]
          by_cases hj : j = k
          · subst hj; simp [Tab.get]
          · rw [if_neg hj]
            simp only [Tab.get]
            rw [if_neg (Ne.symm hj), if_neg (Ne.symm hj)]
      · rw [if_neg h2]
        simp only [Tab.get]
        by_cases hj : k' = j
        · rw [if_pos hj, if_pos hj, if_neg (by omega)]
        · rw [if_neg hj, if_neg hj, Tab.get_put_above k v j ht.2]

/-- A read after a write: the key written holds the value, every other key what it held. -/
theorem Tab.get_put {t : Tab α} (h : Tab.wf d t = true) (k : Nat) (v : α) (j : Nat) :
    Tab.get d (Tab.put d t k v) j = if j = k then v else Tab.get d t j := by
  simp only [Tab.wf, Bool.and_eq_true] at h
  exact Tab.get_put_above k v j h.1

/-- A read after the write of consecutive keys. -/
theorem Tab.get_putList : ∀ (vs : List α) (a : Nat) {t : Tab α}, Tab.wf d t = true → ∀ j : Nat,
    Tab.get d (Tab.putList d t a vs) j = if a ≤ j ∧ j < a + vs.length then vs.getD (j - a) d else Tab.get d t j
  | [], a, t, _, j => by
    rw [if_neg (by simp only [List.length_nil]; omega)]
    rfl
  | v :: vs, a, t, h, j => by
    rw [Tab.putList, Tab.get_putList vs (a + 1) (Tab.wf_put a v h) j, Tab.get_put h]
    simp only [List.length_cons]
    by_cases h1 : j = a
    · subst h1
      rw [if_neg (by omega), if_pos rfl, if_pos (by omega)]
      simp
    · rw [if_neg h1]
      by_cases h2 : a + 1 ≤ j ∧ j < a + 1 + vs.length
      · rw [if_pos h2, if_pos (by omega)]
        have : j - a = (j - (a + 1)) + 1 := by omega
        rw [this]
        simp
      · rw [if_neg h2, if_neg (by omega)]

/-- Reading back consecutive keys that have been written. -/
theorem Tab.getList_putList (vs : List α) (a : Nat) {t : Tab α} (h : Tab.wf d t = true) : Tab.getList d (Tab.putList d t a vs) a vs.length = vs := by
  refine List.ext_getElem (by simp [Tab.getList]) (fun i h1 h2 => ?_)
  simp only [Tab.getList, List.getElem_map, List.getElem_range, Tab.get_putList vs a h]
  rw [if_pos (by omega)]
  simp [h2]

omit [DecidableEq α] in
/-- A read after a range has been cleared. -/
theorem Tab.get_clear (a n j : Nat) : ∀ (t : Tab α), Tab.get d (Tab.clear t a n) j = if a ≤ j ∧ j < a + n then d else Tab.get d t j
  | [] => by simp [Tab.clear, Tab.get]
  | (k, v) :: t => by
    have ih := Tab.get_clear a n j t
    unfold Tab.clear at ih ⊢
    simp only [List.filter_cons]
    by_cases hk : a ≤ k ∧ k < a + n
    · simp only [hk.1, hk.2, decide_true, Bool.and_true, Bool.not_true, Bool.false_eq_true, if_false]
      rw [ih]
      by_cases hj : a ≤ j ∧ j < a + n
      · rw [if_pos hj, if_pos hj]
      · rw [if_neg hj, if_neg hj]
        simp only [Tab.get]
        rw [if_neg (by rintro rfl; exact hj hk)]
    · have hb : (!(decide (a ≤ k) && decide (k < a + n))) = true := by
        simp only [Bool.not_eq_true', Bool.and_eq_false_iff, decide_eq_false_iff_not]
        omega
      simp only [hb, if_true, Tab.get]
      by_cases hkj : k = j
      · subst hkj
        rw [if_pos rfl, if_neg hk, if_pos rfl]
      · rw [if_neg hkj, if_neg hkj, ih]

end Sys2Proof.Machine
end

