-- ==== Sys2Proof/Laws/State.lean ====
section
/-! SUPPORT. Laws of the state: what each field is after an effect, one law per field over every effect, true by cases; and what a list of effects leaves alone. -/
namespace Sys2Proof.Machine

/-- No effect touches the queue of waiting commands. -/
@[simp] theorem State.apply_pending (s : State) (e : Eff) : (s.apply e).pending = s.pending := by cases e <;> rfl

/-- `fresh` after an effect. -/
@[simp] theorem State.apply_fresh (s : State) (e : Eff) : (s.apply e).fresh = (match e with
    | .fresh v => v
    | _ => s.fresh : Nat) := by cases e <;> rfl

/-- `ticks` after an effect. -/
@[simp] theorem State.apply_ticks (s : State) (e : Eff) : (s.apply e).ticks = (match e with
    | .ticks v => v
    | _ => s.ticks : Nat) := by cases e <;> rfl

/-- `hostRead` after an effect. -/
@[simp] theorem State.apply_hostRead (s : State) (e : Eff) : (s.apply e).hostRead = (match e with
    | .hostRead v => v
    | _ => s.hostRead : HostRead) := by cases e <;> rfl

/-- `mem` after an effect. -/
@[simp] theorem State.apply_mem (s : State) (e : Eff) : (s.apply e).mem = (match e with
    | .mem k v => Tab.put 0 s.mem k v
    | .store a bs => Tab.putList 0 s.mem a bs
    | .zero a n => Tab.clear s.mem a n
    | _ => s.mem : Tab Byte) := by cases e <;> rfl

/-- `localMem` after an effect. -/
@[simp] theorem State.apply_localMem (s : State) (e : Eff) : (s.apply e).localMem = (match e with
    | .localMem k v => Tab.put 0 s.localMem k v
    | .localStore k bs => Tab.putList 0 s.localMem k bs
    | .localMemClear a n => Tab.clear s.localMem a n
    | _ => s.localMem : Tab Byte) := by cases e <;> rfl

/-- `poisoned` after an effect. -/
@[simp] theorem State.apply_poisoned (s : State) (e : Eff) : (s.apply e).poisoned = (match e with
    | .poisoned k v => Tab.put false s.poisoned k v
    | .poisonedClear a n => Tab.clear s.poisoned a n
    | _ => s.poisoned : Tab Bool) := by cases e <;> rfl

/-- `badWords` after an effect. -/
@[simp] theorem State.apply_badWords (s : State) (e : Eff) : (s.apply e).badWords = (match e with
    | .badWords k v => Tab.put false s.badWords k v
    | .badWordsClear a n => Tab.clear s.badWords a n
    | _ => s.badWords : Tab Bool) := by cases e <;> rfl

/-- `regs` after an effect. -/
@[simp] theorem State.apply_regs (s : State) (e : Eff) : (s.apply e).regs = (match e with
    | .regs k v => Tab.put 0 s.regs k v
    | .regsClear a n => Tab.clear s.regs a n
    | _ => s.regs : Tab Word) := by cases e <;> rfl

/-- `funcs` after an effect. -/
@[simp] theorem State.apply_funcs (s : State) (e : Eff) : (s.apply e).funcs = (match e with
    | .funcs k v => Tab.put ({} : Func) s.funcs k v
    | .funcsClear a n => Tab.clear s.funcs a n
    | _ => s.funcs : Tab Func) := by cases e <;> rfl

/-- `queues` after an effect. -/
@[simp] theorem State.apply_queues (s : State) (e : Eff) : (s.apply e).queues = (match e with
    | .queues k v => Tab.put ({} : Queue) s.queues k v
    | .queuesClear a n => Tab.clear s.queues a n
    | _ => s.queues : Tab Queue) := by cases e <;> rfl

/-- `slots` after an effect. -/
@[simp] theorem State.apply_slots (s : State) (e : Eff) : (s.apply e).slots = (match e with
    | .slots k v => Tab.put ({} : Slot) s.slots k v
    | .slotsClear a n => Tab.clear s.slots a n
    | _ => s.slots : Tab Slot) := by cases e <;> rfl

/-- `vecs` after an effect. -/
@[simp] theorem State.apply_vecs (s : State) (e : Eff) : (s.apply e).vecs = (match e with
    | .vecs k v => Tab.put ({} : Vec) s.vecs k v
    | .vecsClear a n => Tab.clear s.vecs a n
    | _ => s.vecs : Tab Vec) := by cases e <;> rfl

/-- `pcie` after an effect. -/
@[simp] theorem State.apply_pcie (s : State) (e : Eff) : (s.apply e).pcie = (match e with
    | .pcie v => v
    | _ => s.pcie : Pcie) := by cases e <;> rfl

/-- `mbx` after an effect. -/
@[simp] theorem State.apply_mbx (s : State) (e : Eff) : (s.apply e).mbx = (match e with
    | .mbx v => v
    | _ => s.mbx : Mailbox) := by cases e <;> rfl

/-- `jobs` after an effect. -/
@[simp] theorem State.apply_jobs (s : State) (e : Eff) : (s.apply e).jobs = (match e with
    | .jobs k v => Tab.put ({} : Job) s.jobs k v
    | .jobsClear a n => Tab.clear s.jobs a n
    | _ => s.jobs : Tab Job) := by cases e <;> rfl

/-- `nextJob` after an effect. -/
@[simp] theorem State.apply_nextJob (s : State) (e : Eff) : (s.apply e).nextJob = (match e with
    | .nextJob v => v
    | _ => s.nextJob : Nat) := by cases e <;> rfl

/-- `entries` after an effect. -/
@[simp] theorem State.apply_entries (s : State) (e : Eff) : (s.apply e).entries = (match e with
    | .entries v => v
    | _ => s.entries : Nat) := by cases e <;> rfl

/-- `starts` after an effect. -/
@[simp] theorem State.apply_starts (s : State) (e : Eff) : (s.apply e).starts = (match e with
    | .starts v => v
    | _ => s.starts : Nat) := by cases e <;> rfl

/-- `sems` after an effect. -/
@[simp] theorem State.apply_sems (s : State) (e : Eff) : (s.apply e).sems = (match e with
    | .sems k v => Tab.put ({} : Sem) s.sems k v
    | .semsClear a n => Tab.clear s.sems a n
    | _ => s.sems : Tab Sem) := by cases e <;> rfl

/-- `modeUnits` after an effect. -/
@[simp] theorem State.apply_modeUnits (s : State) (e : Eff) : (s.apply e).modeUnits = (match e with
    | .modeUnits k v => Tab.put ({} : ModeUnit) s.modeUnits k v
    | .modeUnitsClear a n => Tab.clear s.modeUnits a n
    | _ => s.modeUnits : Tab ModeUnit) := by cases e <;> rfl

/-- `modeChanges` after an effect. -/
@[simp] theorem State.apply_modeChanges (s : State) (e : Eff) : (s.apply e).modeChanges = (match e with
    | .modeChanges k v => Tab.put ({} : ModeChange) s.modeChanges k v
    | .modeChangesClear a n => Tab.clear s.modeChanges a n
    | _ => s.modeChanges : Tab ModeChange) := by cases e <;> rfl

/-- `parts` after an effect. -/
@[simp] theorem State.apply_parts (s : State) (e : Eff) : (s.apply e).parts = (match e with
    | .parts k v => Tab.put ({} : Part) s.parts k v
    | .partsClear a n => Tab.clear s.parts a n
    | _ => s.parts : Tab Part) := by cases e <;> rfl

/-- `ruling` after an effect. -/
@[simp] theorem State.apply_ruling (s : State) (e : Eff) : (s.apply e).ruling = (match e with
    | .ruling v => v
    | _ => s.ruling : Ruling) := by cases e <;> rfl

/-- `unitMove` after an effect. -/
@[simp] theorem State.apply_unitMove (s : State) (e : Eff) : (s.apply e).unitMove = (match e with
    | .unitMove v => v
    | _ => s.unitMove : UnitMove) := by cases e <;> rfl

/-- `clusters` after an effect. -/
@[simp] theorem State.apply_clusters (s : State) (e : Eff) : (s.apply e).clusters = (match e with
    | .clusters k v => Tab.put ({} : Cluster) s.clusters k v
    | .clustersClear a n => Tab.clear s.clusters a n
    | _ => s.clusters : Tab Cluster) := by cases e <;> rfl

/-- `segs` after an effect. -/
@[simp] theorem State.apply_segs (s : State) (e : Eff) : (s.apply e).segs = (match e with
    | .segs k v => Tab.put ({} : Seg) s.segs k v
    | .segsClear a n => Tab.clear s.segs a n
    | _ => s.segs : Tab Seg) := by cases e <;> rfl

/-- `claims` after an effect. -/
@[simp] theorem State.apply_claims (s : State) (e : Eff) : (s.apply e).claims = (match e with
    | .claims k v => Tab.put 0 s.claims k v
    | .claimsClear a n => Tab.clear s.claims a n
    | _ => s.claims : Tab Nat) := by cases e <;> rfl

/-- `lines` after an effect. -/
@[simp] theorem State.apply_lines (s : State) (e : Eff) : (s.apply e).lines = (match e with
    | .lines k v => Tab.put ({} : Line) s.lines k v
    | .linesClear a n => Tab.clear s.lines a n
    | _ => s.lines : Tab Line) := by cases e <;> rfl

/-- `plru` after an effect. -/
@[simp] theorem State.apply_plru (s : State) (e : Eff) : (s.apply e).plru = (match e with
    | .plru k v => Tab.put 0 s.plru k v
    | .plruClear a n => Tab.clear s.plru a n
    | _ => s.plru : Tab Nat) := by cases e <;> rfl

/-- `retries` after an effect. -/
@[simp] theorem State.apply_retries (s : State) (e : Eff) : (s.apply e).retries = (match e with
    | .retries v => v
    | _ => s.retries : List RetryReq) := by cases e <;> rfl

/-- `recorder` after an effect. -/
@[simp] theorem State.apply_recorder (s : State) (e : Eff) : (s.apply e).recorder = (match e with
    | .recorder v => v
    | _ => s.recorder : Recorder) := by cases e <;> rfl

/-- `evtSels` after an effect. -/
@[simp] theorem State.apply_evtSels (s : State) (e : Eff) : (s.apply e).evtSels = (match e with
    | .evtSels k v => Tab.put ({} : EvtSel) s.evtSels k v
    | .evtSelsClear a n => Tab.clear s.evtSels a n
    | _ => s.evtSels : Tab EvtSel) := by cases e <;> rfl

/-- `reserve` after an effect. -/
@[simp] theorem State.apply_reserve (s : State) (e : Eff) : (s.apply e).reserve = (match e with
    | .reserve v => v
    | _ => s.reserve : Reserve) := by cases e <;> rfl

/-- `gddr` after an effect. -/
@[simp] theorem State.apply_gddr (s : State) (e : Eff) : (s.apply e).gddr = (match e with
    | .gddr v => v
    | _ => s.gddr : Gddr) := by cases e <;> rfl

/-- `positions` after an effect. -/
@[simp] theorem State.apply_positions (s : State) (e : Eff) : (s.apply e).positions = (match e with
    | .positions k v => Tab.put ({} : MemPos) s.positions k v
    | .positionsClear a n => Tab.clear s.positions a n
    | _ => s.positions : Tab MemPos) := by cases e <;> rfl

/-- `channels` after an effect. -/
@[simp] theorem State.apply_channels (s : State) (e : Eff) : (s.apply e).channels = (match e with
    | .channels k v => Tab.put ({} : Channel) s.channels k v
    | .channelsClear a n => Tab.clear s.channels a n
    | _ => s.channels : Tab Channel) := by cases e <;> rfl

/-- `ports` after an effect. -/
@[simp] theorem State.apply_ports (s : State) (e : Eff) : (s.apply e).ports = (match e with
    | .ports k v => Tab.put ({} : Port) s.ports k v
    | .portsClear a n => Tab.clear s.ports a n
    | _ => s.ports : Tab Port) := by cases e <;> rfl

/-- `xfers` after an effect. -/
@[simp] theorem State.apply_xfers (s : State) (e : Eff) : (s.apply e).xfers = (match e with
    | .xfers v => v
    | _ => s.xfers : List Xfer) := by cases e <;> rfl

/-- `colls` after an effect. -/
@[simp] theorem State.apply_colls (s : State) (e : Eff) : (s.apply e).colls = (match e with
    | .colls v => v
    | _ => s.colls : List Coll) := by cases e <;> rfl

/-- `nextTag` after an effect. -/
@[simp] theorem State.apply_nextTag (s : State) (e : Eff) : (s.apply e).nextTag = (match e with
    | .nextTag v => v
    | _ => s.nextTag : Nat) := by cases e <;> rfl

/-- `sessions` after an effect. -/
@[simp] theorem State.apply_sessions (s : State) (e : Eff) : (s.apply e).sessions = (match e with
    | .sessions k v => Tab.put ({} : Session) s.sessions k v
    | .sessionsClear a n => Tab.clear s.sessions a n
    | _ => s.sessions : Tab Session) := by cases e <;> rfl

/-- `groups` after an effect. -/
@[simp] theorem State.apply_groups (s : State) (e : Eff) : (s.apply e).groups = (match e with
    | .groups k v => Tab.put ({} : Group) s.groups k v
    | .groupsClear a n => Tab.clear s.groups a n
    | _ => s.groups : Tab Group) := by cases e <;> rfl

/-- `vocabs` after an effect. -/
@[simp] theorem State.apply_vocabs (s : State) (e : Eff) : (s.apply e).vocabs = (match e with
    | .vocabs k v => Tab.put ({} : Bound) s.vocabs k v
    | .vocabsClear a n => Tab.clear s.vocabs a n
    | _ => s.vocabs : Tab Bound) := by cases e <;> rfl

/-- `grammars` after an effect. -/
@[simp] theorem State.apply_grammars (s : State) (e : Eff) : (s.apply e).grammars = (match e with
    | .grammars k v => Tab.put ({} : Bound) s.grammars k v
    | .grammarsClear a n => Tab.clear s.grammars a n
    | _ => s.grammars : Tab Bound) := by cases e <;> rfl

/-- `maskTags` after an effect. -/
@[simp] theorem State.apply_maskTags (s : State) (e : Eff) : (s.apply e).maskTags = (match e with
    | .maskTags k v => Tab.put [] s.maskTags k v
    | .maskTagsClear a n => Tab.clear s.maskTags a n
    | _ => s.maskTags : Tab (List Byte)) := by cases e <;> rfl

/-- `bases` after an effect. -/
@[simp] theorem State.apply_bases (s : State) (e : Eff) : (s.apply e).bases = (match e with
    | .bases k v => Tab.put 0 s.bases k v
    | .basesClear a n => Tab.clear s.bases a n
    | _ => s.bases : Tab Nat) := by cases e <;> rfl

/-- `pools` after an effect. -/
@[simp] theorem State.apply_pools (s : State) (e : Eff) : (s.apply e).pools = (match e with
    | .pools k v => Tab.put ({} : Pool) s.pools k v
    | .poolsClear a n => Tab.clear s.pools a n
    | _ => s.pools : Tab Pool) := by cases e <;> rfl

/-- `refs` after an effect. -/
@[simp] theorem State.apply_refs (s : State) (e : Eff) : (s.apply e).refs = (match e with
    | .refs k v => Tab.put 0 s.refs k v
    | .refsClear a n => Tab.clear s.refs a n
    | _ => s.refs : Tab Nat) := by cases e <;> rfl

/-- `polWaits` after an effect. -/
@[simp] theorem State.apply_polWaits (s : State) (e : Eff) : (s.apply e).polWaits = (match e with
    | .polWaits k v => Tab.put 0 s.polWaits k v
    | .polWaitsClear a n => Tab.clear s.polWaits a n
    | _ => s.polWaits : Tab Nat) := by cases e <;> rfl

/-- `svc` after an effect. -/
@[simp] theorem State.apply_svc (s : State) (e : Eff) : (s.apply e).svc = (match e with
    | .svc v => v
    | _ => s.svc : Svc) := by cases e <;> rfl

/-- `tap` after an effect. -/
@[simp] theorem State.apply_tap (s : State) (e : Eff) : (s.apply e).tap = (match e with
    | .tap v => v
    | _ => s.tap : Tap) := by cases e <;> rfl

/-- `flash` after an effect. -/
@[simp] theorem State.apply_flash (s : State) (e : Eff) : (s.apply e).flash = (match e with
    | .flash k v => Tab.put 0xFF s.flash k v
    | .flashClear a n => Tab.clear s.flash a n
    | _ => s.flash : Tab Byte) := by cases e <;> rfl

/-- `streams` after an effect. -/
@[simp] theorem State.apply_streams (s : State) (e : Eff) : (s.apply e).streams = (match e with
    | .streams k v => Tab.put ({} : StreamCtx) s.streams k v
    | .streamsClear a n => Tab.clear s.streams a n
    | _ => s.streams : Tab StreamCtx) := by cases e <;> rfl

/-- `medQueue` after an effect. -/
@[simp] theorem State.apply_medQueue (s : State) (e : Eff) : (s.apply e).medQueue = (match e with
    | .medQueue v => v
    | _ => s.medQueue : List MedWork) := by cases e <;> rfl

/-- `medNext` after an effect. -/
@[simp] theorem State.apply_medNext (s : State) (e : Eff) : (s.apply e).medNext = (match e with
    | .medNext v => v
    | _ => s.medNext : Nat) := by cases e <;> rfl

/-- `cores` after an effect. -/
@[simp] theorem State.apply_cores (s : State) (e : Eff) : (s.apply e).cores = (match e with
    | .cores k v => Tab.put ({} : Core) s.cores k v
    | .coresClear a n => Tab.clear s.cores a n
    | _ => s.cores : Tab Core) := by cases e <;> rfl

/-- `intakes` after an effect. -/
@[simp] theorem State.apply_intakes (s : State) (e : Eff) : (s.apply e).intakes = (match e with
    | .intakes k v => Tab.put ({} : IntCtx) s.intakes k v
    | .intakesClear a n => Tab.clear s.intakes a n
    | _ => s.intakes : Tab IntCtx) := by cases e <;> rfl

/-- `regGroups` after an effect. -/
@[simp] theorem State.apply_regGroups (s : State) (e : Eff) : (s.apply e).regGroups = (match e with
    | .regGroups k v => Tab.put ({} : RegGroup) s.regGroups k v
    | .regGroupsClear a n => Tab.clear s.regGroups a n
    | _ => s.regGroups : Tab RegGroup) := by cases e <;> rfl

/-- `outRings` after an effect. -/
@[simp] theorem State.apply_outRings (s : State) (e : Eff) : (s.apply e).outRings = (match e with
    | .outRings k v => Tab.put ({} : OutRing) s.outRings k v
    | .outRingsClear a n => Tab.clear s.outRings a n
    | _ => s.outRings : Tab OutRing) := by cases e <;> rfl

/-- `tracks` after an effect. -/
@[simp] theorem State.apply_tracks (s : State) (e : Eff) : (s.apply e).tracks = (match e with
    | .tracks k v => Tab.put ({} : TrkStream) s.tracks k v
    | .tracksClear a n => Tab.clear s.tracks a n
    | _ => s.tracks : Tab TrkStream) := by cases e <;> rfl

/-! ## Lists of effects -/

@[simp] theorem State.applyAll_nil (s : State) : s.applyAll [] = s := rfl
@[simp] theorem State.applyAll_cons (s : State) (e : Eff) (es : List Eff) : s.applyAll (e :: es) = (s.apply e).applyAll es := rfl

theorem State.applyAll_append : ∀ (s : State) (xs ys : List Eff), s.applyAll (xs ++ ys) = (s.applyAll xs).applyAll ys
  | _, [], _ => rfl
  | s, x :: xs, ys => State.applyAll_append (s.apply x) xs ys

@[simp] theorem State.applyAll_pending : ∀ (s : State) (es : List Eff), (s.applyAll es).pending = s.pending
  | _, [] => rfl
  | s, e :: es => by rw [State.applyAll_cons, State.applyAll_pending (s.apply e) es, State.apply_pending]

/-! ## What a list of effects leaves alone -/


/-- The field that an effect changes. -/
def Eff.field : Eff → Field
  | .fresh _ => .fresh
  | .ticks _ => .ticks
  | .hostRead _ => .hostRead
  | .mem _ _ => .mem
  | .localMem _ _ => .localMem
  | .localMemClear _ _ => .localMem
  | .poisoned _ _ => .poisoned
  | .poisonedClear _ _ => .poisoned
  | .badWords _ _ => .badWords
  | .badWordsClear _ _ => .badWords
  | .regs _ _ => .regs
  | .regsClear _ _ => .regs
  | .funcs _ _ => .funcs
  | .funcsClear _ _ => .funcs
  | .queues _ _ => .queues
  | .queuesClear _ _ => .queues
  | .slots _ _ => .slots
  | .slotsClear _ _ => .slots
  | .vecs _ _ => .vecs
  | .vecsClear _ _ => .vecs
  | .pcie _ => .pcie
  | .mbx _ => .mbx
  | .jobs _ _ => .jobs
  | .jobsClear _ _ => .jobs
  | .nextJob _ => .nextJob
  | .entries _ => .entries
  | .starts _ => .starts
  | .sems _ _ => .sems
  | .semsClear _ _ => .sems
  | .modeUnits _ _ => .modeUnits
  | .modeUnitsClear _ _ => .modeUnits
  | .modeChanges _ _ => .modeChanges
  | .modeChangesClear _ _ => .modeChanges
  | .parts _ _ => .parts
  | .partsClear _ _ => .parts
  | .ruling _ => .ruling
  | .unitMove _ => .unitMove
  | .clusters _ _ => .clusters
  | .clustersClear _ _ => .clusters
  | .segs _ _ => .segs
  | .segsClear _ _ => .segs
  | .claims _ _ => .claims
  | .claimsClear _ _ => .claims
  | .lines _ _ => .lines
  | .linesClear _ _ => .lines
  | .plru _ _ => .plru
  | .plruClear _ _ => .plru
  | .retries _ => .retries
  | .recorder _ => .recorder
  | .evtSels _ _ => .evtSels
  | .evtSelsClear _ _ => .evtSels
  | .reserve _ => .reserve
  | .gddr _ => .gddr
  | .positions _ _ => .positions
  | .positionsClear _ _ => .positions
  | .channels _ _ => .channels
  | .channelsClear _ _ => .channels
  | .ports _ _ => .ports
  | .portsClear _ _ => .ports
  | .xfers _ => .xfers
  | .colls _ => .colls
  | .nextTag _ => .nextTag
  | .sessions _ _ => .sessions
  | .sessionsClear _ _ => .sessions
  | .groups _ _ => .groups
  | .groupsClear _ _ => .groups
  | .vocabs _ _ => .vocabs
  | .vocabsClear _ _ => .vocabs
  | .grammars _ _ => .grammars
  | .grammarsClear _ _ => .grammars
  | .maskTags _ _ => .maskTags
  | .maskTagsClear _ _ => .maskTags
  | .bases _ _ => .bases
  | .basesClear _ _ => .bases
  | .pools _ _ => .pools
  | .poolsClear _ _ => .pools
  | .refs _ _ => .refs
  | .refsClear _ _ => .refs
  | .polWaits _ _ => .polWaits
  | .polWaitsClear _ _ => .polWaits
  | .svc _ => .svc
  | .tap _ => .tap
  | .flash _ _ => .flash
  | .flashClear _ _ => .flash
  | .streams _ _ => .streams
  | .streamsClear _ _ => .streams
  | .medQueue _ => .medQueue
  | .medNext _ => .medNext
  | .cores _ _ => .cores
  | .coresClear _ _ => .cores
  | .intakes _ _ => .intakes
  | .intakesClear _ _ => .intakes
  | .regGroups _ _ => .regGroups
  | .regGroupsClear _ _ => .regGroups
  | .outRings _ _ => .outRings
  | .outRingsClear _ _ => .outRings
  | .tracks _ _ => .tracks
  | .tracksClear _ _ => .tracks
  | .store _ _ => .mem
  | .zero _ _ => .mem
  | .localStore _ _ => .localMem

theorem State.apply_fresh_same (s : State) (e : Eff) (h : e.field ≠ .fresh) : (s.apply e).fresh = s.fresh := by
  cases e <;> first | rfl | exact absurd rfl h

theorem State.apply_ticks_same (s : State) (e : Eff) (h : e.field ≠ .ticks) : (s.apply e).ticks = s.ticks := by
  cases e <;> first | rfl | exact absurd rfl h

theorem State.apply_hostRead_same (s : State) (e : Eff) (h : e.field ≠ .hostRead) : (s.apply e).hostRead = s.hostRead := by
  cases e <;> first | rfl | exact absurd rfl h

theorem State.apply_mem_same (s : State) (e : Eff) (h : e.field ≠ .mem) : (s.apply e).mem = s.mem := by
  cases e <;> first | rfl | exact absurd rfl h

theorem State.apply_localMem_same (s : State) (e : Eff) (h : e.field ≠ .localMem) : (s.apply e).localMem = s.localMem := by
  cases e <;> first | rfl | exact absurd rfl h

theorem State.apply_poisoned_same (s : State) (e : Eff) (h : e.field ≠ .poisoned) : (s.apply e).poisoned = s.poisoned := by
  cases e <;> first | rfl | exact absurd rfl h

theorem State.apply_badWords_same (s : State) (e : Eff) (h : e.field ≠ .badWords) : (s.apply e).badWords = s.badWords := by
  cases e <;> first | rfl | exact absurd rfl h

theorem State.apply_regs_same (s : State) (e : Eff) (h : e.field ≠ .regs) : (s.apply e).regs = s.regs := by
  cases e <;> first | rfl | exact absurd rfl h

theorem State.apply_funcs_same (s : State) (e : Eff) (h : e.field ≠ .funcs) : (s.apply e).funcs = s.funcs := by
  cases e <;> first | rfl | exact absurd rfl h

theorem State.apply_queues_same (s : State) (e : Eff) (h : e.field ≠ .queues) : (s.apply e).queues = s.queues := by
  cases e <;> first | rfl | exact absurd rfl h

theorem State.apply_slots_same (s : State) (e : Eff) (h : e.field ≠ .slots) : (s.apply e).slots = s.slots := by
  cases e <;> first | rfl | exact absurd rfl h

theorem State.apply_vecs_same (s : State) (e : Eff) (h : e.field ≠ .vecs) : (s.apply e).vecs = s.vecs := by
  cases e <;> first | rfl | exact absurd rfl h

theorem State.apply_pcie_same (s : State) (e : Eff) (h : e.field ≠ .pcie) : (s.apply e).pcie = s.pcie := by
  cases e <;> first | rfl | exact absurd rfl h

theorem State.apply_mbx_same (s : State) (e : Eff) (h : e.field ≠ .mbx) : (s.apply e).mbx = s.mbx := by
  cases e <;> first | rfl | exact absurd rfl h

theorem State.apply_jobs_same (s : State) (e : Eff) (h : e.field ≠ .jobs) : (s.apply e).jobs = s.jobs := by
  cases e <;> first | rfl | exact absurd rfl h

theorem State.apply_nextJob_same (s : State) (e : Eff) (h : e.field ≠ .nextJob) : (s.apply e).nextJob = s.nextJob := by
  cases e <;> first | rfl | exact absurd rfl h

theorem State.apply_entries_same (s : State) (e : Eff) (h : e.field ≠ .entries) : (s.apply e).entries = s.entries := by
  cases e <;> first | rfl | exact absurd rfl h

theorem State.apply_starts_same (s : State) (e : Eff) (h : e.field ≠ .starts) : (s.apply e).starts = s.starts := by
  cases e <;> first | rfl | exact absurd rfl h

theorem State.apply_sems_same (s : State) (e : Eff) (h : e.field ≠ .sems) : (s.apply e).sems = s.sems := by
  cases e <;> first | rfl | exact absurd rfl h

theorem State.apply_modeUnits_same (s : State) (e : Eff) (h : e.field ≠ .modeUnits) : (s.apply e).modeUnits = s.modeUnits := by
  cases e <;> first | rfl | exact absurd rfl h

theorem State.apply_modeChanges_same (s : State) (e : Eff) (h : e.field ≠ .modeChanges) : (s.apply e).modeChanges = s.modeChanges := by
  cases e <;> first | rfl | exact absurd rfl h

theorem State.apply_parts_same (s : State) (e : Eff) (h : e.field ≠ .parts) : (s.apply e).parts = s.parts := by
  cases e <;> first | rfl | exact absurd rfl h

theorem State.apply_ruling_same (s : State) (e : Eff) (h : e.field ≠ .ruling) : (s.apply e).ruling = s.ruling := by
  cases e <;> first | rfl | exact absurd rfl h

theorem State.apply_unitMove_same (s : State) (e : Eff) (h : e.field ≠ .unitMove) : (s.apply e).unitMove = s.unitMove := by
  cases e <;> first | rfl | exact absurd rfl h

theorem State.apply_clusters_same (s : State) (e : Eff) (h : e.field ≠ .clusters) : (s.apply e).clusters = s.clusters := by
  cases e <;> first | rfl | exact absurd rfl h

theorem State.apply_segs_same (s : State) (e : Eff) (h : e.field ≠ .segs) : (s.apply e).segs = s.segs := by
  cases e <;> first | rfl | exact absurd rfl h

theorem State.apply_claims_same (s : State) (e : Eff) (h : e.field ≠ .claims) : (s.apply e).claims = s.claims := by
  cases e <;> first | rfl | exact absurd rfl h

theorem State.apply_lines_same (s : State) (e : Eff) (h : e.field ≠ .lines) : (s.apply e).lines = s.lines := by
  cases e <;> first | rfl | exact absurd rfl h

theorem State.apply_plru_same (s : State) (e : Eff) (h : e.field ≠ .plru) : (s.apply e).plru = s.plru := by
  cases e <;> first | rfl | exact absurd rfl h

theorem State.apply_retries_same (s : State) (e : Eff) (h : e.field ≠ .retries) : (s.apply e).retries = s.retries := by
  cases e <;> first | rfl | exact absurd rfl h

theorem State.apply_recorder_same (s : State) (e : Eff) (h : e.field ≠ .recorder) : (s.apply e).recorder = s.recorder := by
  cases e <;> first | rfl | exact absurd rfl h

theorem State.apply_evtSels_same (s : State) (e : Eff) (h : e.field ≠ .evtSels) : (s.apply e).evtSels = s.evtSels := by
  cases e <;> first | rfl | exact absurd rfl h

theorem State.apply_reserve_same (s : State) (e : Eff) (h : e.field ≠ .reserve) : (s.apply e).reserve = s.reserve := by
  cases e <;> first | rfl | exact absurd rfl h

theorem State.apply_gddr_same (s : State) (e : Eff) (h : e.field ≠ .gddr) : (s.apply e).gddr = s.gddr := by
  cases e <;> first | rfl | exact absurd rfl h

theorem State.apply_positions_same (s : State) (e : Eff) (h : e.field ≠ .positions) : (s.apply e).positions = s.positions := by
  cases e <;> first | rfl | exact absurd rfl h

theorem State.apply_channels_same (s : State) (e : Eff) (h : e.field ≠ .channels) : (s.apply e).channels = s.channels := by
  cases e <;> first | rfl | exact absurd rfl h

theorem State.apply_ports_same (s : State) (e : Eff) (h : e.field ≠ .ports) : (s.apply e).ports = s.ports := by
  cases e <;> first | rfl | exact absurd rfl h

theorem State.apply_xfers_same (s : State) (e : Eff) (h : e.field ≠ .xfers) : (s.apply e).xfers = s.xfers := by
  cases e <;> first | rfl | exact absurd rfl h

theorem State.apply_colls_same (s : State) (e : Eff) (h : e.field ≠ .colls) : (s.apply e).colls = s.colls := by
  cases e <;> first | rfl | exact absurd rfl h

theorem State.apply_nextTag_same (s : State) (e : Eff) (h : e.field ≠ .nextTag) : (s.apply e).nextTag = s.nextTag := by
  cases e <;> first | rfl | exact absurd rfl h

theorem State.apply_sessions_same (s : State) (e : Eff) (h : e.field ≠ .sessions) : (s.apply e).sessions = s.sessions := by
  cases e <;> first | rfl | exact absurd rfl h

theorem State.apply_groups_same (s : State) (e : Eff) (h : e.field ≠ .groups) : (s.apply e).groups = s.groups := by
  cases e <;> first | rfl | exact absurd rfl h

theorem State.apply_vocabs_same (s : State) (e : Eff) (h : e.field ≠ .vocabs) : (s.apply e).vocabs = s.vocabs := by
  cases e <;> first | rfl | exact absurd rfl h

theorem State.apply_grammars_same (s : State) (e : Eff) (h : e.field ≠ .grammars) : (s.apply e).grammars = s.grammars := by
  cases e <;> first | rfl | exact absurd rfl h

theorem State.apply_maskTags_same (s : State) (e : Eff) (h : e.field ≠ .maskTags) : (s.apply e).maskTags = s.maskTags := by
  cases e <;> first | rfl | exact absurd rfl h

theorem State.apply_bases_same (s : State) (e : Eff) (h : e.field ≠ .bases) : (s.apply e).bases = s.bases := by
  cases e <;> first | rfl | exact absurd rfl h

theorem State.apply_pools_same (s : State) (e : Eff) (h : e.field ≠ .pools) : (s.apply e).pools = s.pools := by
  cases e <;> first | rfl | exact absurd rfl h

theorem State.apply_refs_same (s : State) (e : Eff) (h : e.field ≠ .refs) : (s.apply e).refs = s.refs := by
  cases e <;> first | rfl | exact absurd rfl h

theorem State.apply_polWaits_same (s : State) (e : Eff) (h : e.field ≠ .polWaits) : (s.apply e).polWaits = s.polWaits := by
  cases e <;> first | rfl | exact absurd rfl h

theorem State.apply_svc_same (s : State) (e : Eff) (h : e.field ≠ .svc) : (s.apply e).svc = s.svc := by
  cases e <;> first | rfl | exact absurd rfl h

theorem State.apply_tap_same (s : State) (e : Eff) (h : e.field ≠ .tap) : (s.apply e).tap = s.tap := by
  cases e <;> first | rfl | exact absurd rfl h

theorem State.apply_flash_same (s : State) (e : Eff) (h : e.field ≠ .flash) : (s.apply e).flash = s.flash := by
  cases e <;> first | rfl | exact absurd rfl h

theorem State.apply_streams_same (s : State) (e : Eff) (h : e.field ≠ .streams) : (s.apply e).streams = s.streams := by
  cases e <;> first | rfl | exact absurd rfl h

theorem State.apply_medQueue_same (s : State) (e : Eff) (h : e.field ≠ .medQueue) : (s.apply e).medQueue = s.medQueue := by
  cases e <;> first | rfl | exact absurd rfl h

theorem State.apply_medNext_same (s : State) (e : Eff) (h : e.field ≠ .medNext) : (s.apply e).medNext = s.medNext := by
  cases e <;> first | rfl | exact absurd rfl h

theorem State.apply_cores_same (s : State) (e : Eff) (h : e.field ≠ .cores) : (s.apply e).cores = s.cores := by
  cases e <;> first | rfl | exact absurd rfl h

theorem State.apply_intakes_same (s : State) (e : Eff) (h : e.field ≠ .intakes) : (s.apply e).intakes = s.intakes := by
  cases e <;> first | rfl | exact absurd rfl h

theorem State.apply_regGroups_same (s : State) (e : Eff) (h : e.field ≠ .regGroups) : (s.apply e).regGroups = s.regGroups := by
  cases e <;> first | rfl | exact absurd rfl h

theorem State.apply_outRings_same (s : State) (e : Eff) (h : e.field ≠ .outRings) : (s.apply e).outRings = s.outRings := by
  cases e <;> first | rfl | exact absurd rfl h

theorem State.apply_tracks_same (s : State) (e : Eff) (h : e.field ≠ .tracks) : (s.apply e).tracks = s.tracks := by
  cases e <;> first | rfl | exact absurd rfl h


theorem Field.same_refl (s : State) (f : Field) : Field.same s s f := by cases f <;> rfl

theorem Field.same_trans {s t u : State} {f : Field} (h : Field.same s t f) (h' : Field.same t u f) : Field.same s u f := by
  cases f <;> exact Eq.trans h h'

/-- An effect leaves every other field as it was. -/
theorem State.apply_same (s : State) (e : Eff) (f : Field) (h : e.field ≠ f) : Field.same (s.apply e) s f := by
  cases f with
  | fresh => exact State.apply_fresh_same s e h
  | ticks => exact State.apply_ticks_same s e h
  | hostRead => exact State.apply_hostRead_same s e h
  | mem => exact State.apply_mem_same s e h
  | localMem => exact State.apply_localMem_same s e h
  | poisoned => exact State.apply_poisoned_same s e h
  | badWords => exact State.apply_badWords_same s e h
  | regs => exact State.apply_regs_same s e h
  | funcs => exact State.apply_funcs_same s e h
  | queues => exact State.apply_queues_same s e h
  | slots => exact State.apply_slots_same s e h
  | vecs => exact State.apply_vecs_same s e h
  | pcie => exact State.apply_pcie_same s e h
  | mbx => exact State.apply_mbx_same s e h
  | jobs => exact State.apply_jobs_same s e h
  | nextJob => exact State.apply_nextJob_same s e h
  | entries => exact State.apply_entries_same s e h
  | starts => exact State.apply_starts_same s e h
  | sems => exact State.apply_sems_same s e h
  | modeUnits => exact State.apply_modeUnits_same s e h
  | modeChanges => exact State.apply_modeChanges_same s e h
  | parts => exact State.apply_parts_same s e h
  | ruling => exact State.apply_ruling_same s e h
  | unitMove => exact State.apply_unitMove_same s e h
  | clusters => exact State.apply_clusters_same s e h
  | segs => exact State.apply_segs_same s e h
  | claims => exact State.apply_claims_same s e h
  | lines => exact State.apply_lines_same s e h
  | plru => exact State.apply_plru_same s e h
  | retries => exact State.apply_retries_same s e h
  | recorder => exact State.apply_recorder_same s e h
  | evtSels => exact State.apply_evtSels_same s e h
  | reserve => exact State.apply_reserve_same s e h
  | gddr => exact State.apply_gddr_same s e h
  | positions => exact State.apply_positions_same s e h
  | channels => exact State.apply_channels_same s e h
  | ports => exact State.apply_ports_same s e h
  | xfers => exact State.apply_xfers_same s e h
  | colls => exact State.apply_colls_same s e h
  | nextTag => exact State.apply_nextTag_same s e h
  | sessions => exact State.apply_sessions_same s e h
  | groups => exact State.apply_groups_same s e h
  | vocabs => exact State.apply_vocabs_same s e h
  | grammars => exact State.apply_grammars_same s e h
  | maskTags => exact State.apply_maskTags_same s e h
  | bases => exact State.apply_bases_same s e h
  | pools => exact State.apply_pools_same s e h
  | refs => exact State.apply_refs_same s e h
  | polWaits => exact State.apply_polWaits_same s e h
  | svc => exact State.apply_svc_same s e h
  | tap => exact State.apply_tap_same s e h
  | flash => exact State.apply_flash_same s e h
  | streams => exact State.apply_streams_same s e h
  | medQueue => exact State.apply_medQueue_same s e h
  | medNext => exact State.apply_medNext_same s e h
  | cores => exact State.apply_cores_same s e h
  | intakes => exact State.apply_intakes_same s e h
  | regGroups => exact State.apply_regGroups_same s e h
  | outRings => exact State.apply_outRings_same s e h
  | tracks => exact State.apply_tracks_same s e h

/-- A list of effects leaves every field alone that none of them changes. -/
theorem State.applyAll_same : ∀ (s : State) (es : List Eff) (f : Field), (∀ e ∈ es, e.field ≠ f) → Field.same (s.applyAll es) s f
  | s, [], f, _ => Field.same_refl s f
  | s, e :: es, f, h =>
    Field.same_trans (State.applyAll_same (s.apply e) es f (fun x hx => h x (List.mem_cons_of_mem e hx))) (State.apply_same s e f (h e List.mem_cons_self))

end Sys2Proof.Machine
end

