-- ==== Sys2Proof/Laws/Wf.lean ====
section
/-! SUPPORT. Every effect keeps the canonical form of every table. -/
namespace Sys2Proof.Machine

theorem Memory.wf_put {m : Tab Byte} (h : Memory.wf m = true) (a : Nat) (b : Byte) : Memory.wf (Tab.put 0 m a b) = true := Tab.wf_put a b h
theorem Memory.wf_store {m : Tab Byte} (h : Memory.wf m = true) (a : Nat) (bs : List Byte) : Memory.wf (Tab.putList 0 m a bs) = true := Tab.wf_putList bs a h
theorem Memory.wf_clear {m : Tab Byte} (h : Memory.wf m = true) (a n : Nat) : Memory.wf (Tab.clear m a n) = true := Tab.wf_clear a n h

/-- One effect keeps the canonical form. -/
theorem State.Wf.apply {s : State} (h : s.Wf) (e : Eff) : (s.apply e).Wf := by
  cases e with
  | fresh v => exact { h with }
  | ticks v => exact { h with }
  | hostRead v => exact { h with }
  | mem k v => exact { h with mem := Tab.wf_put k v h.mem }
  | localMem k v => exact { h with localMem := Tab.wf_put k v h.localMem }
  | localMemClear a n => exact { h with localMem := Tab.wf_clear a n h.localMem }
  | poisoned k v => exact { h with poisoned := Tab.wf_put k v h.poisoned }
  | poisonedClear a n => exact { h with poisoned := Tab.wf_clear a n h.poisoned }
  | badWords k v => exact { h with badWords := Tab.wf_put k v h.badWords }
  | badWordsClear a n => exact { h with badWords := Tab.wf_clear a n h.badWords }
  | regs k v => exact { h with regs := Tab.wf_put k v h.regs }
  | regsClear a n => exact { h with regs := Tab.wf_clear a n h.regs }
  | funcs k v => exact { h with funcs := Tab.wf_put k v h.funcs }
  | funcsClear a n => exact { h with funcs := Tab.wf_clear a n h.funcs }
  | queues k v => exact { h with queues := Tab.wf_put k v h.queues }
  | queuesClear a n => exact { h with queues := Tab.wf_clear a n h.queues }
  | slots k v => exact { h with slots := Tab.wf_put k v h.slots }
  | slotsClear a n => exact { h with slots := Tab.wf_clear a n h.slots }
  | vecs k v => exact { h with vecs := Tab.wf_put k v h.vecs }
  | vecsClear a n => exact { h with vecs := Tab.wf_clear a n h.vecs }
  | pcie v => exact { h with }
  | mbx v => exact { h with }
  | jobs k v => exact { h with jobs := Tab.wf_put k v h.jobs }
  | jobsClear a n => exact { h with jobs := Tab.wf_clear a n h.jobs }
  | nextJob v => exact { h with }
  | entries v => exact { h with }
  | starts v => exact { h with }
  | sems k v => exact { h with sems := Tab.wf_put k v h.sems }
  | semsClear a n => exact { h with sems := Tab.wf_clear a n h.sems }
  | modeUnits k v => exact { h with modeUnits := Tab.wf_put k v h.modeUnits }
  | modeUnitsClear a n => exact { h with modeUnits := Tab.wf_clear a n h.modeUnits }
  | modeChanges k v => exact { h with modeChanges := Tab.wf_put k v h.modeChanges }
  | modeChangesClear a n => exact { h with modeChanges := Tab.wf_clear a n h.modeChanges }
  | parts k v => exact { h with parts := Tab.wf_put k v h.parts }
  | partsClear a n => exact { h with parts := Tab.wf_clear a n h.parts }
  | ruling v => exact { h with }
  | unitMove v => exact { h with }
  | clusters k v => exact { h with clusters := Tab.wf_put k v h.clusters }
  | clustersClear a n => exact { h with clusters := Tab.wf_clear a n h.clusters }
  | segs k v => exact { h with segs := Tab.wf_put k v h.segs }
  | segsClear a n => exact { h with segs := Tab.wf_clear a n h.segs }
  | claims k v => exact { h with claims := Tab.wf_put k v h.claims }
  | claimsClear a n => exact { h with claims := Tab.wf_clear a n h.claims }
  | lines k v => exact { h with lines := Tab.wf_put k v h.lines }
  | linesClear a n => exact { h with lines := Tab.wf_clear a n h.lines }
  | plru k v => exact { h with plru := Tab.wf_put k v h.plru }
  | plruClear a n => exact { h with plru := Tab.wf_clear a n h.plru }
  | retries v => exact { h with }
  | recorder v => exact { h with }
  | evtSels k v => exact { h with evtSels := Tab.wf_put k v h.evtSels }
  | evtSelsClear a n => exact { h with evtSels := Tab.wf_clear a n h.evtSels }
  | reserve v => exact { h with }
  | gddr v => exact { h with }
  | positions k v => exact { h with positions := Tab.wf_put k v h.positions }
  | positionsClear a n => exact { h with positions := Tab.wf_clear a n h.positions }
  | channels k v => exact { h with channels := Tab.wf_put k v h.channels }
  | channelsClear a n => exact { h with channels := Tab.wf_clear a n h.channels }
  | ports k v => exact { h with ports := Tab.wf_put k v h.ports }
  | portsClear a n => exact { h with ports := Tab.wf_clear a n h.ports }
  | xfers v => exact { h with }
  | colls v => exact { h with }
  | nextTag v => exact { h with }
  | sessions k v => exact { h with sessions := Tab.wf_put k v h.sessions }
  | sessionsClear a n => exact { h with sessions := Tab.wf_clear a n h.sessions }
  | groups k v => exact { h with groups := Tab.wf_put k v h.groups }
  | groupsClear a n => exact { h with groups := Tab.wf_clear a n h.groups }
  | vocabs k v => exact { h with vocabs := Tab.wf_put k v h.vocabs }
  | vocabsClear a n => exact { h with vocabs := Tab.wf_clear a n h.vocabs }
  | grammars k v => exact { h with grammars := Tab.wf_put k v h.grammars }
  | grammarsClear a n => exact { h with grammars := Tab.wf_clear a n h.grammars }
  | maskTags k v => exact { h with maskTags := Tab.wf_put k v h.maskTags }
  | maskTagsClear a n => exact { h with maskTags := Tab.wf_clear a n h.maskTags }
  | bases k v => exact { h with bases := Tab.wf_put k v h.bases }
  | basesClear a n => exact { h with bases := Tab.wf_clear a n h.bases }
  | pools k v => exact { h with pools := Tab.wf_put k v h.pools }
  | poolsClear a n => exact { h with pools := Tab.wf_clear a n h.pools }
  | refs k v => exact { h with refs := Tab.wf_put k v h.refs }
  | refsClear a n => exact { h with refs := Tab.wf_clear a n h.refs }
  | polWaits k v => exact { h with polWaits := Tab.wf_put k v h.polWaits }
  | polWaitsClear a n => exact { h with polWaits := Tab.wf_clear a n h.polWaits }
  | svc v => exact { h with }
  | tap v => exact { h with }
  | flash k v => exact { h with flash := Tab.wf_put k v h.flash }
  | flashClear a n => exact { h with flash := Tab.wf_clear a n h.flash }
  | streams k v => exact { h with streams := Tab.wf_put k v h.streams }
  | streamsClear a n => exact { h with streams := Tab.wf_clear a n h.streams }
  | medQueue v => exact { h with }
  | medNext v => exact { h with }
  | cores k v => exact { h with cores := Tab.wf_put k v h.cores }
  | coresClear a n => exact { h with cores := Tab.wf_clear a n h.cores }
  | intakes k v => exact { h with intakes := Tab.wf_put k v h.intakes }
  | intakesClear a n => exact { h with intakes := Tab.wf_clear a n h.intakes }
  | regGroups k v => exact { h with regGroups := Tab.wf_put k v h.regGroups }
  | regGroupsClear a n => exact { h with regGroups := Tab.wf_clear a n h.regGroups }
  | outRings k v => exact { h with outRings := Tab.wf_put k v h.outRings }
  | outRingsClear a n => exact { h with outRings := Tab.wf_clear a n h.outRings }
  | tracks k v => exact { h with tracks := Tab.wf_put k v h.tracks }
  | tracksClear a n => exact { h with tracks := Tab.wf_clear a n h.tracks }
  | store a bs => exact { h with mem := Tab.wf_putList bs a h.mem }
  | zero a n => exact { h with mem := Tab.wf_clear a n h.mem }
  | localStore k bs => exact { h with localMem := Tab.wf_putList bs k h.localMem }

/-- A list of effects keeps the canonical form. -/
theorem State.Wf.applyAll : ∀ {s : State} (_ : s.Wf) (es : List Eff), (s.applyAll es).Wf
  | _, h, [] => h
  | _, h, e :: es => State.Wf.applyAll (h.apply e) es

end Sys2Proof.Machine
end

