-- ==== Sys2Proof/Laws/Plan.lean ====
section
/-! SUPPORT. Laws of plans: what a plan put together from others leaves, which fields a plan can change, and what a plan keeps. -/
namespace Sys2Proof.Machine

/-! ## Running a plan -/

theorem Plan.run_def (p : Plan) (s : State) : p.run s = s.applyAll (p s) := rfl

/-- Plans with the same effects in a state leave the same state. -/
theorem Plan.run_congr {p q : Plan} {s : State} (h : p s = q s) : p.run s = q.run s := congrArg s.applyAll h

@[simp] theorem Plan.run_skip (s : State) : Plan.skip.run s = s := rfl
@[simp] theorem Plan.run_act (e : Eff) (s : State) : (Plan.act e).run s = s.apply e := rfl
@[simp] theorem Plan.run_look (f : State → Plan) (s : State) : (Plan.look f).run s = (f s).run s := rfl

@[simp] theorem Plan.run_andThen (p q : Plan) (s : State) : (Plan.andThen p q).run s = q.run (p.run s) := by
  simp only [Plan.run, Plan.andThen, State.applyAll_append]

@[simp] theorem Plan.run_seq_nil (s : State) : (Plan.seq []).run s = s := rfl
@[simp] theorem Plan.run_seq_cons (p : Plan) (ps : List Plan) (s : State) : (Plan.seq (p :: ps)).run s = (Plan.seq ps).run (p.run s) :=
  Plan.run_andThen p (Plan.seq ps) s

theorem Plan.run_seq_append : ∀ (ps qs : List Plan) (s : State), (Plan.seq (ps ++ qs)).run s = (Plan.seq qs).run ((Plan.seq ps).run s)
  | [], _, _ => rfl
  | p :: ps, qs, s => by
    rw [List.cons_append, Plan.run_seq_cons, Plan.run_seq_append ps qs, Plan.run_seq_cons]

@[simp] theorem Plan.run_each_nil {α : Type} (f : α → Plan) (s : State) : (Plan.each [] f).run s = s := rfl
@[simp] theorem Plan.run_each_cons {α : Type} (x : α) (xs : List α) (f : α → Plan) (s : State) :
    (Plan.each (x :: xs) f).run s = (Plan.each xs f).run ((f x).run s) := Plan.run_andThen _ _ s

@[simp] theorem Plan.run_when (b : Bool) (p : Plan) (s : State) : (Plan.when b p).run s = if b then p.run s else s := by
  cases b <;> rfl

/-- A plan that depends on the state alone answers the next state its effects leave. -/
theorem Plan.done_eq (p : Plan) (s : State) (h : s.svc.halted = false) : Plan.done p s = .next (p.run s) := by
  simp [Plan.done, h]

theorem Plan.always_eq (p : Plan) (s : State) : Plan.always p s = .next (p.run s) := rfl

/-- Whatever a command does, it is a list of effects. -/
theorem Plan.done_effs (p : Plan) (s : State) : ∃ es, Plan.done p s = .next (s.applyAll es) := by
  by_cases h : s.svc.halted = true
  · exact ⟨[], by simp [Plan.done, h]⟩
  · exact ⟨p s, by simp [Plan.done, h, Plan.run]⟩

theorem Plan.always_effs (p : Plan) (s : State) : ∃ es, Plan.always p s = .next (s.applyAll es) := ⟨p s, rfl⟩

theorem Plan.run_wf {s : State} (h : s.Wf) (p : Plan) : (p.run s).Wf := h.applyAll _

/-! ## The fields that a list of effects can change -/

/-- Every effect of the list changes one of the fields. -/
def EffsIn (F : List Field) (es : List Eff) : Prop := ∀ e ∈ es, e.field ∈ F

theorem EffsIn.nil {F : List Field} : EffsIn F [] := fun _ h => nomatch h

theorem EffsIn.cons {F : List Field} {e : Eff} {es : List Eff} (h : e.field ∈ F) (hs : EffsIn F es) : EffsIn F (e :: es) := by
  intro x hx
  rcases List.mem_cons.mp hx with rfl | hx
  · exact h
  · exact hs x hx

theorem EffsIn.one {F : List Field} {e : Eff} (h : e.field ∈ F) : EffsIn F [e] := EffsIn.cons h EffsIn.nil

theorem EffsIn.append {F : List Field} {xs ys : List Eff} (h : EffsIn F xs) (h' : EffsIn F ys) : EffsIn F (xs ++ ys) := by
  intro x hx
  rcases List.mem_append.mp hx with hx | hx
  · exact h x hx
  · exact h' x hx

theorem EffsIn.mono {F G : List Field} {es : List Eff} (h : EffsIn F es) (hFG : F ⊆ G) : EffsIn G es := fun e he => hFG (h e he)

theorem EffsIn.map {α : Type} {F : List Field} {xs : List α} {f : α → Eff} (h : ∀ x, (f x).field ∈ F) : EffsIn F (xs.map f) := by
  intro e he
  obtain ⟨x, -, rfl⟩ := List.mem_map.mp he
  exact h x

theorem EffsIn.filterMap {α : Type} {F : List Field} {xs : List α} {f : α → Option Eff} (h : ∀ x e, f x = some e → e.field ∈ F) :
    EffsIn F (xs.filterMap f) := by
  intro e he
  obtain ⟨x, -, hx⟩ := List.mem_filterMap.mp he
  exact h x e hx

/-- A plan changes no field but these, whatever the state. -/
structure Plan.Only (F : List Field) (p : Plan) : Prop where
  effs : ∀ s, EffsIn F (p s)

theorem Plan.Only.mono {F G : List Field} {p : Plan} (h : Plan.Only F p) (hFG : F ⊆ G) : Plan.Only G p := ⟨fun s => (h.effs s).mono hFG⟩

theorem Plan.only_skip {F : List Field} : Plan.Only F Plan.skip := ⟨fun _ => EffsIn.nil⟩
theorem Plan.only_act {F : List Field} {e : Eff} (h : e.field ∈ F) : Plan.Only F (Plan.act e) := ⟨fun _ => EffsIn.one h⟩
theorem Plan.only_andThen {F : List Field} {p q : Plan} (hp : Plan.Only F p) (hq : Plan.Only F q) : Plan.Only F (Plan.andThen p q) :=
  ⟨fun s => (hp.effs s).append (hq.effs _)⟩
theorem Plan.only_look {F : List Field} {f : State → Plan} (h : ∀ s, Plan.Only F (f s)) : Plan.Only F (Plan.look f) := ⟨fun s => (h s).effs s⟩
theorem Plan.only_when {F : List Field} {b : Bool} {p : Plan} (h : Plan.Only F p) : Plan.Only F (Plan.when b p) := by
  refine ⟨fun s => ?_⟩
  cases b
  · exact EffsIn.nil
  · exact h.effs s
theorem Plan.only_seq_nil {F : List Field} : Plan.Only F (Plan.seq []) := Plan.only_skip
theorem Plan.only_seq_cons {F : List Field} {p : Plan} {ps : List Plan} (hp : Plan.Only F p) (hps : Plan.Only F (Plan.seq ps)) :
    Plan.Only F (Plan.seq (p :: ps)) := Plan.only_andThen hp hps
theorem Plan.only_seq {F : List Field} : ∀ {ps : List Plan}, (∀ p ∈ ps, Plan.Only F p) → Plan.Only F (Plan.seq ps)
  | [], _ => Plan.only_skip
  | p :: _, h => Plan.only_andThen (h p List.mem_cons_self) (Plan.only_seq (fun q hq => h q (List.mem_cons_of_mem p hq)))
theorem Plan.only_each {α : Type} {F : List Field} {xs : List α} {f : α → Plan} (h : ∀ x, Plan.Only F (f x)) : Plan.Only F (Plan.each xs f) := by
  apply Plan.only_seq
  intro p hp
  obtain ⟨x, -, rfl⟩ := List.mem_map.mp hp
  exact h x

/-- A field that a plan cannot change is as it was. -/
theorem Plan.Only.same {F : List Field} {p : Plan} (h : Plan.Only F p) (s : State) {f : Field} (hf : f ∉ F) : Field.same (p.run s) s f :=
  State.applyAll_same s (p s) f (fun e he hef => hf (hef ▸ h.effs s e he))

/-- What a plan leaves is the state it met but for the fields that it can change. -/
theorem Plan.Only.sameBut {F : List Field} {p : Plan} (h : Plan.Only F p) (s : State) : s.SameBut F (p.run s) :=
  ⟨State.applyAll_pending s (p s), fun _ hf => h.same s hf⟩

/-! ## What a plan keeps -/

/-- What a plan leaves of a state in canonical form is, seen through `P`, what it was. -/
def Plan.Keeps {α : Type} (P : State → α) (p : Plan) : Prop := ∀ s, s.Wf → P (p.run s) = P s

theorem Plan.keeps_skip {α : Type} {P : State → α} : Plan.Keeps P Plan.skip := fun _ _ => rfl
theorem Plan.keeps_andThen {α : Type} {P : State → α} {p q : Plan} (hp : Plan.Keeps P p) (hq : Plan.Keeps P q) : Plan.Keeps P (Plan.andThen p q) := by
  intro s h
  rw [Plan.run_andThen, hq _ (Plan.run_wf h p), hp s h]
theorem Plan.keeps_look {α : Type} {P : State → α} {f : State → Plan} (h : ∀ s, Plan.Keeps P (f s)) : Plan.Keeps P (Plan.look f) := fun s hs => h s s hs
theorem Plan.keeps_when {α : Type} {P : State → α} {b : Bool} {p : Plan} (h : Plan.Keeps P p) : Plan.Keeps P (Plan.when b p) := by
  intro s hs
  rw [Plan.run_when]
  cases b
  · rfl
  · exact h s hs
theorem Plan.keeps_seq {α : Type} {P : State → α} : ∀ {ps : List Plan}, (∀ p ∈ ps, Plan.Keeps P p) → Plan.Keeps P (Plan.seq ps)
  | [], _ => Plan.keeps_skip
  | p :: _, h => Plan.keeps_andThen (h p List.mem_cons_self) (Plan.keeps_seq (fun q hq => h q (List.mem_cons_of_mem p hq)))
theorem Plan.keeps_seq_nil {α : Type} {P : State → α} : Plan.Keeps P (Plan.seq []) := Plan.keeps_skip
theorem Plan.keeps_seq_cons {α : Type} {P : State → α} {p : Plan} {ps : List Plan} (hp : Plan.Keeps P p) (hps : Plan.Keeps P (Plan.seq ps)) :
    Plan.Keeps P (Plan.seq (p :: ps)) := Plan.keeps_andThen hp hps
theorem Plan.keeps_each {α β : Type} {P : State → β} {xs : List α} {f : α → Plan} (h : ∀ x, Plan.Keeps P (f x)) : Plan.Keeps P (Plan.each xs f) := by
  apply Plan.keeps_seq
  intro p hp
  obtain ⟨x, -, rfl⟩ := List.mem_map.mp hp
  exact h x

end Sys2Proof.Machine
end

