-- ==== Sys2Proof/Laws/Report.lean ====
section
/-! SUPPORT. What the shared operations of the registers, the event recorder and the mailbox can change: each touches the fields named and no other. -/
namespace Sys2Proof.Machine

theorem setReg_only (fn page off v : Nat) : Plan.Only [.regs] (setReg fn page off v) := Plan.only_act (by simp [Eff.field])
theorem bump_only (page off n : Nat) : Plan.Only [.regs] (bump page off n) := ⟨fun s => (setReg_only 0 page off _).effs s⟩
theorem bumpWrap_only (page off n : Nat) : Plan.Only [.regs] (bumpWrap page off n) := ⟨fun s => (setReg_only 0 page off _).effs s⟩
theorem bumpField_only (page off hi lo n : Nat) : Plan.Only [.regs] (bumpField page off hi lo n) := ⟨fun s => (setReg_only 0 page off _).effs s⟩

/-- A vector that is sent changes its own entry alone. -/
theorem sendVec_only (fn v : Nat) : Plan.Only [.vecs] (sendVec fn v) := by
  refine ⟨fun s => ?_⟩
  simp only [sendVec]
  split
  · exact EffsIn.nil
  · split <;> exact EffsIn.one (by simp [Eff.field])

theorem raiseInt_only (page b fn : Nat) : Plan.Only [.regs, .vecs] (raiseInt page b fn) := by
  refine ⟨fun s => ?_⟩
  simp only [raiseInt]
  split
  · split
    · exact EffsIn.nil
    · exact (Plan.only_andThen ((setReg_only ..).mono (by simp)) (Plan.only_when ((sendVec_only ..).mono (by simp)))).effs s
  · exact EffsIn.nil

/-- An error flag changes registers and vectors alone. -/
theorem raiseErr_only (page b : Nat) (cap : List Nat) (m : Nat) : Plan.Only [.regs, .vecs] (raiseErr page b cap m) := by
  refine ⟨fun s => ?_⟩
  have hk : Plan.Only [.regs, .vecs] (Plan.when (decide (Nat.land (s.reg 0 page 0x018) m = 0) && !cap.isEmpty)
      (Plan.each (List.zip (List.range 4) cap) (fun ic => setReg 0 page (0x028 + 4 * ic.1) ic.2))) :=
    Plan.only_when (Plan.only_each (fun ic => (setReg_only ..).mono (by simp)))
  simp only [raiseErr]
  split
  · exact hk.effs s
  · exact (Plan.only_seq_cons hk (Plan.only_seq_cons ((setReg_only ..).mono (by simp))
      (Plan.only_seq_cons (Plan.only_each (fun fn => raiseInt_only page b fn)) Plan.only_seq_nil))).effs s

theorem setRecorder_only (x : Recorder × Nat) : Plan.Only reportFields (setRecorder x) :=
  Plan.only_andThen (Plan.only_act (by simp [Eff.field, reportFields])) (Plan.only_when ((raiseErr_only ..).mono (by simp [reportFields])))

theorem appendNow_only (e : Event) : Plan.Only reportFields (appendNow e) := ⟨fun s => (setRecorder_only _).effs s⟩

theorem commitOldest_only : Plan.Only reportFields commitOldest := by
  refine ⟨fun s => ?_⟩
  simp only [commitOldest]
  split
  · exact EffsIn.nil
  · exact (setRecorder_only _).effs s

theorem openRecord_only (e : Event) : Plan.Only reportFields (openRecord e) :=
  ⟨fun s => (Plan.only_andThen (Plan.only_when commitOldest_only) ⟨fun _ => EffsIn.one (by simp [Eff.field, reportFields])⟩).effs s⟩

/-- An event changes the recorder, and through its error flags registers and vectors. -/
theorem event_only (a : EvArgs) : Plan.Only reportFields (event a) := by
  refine ⟨fun s => ?_⟩
  simp only [event]
  split
  · exact EffsIn.nil
  · split
    · exact (appendNow_only _).effs s
    · split
      · split
        · exact EffsIn.one (by simp [Eff.field, reportFields])
        · split
          · exact EffsIn.one (by simp [Eff.field, reportFields])
          · exact (Plan.only_andThen (Plan.only_act (by simp [Eff.field, reportFields])) ((raiseErr_only ..).mono (by simp [reportFields]))).effs s
      · split
        · exact EffsIn.one (by simp [Eff.field, reportFields])
        · exact (openRecord_only _).effs s

/-- A violation changes registers, vectors and the recorder. -/
theorem violation_only (fn code queue : Nat) : Plan.Only reportFields (violation fn code queue) :=
  ⟨fun s => (Plan.only_seq_cons ((setReg_only ..).mono (by simp [reportFields])) (Plan.only_seq_cons ((setReg_only ..).mono (by simp [reportFields]))
    (Plan.only_seq_cons (event_only _) Plan.only_seq_nil))).effs s⟩

/-- A ledger entry changes the reserve's record, and reports. -/
theorem ledgerWrite_only (kind action logical physFrom physTo cause page : Nat) :
    Plan.Only (.reserve :: reportFields) (ledgerWrite kind action logical physFrom physTo cause page) := by
  refine ⟨fun s => ?_⟩
  refine (Plan.only_seq_cons ?_ (Plan.only_seq_cons (Plan.only_when ((raiseErr_only ..).mono (by simp [reportFields])))
    (Plan.only_seq_cons (Plan.only_when ((raiseErr_only ..).mono (by simp [reportFields])))
      (Plan.only_seq_cons ((event_only _).mono (by simp [reportFields])) Plan.only_seq_nil)))).effs s
  split
  · exact (raiseErr_only ..).mono (by simp [reportFields])
  · exact Plan.only_act (by simp [Eff.field])

/-- The end of a mailbox operation changes the mailbox and a vector. -/
theorem mbxEnd_only (result : Nat) (rsps : List Nat) : Plan.Only [.mbx, .vecs] (mbxEnd result rsps) :=
  ⟨fun s => (Plan.only_andThen (Plan.only_act (by simp [Eff.field])) ((sendVec_only ..).mono (by simp))).effs s⟩

/-! ## Registers that a report leaves alone -/

/-- A plan leaves a register as it is. -/
def Plan.KeepsReg (k : Nat) (p : Plan) : Prop := Plan.Keeps (fun s => Tab.get (0 : Word) s.regs k) p

theorem Plan.Only.keepsReg {F : List Field} {p : Plan} (h : Plan.Only F p) (hr : Field.regs ∉ F) (k : Nat) : Plan.KeepsReg k p := by
  intro s _
  have := h.same s hr
  exact congrArg (fun r => Tab.get (0 : Word) r k) this

theorem setReg_keepsReg {k fn page off : Nat} (h : k ≠ regKey fn page off) (v : Nat) : Plan.KeepsReg k (setReg fn page off v) := by
  intro s hs
  show Tab.get 0 (Tab.put 0 s.regs (regKey fn page off) _) k = _
  rw [Tab.get_put hs.regs, if_neg h]

theorem setReg_value {s : State} (hs : s.Wf) (fn page off v : Nat) : ((setReg fn page off v).run s).reg fn page off = v % 2 ^ 32 := by
  show (Tab.get 0 (Tab.put 0 s.regs (regKey fn page off) _) (regKey fn page off)).toNat = _
  rw [Tab.get_put hs.regs, if_pos rfl, BitVec.toNat_ofNat]

theorem raiseInt_keepsReg {k page : Nat} (h : ∀ fn off, off < 0x100 → k ≠ regKey fn page off) (b fn : Nat) : Plan.KeepsReg k (raiseInt page b fn) := by
  intro s hs
  have hp : ∀ c : Bool, Plan.KeepsReg k (Plan.andThen (setReg fn page 0x020 1) (Plan.when c (sendVec fn 0))) := fun c =>
    Plan.keeps_andThen (setReg_keepsReg (h _ _ (by decide)) _) (Plan.keeps_when ((sendVec_only fn 0).keepsReg (by simp) k))
  unfold raiseInt
  rw [Plan.run_def]
  split
  · split
    · rfl
    · exact hp _ s hs
  · rfl

/-- An error flag of a page leaves the registers of every other page, and the block registers of its own, as they are. -/
theorem raiseErr_keepsReg {k page : Nat} (h : ∀ fn off, off < 0x100 → k ≠ regKey fn page off) (b : Nat) (cap : List Nat) (m : Nat) :
    Plan.KeepsReg k (raiseErr page b cap m) := by
  intro s hs
  have hk : ∀ c : Bool, Plan.KeepsReg k (Plan.when c (Plan.each (List.zip (List.range 4) cap) (fun ic => setReg 0 page (0x028 + 4 * ic.1) ic.2))) := by
    refine fun c => Plan.keeps_when (Plan.keeps_seq (fun p hp => ?_))
    obtain ⟨ic, hic, rfl⟩ := List.mem_map.mp hp
    have := List.mem_range.mp (List.of_mem_zip hic).1
    exact setReg_keepsReg (h _ _ (by omega)) _
  unfold raiseErr
  rw [Plan.run_def]
  dsimp only
  split
  · exact hk _ s hs
  · exact Plan.keeps_seq_cons (hk _) (Plan.keeps_seq_cons (setReg_keepsReg (h _ _ (by decide)) _)
      (Plan.keeps_seq_cons (Plan.keeps_each (fun fn => raiseInt_keepsReg h b fn)) Plan.keeps_seq_nil)) s hs

/-- A register that is no header register of the recorder's page. -/
def NotEvt (k : Nat) : Prop := ∀ fn off, off < 0x100 → k ≠ regKey fn pgEVT off

theorem setRecorder_keepsReg {k : Nat} (h : NotEvt k) (x : Recorder × Nat) : Plan.KeepsReg k (setRecorder x) :=
  Plan.keeps_andThen (Plan.Only.keepsReg (F := [.recorder]) (Plan.only_act (by simp [Eff.field])) (by simp) k) (Plan.keeps_when (raiseErr_keepsReg h _ _ _))

theorem commitOldest_keepsReg {k : Nat} (h : NotEvt k) : Plan.KeepsReg k commitOldest := by
  intro s hs
  unfold commitOldest
  rw [Plan.run_def]
  split
  · rfl
  · exact setRecorder_keepsReg h _ s hs

theorem openRecord_keepsReg {k : Nat} (h : NotEvt k) (e : Event) : Plan.KeepsReg k (openRecord e) := by
  intro s hs
  exact Plan.keeps_andThen (Plan.keeps_when (commitOldest_keepsReg h))
    (Plan.Only.keepsReg (F := [.recorder]) ⟨fun _ => EffsIn.one (by simp [Eff.field])⟩ (by simp) k) s hs

/-- An event leaves every register outside the header of the recorder's page as it is. -/
theorem event_keepsReg {k : Nat} (h : NotEvt k) (a : EvArgs) : Plan.KeepsReg k (event a) := by
  intro s hs
  unfold event
  rw [Plan.run_def]
  dsimp only
  split
  · rfl
  · split
    · exact setRecorder_keepsReg h _ s hs
    · split
      · split
        · rfl
        · split
          · rfl
          · exact Plan.keeps_andThen (P := fun s => Tab.get (0 : Word) s.regs k) (fun _ _ => rfl) (raiseErr_keepsReg h _ _ _) s hs
      · split
        · rfl
        · exact openRecord_keepsReg h _ s hs

theorem Plan.KeepsReg.reg {fn page off : Nat} {p : Plan} (h : Plan.KeepsReg (regKey fn page off) p) {s : State} (hs : s.Wf) :
    (p.run s).reg fn page off = s.reg fn page off := congrArg BitVec.toNat (h s hs)

theorem notEvt_hif (fn off : Nat) (h : off < 0x1000) : NotEvt (regKey fn pgHIF off) := by
  intro fn' off' h' e
  simp only [regKey, pgHIF, pgEVT] at e
  omega

theorem violation_run (s : State) (fn code queue : Nat) : (violation fn code queue).run s =
    (event { cls := 1, code := code, part := (s.partOf fn).getD 0, charged := (s.partOf fn).isSome, fn := fn, page := pgHIF, detail := leBytes 2 queue }).run
      ((setReg fn pgHIF 0x11C (queue % 4096 * 2 ^ 12 + code)).run ((setReg fn pgHIF 0x118 (satAdd 0xFFFFFFFF (s.reg fn pgHIF 0x118) 1)).run s)) := by
  rw [Plan.run_def (violation fn code queue), violation, ← Plan.run_def, Plan.run_seq_cons, Plan.run_seq_cons, Plan.run_seq_cons, Plan.run_seq_nil]

theorem reg_lt (s : State) (fn page off : Nat) : s.reg fn page off < 2 ^ 32 := (Tab.get (0 : Word) s.regs (regKey fn page off)).isLt

theorem hif_counts_ne (fn : Nat) : regKey fn pgHIF 0x118 ≠ regKey fn pgHIF 0x11C := by simp [regKey]

/-- A violation of a function: the count of violations goes up by one (R32). -/
theorem violation_count {s : State} (hs : s.Wf) (fn code queue : Nat) :
    ((violation fn code queue).run s).reg fn pgHIF 0x118 = satAdd 0xFFFFFFFF (s.reg fn pgHIF 0x118) 1 := by
  have hlt := reg_lt s fn pgHIF 0x118
  have hv : satAdd 0xFFFFFFFF (s.reg fn pgHIF 0x118) 1 < 2 ^ 32 := by
    unfold satAdd
    split <;> omega
  generalize hx : satAdd 0xFFFFFFFF (s.reg fn pgHIF 0x118) 1 = x at hv
  rw [violation_run, hx, (event_keepsReg (notEvt_hif fn 0x118 (by decide)) _).reg (Plan.run_wf (Plan.run_wf hs _) _),
    (setReg_keepsReg (hif_counts_ne fn) _).reg (Plan.run_wf hs _), setReg_value hs, Nat.mod_eq_of_lt hv]

/-- A violation of a function: the last violation names queue and code (R32). -/
theorem violation_last {s : State} (hs : s.Wf) (fn code queue : Nat) (hc : code < 2 ^ 12) :
    ((violation fn code queue).run s).reg fn pgHIF 0x11C = queue % 4096 * 2 ^ 12 + code := by
  have hq : queue % 4096 < 4096 := Nat.mod_lt _ (by decide)
  have hv : queue % 4096 * 2 ^ 12 + code < 2 ^ 32 := by omega
  generalize hx : queue % 4096 * 2 ^ 12 + code = x at hv
  rw [violation_run, hx, (event_keepsReg (notEvt_hif fn 0x11C (by decide)) _).reg (Plan.run_wf (Plan.run_wf hs _) _), setReg_value (Plan.run_wf hs _),
    Nat.mod_eq_of_lt hv]

end Sys2Proof.Machine
end

