-- ==== Sys2Proof/Laws/Jobs.lean ====
section
/-! SUPPORT. What the shared operations of memory, pools and jobs can change (the kill of a job, its completion, the release of its units, readiness). -/
namespace Sys2Proof.Machine

/-! ## Memory -/

/-- One more event of a metric changes the reserve's counts, and what its trigger changes. -/
theorem noteMetric_only {kind metric n : Nat} {t : Plan} (h : Plan.Only gddrFields t) : Plan.Only gddrFields (noteMetric kind metric n t) := by
  refine ⟨fun s => ?_⟩
  simp only [noteMetric]
  split
  · exact EffsIn.nil
  · split
    · exact EffsIn.nil
    · split
      · exact (Plan.only_andThen (Plan.only_act (by simp [Eff.field, gddrFields])) h).effs s
      · exact EffsIn.one (by simp [Eff.field, gddrFields])

theorem queueSegment_only (n : Nat) : Plan.Only gddrFields (queueSegment n) := by
  refine ⟨fun s => ?_⟩
  simp only [queueSegment]
  split
  · exact EffsIn.nil
  · split <;> exact EffsIn.one (by simp [Eff.field, gddrFields])

/-- A parity detection in plate memory changes registers, vectors, the recorder and the reserve. -/
theorem plateDetect_only (seg off source fn stroke part : Nat) (charged tag : Bool) (g : Nat) :
    Plan.Only gddrFields (plateDetect seg off source fn stroke part charged tag g) := by
  refine Plan.only_seq_cons ?_ (Plan.only_seq_cons ((bump_only ..).mono (by decide)) (Plan.only_seq_cons ((raiseErr_only ..).mono (by decide))
    (Plan.only_seq_cons ((event_only _).mono (by decide)) (Plan.only_seq_cons (noteMetric_only (queueSegment_only seg)) Plan.only_seq_nil))))
  cases tag <;> exact (bumpField_only ..).mono (by decide)

theorem lineDetect_only (source fn stroke part : Nat) (charged : Bool) (x : Nat × Nat × Bool) :
    Plan.Only gddrFields (lineDetect source fn stroke part charged x) := ⟨fun s => (plateDetect_only ..).effs s⟩

theorem debitLine_only (seg : Nat) : Plan.Only gddrFields (debitLine seg) := by
  refine ⟨fun s => ?_⟩
  simp only [debitLine]
  split
  · exact EffsIn.nil
  · exact EffsIn.one (by simp [Eff.field, gddrFields])

/-- The requests of an access change the queues of the channels alone. -/
theorem memRequests_only (src : MemSrc) (write : Bool) (a n : Nat) : Plan.Only [.channels] (memRequests src write a n) := by
  refine ⟨fun s => ?_⟩
  simp only [memRequests]
  split
  · exact EffsIn.nil
  · refine (Plan.only_each (fun b => ⟨fun s => ?_⟩)).effs s
    split
    · exact EffsIn.nil
    · exact EffsIn.map (fun _ => by simp [Eff.field])

theorem writeBack_only (key : Nat) : Plan.Only gddrFields (writeBack key) := by
  refine ⟨fun s => ?_⟩
  simp only [writeBack]
  split
  · exact (Plan.only_seq_cons (Plan.only_each (fun x => lineDetect_only ..)) (Plan.only_seq_cons (debitLine_only _)
      (Plan.only_seq_cons ((memRequests_only ..).mono (by decide)) (Plan.only_seq_cons
        ⟨fun _ => EffsIn.cons (by simp [Eff.field, gddrFields]) (EffsIn.cons (by simp [Eff.field, gddrFields])
          (EffsIn.cons (by simp [Eff.field, gddrFields]) (EffsIn.one (by simp [Eff.field, gddrFields]))))⟩ Plan.only_seq_nil)))).effs s
  · exact EffsIn.nil

theorem goodWords_only (key o n : Nat) : Plan.Only gddrFields (goodWords key o n) := by
  refine ⟨fun s => ?_⟩
  simp only [goodWords]
  split
  · exact EffsIn.nil
  · exact EffsIn.one (by simp [Eff.field, gddrFields])

theorem bringLine_only (seg a : Nat) (whole : Bool) : Plan.Only gddrFields (bringLine seg a whole) := by
  refine ⟨fun s => ?_⟩
  simp only [bringLine]
  split
  · exact (Plan.only_andThen ((bumpWrap_only ..).mono (by decide)) (Plan.only_act (by simp [Eff.field, gddrFields]))).effs s
  · exact (Plan.only_seq_cons ((bumpWrap_only ..).mono (by decide)) (Plan.only_seq_cons (writeBack_only _)
      (Plan.only_seq_cons (Plan.only_when (Plan.only_andThen (debitLine_only seg) ((memRequests_only ..).mono (by decide))))
        (Plan.only_seq_cons (goodWords_only ..) (Plan.only_seq_cons ⟨fun _ => EffsIn.one (by simp [Eff.field, gddrFields])⟩
          (Plan.only_seq_cons (Plan.only_act (by simp [Eff.field, gddrFields])) Plan.only_seq_nil)))))).effs s

theorem writeLine_only (seg a job : Nat) (bs : List Byte) : Plan.Only gddrFields (writeLine seg a job bs) := by
  simp only [writeLine]
  refine Plan.only_andThen (bringLine_only ..) ⟨fun s => ?_⟩
  split
  · exact EffsIn.nil
  · exact (Plan.only_seq_cons (Plan.only_when (writeBack_only _)) (Plan.only_seq_cons (goodWords_only ..)
      (Plan.only_seq_cons ⟨fun _ => EffsIn.one (by simp [Eff.field, gddrFields])⟩ Plan.only_seq_nil))).effs s

theorem gddrStore_only (job a : Nat) (bs : List Byte) : Plan.Only gddrFields (gddrStore job a bs) := by
  refine ⟨fun s => ?_⟩
  simp only [gddrStore]
  split
  · exact EffsIn.one (by simp [Eff.field, gddrFields])
  · refine (Plan.only_each (fun p => ⟨fun s => ?_⟩)).effs s
    split
    · exact (writeLine_only ..).effs s
    · refine EffsIn.cons (by simp [Eff.field, gddrFields]) (EffsIn.filterMap (fun q e h => ?_))
      split at h
      · obtain rfl := Option.some.inj h
        simp [Eff.field, gddrFields]
      · exact absurd h (by simp)

theorem ownStore_only (a : Nat) (bs : List Byte) : Plan.Only gddrFields (ownStore a bs) := by
  refine ⟨fun s => ?_⟩
  simp only [ownStore]
  split
  · exact EffsIn.nil
  · exact (Plan.only_andThen ((memRequests_only ..).mono (by decide)) (gddrStore_only ..)).effs s

theorem gddrTouch_only (a n : Nat) : Plan.Only gddrFields (gddrTouch a n) := by
  refine ⟨fun s => ?_⟩
  simp only [gddrTouch]
  split
  · exact EffsIn.nil
  · refine (Plan.only_each (fun la => ⟨fun s => ?_⟩)).effs s
    split
    · exact (bringLine_only ..).effs s
    · exact EffsIn.nil

theorem poisonRead_only (w : MemWho) (a : Nat) : Plan.Only [.regs, .vecs] (poisonRead w a) :=
  ⟨fun s => (Plan.only_andThen ((bumpField_only ..).mono (by decide)) (raiseErr_only ..)).effs s⟩

theorem noteForeign_only (page : Nat) : Plan.Only [.regs, .vecs] (noteForeign page) := by
  unfold noteForeign
  split
  · exact Plan.only_andThen ((bump_only ..).mono (by decide)) (raiseErr_only ..)
  · exact raiseErr_only ..

theorem unitStore_only (mine a : Nat) (bs : List Byte) : Plan.Only gddrFields (unitStore mine a bs) := by
  refine ⟨fun s => ?_⟩
  simp only [unitStore]
  split
  · exact EffsIn.nil
  · split
    · split
      · exact (Plan.only_andThen ((memRequests_only ..).mono (by decide)) (gddrStore_only ..)).effs s
      · exact ((noteForeign_only _).mono (by decide)).effs s
    · refine (Plan.only_andThen ((memRequests_only ..).mono (by decide)) ?_).effs s
      split
      · exact (poisonRead_only ..).mono (by decide)
      · exact gddrStore_only ..

/-- A read through cache lines changes what its parts change. -/
theorem cachedRead_only {F : List Field} {note : Nat × Nat × Bool → Plan} {d g : Plan} (hl : Field.lines ∈ F) (hn : ∀ x, Plan.Only F (note x)) (hd : Plan.Only F d)
    (hg : Plan.Only F g) (a n : Nat) : Plan.Only F (cachedRead note d g a n) := by
  refine ⟨fun s => ?_⟩
  simp only [cachedRead]
  split
  · exact hg.effs s
  · refine (Plan.only_andThen (Plan.only_each (fun x => ⟨fun s => ?_⟩)) ⟨fun s => ?_⟩).effs s
    · dsimp only
      split
      · exact (Plan.only_andThen (hn x) (Plan.only_act (e := .lines x.1 {}) hl)).effs s
      · exact EffsIn.nil
    · split
      · exact (Plan.only_seq_cons (hn _) (Plan.only_seq_cons ⟨fun _ => EffsIn.one (show Eff.field (.lines _ _) ∈ F from hl)⟩ (Plan.only_seq_cons hd Plan.only_seq_nil))).effs s
      · exact hg.effs s

theorem plateStore_only (a : Nat) (bs : List Byte) : Plan.Only [.mem, .badWords] (plateStore a bs) := by
  refine ⟨fun s => ?_⟩
  simp only [plateStore]
  split
  · exact EffsIn.one (by simp [Eff.field])
  · exact EffsIn.cons (by simp [Eff.field]) (EffsIn.map (fun _ => by simp [Eff.field]))

/-! ## Pools -/

theorem modSlice_only (pool part : Nat) (f : PolSlice → PolSlice) : Plan.Only refFields (modSlice pool part f) :=
  ⟨fun _ => EffsIn.one (by simp [Eff.field, refFields])⟩

theorem setRef_only (pool i n : Nat) : Plan.Only refFields (setRef pool i n) := ⟨fun _ => EffsIn.one (by simp [Eff.field, refFields])⟩

theorem pushFree_only (pool i : Nat) : Plan.Only refFields (pushFree pool i) := by
  refine ⟨fun s => ?_⟩
  simp only [pushFree]
  split
  · exact EffsIn.nil
  · split
    · exact EffsIn.nil
    · exact (Plan.only_andThen ((unitStore_only ..).mono (by decide)) (modSlice_only ..)).effs s

theorem releaseRef_only (h : Nat) : Plan.Only refFields (releaseRef h) := by
  refine ⟨fun s => ?_⟩
  simp only [releaseRef]
  split
  · exact EffsIn.nil
  · split
    · exact (Plan.only_andThen (modSlice_only ..) ((event_only _).mono (by decide))).effs s
    · exact (Plan.only_andThen (setRef_only ..) (Plan.only_when (pushFree_only ..))).effs s

/-! ## Completions -/

theorem queueErr_only (q b : Nat) : Plan.Only [.queues, .vecs] (queueErr q b) := by
  refine ⟨fun s => ?_⟩
  simp only [queueErr]
  split
  · exact EffsIn.nil
  · exact EffsIn.cons (by simp [Eff.field]) (((sendVec_only ..).mono (by decide)).effs _)

theorem coalesce_only (q : Nat) (c : Cqe) : Plan.Only postFields (coalesce q c) := by
  refine ⟨fun s => ?_⟩
  simp only [coalesce]
  split
  · exact (Plan.only_andThen (Plan.only_act (by simp [Eff.field, postFields])) ((sendVec_only ..).mono (by decide))).effs s
  · exact EffsIn.one (by simp [Eff.field, postFields])

theorem writeCqe_only (q : Nat) (c : Cqe) : Plan.Only postFields (writeCqe q c) := by
  refine ⟨fun s => ?_⟩
  exact (Plan.only_andThen ⟨fun _ => EffsIn.cons (by simp [Eff.field, postFields]) (EffsIn.one (by simp [Eff.field, postFields]))⟩ (coalesce_only q c)).effs s

theorem postCqe_only (q : Nat) (c : Cqe) : Plan.Only postFields (postCqe q c) := by
  refine ⟨fun s => ?_⟩
  simp only [postCqe]
  split
  · exact (Plan.only_andThen (Plan.only_act (by simp [Eff.field, postFields])) ((queueErr_only ..).mono (by decide))).effs s
  · exact (writeCqe_only q c).effs s

theorem drainHeld_only (q : Nat) : ∀ fuel, Plan.Only postFields (drainHeld q fuel)
  | 0 => Plan.only_skip
  | fuel + 1 => by
    refine ⟨fun s => ?_⟩
    simp only [drainHeld]
    split
    · exact EffsIn.nil
    · split
      · exact EffsIn.nil
      · exact (Plan.only_seq_cons (Plan.only_act (by simp [Eff.field, postFields])) (Plan.only_seq_cons (writeCqe_only ..)
          (Plan.only_seq_cons (drainHeld_only q fuel) Plan.only_seq_nil))).effs s

/-! ## Readiness and inheritance -/

theorem modJob_only (id : Nat) (f : Job → Job) : Plan.Only [.jobs] (modJob id f) := ⟨fun _ => EffsIn.one (by simp [Eff.field])⟩
theorem modStroke_only (id i : Nat) (f : Stroke → Stroke) : Plan.Only [.jobs] (modStroke id i f) := ⟨fun _ => EffsIn.one (by simp [Eff.field])⟩
theorem setJob_only (id : Nat) (j : Job) : Plan.Only [.jobs] (setJob id j) := Plan.only_act (by simp [Eff.field])

theorem evalJob_only (id : Nat) : Plan.Only [.jobs] (evalJob id) := by
  refine ⟨fun s => ?_⟩
  simp only [evalJob]
  split
  · split
    · exact EffsIn.nil
    · exact EffsIn.one (by simp [Eff.field])
  · exact EffsIn.nil

theorem raiseHolder_only : ∀ fuel p h, Plan.Only [.jobs, .parts] (raiseHolder fuel p h)
  | 0, _, _ => Plan.only_skip
  | fuel + 1, p, h => by
    refine ⟨fun s => ?_⟩
    simp only [raiseHolder]
    split
    · exact (Plan.only_seq_cons ((setJob_only ..).mono (by decide)) (Plan.only_seq_cons (Plan.only_when (Plan.only_act (by simp [Eff.field])))
        (Plan.only_seq_cons (Plan.only_look (fun s => Plan.only_each (raiseHolder_only fuel p))) Plan.only_seq_nil))).effs s
    · exact EffsIn.nil

theorem inherit_only : Plan.Only [.jobs, .parts] inherit := by
  refine ⟨fun s => ?_⟩
  simp only [inherit]
  refine (Plan.only_each (fun id => ⟨fun s => ?_⟩)).effs s
  split
  · exact (Plan.only_each (fun h => raiseHolder_only _ _ h)).effs s
  · exact EffsIn.nil

/-- The evaluation of waiting strokes changes jobs, and the inheritance counts of partitions. -/
theorem settle_only : Plan.Only [.jobs, .parts] settle :=
  ⟨fun s => (Plan.only_andThen (Plan.only_each (fun id => (evalJob_only id).mono (by decide))) inherit_only).effs s⟩

theorem dropInherit_only (h : Nat) : Plan.Only [.jobs] (dropInherit h) := by
  refine ⟨fun s => ?_⟩
  simp only [dropInherit]
  split
  · exact EffsIn.nil
  · exact EffsIn.one (by simp [Eff.field])

/-! ## The kill of a job -/

theorem freeMutexes_only (id : Nat) : Plan.Only killFields (freeMutexes id) :=
  ⟨fun s => (Plan.only_each (fun _ => ⟨fun s => (Plan.only_andThen (Plan.only_act (by simp [Eff.field, killFields])) ((event_only _).mono (by decide))).effs s⟩)).effs s⟩

theorem freeFrames_only (id : Nat) : Plan.Only killFields (freeFrames id) := by
  refine ⟨fun s => ?_⟩
  simp only [freeFrames]
  split
  · exact EffsIn.one (by simp [Eff.field, killFields, refFields, gddrFields])
  · exact EffsIn.nil

theorem burnishClaims_only (id : Nat) : Plan.Only killFields (burnishClaims id) := by
  refine ⟨fun s => ?_⟩
  simp only [burnishClaims]
  refine (Plan.only_each (fun b => ⟨fun s => ?_⟩)).effs s
  split
  · exact EffsIn.nil
  · exact EffsIn.one (by simp [Eff.field, killFields])

theorem dropLines_only (id : Nat) : Plan.Only killFields (dropLines id) := ⟨fun _ => EffsIn.map (fun _ => by simp [Eff.field, killFields, refFields, gddrFields])⟩

theorem writeEntry_only (c n w : Nat) : Plan.Only killFields (writeEntry c n w) :=
  ⟨fun s => (Plan.only_andThen ((ownStore_only ..).mono (by decide)) ((ownStore_only ..).mono (by decide))).effs s⟩

theorem writeWaiting_only (g : Nat) : Plan.Only killFields (writeWaiting g) := by
  refine ⟨fun s => ?_⟩
  simp only [writeWaiting]
  refine (Plan.only_seq (fun p hp => ?_)).effs s
  obtain ⟨k, hk, rfl⟩ := List.mem_mapIdx.mp hp
  exact Plan.only_andThen (writeEntry_only ..) (writeEntry_only ..)

theorem freeEntry_only (s : State) (n : Nat) : Plan.Only killFields (freeEntry s n) :=
  Plan.only_andThen ((ownStore_only ..).mono (by decide)) ((ownStore_only ..).mono (by decide))

theorem dropWaiting_only (id : Nat) : Plan.Only killFields (dropWaiting id) :=
  ⟨fun s => (Plan.only_each (fun _ => ⟨fun s => (Plan.only_andThen
    ⟨fun _ => EffsIn.cons (by simp [Eff.field, killFields]) (EffsIn.one (by simp [Eff.field, killFields]))⟩
    (Plan.only_andThen (freeEntry_only ..) (writeWaiting_only _))).effs s⟩)).effs s⟩

theorem mediaEnds_only (l : List (Nat × Nat)) : Plan.Only killFields (mediaEnds l) := by
  refine Plan.only_each (fun r => ⟨fun s => ?_⟩)
  dsimp only
  split
  · exact EffsIn.nil
  · exact ((modStroke_only ..).mono (by decide)).effs s

theorem resync_only (c : Nat) : Plan.Only killFields (resync c) := by
  refine ⟨fun s => ?_⟩
  simp only [resync]
  split
  · exact EffsIn.nil
  · exact (Plan.only_seq_cons (Plan.only_act (by simp [Eff.field, killFields])) (Plan.only_seq_cons (Plan.only_act (by simp [Eff.field, killFields]))
      (Plan.only_seq_cons (Plan.only_each (fun _ => (releaseRef_only _).mono (by decide))) (Plan.only_seq_cons (mediaEnds_only _) Plan.only_seq_nil)))).effs s

theorem abandonMedia_only (id : Nat) : Plan.Only killFields (abandonMedia id) := by
  refine ⟨fun s => ?_⟩
  simp only [abandonMedia]
  split
  · exact EffsIn.nil
  · exact (Plan.only_seq_cons (Plan.only_act (by simp [Eff.field, killFields]))
      (Plan.only_seq_cons (Plan.only_each (fun _ => ⟨fun _ => EffsIn.one (by simp [Eff.field, killFields])⟩))
        (Plan.only_seq_cons (Plan.only_each resync_only)
          (Plan.only_seq_cons (Plan.only_each (fun _ => (releaseRef_only _).mono (by decide))) Plan.only_seq_nil)))).effs s

theorem abandonIntake_only (id : Nat) : Plan.Only killFields (abandonIntake id) :=
  ⟨fun s => (Plan.only_each (fun _ => ⟨fun s => (Plan.only_andThen (Plan.only_act (by simp [Eff.field, killFields]))
    (Plan.only_each (fun h => (releaseRef_only h).mono (by decide)))).effs s⟩)).effs s⟩

theorem burnishLocal_only (pl : Place) : Plan.Only killFields (burnishLocal pl) := by
  refine ⟨fun s => EffsIn.append ?_ (EffsIn.map (fun _ => by simp [Eff.field, killFields]))⟩
  split <;> first
    | exact EffsIn.one (by simp [Eff.field, killFields])
    | exact EffsIn.nil

/-- The kill of a job changes these fields and no other. -/
theorem killJob_only (id status : Nat) : Plan.Only killFields (killJob id status) := by
  refine ⟨fun s => ?_⟩
  simp only [killJob]
  split
  · exact EffsIn.nil
  · split
    · split
      · exact EffsIn.one (by simp [Eff.field, killFields])
      · exact EffsIn.nil
    · exact (Plan.only_seq_cons ((setJob_only ..).mono (by decide)) (Plan.only_seq_cons (freeMutexes_only id) (Plan.only_seq_cons (freeFrames_only id)
        (Plan.only_seq_cons (burnishClaims_only id) (Plan.only_seq_cons (dropLines_only id) (Plan.only_seq_cons (dropWaiting_only id)
          (Plan.only_seq_cons (abandonMedia_only id) (Plan.only_seq_cons (abandonIntake_only id)
            (Plan.only_seq_cons (Plan.only_each burnishLocal_only) (Plan.only_seq_cons (settle_only.mono (by decide)) Plan.only_seq_nil)))))))))).effs s

theorem faultStroke_only (id i status check page : Nat) : Plan.Only killFields (faultStroke id i status check page) :=
  ⟨fun s => (Plan.only_andThen ((event_only _).mono (by decide)) (killJob_only id status)).effs s⟩

/-! ## The end of a job -/

theorem slowdownEntry_only (id status : Nat) : Plan.Only gddrFields (slowdownEntry id status) := by
  refine ⟨fun s => ?_⟩
  have hd : ∀ (k : Nat) (p : Part), Plan.Only gddrFields (Plan.andThen (Plan.act (.parts k p)) (raiseErr pgPAR 3 [])) := fun k p =>
    Plan.only_andThen (Plan.only_act (by simp [Eff.field, gddrFields])) ((raiseErr_only ..).mono (by decide))
  simp only [slowdownEntry]
  split
  · exact EffsIn.nil
  · split
    · exact (Plan.only_andThen ((poisonRead_only ..).mono (by decide)) (hd ..)).effs s
    · split
      · exact (hd ..).effs s
      · exact (Plan.only_andThen ((unitStore_only ..).mono (by decide)) ((unitStore_only ..).mono (by decide))).effs s

theorem releaseClaims_only (id : Nat) : Plan.Only finishFields (releaseClaims id) := by
  refine ⟨fun s => EffsIn.filterMap (fun b e h => ?_)⟩
  split at h
  · exact absurd h (by simp)
  · obtain rfl := Option.some.inj h
    simp [Eff.field, finishFields]

theorem drainedQueue_only (q : Nat) : Plan.Only [.queues] (drainedQueue q) := by
  refine ⟨fun s => ?_⟩
  simp only [drainedQueue]
  split
  · exact EffsIn.one (by simp [Eff.field])
  · exact EffsIn.nil

/-- The end of a job changes these fields and no other. -/
theorem finishJob_only (id : Nat) (payload : List Byte) : Plan.Only finishFields (finishJob id payload) := by
  refine ⟨fun s => ?_⟩
  refine (Plan.only_seq_cons ?_ (Plan.only_seq_cons ((freeMutexes_only id).mono (by decide)) (Plan.only_seq_cons ?_ (Plan.only_seq_cons ((slowdownEntry_only id _).mono (by decide))
    (Plan.only_seq_cons (releaseClaims_only id) (Plan.only_seq_cons ((freeFrames_only id).mono (by decide))
      (Plan.only_seq_cons (Plan.only_when ((postCqe_only ..).mono (by decide))) (Plan.only_seq_cons (Plan.only_act (by simp [Eff.field, finishFields, killFields]))
        (Plan.only_seq_cons ((drainedQueue_only _).mono (by decide)) (Plan.only_seq_cons (settle_only.mono (by decide)) Plan.only_seq_nil)))))))))).effs s
  · split
    · exact (violation_only ..).mono (by decide)
    · exact Plan.only_skip
  · split
    · exact Plan.only_skip
    · exact ⟨fun _ => EffsIn.one (by simp [Eff.field, finishFields])⟩

theorem leaveUnit_only (id i : Nat) (pl : Place) : Plan.Only [.clusters] (leaveUnit id i pl) := by
  refine ⟨fun s => ?_⟩
  unfold leaveUnit
  dsimp only
  split <;> first
    | exact EffsIn.nil
    | (split
       · exact EffsIn.one (by simp [Eff.field])
       · exact EffsIn.nil)

theorem dropHeld_only (id : Nat) : Plan.Only releaseFields (dropHeld id) := by
  refine ⟨fun s => ?_⟩
  refine (Plan.only_seq_cons (Plan.only_each (fun n => ⟨fun s => ?_⟩)) (Plan.only_seq_cons ⟨fun s => ?_⟩ (Plan.only_seq_cons ⟨fun s => ?_⟩ Plan.only_seq_nil))).effs s
  · exact (Plan.only_andThen ⟨fun _ => EffsIn.cons (by simp [Eff.field, releaseFields, finishFields, killFields])
      (EffsIn.one (by simp [Eff.field, releaseFields, finishFields, killFields]))⟩ ((freeEntry_only ..).mono (by decide))).effs s
  · split
    · exact EffsIn.one (by simp [Eff.field, releaseFields])
    · exact EffsIn.nil
  · split
    · exact EffsIn.one (by simp [Eff.field, releaseFields])
    · exact EffsIn.nil

theorem releaseKilled_only (id : Nat) : Plan.Only releaseFields (releaseKilled id) := by
  refine ⟨fun s => ?_⟩
  simp only [releaseKilled]
  split
  · exact EffsIn.nil
  · refine (Plan.only_seq_cons (Plan.only_seq (fun p hp => ?_)) (Plan.only_seq_cons ⟨fun s => ?_⟩ (Plan.only_seq_cons (dropHeld_only id)
      (Plan.only_seq_cons ((finishJob_only ..).mono (by decide)) Plan.only_seq_nil)))).effs s
    · obtain ⟨k, hk, rfl⟩ := List.mem_mapIdx.mp hp
      split
      · exact (leaveUnit_only ..).mono (by decide)
      · exact Plan.only_skip
    · split
      · exact EffsIn.one (by simp [Eff.field, releaseFields])
      · exact EffsIn.nil

/-! ## The phase of a job -/

theorem job_put {s : State} (h : s.Wf) (k : Nat) (j : Job) (id : Nat) : (s.apply (.jobs k j)).job id = if id = k then j else s.job id := Tab.get_put h.jobs ..

theorem queue_put {s : State} (h : s.Wf) (k : Nat) (x : Queue) (q : Nat) : (s.apply (.queues k x)).queue q = if q = k then x else s.queue q :=
  Tab.get_put h.queues ..

/-- A plan leaves the phase of a job as it is. -/
def Plan.KeepsPhase (id : Nat) (p : Plan) : Prop := Plan.Keeps (fun s => (s.job id).phase) p

theorem Plan.Only.keepsPhase {F : List Field} {p : Plan} (h : Plan.Only F p) (hj : Field.jobs ∉ F) (id : Nat) : Plan.KeepsPhase id p := by
  intro s _
  have := h.same s hj
  exact congrArg (fun t => (Tab.get ({} : Job) t id).phase) this

theorem setJob_keepsPhase {s : State} (hs : s.Wf) (id k : Nat) (j : Job) (hj : j.phase = (s.job k).phase) :
    ((setJob k j).run s).job id = (if id = k then j else s.job id) ∧ (((setJob k j).run s).job id).phase = (s.job id).phase := by
  have := job_put hs k j id
  refine ⟨this, ?_⟩
  show ((s.apply (.jobs k j)).job id).phase = _
  rw [this]
  split
  · rename_i h; rw [h]; exact hj
  · rfl

theorem evalJob_keepsPhase (id k : Nat) : Plan.KeepsPhase id (evalJob k) := by
  intro s hs
  rw [Plan.run_def]
  unfold evalJob
  dsimp only
  split
  · split
    · rfl
    · exact (setJob_keepsPhase hs id k { s.job k with strokes := (s.job k).strokes.mapIdx (fun i t => evalStroke s k (s.job k) i t), changed := s.ticks } rfl).2
  · rfl

theorem raiseHolder_keepsPhase (id : Nat) : ∀ (fuel p h : Nat), Plan.KeepsPhase id (raiseHolder fuel p h)
  | 0, _, _ => Plan.keeps_skip
  | fuel + 1, p, h => by
    intro s hs
    rw [Plan.run_def]
    unfold raiseHolder
    dsimp only
    split
    · rw [← Plan.run_def, Plan.run_seq_cons]
      have h1 := (setJob_keepsPhase hs id h { s.job h with eff := p, via := 4 - fuel } rfl).2
      have h2 : Plan.KeepsPhase id (Plan.seq [Plan.when (decide ((s.job h).eff < p)) (Plan.act (.parts (s.job h).part { s.part (s.job h).part with inherits := satAdd 0xFFFFFFFF (s.part (s.job h).part).inherits 1 })),
          Plan.look (fun s => Plan.each (jobBlockers s h) (raiseHolder fuel p))]) :=
        Plan.keeps_seq_cons (Plan.Only.keepsPhase (F := [.parts]) (Plan.only_when (Plan.only_act (by simp [Eff.field]))) (by simp) id)
          (Plan.keeps_seq_cons (Plan.keeps_look (fun s => Plan.keeps_each (fun k => raiseHolder_keepsPhase id fuel p k))) Plan.keeps_seq_nil)
      exact (h2 _ (Plan.run_wf hs _)).trans h1
    · rfl

/-- The evaluation of waiting strokes leaves the phase of every job as it is. -/
theorem settle_keepsPhase (id : Nat) : Plan.KeepsPhase id settle := by
  intro s hs
  refine Plan.keeps_andThen (P := fun s => (s.job id).phase) (Plan.keeps_each (fun k => evalJob_keepsPhase id k)) ?_ s hs
  intro s hs
  rw [Plan.run_def]
  unfold inherit
  refine Plan.keeps_each (P := fun s => (s.job id).phase) (fun k => ?_) s hs
  intro s hs
  rw [Plan.run_def]
  dsimp only
  split
  · exact Plan.keeps_each (P := fun s => (s.job id).phase) (fun h => raiseHolder_keepsPhase id _ _ h) s hs
  · rfl

end Sys2Proof.Machine
end

