-- ==== Sys2Proof/Laws/Access.lean ====
section
/-! SUPPORT. What an operation of a stroke does when nothing hinders it. -/
namespace Sys2Proof.Machine

/-! ## What rests on neither contents nor requests -/

/-- A state with other contents of memory, claims, requests in the channels and free values. -/
abbrev State.over (s : State) (m : Tab Byte) (c : Tab Nat) (ch : Tab Channel) (l : Tab Byte) (f : Nat) : State :=
  { s with mem := m, claims := c, channels := ch, localMem := l, fresh := f }

theorem seg_over (s : State) (m : Tab Byte) (c : Tab Nat) (ch : Tab Channel) (l : Tab Byte) (f : Nat) : (s.over m c ch l f).seg = s.seg := rfl
theorem segRetries_over (s : State) (m : Tab Byte) (c : Tab Nat) (ch : Tab Channel) (l : Tab Byte) (f : Nat) : (s.over m c ch l f).segRetries = s.segRetries := rfl
theorem segServes_over (s : State) (m : Tab Byte) (c : Tab Nat) (ch : Tab Channel) (l : Tab Byte) (f : Nat) : (s.over m c ch l f).segServes = s.segServes := rfl
theorem servers_over (s : State) (m : Tab Byte) (c : Tab Nat) (ch : Tab Channel) (l : Tab Byte) (f : Nat) : (s.over m c ch l f).servers = s.servers := rfl
theorem inPartGddr_over (s : State) (m : Tab Byte) (c : Tab Nat) (ch : Tab Channel) (l : Tab Byte) (f : Nat) : (s.over m c ch l f).inPartGddr = s.inPartGddr := rfl
theorem inShare_over (s : State) (m : Tab Byte) (c : Tab Nat) (ch : Tab Channel) (l : Tab Byte) (f : Nat) : (s.over m c ch l f).inShare = s.inShare := rfl
theorem letForeign_over (s : State) (m : Tab Byte) (c : Tab Nat) (ch : Tab Channel) (l : Tab Byte) (f : Nat) : (s.over m c ch l f).letForeign = s.letForeign := rfl
theorem polForeign_over (s : State) (m : Tab Byte) (c : Tab Nat) (ch : Tab Channel) (l : Tab Byte) (f : Nat) : (s.over m c ch l f).polForeign = s.polForeign := rfl

/-- How an access is answered rests on none of these. -/
theorem judge_over (s : State) (m : Tab Byte) (c : Tab Nat) (ch : Tab Channel) (l : Tab Byte) (f : Nat) (p : Nat) (host : Bool) (a n : Nat) : (s.over m c ch l f).judge p host a n = s.judge p host a n := by
  unfold State.judge
  rw [segRetries_over, segServes_over, servers_over, inPartGddr_over, inShare_over, seg_over]

theorem foreign_over (s : State) (m : Tab Byte) (c : Tab Nat) (ch : Tab Channel) (l : Tab Byte) (f : Nat) (b : Bool) (a n : Nat) : (s.over m c ch l f).foreign b a n = s.foreign b a n := by
  unfold State.foreign
  rw [letForeign_over, polForeign_over]

/-- Effects on the channels, the local memory and the free values leave the rest as it is. -/
theorem applyAll_over : ∀ (es : List Eff) (s : State), EffsIn [.channels, .localMem, .fresh] es →
    s.applyAll es = s.over s.mem s.claims (s.applyAll es).channels (s.applyAll es).localMem (s.applyAll es).fresh
  | [], _, _ => rfl
  | e :: es, s, h => by
    have h1 : s.apply e = s.over s.mem s.claims (s.apply e).channels (s.apply e).localMem (s.apply e).fresh := by
      have := h e List.mem_cons_self
      cases e <;> first
        | rfl
        | exact absurd this (by simp [Eff.field])
    have h2 := applyAll_over es (s.apply e) (fun x hx => h x (List.mem_cons_of_mem _ hx))
    rw [State.applyAll_cons, h2, h1]

theorem requestAll_only (src : MemSrc) (reads : List (Nat × Nat)) (writes : List (Nat × List Byte)) : Plan.Only [.channels] (requestAll src reads writes) :=
  Plan.only_andThen (Plan.only_each (fun _ => memRequests_only ..)) (Plan.only_each (fun _ => memRequests_only ..))

theorem workSpace_only (pl : Place) (b : Bool) : Plan.Only [.localMem, .fresh] (workSpace pl b) := by
  refine ⟨fun s => EffsIn.cons (by simp [Eff.field]) ?_⟩
  intro e he
  obtain ⟨k, hk, rfl⟩ := List.mem_mapIdx.mp he
  simp [Eff.field]

/-- The beginning of an operation changes the requests in the channels, the local memory and the free values alone. -/
theorem began_eq (s : State) (id i : Nat) (o : OpOut) :
    s.began id i o = s.over s.mem s.claims (s.began id i o).channels (s.began id i o).localMem (s.began id i o).fresh := by
  have hr : ∀ (u : State) (src : MemSrc), (requestAll src o.reads (o.writes ++ o.also)).run u =
      u.over u.mem u.claims ((requestAll src o.reads (o.writes ++ o.also)).run u).channels ((requestAll src o.reads (o.writes ++ o.also)).run u).localMem
        ((requestAll src o.reads (o.writes ++ o.also)).run u).fresh :=
    fun u src => applyAll_over _ u (((requestAll_only src o.reads _).effs u).mono (by decide))
  have hw : ∀ (pl : Place) (b : Bool), (workSpace pl b).run s =
      s.over s.mem s.claims ((workSpace pl b).run s).channels ((workSpace pl b).run s).localMem ((workSpace pl b).run s).fresh :=
    fun pl b => applyAll_over _ s (((workSpace_only pl b).effs s).mono (by decide))
  unfold State.began
  dsimp only
  cases ((s.job id).stroke i).place with
  | none => exact hr s _
  | some pl =>
    dsimp only
    split
    · exact hr s _
    · rw [hr, hw]

/-! ## Claims -/

/-- In the second state every claim is what it was in the first, or the job's own. -/
def ClaimsOnly (id : Nat) (s t : State) : Prop := ∀ b, Tab.get 0 t.claims b = Tab.get 0 s.claims b ∨ Tab.get 0 t.claims b = id + 1

theorem ClaimsOnly.refl (id : Nat) (s : State) : ClaimsOnly id s s := fun _ => .inl rfl

theorem ClaimsOnly.trans {id : Nat} {s t u : State} (h : ClaimsOnly id s t) (h' : ClaimsOnly id t u) : ClaimsOnly id s u := by
  intro b
  rcases h' b with hb | hb
  · rw [hb]; exact h b
  · exact .inr hb

theorem claims_applyAll {id : Nat} : ∀ (es : List Eff) (s : State), s.Wf → (∀ e ∈ es, ∃ b, e = .claims b (id + 1)) → ClaimsOnly id s (s.applyAll es)
  | [], s, _, _ => ClaimsOnly.refl id s
  | e :: es, s, hw, h => by
    obtain ⟨b, rfl⟩ := h _ List.mem_cons_self
    refine ClaimsOnly.trans (t := s.apply (.claims b (id + 1))) (fun k => ?_)
      (claims_applyAll es _ (hw.apply _) (fun e he => h e (List.mem_cons_of_mem _ he)))
    simp only [State.apply]
    rw [Tab.get_put hw.claims]
    split
    · exact .inr rfl
    · exact .inl rfl

theorem claims_only_claims {id : Nat} : ∀ (es : List Eff) (s : State), (∀ e ∈ es, ∃ b, e = .claims b (id + 1)) →
    s.applyAll es = { s with claims := (s.applyAll es).claims }
  | [], _, _ => rfl
  | e :: es, s, h => by
    obtain ⟨b, rfl⟩ := h _ List.mem_cons_self
    have := claims_only_claims es (s.apply (.claims b (id + 1))) (fun e he => h e (List.mem_cons_of_mem _ he))
    rw [State.applyAll_cons, this]
    rfl

theorem claimBlocks_effs (id a n : Nat) (s : State) : ∀ e ∈ claimBlocks id a n s, ∃ b, e = .claims b (id + 1) := by
  intro e he
  obtain ⟨k, -, hk⟩ := List.mem_filterMap.mp he
  split at hk
  · exact ⟨_, (Option.some.inj hk).symm⟩
  · exact absurd hk (by simp)

theorem claimBlocks_run (id a n : Nat) (s : State) : (claimBlocks id a n).run s = { s with claims := ((claimBlocks id a n).run s).claims } :=
  claims_only_claims _ s (claimBlocks_effs _ _ _ _)

/-- A visible write changes the claims and memory alone. -/
theorem storeFor_eq (s : State) (id : Nat) (w : Nat × List Byte) :
    s.storeFor id w = s.over (s.storeFor id w).mem (s.storeFor id w).claims s.channels s.localMem s.fresh := by
  unfold State.storeFor
  generalize s.claimsFor id w.1 w.2.length = c
  split <;> rfl

theorem claimsFor_wf {s : State} (h : s.Wf) (id a n : Nat) : Tab.wf 0 (s.claimsFor id a n) = true := by
  unfold State.claimsFor
  by_cases hr : regionOf a n = .plate
  · rw [if_pos hr]; exact (Plan.run_wf h _).claims
  · rw [if_neg hr]; exact h.claims

theorem storeFor_wf {s : State} (h : s.Wf) (id : Nat) (w : Nat × List Byte) : (s.storeFor id w).Wf := by
  have hc := claimsFor_wf h id w.1 w.2.length
  unfold State.storeFor
  generalize s.claimsFor id w.1 w.2.length = c at hc
  split
  · exact h
  · exact { h with mem := Tab.wf_putList _ _ h.mem, claims := hc }

theorem claimsFor_only {s : State} (h : s.Wf) (id a n b : Nat) : Tab.get 0 (s.claimsFor id a n) b = Tab.get 0 s.claims b ∨ Tab.get 0 (s.claimsFor id a n) b = id + 1 := by
  unfold State.claimsFor
  by_cases hr : regionOf a n = .plate
  · rw [if_pos hr]; exact claims_applyAll _ s h (claimBlocks_effs _ _ _ _) b
  · rw [if_neg hr]; exact .inl rfl

theorem storeFor_claims {s : State} (h : s.Wf) (id : Nat) (w : Nat × List Byte) : ClaimsOnly id s (s.storeFor id w) := by
  have hc := claimsFor_only h id w.1 w.2.length
  unfold State.storeFor
  generalize s.claimsFor id w.1 w.2.length = c at hc
  split
  · exact ClaimsOnly.refl id s
  · exact hc

theorem storeAll_eq (id : Nat) : ∀ (ws : List (Nat × List Byte)) (s : State),
    s.storeAll id ws = s.over (s.storeAll id ws).mem (s.storeAll id ws).claims s.channels s.localMem s.fresh
  | [], _ => rfl
  | w :: ws, s => by
    have h := storeAll_eq id ws (s.storeFor id w)
    rw [State.storeAll, h, storeFor_eq s id w]

theorem any_claims {t u : Tab Nat} {id : Nat} (h : ∀ b, Tab.get 0 u b = Tab.get 0 t b ∨ Tab.get 0 u b = id + 1) (f : Nat → Nat) (d : Bool) (l : List Nat)
    (hc : (d && l.any (fun k => let c := Tab.get 0 t (f k); c != 0 && c != id + 1)) = false) :
    (d && l.any (fun k => let c := Tab.get 0 u (f k); c != 0 && c != id + 1)) = false := by
  cases d
  · rfl
  · rw [Bool.true_and, List.any_eq_false] at hc ⊢
    intro k hk
    have := hc k hk
    rcases h (f k) with hb | hb
    · simp only [hb]; exact this
    · simp [hb]

theorem claimedByOther_storeFor {s : State} (h : s.Wf) (id : Nat) (w : Nat × List Byte) (a n : Nat) (hc : s.claimedByOther id a n = false) :
    (s.storeFor id w).claimedByOther id a n = false :=
  any_claims (storeFor_claims h id w) (fun k => blockOf a + k) (decide (regionOf a n = .plate)) _ hc

theorem writable_storeFor {s : State} (h : s.Wf) (id : Nat) (host : Bool) (v w : Nat × List Byte) (hv : s.Writable id host v) :
    (s.storeFor id w).Writable id host v := by
  refine ⟨?_, ?_, claimedByOther_storeFor h id w _ _ hv.unclaimed⟩
  · rw [storeFor_eq s id w, judge_over]; exact hv.open_
  · rw [storeFor_eq s id w, foreign_over]; exact hv.own

theorem plain_storeFor {s : State} (hp : s.Plain) (id : Nat) (w : Nat × List Byte) : (s.storeFor id w).Plain := by
  rw [storeFor_eq s id w]
  exact ⟨hp.noCache, hp.noPoison, hp.noLines, hp.noBad, hp.answers⟩

/-! ## Reads and writes -/

/-- No cache line of plain memory fails its parity check. -/
theorem badCached_plain {s : State} (hp : s.Plain) (a n : Nat) : s.badCached a n = [] := by
  simp [State.badCached, hp.noCache]

/-- A read that is open in plain memory has no effect. -/
theorem strokeRead_plain {s : State} (hp : s.Plain) (id i : Nat) (host z : Bool) (r : Nat × Nat) (hr : s.Readable id host r) :
    (strokeRead id i host z r.1 r.2).run s = s := by
  have hb : s.badWordIn r.1 r.2 = none := by simp [State.badWordIn, hp.noBad]
  have hm : s.meetsPoison r.1 r.2 = false := by simp [State.meetsPoison, hp.noPoison, hp.noLines]
  have ht : gddrTouch r.1 r.2 s = [] := by simp [gddrTouch, hp.noCache]
  have hr' : s.judge (s.job id).part host r.1 r.2 = .ok := hr
  rw [Plan.run_def]
  simp only [strokeRead, hr', hb, cachedRead, badCached_plain hp, hm, ht]
  split <;> rfl

theorem reads_plain {s : State} (hp : s.Plain) (id i : Nat) (host z : Bool) : ∀ (l : List (Nat × Nat)), (∀ r ∈ l, s.Readable id host r) →
    (Plan.each l (fun r => strokeRead id i host z r.1 r.2)).run s = s
  | [], _ => rfl
  | r :: l, h => by
    rw [Plan.run_each_cons, strokeRead_plain hp id i host z r (h r List.mem_cons_self)]
    exact reads_plain hp id i host z l (fun r hr => h r (List.mem_cons_of_mem _ hr))

theorem plateStore_plain {s : State} (h : s.badWords = []) (a : Nat) (bs : List Byte) : plateStore a bs s = [.store a bs] := by
  simp [plateStore, h]

theorem gddrStore_plain {s : State} (hp : s.Plain) (j a : Nat) (bs : List Byte) : gddrStore j a bs s = [.store a bs] := by
  simp [gddrStore, hp.noCache, hp.noPoison]

/-- A write that is open in plain memory becomes visible. -/
theorem strokeWrite_plain {s : State} (hp : s.Plain) (id i : Nat) (host : Bool) (w : Nat × List Byte) (hw : s.Writable id host w)
    (hj : (s.job id).phase = .running) (hk : (s.job id).killed = none) :
    (strokeWrite id i host w.1 w.2).run s = s.storeFor id w := by
  have ho : s.judge (s.job id).part host w.1 w.2.length = .ok := hw.open_
  have hpp : s.partialOnPoison w.1 w.2.length = false := by
    have hc : ∀ a, s.cacheOf a = none := fun a => by simp [State.cacheOf, hp.noCache]
    simp [State.partialOnPoison, State.mergePoisoned, hp.noPoison, hc]
  have hf : s.strokeForeign (s.job id) i w.1 w.2.length = none := by
    have h := hw.own
    simp only [State.foreign] at h
    split at h
    · exact absurd h (by simp)
    · rename_i hl
      split at h
      · exact absurd h (by simp)
      · rename_i hpl
        simp only [State.strokeForeign]
        split
        · rfl
        · rw [State.foreign, if_neg hl, if_neg hpl]
  rw [Plan.run_def]
  by_cases hn : w.2 = []
  · simp [strokeWrite, State.storeFor, hn]
  · have hl : w.2.length ≠ 0 := by simpa using hn
    simp only [strokeWrite, hj, hk, ho, hl, State.storeFor, State.claimsFor, if_neg hn]
    cases hreg : regionOf w.1 w.2.length with
    | gddr => simp [hp.answers, hf, hpp, gddrStore_plain hp, State.apply]
    | plate =>
      have hr := claimBlocks_run id w.1 w.2.length s
      have hb : ((claimBlocks id w.1 w.2.length).run s).badWords = [] := by rw [hr]; exact hp.noBad
      simp only [hw.unclaimed]
      simp only [Bool.false_eq_true, if_false, if_true]
      simp
      rw [← Plan.run_def, Plan.run_andThen]
      generalize (claimBlocks id w.1 w.2.length).run s = u at hr hb
      rw [Plan.run_def, plateStore_plain hb, hr]
      rfl
    | localMem => simp [State.apply]
    | host => simp [State.apply]
    | nowhere => simp [State.apply]

theorem writes_plain (id i : Nat) (host : Bool) : ∀ (ws : List (Nat × List Byte)) (s : State), s.Wf → s.Plain → (∀ w ∈ ws, s.Writable id host w) →
    (s.job id).phase = .running → (s.job id).killed = none →
    (Plan.each ws (fun w => strokeWrite id i host w.1 w.2)).run s = s.storeAll id ws
  | [], _, _, _, _, _, _ => rfl
  | w :: ws, s, hf, hp, h, hj, hk => by
    rw [Plan.run_each_cons, strokeWrite_plain hp id i host w (h w List.mem_cons_self) hj hk]
    have hjob : (s.storeFor id w).job id = s.job id := by rw [storeFor_eq s id w]; rfl
    exact writes_plain id i host ws _ (storeFor_wf hf id w) (plain_storeFor hp id w)
      (fun v hv => writable_storeFor hf id host v w (h v (List.mem_cons_of_mem _ hv))) (by rw [hjob]; exact hj) (by rw [hjob]; exact hk)

/-! ## The whole operation -/

theorem retryOf_ok {s : State} {p : Nat} {host : Bool} {l : List (Nat × Nat)} (h : ∀ r ∈ l, s.judge p host r.1 r.2 = .ok) : s.retryOf p host l = none := by
  rw [State.retryOf, List.findSome?_eq_none_iff]
  intro r hr
  rw [h r hr]

theorem runnable_running {s : State} {id i cls op : Nat} (h : s.runnable id i cls op = true) : (s.job id).phase = .running ∧ (s.job id).killed = none := by
  simp only [State.runnable, Bool.and_eq_true, decide_eq_true_eq, Option.isNone_iff_eq_none] at h
  exact ⟨h.1.1.1.1.1.1.1, h.1.1.1.1.1.1.2⟩

theorem marked_eq (s : State) (stays : Bool) (id i : Nat) :
    (modStroke id i (fun t => if stays then { t with begun := true } else { t with ran := true })).run s = s.marked stays id i := rfl

/-- Nothing is held at a port, and nothing debited, for a partition with no regulator in force (R272, R274). -/
theorem held_unregulated {s : State} {p : Nat} (h : (s.part p).measure = true ∨ ((s.part p).gddr.rate = 0 ∧ (s.part p).plate.rate = 0)) (l : List (Nat × Nat)) :
    s.held p l = false := by
  rcases h with hm | ⟨hg, hp⟩
  · simp [State.held, State.holdsAt, hm]
  · simp [State.held, State.holdsAt, Bucket.empty, hg, hp]

theorem chargeTo_unregulated {s : State} {p : Nat} (h : (s.part p).measure = true ∨ ((s.part p).gddr.rate = 0 ∧ (s.part p).plate.rate = 0)) (l : List (Nat × Nat)) :
    (chargeTo p l).run s = s := by
  have hc : (!(s.part p).measure && ((s.part p).gddr.rate != 0 || (s.part p).plate.rate != 0)) = false := by
    rcases h with hm | ⟨hg, hp⟩
    · simp [hm]
    · simp [hg, hp]
  rw [Plan.run_def]
  simp only [chargeTo, hc, Bool.false_eq_true, if_false]
  rfl

/-- The beginning of an operation as the plans of its two parts. -/
theorem began_run (s : State) (id i : Nat) (o : OpOut) :
    s.began id i o = (requestAll { cls := memClass ((s.job id).stroke i).cls ((s.job id).stroke i).op } o.reads (o.writes ++ o.also)).run
      (Plan.run (match ((s.job id).stroke i).place with
        | some pl => Plan.when (pl.localShare != []) (workSpace pl (((s.job id).stroke i).cls == 0x01 && ((s.job id).stroke i).op == 0x20))
        | none => Plan.skip) s) := by
  unfold State.began
  dsimp only
  cases ((s.job id).stroke i).place with
  | none => rfl
  | some pl =>
    dsimp only
    rw [Plan.run_when]
    by_cases h : pl.localShare = []
    · simp [h]
    · simp [h]

theorem began_wf {s : State} (h : s.Wf) (id i : Nat) (o : OpOut) : (s.began id i o).Wf := by
  rw [began_run]
  exact Plan.run_wf (Plan.run_wf h _) _

/-- The first retry among the accesses of two lists. -/
theorem retryOf_append (s : State) (p : Nat) (host : Bool) (xs ys : List (Nat × Nat)) :
    s.retryOf p host (xs ++ ys) = (s.retryOf p host xs).or (s.retryOf p host ys) := List.findSome?_append

/-- What nothing hinders is carried out: its accesses requested, its writes made visible, its further effects, and its end. -/
theorem carryOut_admitted {s : State} {id i : Nat} {o : OpOut} {on : State → Bool} (fin : Plan) (hs : s.Wf) (hj : (s.job id).phase = .running)
    (hk : (s.job id).killed = none) (h : s.Admits id i o) (hon : ∀ u : State, u.jobs = s.jobs → on u = true) :
    (carryOut id i o on fin).run s = fin.run (o.more.run ((s.began id i o).storeAll id o.writes)) := by
  have hw1 : ∀ r ∈ o.writes.map (fun w => (w.1, w.2.length)), s.judge (s.job id).part o.host r.1 r.2 = .ok := by
    intro r hr
    obtain ⟨w, hw, rfl⟩ := List.mem_map.mp hr
    exact (h.writes w hw).open_
  have hacc : s.retryOf (s.job id).part o.host ((o.writes ++ o.also).map (fun w => (w.1, w.2.length))) = none := by
    rw [List.map_append, retryOf_append, retryOf_ok hw1]
    simpa using h.alsoServed
  have hstep : (carryOut id i o on fin).run s =
      (Plan.seq [
        (match ((s.job id).stroke i).place with
         | some pl => Plan.when (pl.localShare != []) (workSpace pl (((s.job id).stroke i).cls == 0x01 && ((s.job id).stroke i).op == 0x20))
         | none => Plan.skip),
        chargeTo (s.job id).part (o.reads ++ (o.writes ++ o.also).map (fun w => (w.1, w.2.length))),
        requestAll { cls := memClass ((s.job id).stroke i).cls ((s.job id).stroke i).op } o.reads (o.writes ++ o.also),
        Plan.each o.reads (fun r => strokeRead id i o.host o.zIsX r.1 r.2),
        Plan.look (fun s1 => if !on s1 then Plan.skip else
          Plan.seq [
            Plan.each o.writes (fun w => strokeWrite id i o.host w.1 w.2),
            Plan.look (fun s2 => if (s2.job id).killed.isSome then Plan.skip else Plan.andThen o.more fin)])]).run s := by
    apply Plan.run_congr
    unfold carryOut
    simp only [h.passes, retryOf_ok h.reads, hacc, h.noBurnish, held_unregulated h.unregulated, h.noInjection, Bool.false_eq_true, if_false]
    all_goals rfl
  rw [hstep]
  simp only [Plan.run_seq_cons, Plan.run_seq_nil, Plan.run_look]
  have hb := began_run s id i o
  have hwk : ∀ (pl : Place) (b : Bool), (Plan.when (pl.localShare != []) (workSpace pl b)).run s =
      s.over s.mem s.claims ((Plan.when (pl.localShare != []) (workSpace pl b)).run s).channels ((Plan.when (pl.localShare != []) (workSpace pl b)).run s).localMem
        ((Plan.when (pl.localShare != []) (workSpace pl b)).run s).fresh :=
    fun pl b => applyAll_over _ s (((Plan.only_when (workSpace_only pl b)).effs s).mono (by decide))
  have hcharge : ∀ (u : State), u.parts = s.parts → (chargeTo (s.job id).part (o.reads ++ (o.writes ++ o.also).map (fun w => (w.1, w.2.length)))).run u = u := by
    intro u hu
    apply chargeTo_unregulated
    have : u.part (s.job id).part = s.part (s.job id).part := by unfold State.part; rw [hu]
    rw [this]; exact h.unregulated
  rw [hcharge, ← hb]
  · have heq := began_eq s id i o
    have hfw := began_wf hs id i o
    generalize s.began id i o = u at heq hfw
    have hjobs : u.jobs = s.jobs := by rw [heq]
    have hjob : u.job id = s.job id := by unfold State.job; rw [hjobs]
    have hplain : u.Plain := by rw [heq]; exact ⟨h.plain.noCache, h.plain.noPoison, h.plain.noLines, h.plain.noBad, h.plain.answers⟩
    have hr2 : ∀ r ∈ o.reads, u.Readable id o.host r := by
      intro r hr
      show u.judge (u.job id).part o.host r.1 r.2 = .ok
      rw [hjob, heq, judge_over]; exact h.reads r hr
    have hw2 : ∀ w ∈ o.writes, u.Writable id o.host w := by
      intro w hw
      have hwr := h.writes w hw
      refine ⟨?_, ?_, ?_⟩
      · rw [hjob, heq, judge_over]; exact hwr.open_
      · rw [hjob, heq, foreign_over]; exact hwr.own
      · rw [heq]; exact hwr.unclaimed
    rw [reads_plain hplain id i _ _ _ hr2]
    simp only [hon u hjobs, Bool.not_true, Bool.false_eq_true, if_false, Plan.run_seq_cons, Plan.run_seq_nil, Plan.run_look]
    rw [writes_plain id i _ _ u hfw hplain hw2 (by rw [hjob]; exact hj) (by rw [hjob]; exact hk)]
    have hkill : ((u.storeAll id o.writes).job id).killed = none := by
      rw [storeAll_eq id _ u]
      show (u.job id).killed = none
      rw [hjob]; exact hk
    simp only [hkill, Option.isSome_none, Bool.false_eq_true, if_false, Plan.run_andThen]
  · cases ((s.job id).stroke i).place with
    | none => rfl
    | some pl => dsimp only; rw [hwk]

/-- An operation that nothing hinders is carried out whole. -/
theorem runOpWith_carried {s : State} {cls op id i : Nat} {f : State → Job → Stroke → OpOut} (stays : Bool) (h : s.Unhindered cls op id i f) :
    (runOpWith stays cls op id i f).run s = s.carried stays id i (f s (s.job id) ((s.job id).stroke i)) := by
  obtain ⟨hj, hk⟩ := runnable_running h.runnable
  have hrun : (runOpWith stays cls op id i f).run s = (carryOut id i (f s (s.job id) ((s.job id).stroke i)) (fun s1 => s1.runnable id i cls op)
      (modStroke id i (fun t => if stays then { t with begun := true } else { t with ran := true }))).run s := by
    apply Plan.run_congr
    simp only [runOpWith, h.runnable, h.noRetry, Bool.not_true, Bool.or_self, Bool.false_eq_true, if_false]
  rw [hrun, carryOut_admitted _ h.wf hj hk h.admits, State.carried, marked_eq]
  intro u hu
  have hjob : u.job id = s.job id := by unfold State.job; rw [hu]
  have := h.runnable
  simp only [State.runnable, hjob] at this ⊢
  exact this

/-- The command of an operation that nothing hinders answers the state in which it has been carried out. -/
theorem runOp_done {s : State} {cls op id i : Nat} {f : State → Job → Stroke → OpOut} (h : s.Unhindered cls op id i f) :
    Plan.done (runOp cls op id i f) s = .next (s.carried false id i (f s (s.job id) ((s.job id).stroke i))) := by
  rw [Plan.done_eq _ _ h.serves, runOp, runOpWith_carried false h]

theorem runOpOpen_done {s : State} {cls op id i : Nat} {f : State → Job → Stroke → OpOut} (h : s.Unhindered cls op id i f) :
    Plan.done (runOpOpen cls op id i f) s = .next (s.carried true id i (f s (s.job id) ((s.job id).stroke i))) := by
  rw [Plan.done_eq _ _ h.serves, runOpOpen, runOpWith_carried true h]

end Sys2Proof.Machine
end

