-- ==== Sys2Proof/Laws/Check.lean ====
section
/-! SUPPORT. Decision procedures for the premises of the claims, each with the lemma that it decides what it names. -/
namespace Sys2Proof.Machine

/-- The canonical form of every table, decided. -/
def State.wfB (s : State) : Bool :=
  Memory.wf s.mem &&
  Tab.wf 0 s.localMem &&
  Tab.wf false s.poisoned &&
  Tab.wf false s.badWords &&
  Tab.wf 0 s.regs &&
  Tab.wf ({} : Func) s.funcs &&
  Tab.wf ({} : Queue) s.queues &&
  Tab.wf ({} : Slot) s.slots &&
  Tab.wf ({} : Vec) s.vecs &&
  Tab.wf ({} : Job) s.jobs &&
  Tab.wf ({} : Sem) s.sems &&
  Tab.wf ({} : ModeUnit) s.modeUnits &&
  Tab.wf ({} : ModeChange) s.modeChanges &&
  Tab.wf ({} : Part) s.parts &&
  Tab.wf ({} : Cluster) s.clusters &&
  Tab.wf ({} : Seg) s.segs &&
  Tab.wf 0 s.claims &&
  Tab.wf ({} : Line) s.lines &&
  Tab.wf 0 s.plru &&
  Tab.wf ({} : EvtSel) s.evtSels &&
  Tab.wf ({} : MemPos) s.positions &&
  Tab.wf ({} : Channel) s.channels &&
  Tab.wf ({} : Port) s.ports &&
  Tab.wf ({} : Session) s.sessions &&
  Tab.wf ({} : Group) s.groups &&
  Tab.wf ({} : Bound) s.vocabs &&
  Tab.wf ({} : Bound) s.grammars &&
  Tab.wf [] s.maskTags &&
  Tab.wf 0 s.bases &&
  Tab.wf ({} : Pool) s.pools &&
  Tab.wf 0 s.refs &&
  Tab.wf 0 s.polWaits &&
  Tab.wf 0xFF s.flash &&
  Tab.wf ({} : StreamCtx) s.streams &&
  Tab.wf ({} : Core) s.cores &&
  Tab.wf ({} : IntCtx) s.intakes &&
  Tab.wf ({} : RegGroup) s.regGroups &&
  Tab.wf ({} : OutRing) s.outRings &&
  Tab.wf ({} : TrkStream) s.tracks

theorem State.wf_of_wfB {s : State} (h : s.wfB = true) : s.Wf := by
  simp only [State.wfB, Bool.and_eq_true] at h
  obtain ⟨⟨⟨⟨⟨⟨⟨⟨⟨⟨⟨⟨⟨⟨⟨⟨⟨⟨⟨⟨⟨⟨⟨⟨⟨⟨⟨⟨⟨⟨⟨⟨⟨⟨⟨⟨⟨⟨h0, h1⟩, h2⟩, h3⟩, h4⟩, h5⟩, h6⟩, h7⟩, h8⟩, h9⟩, h10⟩, h11⟩, h12⟩, h13⟩, h14⟩, h15⟩, h16⟩, h17⟩, h18⟩, h19⟩, h20⟩, h21⟩, h22⟩, h23⟩, h24⟩, h25⟩, h26⟩, h27⟩, h28⟩, h29⟩, h30⟩, h31⟩, h32⟩, h33⟩, h34⟩, h35⟩, h36⟩, h37⟩, h38⟩ := h
  exact ⟨h0, h1, h2, h3, h4, h5, h6, h7, h8, h9, h10, h11, h12, h13, h14, h15, h16, h17, h18, h19, h20, h21, h22, h23, h24, h25, h26, h27, h28, h29, h30, h31, h32, h33, h34, h35, h36, h37, h38⟩

/-- `Open`, decided. -/
def State.openB (s : State) (fn : Nat) : Bool := !s.svc.halted && s.answers fn && s.svc.stage != 3

theorem State.open_of_openB {s : State} {fn : Nat} (h : s.openB fn = true) : s.Open fn := by
  simp only [State.openB, Bool.and_eq_true, Bool.not_eq_true', bne_iff_ne] at h
  exact ⟨h.1.1, h.1.2, h.2⟩

/-- `TakesMbx`, decided. -/
def State.takesMbxB (s : State) : Bool := s.openB 0 && s.mbx.state != .busy && !s.gddr.frozen

theorem State.takesMbx_of {s : State} (h : s.takesMbxB = true) : s.TakesMbx := by
  simp only [State.takesMbxB, Bool.and_eq_true, Bool.not_eq_true', bne_iff_ne] at h
  exact ⟨State.open_of_openB h.1.1, h.1.2, h.2⟩

/-- `Plain`, decided. -/
def State.plainB (s : State) : Bool := s.cacheSegs.isEmpty && s.poisoned.isEmpty && s.lines.isEmpty && s.badWords.isEmpty && !s.gddr.frozen

theorem State.plain_of {s : State} (h : s.plainB = true) : s.Plain := by
  simp only [State.plainB, Bool.and_eq_true, List.isEmpty_iff, Bool.not_eq_true'] at h
  exact ⟨h.1.1.1.1, h.1.1.1.2, h.1.1.2, h.1.2, h.2⟩

/-- `Writable`, decided. -/
def State.writableB (s : State) (id : Nat) (host : Bool) (w : Nat × List Byte) : Bool :=
  s.judge (s.job id).part host w.1 w.2.length = .ok && s.foreign ((s.job id).fn == 0) w.1 w.2.length = none && !s.claimedByOther id w.1 w.2.length

theorem State.writable_of {s : State} {id : Nat} {host : Bool} {w : Nat × List Byte} (h : s.writableB id host w = true) : s.Writable id host w := by
  simp only [State.writableB, Bool.and_eq_true, decide_eq_true_eq, Bool.not_eq_true'] at h
  exact ⟨h.1.1, h.1.2, h.2⟩

/-- `Unhindered` on an outcome already computed: `Admits`, decided. -/
def State.admitsB (s : State) (id i : Nat) (o : OpOut) : Bool :=
  o.check.isNone && s.plainB &&
  o.reads.all (fun r => s.judge (s.job id).part o.host r.1 r.2 = .ok) && o.writes.all (s.writableB id o.host) && (s.retryOf (s.job id).part o.host (o.also.map (fun w => (w.1, w.2.length)))).isNone && (s.burnishOf (o.writes ++ o.also)).isNone &&
  (((s.job id).stroke i).place.bind (fun pl => s.firesOn pl o.paths)).isNone &&
  ((s.part (s.job id).part).measure || ((s.part (s.job id).part).gddr.rate == 0 && (s.part (s.job id).part).plate.rate == 0))

theorem State.admits_of {s : State} {id i : Nat} {o : OpOut} (h : s.admitsB id i o = true) : s.Admits id i o := by
  simp only [State.admitsB, Bool.and_eq_true, Bool.or_eq_true, List.all_eq_true, decide_eq_true_eq, Option.isNone_iff_eq_none, beq_iff_eq] at h
  obtain ⟨⟨⟨⟨⟨⟨⟨hcheck, hplain⟩, hreads⟩, hwrites⟩, hown⟩, hburnish⟩, hinj⟩, hreg⟩ := h
  exact ⟨hcheck, State.plain_of hplain, hreads, fun w hw => State.writable_of (hwrites w hw), hown, hburnish, hinj, hreg⟩

/-- `Granted`, decided; every read is to be readable. -/
def State.grantedB (s : State) (id : Nat) (src : MemSrc) (reads : List (Nat × Nat)) (writes : List (Nat × List Byte)) : Bool :=
  decide ((s.job id).phase = .running) && (s.job id).killed.isNone && s.plainB && reads.all (fun r => s.judge (s.job id).part false r.1 r.2 = .ok) &&
  writes.all (s.writableB id false) && (s.burnishOf writes).isNone && (s.inPanic src || !s.held (s.job id).part (reads ++ writes.map (fun w => (w.1, w.2.length))))

theorem State.granted_of {s : State} {id : Nat} {src : MemSrc} {reads : List (Nat × Nat)} {writes : List (Nat × List Byte)} (h : s.grantedB id src reads writes = true) :
    s.Granted id src reads writes := by
  simp only [State.grantedB, Bool.and_eq_true, Bool.or_eq_true, List.all_eq_true, decide_eq_true_eq, Option.isNone_iff_eq_none, Bool.not_eq_true'] at h
  obtain ⟨⟨⟨⟨⟨⟨hrun, halive⟩, hplain⟩, hreads⟩, hwrites⟩, hburnish⟩, hheld⟩ := h
  exact ⟨hrun, halive, State.plain_of hplain, fun r hr => .inl (hreads r hr), fun w hw => State.writable_of (hwrites w hw), hburnish, hheld⟩

/-- `Unhindered` on an outcome already computed, decided. -/
def State.freeB (s : State) (cls op id i : Nat) (o : OpOut) : Bool :=
  s.wfB && !s.svc.halted && s.runnable id i cls op && !s.hasRetry id i && s.admitsB id i o

/-- `Unhindered`, decided. -/
def State.unhinderedB (s : State) (cls op id i : Nat) (f : State → Job → Stroke → OpOut) : Bool := s.freeB cls op id i (f s (s.job id) ((s.job id).stroke i))

theorem State.unhindered_of {s : State} {cls op id i : Nat} {f : State → Job → Stroke → OpOut} (h : s.unhinderedB cls op id i f = true) :
    s.Unhindered cls op id i f := by
  simp only [State.unhinderedB, State.freeB, Bool.and_eq_true, Bool.not_eq_true'] at h
  obtain ⟨⟨⟨⟨hwf, hserves⟩, hrun⟩, hretry⟩, hadmits⟩ := h
  exact ⟨State.wf_of_wfB hwf, hserves, hrun, hretry, State.admits_of hadmits⟩

end Sys2Proof.Machine
end

