-- ==== Sys2Proof/Machine/Pins.lean ====
section
/-! DEFINITION. The pins (20_pins_electrical_package.md): the ball grid and what each ball carries (R380-R385), the cells of the boundary-scan register in their order (R394),
and the states in which the device holds its outputs (R339, R387). -/
namespace Sys2Proof.Machine

/-! ## The ball grid (R380-R385) -/

/-- What a ball carries: a signal of GDDR6 position `m` (and device channel, false = A), of a PCIe or Ulzia lane, another signal, or a supply. -/
inductive Ball
  | dq (m : Nat) (b : Bool) (n : Nat) | dbiN (m : Nat) (b : Bool) (n : Nat) | edc (m : Nat) (b : Bool) (n : Nat) | wckT (m : Nat) (b : Bool) | wckC (m : Nat) (b : Bool)
  | ca (m : Nat) (b : Bool) (n : Nat) | cabiN (m : Nat) (b : Bool) | ckeN (m : Nat) (b : Bool) | ckT (m : Nat) | ckC (m : Nat) | memResetN (m : Nat) | gRcal (m : Nat)
  | peTx (lane : Nat) (neg : Bool) | peRx (lane : Nat) (neg : Bool) | uTx (port lane : Nat) (neg : Bool) | uRx (port lane : Nat) (neg : Bool)
  | refclk (neg : Bool) | peRcal | ulzRcal | tck | tms | tdi | tdo | trstN | testEn | perstN | thermAlertN | smbClk | smbDat | smbAlertN | smbAddr (n : Nat)
  | spiClk | spiCsN | spiIo (n : Nat)
  | vddqG | vddCore | vddPlate | vddPhy | vddhPhy | vddaPll | vddIo | vss
  deriving DecidableEq, Repr

/-- A ball that carries a signal, not a supply (R381). -/
def Ball.isSignal : Ball → Bool
  | .vddqG => false | .vddCore => false | .vddPlate => false | .vddPhy => false | .vddhPhy => false | .vddaPll => false | .vddIo => false | .vss => false | _ => true

/-- The pattern of a half block: row `i`, column `k` (R383). -/
def halfBlock (m : Nat) (b : Bool) (i k : Nat) : Ball :=
  let four (f : Nat → Ball) (v : Ball) : Ball := match k with | 0 => f 0 | 1 => f 1 | 3 => f 2 | 4 => f 3 | _ => v
  match i with
  | 0 => four (.dq m b) .vss
  | 1 => four (fun n => .dq m b (4 + n)) .vddqG
  | 2 => four (fun n => match n with | 0 => .dbiN m b 0 | 1 => .edc m b 0 | 2 => .wckT m b | _ => .wckC m b) .vss
  | 3 => four (fun n => .dq m b (8 + n)) .vddqG
  | 4 => four (fun n => .dq m b (12 + n)) .vss
  | 5 => four (fun n => match n with | 0 => .dbiN m b 1 | 1 => .edc m b 1 | _ => .ca m b (n - 2)) .vddqG
  | 6 => four (fun n => .ca m b (2 + n)) .vss
  | 7 => four (fun n => .ca m b (6 + n)) .vddqG
  | _ => four (fun n => match n with
      | 0 => .cabiN m b | 1 => .ckeN m b | 2 => if b then .memResetN m else .ckT m | _ => if b then .gRcal m else .ckC m) .vss

/-- The ball of offset (i, j) of a position's block (R382). -/
def blockBall (m i j : Nat) : Ball := halfBlock m (decide (6 ≤ j)) i (j % 6)

/-- The position and the offset of a ball that lies in a block (R382). -/
def inBlock (row col : Nat) : Option (Nat × Nat × Nat) :=
  if 20 ≤ row ∧ row < 32 ∧ 43 ≤ col then some (8, 51 - col, row - 20)
  else if 2 ≤ col ∧ col < 50 then
    (if 1 ≤ row ∧ row ≤ 9 then some ((col - 2) / 12, row - 1, (col - 2) % 12)
     else if 43 ≤ row ∧ row ≤ 51 then some (4 + (col - 2) / 12, 51 - row, (col - 2) % 12)
     else none)
  else none

/-- The signal of a ball that R384 names. -/
def namedBall (row col : Nat) : Option Ball :=
  if 13 ≤ row ∧ row ≤ 34 ∧ row % 3 = 1 ∧ (col = 1 ∨ col = 2) then some (.peTx ((row - 13) / 3) (col == 2))
  else if 13 ≤ row ∧ row ≤ 34 ∧ row % 3 = 1 ∧ (col = 4 ∨ col = 5) then some (.peRx ((row - 13) / 3) (col == 5))
  else if 10 ≤ row ∧ row ≤ 18 ∧ row % 2 = 0 ∧ (col = 50 ∨ col = 51) then some (.uTx 0 ((row - 10) / 2) (col == 50))
  else if 10 ≤ row ∧ row ≤ 18 ∧ row % 2 = 0 ∧ (col = 47 ∨ col = 48) then some (.uRx 0 ((row - 10) / 2) (col == 47))
  else if 33 ≤ row ∧ row ≤ 41 ∧ row % 2 = 1 ∧ (col = 50 ∨ col = 51) then some (.uTx 1 ((row - 33) / 2) (col == 50))
  else if 33 ≤ row ∧ row ≤ 41 ∧ row % 2 = 1 ∧ (col = 47 ∨ col = 48) then some (.uRx 1 ((row - 33) / 2) (col == 47))
  else match row, col with
    | 37, 1 => some (.refclk false) | 37, 2 => some (.refclk true) | 37, 5 => some .peRcal | 42, 49 => some .ulzRcal
    | 39, 1 => some .tck | 39, 2 => some .tms | 39, 3 => some .tdi | 39, 4 => some .tdo | 39, 5 => some .trstN | 39, 6 => some .testEn
    | 40, 1 => some .perstN | 40, 2 => some .thermAlertN | 40, 3 => some .smbClk | 40, 4 => some .smbDat | 40, 5 => some .smbAlertN
    | 40, 6 => some (.smbAddr 0) | 40, 7 => some (.smbAddr 1) | 41, 1 => some .spiClk | 41, 2 => some .spiCsN
    | 41, 3 => some (.spiIo 0) | 41, 4 => some (.spiIo 1) | 41, 5 => some (.spiIo 2) | 41, 6 => some (.spiIo 3)
    | _, _ => none

/-- The supply of any other ball (R385). -/
def supplyBall (row col : Nat) : Ball :=
  if 24 ≤ row ∧ row ≤ 28 ∧ 21 ≤ col ∧ col ≤ 29 ∧ (row + col) % 2 = 0 then .vddPlate
  else if 12 ≤ row ∧ row ≤ 40 ∧ 10 ≤ col ∧ col ≤ 40 ∧ (row + col) % 2 = 1 then .vddCore
  else if ((row = 10 ∨ row = 42) ∧ 2 ≤ col ∧ col ≤ 44 ∧ col % 2 = 0) ∨ (col = 42 ∧ 20 ≤ row ∧ row ≤ 30 ∧ row % 2 = 0) ∨ (col = 7 ∧ 13 ≤ row ∧ row ≤ 34 ∧ row % 3 = 1) then .vddPhy
  else if (col = 8 ∧ 13 ≤ row ∧ row ≤ 34 ∧ row % 3 = 1) ∨ (col = 45 ∧ ((10 ≤ row ∧ row ≤ 18 ∧ row % 2 = 0) ∨ (33 ≤ row ∧ row ≤ 41 ∧ row % 2 = 1))) then .vddhPhy
  else if (row = 36 ∨ row = 38) ∧ (col = 4 ∨ col = 5) then .vddaPll
  else if (row = 38 ∧ 1 ≤ col ∧ col ≤ 3) ∨ (row = 41 ∧ 7 ≤ col ∧ col ≤ 9) then .vddIo
  else .vss

/-- What the ball at row.column carries, both from 1 to 51 (R380-R385). -/
def ballAt (row col : Nat) : Option Ball :=
  if row = 0 ∨ 51 < row ∨ col = 0 ∨ 51 < col then none
  else match inBlock row col with
    | some (m, i, j) => some (blockBall m i j)
    | none => some ((namedBall row col).getD (supplyBall row col))

/-! ## The boundary-scan register (R394) -/

inductive CellKind | input | output | enable | acReceiver
  deriving DecidableEq, Repr

/-- A cell and the ball that it belongs to; the cells of a TX pair stand with its positive ball. -/
structure Cell where
  ball : Ball
  kind : CellKind
  deriving DecidableEq, Repr

/-- The three cells of a single-ended ball, from TDI. -/
def singleCells (b : Ball) : List Cell := [⟨b, .input⟩, ⟨b, .output⟩, ⟨b, .enable⟩]

/-- The cells of a lane: those of its TX pair, then those of its RX balls. -/
def laneCells (tx rx : Bool → Ball) : List Cell := [⟨tx false, .output⟩, ⟨tx false, .enable⟩, ⟨rx false, .acReceiver⟩, ⟨rx true, .acReceiver⟩]

/-- The balls of a position's block that have cells, in ascending i and then j. -/
def blockSignals (m : Nat) : List Ball :=
  (List.range 9).flatMap (fun i => ((List.range 12).map (blockBall m i)).filter (fun b => b.isSignal && decide (b ≠ .gRcal m)))

/-- The 2,028 cells in order from TDI to TDO. -/
def scanCells : List Cell :=
  ([Ball.perstN, .thermAlertN, .smbClk, .smbDat, .smbAlertN, .smbAddr 0, .smbAddr 1, .spiClk, .spiCsN, .spiIo 0, .spiIo 1, .spiIo 2, .spiIo 3]).flatMap singleCells ++
  (List.range 8).flatMap (fun l => laneCells (.peTx l) (.peRx l)) ++
  (List.range 9).flatMap (fun m => (blockSignals m).flatMap singleCells) ++
  (List.range 2).flatMap (fun p => (List.range 5).flatMap (fun l => laneCells (.uTx p l) (.uRx p l)))

/-- The place of a cell in the register; bit 0 of its value is the cell nearest TDI (log entry 136). -/
def cellIndex (c : Cell) : Option Nat := scanCells.findIdx? (fun x => decide (x = c))

/-! ## Pin states (R339, R387) -/

/-- How the device holds a ball: `pulledLow` is high impedance with the 10 kOhm to VSS, `released` an open drain that is off, `driven` by its interface. -/
inductive PinState | low | high | highZ | pulledLow | idle | off | released | asserted | driven
  deriving DecidableEq, Repr

/-- The columns of R387: PERST_N asserted or rails coming up, thermal shutdown, normal service. -/
inductive PinPhase | reset | shutdown | service
  deriving DecidableEq, Repr

/-- The phase of the device: before its boot has begun it holds its pins as while PERST_N is asserted (R386, R387, R391). -/
def State.pinPhase (s : State) : PinPhase :=
  if s.svc.shut then .shutdown else if s.svc.halted && s.svc.stage == 0 then .reset else .service

/-- A position that is spare, retired or withdrawn; M8 leaves that state while it trains and while a migration copies to it (R302, R304, R387). -/
def State.idlePosition (s : State) (m : Nat) : Bool := s.withdrawn 3 m || (decide (m = 8) && !s.gddr.copying && (s.pos 8).state != 1)

/-- The GDDR6 balls of a position other than RESET_N are driven. -/
def State.memDriven (s : State) (m : Nat) : Bool := decide (s.pinPhase = .service) && !s.idlePosition m

/-- The state of a ball that the device drives or holds, as its functions have it; none for inputs, analog parts and supplies (R387). TDO shifts under the tester's clock. -/
def State.pinState (s : State) (b : Ball) : Option PinState :=
  let mem (m : Nat) : Option PinState := some (if s.memDriven m then .driven else .pulledLow)
  let tx (up : Bool) : Option PinState := some (match s.pinPhase with | .shutdown => .off | .reset => .idle | .service => if up then .driven else .idle)
  let bus : Option PinState := some (if s.pinPhase = .service then .driven else .released)
  match b with
  | .memResetN m => some (if s.memDriven m && s.gddr.trained then .high else .low)
  | .dq m _ _ => mem m | .dbiN m _ _ => mem m | .edc m _ _ => mem m | .wckT m _ => mem m | .wckC m _ => mem m | .ca m _ _ => mem m | .cabiN m _ => mem m | .ckeN m _ => mem m
  | .ckT m => mem m | .ckC m => mem m
  | .peTx _ _ => tx s.pcie.up
  | .uTx p _ _ => tx ((s.port p).state != 0)
  | .spiCsN => some (if s.pinPhase = .service then .driven else .high)
  | .thermAlertN => some (match s.pinPhase with | .reset => .released | .shutdown => .asserted | .service => if s.svc.alert then .asserted else .released)
  | .smbClk => bus | .smbDat => bus | .smbAlertN => bus
  | .tdo => some .highZ
  | _ => none

/-- The value that the boundary register drives on a ball, where its enable cell is 1 (R394). -/
def State.scanDrives (s : State) (b : Ball) : Option Bool :=
  match cellIndex ⟨b, .output⟩, cellIndex ⟨b, .enable⟩ with
  | some o, some e => if bit s.tap.latch e then some (bit s.tap.latch o) else none
  | _, _ => none

/-- What stands on an output with the TAP: the boundary drives it under EXTEST, the AC tests and CLAMP, HIGHZ floats it, and else the device holds it (R394). -/
def State.pinOut (s : State) (b : Ball) : Option PinState :=
  match s.tap.drive with
  | 0 => s.pinState b
  | 1 => (match cellIndex ⟨b, .output⟩ with
    | none => s.pinState b
    | some _ => some (match s.scanDrives b with | some true => .high | some false => .low | none => .highZ))
  | _ => if (cellIndex ⟨b, .output⟩).isSome then some .highZ else s.pinState b

end Sys2Proof.Machine
end

