-- ==== Sys2Proof/Tests/Slice0.lean ====
section
/-! SUPPORT. Tests on small states: which commands are well formed, values that the spec states, and for every claim with premises a state and operands that meet them. -/
namespace Sys2Proof.Tests
open Sys2Proof Sys2Proof.Machine

/- The tests are elaborated one after another: each is a kernel evaluation of its own. -/
set_option Elab.async false

/-! ## Small states -/

/-- A device in service: the link up, every function ready and mastering, GDDR6 trained with eight positions of 992 MiB. -/
def up : State := { State.reset with
  svc := { stage := 2 }
  funcs := (List.range 9).map (fun fn => (fn, { ready := true, busMaster := true }))
  pcie := { up := true, width := 8, rate := 5, vfEnable := true }
  gddr := { trained := true }
  regs := Tab.put 0 resetRegs (regKey 0 pgMEM 0x108) 7936 }

/-- The device 10 s later. -/
def later : State := { up with ticks := 10000000 }

/-- A device that has halted. -/
def halted : State := { up with svc := { up.svc with halted := true } }

/-- Writes a list of bytes into device memory. -/
def withMem (s : State) (a : Nat) (b : List Byte) : State := { s with mem := Tab.putList 0 s.mem a b }

/-- Sets a register of a function. -/
def withReg (s : State) (fn pg off v : Nat) : State := { s with regs := Tab.put 0 s.regs (regKey fn pg off) (BitVec.ofNat 32 v) }

/-- A job of partition 0, number 1, whose one stroke runs on a unit. -/
def running (cls op : Nat) (pl : Place) (param : Nat) (opnds : List Nat) : Job :=
  { phase := .running, count := 1, chunks := 1, strokes := [{ cls := cls, op := op, param := param, opnds := opnds, state := .running, place := some pl }] }

/-- The state with job 1. -/
def withJob (s : State) (j : Job) : State := { s with jobs := [(1, j)], nextJob := 2 }

/-- The next state that a command leads to, or the same state where it stops. -/
def after (c : Instr) (s : State) : State := match exec c s with | .next t => t | _ => s

/-! ## Well-formed commands -/


/-- A well-formed term of each command passes. (1) -/
theorem test_wellFormed_1 : ([
  .jobRun 0, .jobFence 0, .jobNop 0, .packetFetch 0, .packetFetchFail 0 false, .sqTailDoorbell 0 0 0, .cqHeadDoorbell 0 0 0, .queueEnable 0 0,
    .queueDisable 0 0, .coalesceTimerExpiry 0, .msixVectorUnmask 0 0, .resultSlotAck 0 0 0, .hifBar4BaseWrite 0, .bar4Read 0 0, .bar4Write 0 [],
    .poisonedTlpReceived 0, .ecrcFailTlp 0, .registerWrite 0 .bar0 0 0 0, .clkTimeLoRead, .mbxIdentity 0, .mbxEventSummary 0, .attestSign 0,
    .attestRead 0, .attestCert 0, .mbxDumpRead 0, .mbxSpareIn 0, .mbxGddr6Retrain 0, .mbxProfileCommit 0, .mbxFlashWrite 0, .mbxEventClear 0,
    .mbxAttestKeyRoll 0 false, .mbxUnknownCmd 0 0, .gddr6RetrainDone 0 0 0 false, .profileCommitDone false, .flashWriteDone false,
    .eventClearDone none, .attestKeyRollDone, .flrVf 1, .flrPf, .pfUnitInitDone, .schedulerFailure, .pcieCoreFailure, .pcieLaneFault 0,
    .jobAdmit 0 .ok, .strokePlace, .preemptSave 0 0 0 0, .strokeComplete 0 0 0 0 .ok, .waitLimitExpiry 0, .timeLimitExpiry 0, .jobKillRelease 0,
    .schBucket 0 0, .schMode 0 0, .schNop 0 0, .schSemset 0 0, .schSemCtrlWrite 0 0, .modeStageWrite 0 0 0, .schModeCommit 0 0, .modeUnitApply 0,
    .modeTimeoutExpiry 0, .mmGemm 0 0 0] : List (Instr)).all (fun c => c.wellFormed) = true := by decide +kernel

/-- A well-formed term of each command passes. (2) -/
theorem test_wellFormed_2 : ([
  .mmConv 0 0 0, .mmPass 0 0 0 0, .passIssue 0 false 0 0 0 { k := 1, n := 1, m := 1, wide := false, gated := 0 },
    .clusterParityDetect 0 false false [{ path := 0, pass := 0, row := 0, column := 0, accRow := 0 }], .bcInjectWrite 0 0 0, .localBurnishDone 0 0,
    .hatchAdd 0 0, .hatchSub 0 0, .hatchMul 0 0, .hatchAxpby 0 0, .hatchMax 0 0, .hatchMin 0 0, .hatchAffine 0 0, .hatchCast 0 0, .hatchClamp 0 0,
    .hatchFill 0 0, .hatchIota 0 0, .hatchRelu 0 0, .hatchGelu 0 0, .hatchSilu 0 0, .hatchSigmoid 0 0, .hatchTanh 0 0, .hatchExp 0 0, .hatchLog 0 0,
    .hatchSqrt 0 0, .hatchRsqrt 0 0, .hatchRecip 0 0, .hatchActBwd 0 0, .hatchSum 0 0, .hatchRowmax 0 0, .hatchArgmax 0 0, .hatchSoftmax 0 0,
    .hatchLogsoftmax 0 0, .hatchLayernorm 0 0, .hatchRmsnorm 0 0, .hatchNormBwd 0 0, .hatchSoftmaxBwd 0 0, .hatchTopk 0 0, .hatchXent 0 0,
    .hatchIou 0 0, .hatchCosine 0 0, .hatchNms 0 0, .hatchAssoc 0 0, .hatchSgdm 0 0, .hatchAdamw 0 0, .hatchSumsq 0 0, .hatchPhilox 0 0,
    .hatchDropout 0 0, .hatchGather 0 0, .hatchScatterAdd 0 0, .attnFwd 0 0, .attnBwd 0 0, .attnKvwrite 0 0, .moveCopy 0 0, .moveLinear 0 0 .ok,
    .moveFill 0 0, .movePrefetch 0 0, .moveFlush 0 0, .moveEvict 0 0, .moveRequant 0 0] : List (Instr)).all (fun c => c.wellFormed) = true := by decide +kernel

/-- A well-formed term of each command passes. (3) -/
theorem test_wellFormed_3 : ([
  .plateParityDetect 0 0 0 0 false false, .plateBurnishDone 0, .plateAccessRetry 0, .psPowerWrite 0 0, .psDrainDone 0, .psWakeDone 0, .drainLimitExpiry 0,
    .psCacheBaseWrite 0 0 0, .letJoin 0 0, .letStep 0 0, .letTok 0 0, .letDetok 0 0, .letBind 0 0, .maskWalkDone 0, .stepDeadline, .letSessionStop 0,
    .letMaskCfgWrite 0 0, .medOpen 0 0, .medDecode 0 0 [] [] false, .medEncode 0 0, .medClose 0 0, .medClass 0 0,
    .medPage 0 0 { ok := true, width := 1, height := 1, colour := false, halfWidth := false, halfHeight := false, restart := 0 }, .medCws 0 0, .pictureStart, .pictureDone 0 [] [], .pageDecodeDone 0 [],
    .poolWaitRetry 0, .medPoolWaitExpiry 0, .ctuRowDone 0, .panicMaxExpiry 0, .mediaParityDetect (.core 0), .medCtxClassWrite 0, .intOpen 0 0,
    .intEpoch 0 0, .intClose 0 0, .intRegopen 0 0, .intRegclose 0 0,
    .sampleDecodeDone 0 0 { ok := true, width := 1, height := 1, colour := false, halfWidth := false, halfHeight := false, restart := 0 } [], .decodeLimitExpiry 0 0, .batchEmit, .regPictureArrive 0,
    .setDeadlineExpiry 0, .trkRing 0 0, .trkRingclose 0 0, .trkOpen 0 0, .trkClose 0 0, .trkPrep 0 0 .ok, .trkUpdate 0 0 .ok, .trkText 0 0 .ok,
    .trkPage 0 0 .ok, .trkClip 0 0 .ok, .parStateWrite 0, .parMoveWrite 0, .moveDone, .rulingLoad, .rulingEnable false, .rulingSlotStart,
    .regulatorTick, .polPoolEnable 0] : List (Instr)).all (fun c => c.wellFormed) = true := by decide +kernel

/-- A well-formed term of each command passes. (4) -/
theorem test_wellFormed_4 : ([
  .polAlloc 0 0, .polRef 0 0, .polInit 0, .sliceRebuildDone 0 0, .correctableError 0 { flips := [], wrongAddress := false } 0 .bar4, .uncorrectableError 0 { flips := [], wrongAddress := false } 0 .bar4,
    .edcRetryExhausted 0 false false .bar4, .patrolScrub { flips := [], wrongAddress := false } 0 0, .refreshInterval 0 0 0 false, .periodicRetrain 0 0 0, .migrationPageCopy false [],
    .migrationDone, .gddr6PllLockLoss 0, .ulzTrain 0 (List.replicate 5 true) none, .ulzTrainRetry 0, .ulzRetrain 0 (List.replicate 5 true) 0 false false,
    .flitReceive 0 [] false 0, .remoteWrite 0, .remoteRead 0, .remoteSem 0, .collPacket 0, .linkAnswer 0, .ulzTimeoutExpiry 0 0, .linkCopy 0 0,
    .linkSem 0 0, .linkAllreduce 0 0, .linkAllgather 0 0, .uVcCreditWrite 0 0, .ulzNodeWrite 0, .coldReset 0 1 1 false false false false,
    .gddr6TrainingDone [], .bootServiceReady, .attestPreparationDone, .linkReset false, .d3hotEntry, .d3hotToD0, .serviceRestart false,
    .referenceLoss false, .thermalSample (List.replicate 24 0) 0, .thermalShutdown 0 0, .railDip, .tapReset, .tapExtest false 0 0, .tapIdcode,
    .samplePreload 0 0, .tapHighz false, .tapClamp false, .extestPulse false 0 0, .extestTrain false 0 0, .tapBypass, .smbusEventSummary,
    .smbusAttest 0 0 (List.replicate 28 0), .eventRecordCommit, .recorderCheckpoint, .evtSelWrite 0 0, .evtFreezeWrite 0 0, .freezeLimitExpiry 0,
    .spareInTrigger 0 0 0, .wearCheck 0 0 0, .spareInComplete false] : List (Instr)).all (fun c => c.wellFormed) = true := by decide +kernel

/-- A well-formed term of each command passes. (5) -/
theorem test_wellFormed_5 : ([
  .cqFullWaitExpiry 0, .functionResetComplete 0, .vfPowerStateWrite 1 false, .positionNotAnswering 0, .gddr6TemperatureRead (List.replicate 9 0)] : List (Instr)).all (fun c => c.wellFormed) = true := by decide +kernel

/-- A stroke index above those of a job is refused. (1) -/
theorem test_illFormed_1 : ([
  Instr.schBucket, Instr.schMode, Instr.schNop, Instr.schSemset, Instr.hatchAdd, Instr.hatchSub,
    Instr.hatchMul, Instr.hatchAxpby, Instr.hatchMax, Instr.hatchMin, Instr.hatchAffine, Instr.hatchCast, Instr.hatchClamp, Instr.hatchFill,
    Instr.hatchIota, Instr.hatchRelu, Instr.hatchGelu, Instr.hatchSilu, Instr.hatchSigmoid, Instr.hatchTanh, Instr.hatchExp, Instr.hatchLog,
    Instr.hatchSqrt, Instr.hatchRsqrt, Instr.hatchRecip, Instr.hatchActBwd, Instr.hatchSum, Instr.hatchRowmax, Instr.hatchArgmax, Instr.hatchSoftmax,
    Instr.hatchLogsoftmax, Instr.hatchLayernorm, Instr.hatchRmsnorm, Instr.hatchNormBwd, Instr.hatchSoftmaxBwd, Instr.hatchTopk, Instr.hatchXent,
    Instr.hatchIou, Instr.hatchCosine, Instr.hatchNms, Instr.hatchAssoc, Instr.hatchSgdm, Instr.hatchAdamw, Instr.hatchSumsq, Instr.hatchPhilox,
    Instr.hatchDropout, Instr.hatchGather, Instr.hatchScatterAdd, Instr.attnFwd, Instr.attnBwd, Instr.attnKvwrite, Instr.moveCopy, Instr.moveFill,
    Instr.movePrefetch, Instr.moveFlush, Instr.moveEvict, Instr.moveRequant] : List (Nat → Nat → Instr)).all (fun f => !(f 0 65536).wellFormed) = true := by decide +kernel

/-- A stroke index above those of a job is refused. (2) -/
theorem test_illFormed_2 : ([
  Instr.letJoin, Instr.letStep, Instr.letTok, Instr.letDetok, Instr.letBind, Instr.medOpen, Instr.medEncode, Instr.medClose, Instr.medClass,
    Instr.medCws, Instr.intOpen, Instr.intEpoch, Instr.intClose, Instr.intRegopen, Instr.intRegclose, Instr.trkRing, Instr.trkRingclose, Instr.trkOpen,
    Instr.trkClose, Instr.ulzTimeoutExpiry, Instr.linkCopy, Instr.linkSem, Instr.linkAllreduce, Instr.linkAllgather] : List (Nat → Nat → Instr)).all (fun f => !(f 0 65536).wellFormed) = true := by decide +kernel

/-- An operand outside its range is refused, for each check. (1) -/
theorem test_outOfRange_1 : ([
  .packetFetch 4096, .packetFetchFail 4096 false, .sqTailDoorbell 9 0 0, .sqTailDoorbell 0 4096 0, .sqTailDoorbell 0 0 4294967296,
    .cqHeadDoorbell 9 0 0, .cqHeadDoorbell 0 4096 0, .cqHeadDoorbell 0 0 4294967296, .queueEnable 9 0, .queueEnable 0 4294967296, .queueDisable 9 0,
    .queueDisable 0 4294967296, .coalesceTimerExpiry 4096, .msixVectorUnmask 9 0, .msixVectorUnmask 0 2048, .resultSlotAck 9 0 0,
    .resultSlotAck 0 4096 0, .resultSlotAck 0 0 4294967296, .hifBar4BaseWrite 4294967296, .bar4Read 17179869184 0, .bar4Read 0 4097,
    .bar4Write 17179869184 [], .bar4Write 0 (List.replicate 4097 0), .poisonedTlpReceived 9, .ecrcFailTlp 9, .registerWrite 9 .bar0 0 0 0,
    .registerWrite 0 .bar0 16777216 0 0, .registerWrite 0 .bar0 0 9 0, .registerWrite 0 .bar0 0 0 18446744073709551616, .mbxIdentity 256,
    .mbxEventSummary 256, .attestSign 256, .attestRead 256, .attestCert 256, .mbxDumpRead 256, .mbxSpareIn 256, .mbxGddr6Retrain 256,
    .mbxProfileCommit 256, .mbxFlashWrite 256, .mbxEventClear 256, .mbxAttestKeyRoll 256 false, .mbxUnknownCmd 256 0, .mbxUnknownCmd 0 256,
    .gddr6RetrainDone 9 0 0 false, .flrVf 0, .flrVf 9, .pcieLaneFault 8, .preemptSave 0 65536 0 0, .strokeComplete 0 65536 0 0 .ok, .mmGemm 0 65536 0, .mmConv 0 65536 0, .mmPass 0 65536 0 0, .mmPass 0 0 0 2048, .schSemCtrlWrite 9 0,
    .schSemCtrlWrite 0 4294967296, .modeStageWrite 9 0 0, .modeStageWrite 0 256 0, .modeStageWrite 0 0 4294967296, .schModeCommit 9 0,
    .schModeCommit 0 4294967296, .modeUnitApply 256, .modeTimeoutExpiry 9, .passIssue 17 false 0 0 0 { k := 1, n := 1, m := 1, wide := false, gated := 0 },
    .passIssue 0 false 2048 0 0 { k := 1, n := 1, m := 1, wide := false, gated := 0 }, .clusterParityDetect 17 false false []] : List (Instr)).all (fun c => !c.wellFormed) = true := by decide +kernel

/-- An operand outside its range is refused, for each check. (2) -/
theorem test_outOfRange_2 : ([
  .clusterParityDetect 0 false false [{ path := 6, pass := 0, row := 0, column := 0, accRow := 0 }], .bcInjectWrite 9 0 0, .bcInjectWrite 0 17 0, .bcInjectWrite 0 0 4294967296, .localBurnishDone 17 0,
    .localBurnishDone 0 4, .moveLinear 0 65536 .ok, .plateParityDetect 0 65536 0 0 false false, .plateParityDetect 0 0 34 0 false false, .plateBurnishDone 34,
    .psPowerWrite 34 0, .psPowerWrite 0 4294967296, .psDrainDone 34, .psWakeDone 34, .drainLimitExpiry 34, .psCacheBaseWrite 9 0 0,
    .psCacheBaseWrite 0 34 0, .psCacheBaseWrite 0 0 4294967296, .maskWalkDone 16384, .letSessionStop 4294967296, .letMaskCfgWrite 4096 0,
    .letMaskCfgWrite 0 4294967296, .medDecode 0 65536 [] [] false, .medPage 0 65536 { ok := true, width := 1, height := 1, colour := false, halfWidth := false, halfHeight := false, restart := 0 },
    .pictureDone 9 [] [], .pageDecodeDone 4 [], .ctuRowDone 9, .panicMaxExpiry 9, .medCtxClassWrite 4294967296,
    .sampleDecodeDone 8 0 { ok := true, width := 1, height := 1, colour := false, halfWidth := false, halfHeight := false, restart := 0 } [], .decodeLimitExpiry 8 0, .regPictureArrive 16,
    .setDeadlineExpiry 16, .trkPrep 0 65536 .ok, .trkUpdate 0 65536 .ok, .trkText 0 65536 .ok, .trkPage 0 65536 .ok, .trkClip 0 65536 .ok,
    .parStateWrite 4294967296, .parMoveWrite 4294967296, .polPoolEnable 4294967296, .polAlloc 9 0, .polAlloc 0 4294967296, .polRef 9 0,
    .polRef 0 4294967296, .polInit 4294967296, .sliceRebuildDone 16 0, .sliceRebuildDone 0 8, .refreshInterval 9 0 0 false,
    .refreshInterval 0 2 0 false, .refreshInterval 0 0 16 false, .periodicRetrain 9 0 0, .gddr6PllLockLoss 9, .ulzTrain 2 (List.replicate 5 true) none,
    .ulzTrain 0 [] none, .ulzTrainRetry 2, .ulzRetrain 2 (List.replicate 5 true) 0 false false, .ulzRetrain 0 [] 0 false false, .flitReceive 2 [] false 0,
    .flitReceive 0 [] false 4] : List (Instr)).all (fun c => !c.wellFormed) = true := by decide +kernel

/-- An operand outside its range is refused, for each check. (3) -/
theorem test_outOfRange_3 : ([
  .remoteWrite 2, .remoteRead 2, .remoteSem 2, .collPacket 2, .linkAnswer 2, .uVcCreditWrite 2 0, .uVcCreditWrite 0 4294967296,
    .ulzNodeWrite 4294967296, .coldReset 4 1 1 false false false false, .coldReset 0 3 1 false false false false, .coldReset 0 1 0 false false false false,
    .coldReset 0 1 7 false false false false, .thermalSample [] 0, .thermalSample (List.replicate 24 0) 65536, .thermalShutdown 24 0, .thermalShutdown 0 256,
    .smbusAttest 256 0 (List.replicate 28 0), .smbusAttest 0 0 [], .evtSelWrite 9 0, .evtSelWrite 0 4294967296, .evtFreezeWrite 9 0,
    .evtFreezeWrite 0 4294967296, .freezeLimitExpiry 9, .spareInTrigger 6 0 0, .spareInTrigger 0 0 8, .wearCheck 6 0 0, .wearCheck 0 0 256,
    .cqFullWaitExpiry 4096, .functionResetComplete 9, .vfPowerStateWrite 0 false, .vfPowerStateWrite 9 false, .positionNotAnswering 9,
    .gddr6TemperatureRead []] : List (Instr)).all (fun c => !c.wellFormed) = true := by decide +kernel


/-! ## The block as a machine -/

theorem witness_StepRunsFrontCommand : ({ up with pending := [.regulatorTick] } : State).pending = .regulatorTick :: [] ∧ up.pending = [] := by decide

theorem witness_QueueServedInOrder : 2 ≤ ({ up with pending := [.regulatorTick, .schNop 1 0, .tapIdcode] } : State).pending.length := by decide

theorem witness_StepKeepsCanonicalForm :
    ({ up with pending := [.regulatorTick] } : State).Wf ∧ ∃ t, step { up with pending := [.regulatorTick] } = .next t :=
  ⟨State.wf_of_wfB (by decide +kernel), _, rfl⟩

theorem witness_HaltedDeviceDoesNothing : halted.svc.halted = true ∧ servesHalted (.packetFetch 0) = false ∧ halted.svc.bootWait = none := by decide +kernel

/-! ## Packets and queues -/

/-- Queue 0 enabled, with rings of 64 entries in host memory and vector 1, one packet ahead of its head. -/
def q0 : Queue := { enable := true, state := .running, cqBase := 0x10000, vector := 1, sqTail := 1 }
def queued : State := { up with queues := [(0, q0)], vecs := [(1, { masked := false })] }

/-- A fetched packet of queue 0. -/
def fetched (kind mode : Nat) : Job := { phase := .fetched, packet := [BitVec.ofNat 8 kind] ++ zeros 63, resultMode := mode, count := 1 }

theorem witness_PacketFetch : queued.Wf ∧ queued.svc.halted = false ∧ queued.canFetch 0 = true :=
  ⟨State.wf_of_wfB (by decide +kernel), by decide +kernel⟩

theorem witness_JobPackets_run :
    (∀ m ∈ [0, 2], (let s := withJob queued (fetched 1 m)
      s.svc.halted = false ∧ (s.job 1).phase = .fetched ∧ (s.job 1).killed = none ∧ (s.job 1).kind ≠ 2 ∧ (s.job 1).kind ≠ 3 ∧ s.refusal (s.job 1) = none ∧
      (s.job 1).resultMode = m)) := by decide +kernel

/-- A job whose completion entry can be written. -/
def postable (s : State) : Prop :=
  s.svc.halted = false ∧ (s.job 1).phase = .fetched ∧ (s.job 1).killed = none ∧ (s.job 1).silent = false ∧ (s.queue (s.job 1).queue).cqFull = false ∧
  (s.queue (s.job 1).queue).held = []

/-- A RUN packet turned away by its format, and FENCE and NOP packets with the lowest RESULT_MODE and with the one that is not known. -/
theorem witness_JobPackets_done :
    ((withJob queued (fetched 1 3)).Wf ∧ postable (withJob queued (fetched 1 3)) ∧ ((withJob queued (fetched 1 3)).job 1).kind = 1 ∧
      (withJob queued (fetched 1 3)).refusal ((withJob queued (fetched 1 3)).job 1) = some (0x20, some 0x08)) ∧
    ∀ k ∈ [2, 3], ∀ m ∈ [0, 3], (withJob queued (fetched k m)).Wf ∧ postable (withJob queued (fetched k m)) ∧ ((withJob queued (fetched k m)).job 1).kind = k ∧
      ((withJob queued (fetched k m)).job 1).resultMode = m ∧ (withJob queued (fetched k m)).earlierDone 1 = true ∧ ((withJob queued (fetched k m)).job 1).ordered = false := by
  refine ⟨⟨State.wf_of_wfB (by decide +kernel), by unfold postable; decide +kernel, by decide +kernel, by decide +kernel⟩, fun k hk m hm => ?_⟩
  simp only [List.mem_cons, List.not_mem_nil, or_false] at hk hm
  rcases hk with rfl | rfl <;> rcases hm with rfl | rfl <;>
    exact ⟨State.wf_of_wfB (by decide +kernel), by unfold postable; decide +kernel, by decide +kernel, by decide +kernel, by decide +kernel, by decide +kernel⟩

theorem witness_DoorbellsMoveRings :
    (let s := queued
     s.svc.halted = false ∧ s.answers 0 = true ∧ 0 < (s.queueRange 0).2 ∧ (s.queue 0).enable = true ∧ 63 < (s.queue 0).sqSize ∧ (s.queue ((s.queueRange 0).1 + 0)).tailOk 63 = true) ∧
    ({ queued with queues := [(0, { q0 with cqTail := 5 })] } : State).Wf ∧
    (let s : State := { queued with queues := [(0, { q0 with cqTail := 5 })] }
     s.svc.halted = false ∧ (s.queue ((s.queueRange 0).1 + 0)).headOk 5 = true ∧ (s.queue ((s.queueRange 0).1 + 0)).held = []) :=
  ⟨by decide +kernel, State.wf_of_wfB (by decide +kernel), by decide +kernel⟩

theorem witness_BadDoorbellIsViolation :
    ({ queued with queues := [(0, { q0 with sqTail := 2 })] } : State).Wf ∧
    (let s : State := { queued with queues := [(0, { q0 with sqTail := 2 })] }
     let x := s.queue 0
     s.svc.halted = false ∧ s.answers 0 = true ∧ 0 < (s.queueRange 0).2 ∧ (s.queueRange 0).1 + 0 = 0 ∧ x.enable = true ∧ x.sqSize ≤ 64 ∧ 1 < x.sqSize ∧ x.tailOk 1 = false ∧
     x.headOk 1 = false ∧ (s.queueRange 0).2 ≤ 4096) :=
  ⟨State.wf_of_wfB (by decide +kernel), by decide +kernel⟩

theorem witness_QueueEnableAndDisable :
    up.Wf ∧ up.svc.halted = false ∧ up.answers 0 = true ∧ up.svc.stage ≠ 3 ∧ up.selQueue 0 = some 0 ∧
    (up.queue 0).enable = false ∧ (up.queue 0).state ≠ .draining ∧
    ((up.queue 0).withCfg 0x1001).cfgOk 0 (decide ((up.part ((up.queuePart 0).getD 0)).state = .active)) = true ∧
    queued.Wf ∧ queued.selQueue 0 = some 0 ∧ (queued.queue 0).enable = true ∧ queued.jobsOfQueue 0 = [] :=
  ⟨State.wf_of_wfB (by decide +kernel), by decide +kernel, by decide +kernel, by decide +kernel, by decide +kernel, by decide +kernel, by decide +kernel, by decide +kernel,
    State.wf_of_wfB (by decide +kernel), by decide +kernel, by decide +kernel, by decide +kernel⟩

/-- A full completion queue with one completion held: a head one further makes room for it; and the same queue draining, whose jobs are gone. -/
def heldQueue (q : Queue) : State := { up with queues := [(0, { q with cqTail := 63, held := [{ status := 0, queue := 0, tag := 0, ptr := 0, irqNow := false }], heldSince := some 0 })] }

theorem witness_DoorbellsMoveRings_held :
    (heldQueue q0).Wf ∧ (heldQueue { q0 with enable := false, state := .draining }).Wf ∧
    ∀ q ∈ [q0, { q0 with enable := false, state := .draining }], (let s := heldQueue q
      let x := s.queue ((s.queueRange 0).1 + 0)
      s.svc.halted = false ∧ s.answers 0 = true ∧ 0 < (s.queueRange 0).2 ∧ (x.enable = true ∨ x.state = .draining) ∧ x.cqFull = true ∧ x.headOk 1 = true ∧
      x.held = [{ status := 0, queue := 0, tag := 0, ptr := 0, irqNow := false }] ∧ { x with cqHead := 1 }.cqFull = false) :=
  ⟨State.wf_of_wfB (by decide +kernel), State.wf_of_wfB (by decide +kernel), by decide +kernel⟩

/-- A queue with a job that still runs, a queue that was never enabled, and one whose configuration does not hold (vector 2048 is none). -/
theorem witness_QueueEnableAndDisable_more :
    (withJob queued (running 0x0F 0x03 .sched 0 [])).Wf ∧ (withJob queued (running 0x0F 0x03 .sched 0 [])).selQueue 0 = some 0 ∧
    ((withJob queued (running 0x0F 0x03 .sched 0 [])).queue 0).enable = true ∧ (withJob queued (running 0x0F 0x03 .sched 0 [])).jobsOfQueue 0 = [1] ∧
    (up.queue 0).enable = false ∧ (up.queue 0).state ≠ .draining ∧
    ((up.queue 0).withCfg 0x1).cfgOk 0 (decide ((up.part ((up.queuePart 0).getD 0)).state = .active)) = false := by
  refine ⟨State.wf_of_wfB (by decide +kernel), ?_⟩; decide +kernel

/-! ## Interrupts, result slots, the BAR4 window -/

theorem witness_VectorsAndSlots :
    (let s : State := { queued with queues := [(0, { q0 with coalTime := 5, timer := some 0 })], ticks := 5 }
     s.svc.halted = false ∧ (s.queue 0).timer = some 0 ∧ (s.queue 0).coalTime ≠ 0 ∧ 0 + (s.queue 0).coalTime ≤ s.ticks ∧ (s.queue 0).vector ≠ 0 ∧
     (Tab.get {} s.vecs (s.queueFn 0 * 2048 + (s.queue 0).vector)).masked = false ∧ s.answers 0 = true ∧ 2047 < vectorsOf 0) ∧
    (let s : State := { queued with slots := [(3, { state := .full })] }
     s.svc.halted = false ∧ s.answers 0 = true ∧ 3 < (s.queueRange 0).2 ∧ (Tab.get {} s.slots ((s.queueRange 0).1 + 3)).state = .full ∧
     0 ≠ (Tab.get {} s.slots ((s.queueRange 0).1 + 3)).seq ∧ (Tab.get {} s.slots ((s.queueRange 0).1 + 4)).state ≠ .full ∧ (s.queueRange 0).2 ≤ 4096) ∧
    ({ later with queues := [(0, { q0 with heldSince := some 9000000 })] } : State).Wf ∧
    (let s : State := { later with queues := [(0, { q0 with heldSince := some 9000000 })] }
     s.svc.halted = false ∧ (s.queue 0).heldSince = some 9000000 ∧ 9000000 + 1000000 ≤ s.ticks) :=
  ⟨by decide +kernel, by decide +kernel, State.wf_of_wfB (by decide +kernel), by decide +kernel⟩

/-- The BAR4 window over a base. -/
def window (base : Nat) : State := withReg (withReg up 0 pgHIF 0x110 (base % 2 ^ 32)) 0 pgHIF 0x114 (base / 2 ^ 32)

theorem witness_Bar4Window_base :
    up.svc.halted = false ∧ up.answers 0 = true ∧ up.bar4Ok (0x10000000 / 2 ^ 28 * 2 ^ 28 % 2 ^ 32 + (up.func 0).bar4HiStaged * 2 ^ 32) = true := by decide +kernel

theorem witness_Bar4Window_gddr :
    up.answers 0 = true ∧ 0 + 1 ≤ up.bar4Size ∧ regionOf (up.bar4Base + 0) 1 = .gddr ∧ up.Plain ∧ up.svc.stage ≠ 3 ∧ up.foreign true (up.bar4Base + 0) 1 = none :=
  ⟨by decide +kernel, by decide +kernel, by decide +kernel, State.plain_of (by decide +kernel), by decide +kernel, by decide +kernel⟩

theorem witness_Bar4Window_plate_local :
    (let s := window plateBase
     s.svc.halted = false ∧ s.answers 0 = true ∧ 0xFFFFFFF + 1 ≤ s.bar4Size ∧ regionOf (s.bar4Base + 0xFFFFFFF) 1 = .plate ∧
     (segsOf (s.bar4Base + 0xFFFFFFF) 1).all (fun n => !s.bar4Refuses n && !s.segNotOn n) = true ∧ s.badWords = [] ∧ s.burnishOf [(s.bar4Base + 0xFFFFFFF, [1])] = none) ∧
    (let s := window localBase
     s.answers 0 = true ∧ 0 + 1 ≤ s.bar4Size ∧ regionOf (s.bar4Base + 0) 1 = .localMem ∧ (s.bar4Base + 0 - localBase) / 0x400000 < 16 ∧
     (s.cluster ((s.bar4Base + 0 - localBase) / 0x400000)).withdrawn = false ∧ (s.cluster ((s.bar4Base + 0 - localBase) / 0x400000)).quiet = true) := by decide +kernel

/-- A window over a POISONED block, one byte of it and the last byte of the window; and a length that runs beyond the window. -/
def poisonAt : State := { up with poisoned := [(0, true)] }

theorem witness_Bar4Window_more :
    poisonAt.answers 0 = true ∧ 0 + 64 ≤ poisonAt.bar4Size ∧ regionOf (poisonAt.bar4Base + 0) 64 = .gddr ∧ poisonAt.cacheSegs = [] ∧ poisonAt.gddr.frozen = false ∧
    poisonAt.svc.stage ≠ 3 ∧ poisonAt.meetsPoison (poisonAt.bar4Base + 0) 64 = true ∧ up.bar4Size < up.bar4Size - 1 + 2 ∧
    up.bar4Ok (0x20000000 / 2 ^ 28 * 2 ^ 28 % 2 ^ 32 + 0xFFFF * 2 ^ 32) = false := by decide +kernel

theorem witness_BadTlpIsReported :
    up.Wf ∧ up.svc.halted = false ∧ (up.func 0).ecrcCheck = false ∧
    ({ up with funcs := [(0, { ready := true, ecrcCheck := true })] } : State).Wf ∧ (({ up with funcs := [(0, { ready := true, ecrcCheck := true })] } : State).func 0).ecrcCheck = true :=
  ⟨State.wf_of_wfB (by decide +kernel), by decide +kernel, by decide +kernel, State.wf_of_wfB (by decide +kernel), by decide +kernel⟩

/-! ## Registers -/

theorem witness_RegistersOfBar0 :
    up.svc.halted = false ∧ up.answers 0 = true ∧ up.svc.stage ≠ 3 ∧ up.pageAt 0 0x1104 = some pgQUE ∧ pageKind pgQUE = some .que ∧ mapped 0 .que 0x104 = true ∧
    up.pageWithdrawn pgQUE = false ∧ plainMask .que 0x104 = some 0xFFF := by decide +kernel

/-- An access of two bytes, and one of eight off its alignment, to BAR0; and a function whose configuration space answers. -/
theorem witness_RegistersOfBar0_more :
    up.Wf ∧ up.answers 0 = true ∧ ¬ ((2 : Nat) = 4 ∧ 0 % 4 = 0) ∧ ¬ ((2 : Nat) = 8 ∧ 0 % 8 = 0) ∧ ¬ ((8 : Nat) = 4 ∧ 4 % 4 = 0) ∧ ¬ ((8 : Nat) = 8 ∧ 4 % 8 = 0) ∧
    up.pcie.coreFailed = false := by
  refine ⟨State.wf_of_wfB (by decide +kernel), ?_⟩; decide +kernel

/-! ## The mailbox -/

/-- The mailbox with its first arguments set. -/
def withArgs (s : State) (l : List Nat) : State := { s with mbx := { s.mbx with args := l ++ List.replicate (8 - l.length) 0 } }

theorem witness_MailboxReports : up.TakesMbx ∧ up.mbx.args.getD 0 0 % 32 = 0 := ⟨State.takesMbx_of (by decide +kernel), by decide +kernel⟩

theorem witness_AttestationAndSideBand :
    (∀ k ∈ [1, 2, 3], State.TakesMbx (withArgs { up with svc := { up.svc with attest := 1, sigsLeft := 32768 } } [k]) ∧
      (let s := withArgs { up with svc := { up.svc with attest := 1, sigsLeft := 32768 } } [k]
       fld (s.mbx.args.getD 0 0) 7 0 = k ∧ fld (s.mbx.args.getD 0 0) 31 8 % 32 = 0 ∧ s.svc.fuseFailed = false ∧ s.svc.attest = 1 ∧ s.svc.sigsLeft ≠ 0)) ∧
    (let s : State := { up with svc := { up.svc with preparing := some 3 } }
     s.svc.halted = false ∧ s.svc.preparing = some 3) := by
  refine ⟨?_, by decide +kernel⟩
  intro k hk
  simp only [List.mem_cons, List.not_mem_nil, or_false] at hk
  rcases hk with rfl | rfl | rfl <;> exact ⟨State.takesMbx_of (by decide +kernel), by decide +kernel⟩

/-- A number of 4 bytes as RFC 8554 lays it inside keys and signatures. -/
def be4 (n : Nat) : List Byte := (leBytes 4 n).reverse

/-- A key of some levels of LMS_SHA256_M32_H15 with LMOTS_SHA256_N32_W4, and one level's signature of these types, every other byte zero. -/
def hssKey (levels : Nat) : List Byte := be4 levels ++ be4 7 ++ be4 3 ++ zeros 48
def levelSig : List Byte := zeros 4 ++ be4 3 ++ zeros 2176 ++ be4 7 ++ zeros 480

/-- Signature blocks of an owner with one level and of the vendor with two. -/
def ownerTail : List Byte := leBytes 4 0 ++ hssKey 1 ++ leBytes 4 2672 ++ be4 0 ++ levelSig
def vendorTail : List Byte := leBytes 4 0xFF ++ hssKey 2 ++ leBytes 4 5396 ++ be4 1 ++ levelSig ++ be4 7 ++ be4 3 ++ zeros 48 ++ levelSig

/-- Owner slot 0, programmed with the digest of that key. -/
def owner0 : List OwnerSlot := [{ programmed := true, digest := sha256 (hssKey 1) }, {}, {}, {}]

def profHead : List Byte := leBytes 4 0x464F5250 ++ leBytes 4 1 ++ leBytes 8 1 ++ zeros 8 ++ leBytes 4 64 ++ zeros 36
def profImg : List Byte := ovl profHead 0x1C (leBytes 4 (crc32c profHead)) ++ ownerTail
def fwHead : List Byte := leBytes 4 0x57464C4C ++ leBytes 4 1 ++ leBytes 4 0 ++ leBytes 4 4 ++ zeros 52
def fwImg : List Byte := ovl fwHead 0x14 (leBytes 4 (crc32c fwHead)) ++ vendorTail
def clearToken : List Byte := leBytes 4 0x52414C43 ++ leBytes 4 1 ++ leBytes 8 5 ++ leBytes 4 1 ++ zeros 12 ++ ownerTail

/-- A device with an object staged at the start of GDDR6, and owner slot 0 programmed. -/
def staging (args : List Nat) (b : List Byte) : State := withArgs (withMem { up with svc := { up.svc with owners := owner0 }, recorder := { next := 2 } } 0 b) args

/-- The staged object as the device reads it. -/
theorem staging_bytes (args : List Nat) {b : List Byte} {n : Nat} (h : b.length = n) (hr : regionOf 0 n = .gddr) : (staging args b).bytesAt 0 n = b := by
  subst h
  rw [State.bytesAt, hr]
  exact Tab.getList_putList b 0 (t := up.mem) (by decide +kernel)

/-- The signature block that stands at the end of an object. -/
theorem sigAt_end (o k g : List Byte) (signer : Nat) (hk : k.length = 60) (hs : signer < 256) (hg : g.length < 2 ^ 32) :
    sigAt (o ++ (leBytes 4 signer ++ k ++ leBytes 4 g.length ++ g)) o.length = { signer := signer, key := k, sig := g, fits := true } := by
  have d (n : Nat) : (o ++ (leBytes 4 signer ++ k ++ leBytes 4 g.length ++ g)).drop (o.length + n) = (leBytes 4 signer ++ k ++ leBytes 4 g.length ++ g).drop n := by
    rw [List.drop_append, List.drop_eq_nil_of_le (by omega)]
    simp
  have d0 := d 0
  simp only [Nat.add_zero, List.drop_zero] at d0
  have l4 (v : Nat) : (leBytes 4 v).length = 4 := rfl
  have hn : rdN (o ++ (leBytes 4 signer ++ k ++ leBytes 4 g.length ++ g)) (o.length + 0x40) 4 = g.length := by
    rw [rdN, d]
    have e : (leBytes 4 signer ++ k ++ leBytes 4 g.length ++ g).drop 0x40 = leBytes 4 g.length ++ g := by
      rw [List.append_assoc (leBytes 4 signer ++ k), List.drop_append, List.drop_eq_nil_of_le (by simp [l4, hk])]
      simp [l4, hk]
    rw [e]
    simp only [leBytes, List.cons_append, List.nil_append, List.take_succ_cons, List.take_zero, leNat, BitVec.toNat_ofNat]
    omega
  unfold sigAt
  rw [hn, rdN, d0, d, d]
  have a : leNat ((leBytes 4 signer ++ k ++ leBytes 4 g.length ++ g).take 1) = signer := by
    simp only [leBytes, List.cons_append, List.nil_append, List.take_succ_cons, List.take_zero, leNat, BitVec.toNat_ofNat]
    omega
  have b : ((leBytes 4 signer ++ k ++ leBytes 4 g.length ++ g).drop 4).take 60 = k := by
    rw [List.append_assoc, List.append_assoc, List.drop_append, List.drop_eq_nil_of_le (by simp [l4])]
    simp [l4, hk]
  have c : ((leBytes 4 signer ++ k ++ leBytes 4 g.length ++ g).drop 0x44).take g.length = g := by
    rw [List.drop_append, List.drop_eq_nil_of_le (by simp [l4, hk])]
    simp [l4, hk]
  rw [a, b, c]
  simp only [SigBlock.mk.injEq, true_and, List.length_append, l4, hk]
  simp
  omega

/-- What an owner with one level and the vendor with two put before their signatures' ends. -/
def ownerSig : List Byte := be4 0 ++ levelSig
def vendorSig : List Byte := be4 1 ++ levelSig ++ be4 7 ++ be4 3 ++ zeros 48 ++ levelSig

@[simp] theorem length_be4 (n : Nat) : (be4 n).length = 4 := rfl
@[simp] theorem length_le4 (n : Nat) : (leBytes 4 n).length = 4 := rfl
@[simp] theorem length_zeros (n : Nat) : (zeros n).length = n := List.length_replicate
@[simp] theorem length_hssKey (n : Nat) : (hssKey n).length = 60 := rfl
@[simp] theorem length_levelSig : levelSig.length = 2668 := by simp only [levelSig, List.length_append, length_be4, length_zeros]

/-- A number beyond the first part of a list of bytes, and one at its start. -/
theorem beAt_skip (a b : List Byte) {o : Nat} (n : Nat) (h : o = a.length + n) : beAt (a ++ b) o = beAt b n := by
  subst h
  rw [beAt, beAt, List.drop_append, List.drop_eq_nil_of_le (by omega), List.nil_append, Nat.add_sub_cancel_left]

theorem beAt_here (b : List Byte) : beAt (be4 3 ++ b) 0 = 3 ∧ beAt (be4 7 ++ b) 0 = 7 := ⟨rfl, rfl⟩

theorem levelLen_of (a b : List Byte) {o : Nat} (h : a.length = o) : levelLen 7 3 (a ++ (levelSig ++ b)) o = some 2668 := by
  have x : beAt (a ++ (levelSig ++ b)) (o + 4) = 3 := by
    rw [beAt_skip a _ 4 (by omega)]
    simp only [levelSig, List.append_assoc]
    rw [beAt_skip (zeros 4) _ 0 (by rw [length_zeros])]
    exact (beAt_here _).1
  have y : beAt (a ++ (levelSig ++ b)) (o + 2184) = 7 := by
    rw [beAt_skip a _ 2184 (by omega)]
    simp only [levelSig, List.append_assoc]
    rw [beAt_skip (zeros 4) _ 2180 (by rw [length_zeros]), beAt_skip (be4 3) _ 2176 (by rw [length_be4]), beAt_skip (zeros 2176) _ 0 (by rw [length_zeros])]
    exact (beAt_here _).2
  rw [levelLen, x, y]
  rfl

theorem owner_formed : SigBlock.formed { signer := 0, key := hssKey 1, sig := ownerSig, fits := true } = true := by
  have l : levelLen 7 3 ownerSig 4 = some 2668 := by
    have := levelLen_of (be4 0) [] (o := 4) rfl
    rwa [List.append_nil] at this
  have e : hssLen (hssKey 1) ownerSig = some (2672, [7]) := by
    unfold hssLen
    have k0 : beAt (hssKey 1) 0 = 1 := by decide +kernel
    have k1 : beAt (hssKey 1) 4 = 7 := by decide +kernel
    have k2 : beAt (hssKey 1) 8 = 3 := by decide +kernel
    have n : beAt ownerSig 0 = 0 := by decide +kernel
    rw [k0, k1, k2, l]
    simp [n]
  have n : ownerSig.length = 2672 := by simp only [ownerSig, List.length_append, length_be4, length_levelSig]
  simp [SigBlock.formed, e, n]

theorem vendor_len : hssLen (hssKey 2) vendorSig = some (5396, [7, 7]) := by
  have l : levelLen 7 3 vendorSig 4 = some 2668 := by
    have := levelLen_of (be4 1) (be4 7 ++ (be4 3 ++ (zeros 48 ++ levelSig))) (o := 4) rfl
    simpa only [vendorSig, List.append_assoc] using this
  have l2 : levelLen 7 3 vendorSig 2728 = some 2668 := by
    have := levelLen_of (be4 1 ++ levelSig ++ be4 7 ++ be4 3 ++ zeros 48) [] (o := 2728) (by simp only [List.length_append, length_be4, length_levelSig, length_zeros])
    rwa [List.append_nil] at this
  have k0 : beAt (hssKey 2) 0 = 2 := by decide +kernel
  have k1 : beAt (hssKey 2) 4 = 7 := by decide +kernel
  have k2 : beAt (hssKey 2) 8 = 3 := by decide +kernel
  have n : beAt vendorSig 0 = 1 := by decide +kernel
  have t : beAt vendorSig 2672 = 7 := by
    simp only [vendorSig, List.append_assoc]
    rw [beAt_skip (be4 1) _ 2668 (by rw [length_be4]), beAt_skip levelSig _ 0 (by rw [length_levelSig])]
    exact (beAt_here _).2
  have u : beAt vendorSig 2676 = 3 := by
    simp only [vendorSig, List.append_assoc]
    rw [beAt_skip (be4 1) _ 2672 (by rw [length_be4]), beAt_skip levelSig _ 4 (by rw [length_levelSig]), beAt_skip (be4 7) _ 0 (by rw [length_be4])]
    exact (beAt_here _).1
  unfold hssLen
  rw [k0, k1, k2, l]
  simp [t, u, l2, n]

theorem vendor_formed : SigBlock.formed { signer := 0xFF, key := hssKey 2, sig := vendorSig, fits := true } = true := by
  have n : vendorSig.length = 5396 := by simp only [vendorSig, List.length_append, length_be4, length_levelSig, length_zeros]
  simp [SigBlock.formed, vendor_len, n]

/-- An image signed by owner slot 0, where the signature verifies. -/
theorem ownerSigned_of {o : List Byte} (h : ∀ k g m, Config.hssVerifies k g m = true) : ownerSigned owner0 (o ++ ownerTail) o.length = true := by
  have n : ownerSig.length = 2672 := by simp only [ownerSig, List.length_append, length_be4, length_levelSig]
  have e : sigAt (o ++ ownerTail) o.length = { signer := 0, key := hssKey 1, sig := ownerSig, fits := true } := by
    have := sigAt_end o (hssKey 1) ownerSig 0 rfl (by decide) (by rw [n]; decide)
    rw [n] at this
    exact this
  simp [ownerSigned, e, SigBlock.signs, h, owner_formed, owner0, OwnerSlot.able]

theorem profImg_length : profImg.length = 2804 := by
  have : (ovl profHead 0x1C (leBytes 4 (crc32c profHead))).length = 64 := by decide +kernel
  simp only [profImg, List.length_append, this, ownerTail, length_le4, length_be4, length_hssKey, length_levelSig]

theorem witness_LongMailboxCommandsStart_profile (h : ∀ k g m, Config.hssVerifies k g m = true) :
    (staging [0, 0, 2804] profImg).TakesMbx ∧
    (let s := staging [0, 0, 2804] profImg
     let img := s.bytesAt (s.mbxAddr 0) (s.mbx.args.getD 2 0)
     s.mbx.args.getD 2 0 ≤ copySize ∧ s.stagedOk true (s.mbxAddr 0) (s.mbx.args.getD 2 0) = true ∧ profFormat img = true ∧ profValid s.svc.owners img = true ∧
     (s.svc.profile = 0 ∨ s.svc.profileSeq < rdN img 8 8) ∧ firstBadEntry s img = none) := by
  have e : (staging [0, 0, 2804] profImg).bytesAt ((staging [0, 0, 2804] profImg).mbxAddr 0) ((staging [0, 0, 2804] profImg).mbx.args.getD 2 0) = profImg :=
    staging_bytes _ profImg_length (by decide +kernel)
  refine ⟨State.takesMbx_of (by decide +kernel), ?_⟩
  intro s img
  have ei : img = profImg := e
  have f : profFormat img = true := by rw [ei, profFormat, profImg_length]; decide +kernel
  refine ⟨by decide +kernel, by decide +kernel, f, ?_, ?_, ?_⟩
  · have o : s.svc.owners = owner0 := rfl
    have p : (owner0.any (·.programmed)) = true := rfl
    have d : (rdN profImg 0x10 8 == 0) = true := by decide +kernel
    have l : rdN profImg 0x18 4 = (ovl profHead 0x1C (leBytes 4 (crc32c profHead))).length := by decide +kernel
    rw [ei] at f ⊢
    simp only [profValid, f, d, o, profSigned, p, if_true, Bool.true_or, Bool.true_and, l]
    exact ownerSigned_of h
  · exact .inl rfl
  · rw [ei]; decide +kernel

theorem fwImg_length : fwImg.length = 5532 := by
  have : (ovl fwHead 0x14 (leBytes 4 (crc32c fwHead))).length = 68 := by decide +kernel
  simp only [fwImg, List.length_append, this, vendorTail, length_le4, length_be4, length_hssKey, length_levelSig, length_zeros]

theorem witness_LongMailboxCommandsStart_flash (h : ∀ k g m, Config.hssVerifies k g m = true) (hd : Config.vendorDigest = sha256 (hssKey 2)) :
    (staging [1, 0, 0, 5532] fwImg).TakesMbx ∧
    (let s := staging [1, 0, 0, 5532] fwImg
     let img := s.bytesAt (s.mbxAddr 1) (s.mbx.args.getD 3 0)
     s.mbx.args.getD 0 0 = 1 ∧ s.mbx.args.getD 3 0 ≤ fwSize ∧ s.stagedOk true (s.mbxAddr 1) (s.mbx.args.getD 3 0) = true ∧ fwFault s.svc.minSvn img = 0) := by
  have e : (staging [1, 0, 0, 5532] fwImg).bytesAt ((staging [1, 0, 0, 5532] fwImg).mbxAddr 1) ((staging [1, 0, 0, 5532] fwImg).mbx.args.getD 3 0) = fwImg :=
    staging_bytes _ fwImg_length (by decide +kernel)
  refine ⟨State.takesMbx_of (by decide +kernel), by decide +kernel, by decide +kernel, by decide +kernel, ?_⟩
  rw [e]
  have hl : fwLen fwImg = (ovl fwHead 0x14 (leBytes 4 (crc32c fwHead))).length := by decide +kernel
  have n : vendorSig.length = 5396 := by simp only [vendorSig, List.length_append, length_be4, length_levelSig, length_zeros]
  have hb : sigAt fwImg (fwLen fwImg) = { signer := 0xFF, key := hssKey 2, sig := vendorSig, fits := true } := by
    have := sigAt_end (ovl fwHead 0x14 (leBytes 4 (crc32c fwHead))) (hssKey 2) vendorSig 0xFF rfl (by decide) (by rw [n]; decide)
    rw [n] at this
    rw [hl, ← this]
    simp only [fwImg, vendorTail, vendorSig, List.append_assoc]
  have v : vendorSigned fwImg (fwLen fwImg) = true := by
    simp [vendorSigned, hb, vendor_len, vendor_formed, SigBlock.signs, h, hd]
  unfold fwFault
  rw [fwImg_length, if_neg (by decide +kernel), if_neg (by decide +kernel), if_neg (by decide +kernel), v]
  rfl

theorem clearToken_length : clearToken.length = 2772 := by
  simp only [clearToken, List.length_append, ownerTail, length_le4, length_be4, length_hssKey, length_levelSig, length_zeros]
  rfl

theorem witness_LongMailboxCommandsStart_clear (h : ∀ k g m, Config.hssVerifies k g m = true) (hd : deviceIdNat = 5) :
    (staging [0, 0, 2772] clearToken).TakesMbx ∧
    (let s := staging [0, 0, 2772] clearToken
     let tok := s.bytesAt (s.mbxAddr 0) (s.mbx.args.getD 2 0)
     s.stagedOk true (s.mbxAddr 0) (s.mbx.args.getD 2 0) = true ∧ 32 ≤ s.mbx.args.getD 2 0 ∧ s.mbx.args.getD 2 0 ≤ 0x10000 ∧ rdN tok 0 4 = 0x52414C43 ∧ rdN tok 4 2 = 1 ∧
     ownerSigned s.svc.owners tok 32 = true ∧ rdN tok 8 8 = deviceIdNat ∧ s.recorder.cleared < rdN tok 0x10 4 ∧ rdN tok 0x10 4 < s.recorder.next ∧
     s.recorder.freezes = [] ∧ s.recorder.opened = []) := by
  have e : (staging [0, 0, 2772] clearToken).bytesAt ((staging [0, 0, 2772] clearToken).mbxAddr 0) ((staging [0, 0, 2772] clearToken).mbx.args.getD 2 0) = clearToken :=
    staging_bytes _ clearToken_length (by decide +kernel)
  refine ⟨State.takesMbx_of (by decide +kernel), ?_⟩
  simp only [e]
  refine ⟨by decide +kernel, by decide +kernel, by decide +kernel, by decide +kernel, by decide +kernel, ?_, ?_, by decide +kernel, by decide +kernel, by decide +kernel, by decide +kernel⟩
  · exact ownerSigned_of (o := leBytes 4 0x52414C43 ++ leBytes 4 1 ++ leBytes 8 5 ++ leBytes 4 1 ++ zeros 12) h
  · rw [hd]; decide +kernel

theorem witness_LongMailboxCommandsStart_others :
    up.TakesMbx ∧ up.mbx.args.getD 0 0 < 8 ∧ (up.pos (up.mbx.args.getD 0 0)).withdrawn = false ∧ up.svc.fuseFailed = false ∧ up.svc.steps < fuses ∧
    (let t : Trigger := { kind := fld (up.mbx.args.getD 0 0) 2 0, index := fld (up.mbx.args.getD 0 0) 15 8, cause := 6, retire := bit (up.mbx.args.getD 0 0) 16, byMailbox := true }
     t.kind < 3 ∧ t.index < unitsOf t.kind ∧ up.withdrawn t.kind t.index = false ∧ up.hasSpare t.kind = true ∧ up.svc.initialising = false ∧
     (Tab.get {} up.modeUnits (unitPage t.kind t.index)).pending = 0 ∧ up.reserve.queue = [] ∧ up.reserve.running = none) :=
  ⟨State.takesMbx_of (by decide +kernel), by decide +kernel⟩

/-- The mailbox runs a long command. -/
def mbxBusy (s : State) (code : Nat) : State := { s with mbx := { s.mbx with state := .busy, cmd := code } }

theorem witness_DroppedMailboxCommands :
    up.Wf ∧ up.TakesMbx ∧ 0x05 ∉ mbxCodes ∧ (mbxBusy up 0x11).Open 0 ∧ (mbxBusy up 0x11).mbx.state = .busy ∧ isMbxCommand (.mbxIdentity 7) = true :=
  ⟨State.wf_of_wfB (by decide +kernel), State.takesMbx_of (by decide +kernel), by decide, State.open_of_openB (by decide +kernel), by decide +kernel, by decide⟩

theorem witness_LongMailboxCommandsEnd :
    (let s : State := { mbxBusy up 0x11 with positions := [(7, { retraining := true })], svc := { up.svc with retrain := 7 } }
     s.svc.halted = false ∧ (s.pos 7).retraining = true ∧ s.memServes = true ∧ s.gddr.marginsOk 40 40 = true ∧ s.mbxRuns 0x11 = true ∧ s.svc.retrain = 7) ∧
    (∀ k ∈ [0x12, 0x13], (mbxBusy up k).Wf ∧ (mbxBusy up k).svc.halted = false ∧ (mbxBusy up k).mbxRuns k = true) ∧
    (let s : State := { mbxBusy up 0x14 with recorder := { next := 2, clearing := some (1, 0) } }
     s.svc.halted = false ∧ s.mbxRuns 0x14 = true ∧ s.recorder.clearing = some (1, 0)) ∧
    (mbxBusy up 0x15).svc.halted = false ∧ (mbxBusy up 0x15).mbxRuns 0x15 = true := by
  refine ⟨by decide +kernel, ?_, by decide +kernel, by decide +kernel, by decide +kernel⟩
  intro k hk
  simp only [List.mem_cons, List.not_mem_nil, or_false] at hk
  rcases hk with rfl | rfl <;> exact ⟨State.wf_of_wfB (by decide +kernel), by decide +kernel, by decide +kernel⟩

/-! ## Resets of functions, and the single points -/

/-- A function in the first phase of its reset. -/
def resetting (fn : Nat) : State := { up with funcs := Tab.put {} up.funcs fn { resetting := true, flr := true, busMaster := true } }

theorem witness_FunctionResetsBegin :
    up.Wf ∧ up.svc.halted = false ∧ (up.func 8).flr = false ∧ (up.func 0).flr = false ∧ up.pcie.coreFailed = false ∧ up.reserve.queue = [] :=
  ⟨State.wf_of_wfB (by decide +kernel), by decide +kernel⟩

theorem witness_FunctionResetsEnd :
    (resetting 8).Wf ∧ (resetting 8).svc.halted = false ∧ ((resetting 8).func 8).flr = true ∧ ((resetting 8).func 0).flr = false ∧
    (resetting 0).Wf ∧ ((resetting 0).func 0).flr = true ∧
    State.Wf { up with svc := { up.svc with initialising := true } } ∧
    (let s : State := { up with svc := { up.svc with initialising := true } }
     s.svc.halted = false ∧ s.svc.initialising = true ∧ s.svc.stage = 2 ∧ (s.func 0).flr = false ∧ (s.func 0).d3hot = false ∧ s.selfTestPends = false ∧
     s.gddr.frozen = false ∧ s.gddr.again = 0 ∧ s.reserve.queue = []) :=
  ⟨State.wf_of_wfB (by decide +kernel), by decide +kernel, by decide +kernel, by decide +kernel, State.wf_of_wfB (by decide +kernel), by decide +kernel,
    State.wf_of_wfB (by decide +kernel), by decide +kernel⟩

theorem witness_SinglePointsFail : up.Wf ∧ up.svc.halted = false ∧ 7 < 8 ∧ 4 < up.pcie.width := ⟨State.wf_of_wfB (by decide +kernel), by decide +kernel⟩


/-! ## Jobs and strokes -/

/-- A job of one stroke at the start of the stroke table, which stands there as 64 bytes. -/
def entering (raw : List Byte) : State := withMem (withJob up { phase := .entering, count := 1 }) up.tableBase raw

theorem witness_JobAdmission_runs :
    (entering ([0x0F, 0x03] ++ zeros 62)).Wf ∧ (entering ([0x0F, 0x03] ++ zeros 62)).Plain ∧
    (let s := entering ([0x0F, 0x03] ++ zeros 62)
     let j := s.job 1
     let args := s.bytesAt j.argsAddr j.argsLen
     let l := readStrokes s j args
     s.svc.halted = false ∧ j.phase = .entering ∧ j.killed = none ∧ s.waitsBehind 1 = false ∧ j.ordered = false ∧
     s.chunksOf j.part + j.chunksNeeded ≤ (s.part j.part).window ∧ s.chunksAll + j.chunksNeeded ≤ 1024 ∧
     (∀ r ∈ admitReads s j l, r.table = true ∨ s.judge j.part true r.addr r.len = .ok) ∧
     (∀ e ∈ l.mapIdx (fun i x => (i, x)), badStroke s { j with args := args } (l.map (·.2)) e.1 e.2.1 e.2.2 = false)) :=
  ⟨State.wf_of_wfB (by decide +kernel), State.plain_of (by decide +kernel), by decide +kernel⟩

theorem witness_JobAdmission_rejected :
    (entering (zeros 64)).Wf ∧ (entering (zeros 64)).Plain ∧
    (let s := entering (zeros 64)
     let j := s.job 1
     let args := s.bytesAt j.argsAddr j.argsLen
     let l := readStrokes s j args
     s.svc.halted = false ∧ j.phase = .entering ∧ j.killed = none ∧ s.waitsBehind 1 = false ∧ j.ordered = false ∧
     (∀ r ∈ admitReads s j l, r.table = true ∨ s.judge j.part true r.addr r.len = .ok) ∧
     (∃ e ∈ l.mapIdx (fun i x => (i, x)), badStroke s { j with args := args } (l.map (·.2)) e.1 e.2.1 e.2.2 = true)) :=
  ⟨State.wf_of_wfB (by decide +kernel), State.plain_of (by decide +kernel), by decide +kernel⟩

/-- Jobs that wait: one that no longer enters, one behind the earlier jobs of its queue, and one whose partition's window is full. -/
theorem witness_JobAdmission_waits :
    up.svc.halted = false ∧ (up.job 1).phase ≠ .entering ∧
    (let s : State := { up with jobs := [(1, { phase := .entering, count := 65535 }), (2, { phase := .running, chunks := 1 })], nextJob := 3 }
     (s.job 1).phase = .entering ∧ (s.part (s.job 1).part).window < s.chunksOf (s.job 1).part + (s.job 1).chunksNeeded) := by decide +kernel

/-- Job 1 with strokes of these descriptors. -/
def jobOf (ts : List Stroke) : State := withJob up { phase := .running, count := ts.length, chunks := 1, strokes := ts }

def readyHatch : State := jobOf [{ cls := 3, op := 1, state := .ready }, { cls := 3, op := 1 }]

theorem witness_StrokesPlacedAndEnded_place :
    readyHatch.Wf ∧ readyHatch.svc.halted = false ∧ readyHatch.pcie.schedFailed = false ∧ readyHatch.candidates = { eff := 0, entry := 0, job := 1, idx := 0 } :: [] ∧
    (suitable readyHatch 1 0).find? (fun x => readyHatch.isFree (readyHatch.job 1).part x) = some (.hatch 0) :=
  ⟨State.wf_of_wfB (by decide +kernel), by decide +kernel, by decide +kernel, rfl, by decide +kernel⟩

/-- A stroke that has run, alone or beside one that waits. -/
def endedStroke (rest : List Stroke) : State := jobOf ({ cls := 3, op := 1, state := .running, ran := true, place := some (.hatch 0) } :: rest)

theorem witness_StrokesPlacedAndEnded_end :
    (endedStroke [{}]).Wf ∧
    (let s := endedStroke [{}]
     s.svc.halted = false ∧ (s.job 1).phase = .running ∧ (s.job 1).killed = none ∧ ((s.job 1).stroke 0).state = .running ∧ ((s.job 1).stroke 0).ran = true ∧
     1 < (s.job 1).strokes.length ∧ ((s.job 1).stroke 1).finished = false) ∧
    (endedStroke []).Wf ∧
    (let s := endedStroke []
     s.svc.halted = false ∧ (s.job 1).phase = .running ∧ (s.job 1).killed = none ∧ ((s.job 1).stroke 0).state = .running ∧ ((s.job 1).stroke 0).ran = true ∧
     (s.job 1).strokes.length = 1 ∧ (s.job 1).slot = none) :=
  ⟨State.wf_of_wfB (by decide +kernel), by decide +kernel, State.wf_of_wfB (by decide +kernel), by decide +kernel⟩

/-- A job with a result slot whose only stroke has run, and whose payload lies in GDDR6. -/
def endedSlot : State := withJob up { (endedStroke []).job 1 with slot := some 5, resultAddr := 0xFFFFD0 }

theorem witness_StrokesPlacedAndEnded_slot :
    endedSlot.Wf ∧ endedSlot.Plain ∧
    (let s := endedSlot
     s.svc.halted = false ∧ (s.job 1).phase = .running ∧ (s.job 1).killed = none ∧ ((s.job 1).stroke 0).state = .running ∧ ((s.job 1).stroke 0).ran = true ∧
     (s.job 1).strokes.length = 1 ∧ (s.job 1).slot = some 5 ∧ s.judge (s.job 1).part false (s.job 1).resultAddr 48 = .ok ∧ (s.job 1).status ≤ 0x0F) :=
  ⟨State.wf_of_wfB (by decide +kernel), State.plain_of (by decide +kernel), by decide +kernel⟩

def waitingJob : State := { jobOf [{}] with ticks := 10000000 }

theorem witness_LimitsAndKills :
    waitingJob.Wf ∧
    (let s := waitingJob
     s.svc.halted = false ∧ (s.job 1).phase = .running ∧ (s.job 1).killed = none ∧ (s.part (s.job 1).part).waitLimit ≠ 0 ∧
     (s.job 1).strokes.all (fun t => !(t.state = .running || t.state = .ready)) = true ∧ (s.job 1).changed + (s.part (s.job 1).part).waitLimit * 1000 ≤ s.ticks) ∧
    (withJob later { phase := .running, timeLimit := 10000000, strokes := [{}] }).Wf ∧
    (let s := withJob later { phase := .running, timeLimit := 10000000, strokes := [{}] }
     (s.job 1).phase ≠ .gone ∧ (s.job 1).killed = none ∧ (s.job 1).timeLimit ≠ 0 ∧ (s.job 1).fetchTick + (s.job 1).timeLimit ≤ s.ticks) ∧
    (withJob up { phase := .running, killed := some 0x32, strokes := [{}] }).Wf ∧
    (let s := withJob up { phase := .running, killed := some 0x32, strokes := [{}] }
     (s.job 1).phase ≠ .gone ∧ (s.job 1).killed.isSome = true ∧ s.stillHeld 1 = false) :=
  ⟨State.wf_of_wfB (by decide +kernel), by decide +kernel, State.wf_of_wfB (by decide +kernel), by decide +kernel, State.wf_of_wfB (by decide +kernel), by decide +kernel⟩

/-! ## The scheduler's own operations -/

/-- Stroke 0 of job 1 runs on the scheduler; strokes 1 and 2 wait. -/
def schState (op param : Nat) (opnds : List Nat) (bks : List (Nat × Nat × Nat)) : State :=
  jobOf [{ cls := 0x0F, op := op, param := param, opnds := opnds, buckets := bks, state := .running, place := some .sched }, {}, {}]

theorem witness_SchedulerStrokes :
    State.Unhindered (schState 1 2 [0x1000, 0, 0, 0] [(0, 1, 1), (8, 2, 1)]) 0x0F 0x01 1 0 (bucketOp 1 0) ∧
    (let s := schState 1 2 [0x1000, 0, 0, 0] [(0, 1, 1), (8, 2, 1)]
     ((s.job 1).stroke 0).buckets.findIdx? (fun b => decide (s.numAt (((s.job 1).stroke 0).opnds.getD 0 0) 4 ≤ b.1)) = some 0 ∧ 2 ≠ 0 ∧ 2 < (s.job 1).strokes.length ∧
     ((s.job 1).stroke 0).buckets[1]? = some (8, 2, 1)) ∧
    State.Unhindered (schState 3 0 [0, 0, 0, 0] []) 0x0F 0x03 1 0 (fun _ _ _ => {}) ∧
    State.Unhindered (schState 4 0xFFF1234 [0, 0, 0, 0] []) 0x0F 0x04 1 0 (semsetOp 0) ∧
    ((schState 4 0xFFF1234 [0, 0, 0, 0] []).semOf 0 0xFFF).mutex = false :=
  ⟨State.unhindered_of (by decide +kernel), by decide +kernel, State.unhindered_of (by decide +kernel), State.unhindered_of (by decide +kernel), by decide +kernel⟩

theorem witness_SemaphoreControl :
    up.Wf ∧ up.Open 0 ∧ up.partOf 0 = some 0 ∧ up.reg 0 pgSCH 0x120 < (up.part 0).semCount ∧ bit 5 31 = (up.semOf 0 0).mutex ∧
    (up.semOf 0 0).holder = 0 ∧ up.semHasWaiter 0 0 = false :=
  ⟨State.wf_of_wfB (by decide +kernel), State.open_of_openB (by decide +kernel), by decide +kernel⟩

/-! ## Mode changes -/

def modeUnit (page : Nat) (u : ModeUnit) : State := { up with modeUnits := [(page, u)] }

theorem witness_ModeChangesBegin_stage :
    up.Open 0 ∧ modePage (pgBC 15) = some (0, 15) ∧ up.shows 0 (pgBC 15) = true ∧ modeLegal 0 (fld 0x80000001 15 0) = true ∧ (up.modeUnit (pgBC 15)).armed = false ∧
    (up.modeUnit (pgBC 15)).pending = 0 ∧ up.withdrawn 0 15 = false ∧ up.moving 0 15 = false ∧
    (modeUnit (pgBC 15) { armed := true, owner := 2 }).Open 0 ∧ ((modeUnit (pgBC 15) { armed := true, owner := 2 }).modeUnit (pgBC 15)).owner ≠ 0 :=
  ⟨State.open_of_openB (by decide +kernel), by decide +kernel, by decide +kernel, by decide +kernel, by decide +kernel, by decide +kernel, by decide +kernel, by decide +kernel,
    State.open_of_openB (by decide +kernel), by decide +kernel⟩

/-- A sch.mode stroke runs, and the PF has armed BC15. -/
def modeStroke : State := { schState 2 0 [0, 0, 0, 0] [] with modeUnits := [(pgBC 15, { armed := true, newMode := 1 })] }

theorem witness_ModeChangesBegin_commit :
    up.Wf ∧ bit 1 0 = true ∧ (up.change 0).state ≠ .pending ∧ up.modeUnits = [] ∧
    (modeUnit (pgBC 15) { armed := true, newMode := 1 }).Wf ∧
    ((modeUnit (pgBC 15) { armed := true, newMode := 1 }).modeUnits.filter (fun e => e.2.armed && e.2.owner == 0 && e.2.pending == 0)).map (·.1) ≠ [] ∧
    State.Open { up with modeChanges := [(0, { state := .pending })] } 0 ∧ (State.change { up with modeChanges := [(0, { state := .pending })] } 0).state = .pending ∧
    modeStroke.Wf ∧ modeStroke.svc.halted = false ∧ modeStroke.runnable 1 0 0x0F 0x02 = true ∧ (modeStroke.change (modeStroke.job 1).fn).state ≠ .pending ∧
    modeStroke.modeUnits.any (fun e => e.2.armed && e.2.owner == (modeStroke.job 1).fn && e.2.pending == 0) = true :=
  ⟨State.wf_of_wfB (by decide +kernel), by decide +kernel, by decide +kernel, by decide +kernel, State.wf_of_wfB (by decide +kernel), by decide +kernel,
    State.open_of_openB (by decide +kernel), by decide +kernel, State.wf_of_wfB (by decide +kernel), by decide +kernel⟩

/-- A change of the PF is pending since tick 0 that took in one unit. -/
def changing (page : Nat) (u : ModeUnit) : State :=
  { modeUnit page { u with armed := true, pending := 1 } with modeChanges := [(0, { state := .pending, armed := 1 })], ticks := 0x2710 }

theorem witness_ModeChangesEnd :
    (changing (pgBC 15) { newMode := 1 }).Wf ∧
    (let s := changing (pgBC 15) { newMode := 1 }
     s.svc.halted = false ∧ modePage (pgBC 15) = some (0, 15) ∧ (s.modeUnit (pgBC 15)).pending ≠ 0 ∧ (s.modeUnit (pgBC 15)).applied = false ∧ s.safePoint 0 15 = true ∧
     (∀ p ∈ s.takenIn 0, p ≠ pgBC 15 → (s.modeUnit p).applied = true) ∧ (s.change 0).state = .pending ∧ (s.change 0).start + (s.change 0).timeout ≤ s.ticks) ∧
    State.Wf { changing (pgPS 31) { newMode := 1 } with segs := [(31, { windowBase := 2 ^ 35 })] } ∧
    (let s : State := { changing (pgPS 31) { newMode := 1 } with segs := [(31, { windowBase := 2 ^ 35 })] }
     modePage (pgPS 31) = some (1, 31) ∧ (s.modeUnit (pgPS 31)).pending ≠ 0 ∧ (s.modeUnit (pgPS 31)).applied = false ∧ s.safePoint 1 31 = true ∧
     (s.modeUnit (pgPS 31)).newMode = 1 ∧ (s.modeUnit (pgPS 31)).old ≠ 1 ∧ (s.seg 31).owner ≠ 0 ∧ s.windowOk 31 ((s.seg 31).owner - 1) = false) ∧
    (changing (pgPS 31) { newMode := 1 }).Wf ∧
    (let s := changing (pgPS 31) { newMode := 1 }
     s.safePoint 1 31 = true ∧ (s.seg 31).owner ≠ 0 ∧ s.windowOk 31 ((s.seg 31).owner - 1) = true) ∧
    State.Wf { changing (pgPS 31) { newMode := 1 } with segs := [(31, { owner := 0 })] } ∧
    (let s : State := { changing (pgPS 31) { newMode := 1 } with segs := [(31, { owner := 0 })] }
     s.safePoint 1 31 = true ∧ (s.seg 31).owner = 0) :=
  ⟨State.wf_of_wfB (by decide +kernel), by decide +kernel, State.wf_of_wfB (by decide +kernel), by decide +kernel, State.wf_of_wfB (by decide +kernel), by decide +kernel,
    State.wf_of_wfB (by decide +kernel), by decide +kernel⟩


/-! ## The data units -/

/-- A tensor descriptor: BASE, FORMAT with its element bytes, extents, rows packed without gaps. -/
def dsc (base fmt bytes : Nat) (sz : List Nat) : List Byte :=
  leBytes 8 base ++ zeros 8 ++ [BitVec.ofNat 8 fmt, 0, BitVec.ofNat 8 sz.length, 0] ++ (List.range 4).flatMap (fun k => leBytes 4 (sz.getD k 0)) ++
  leBytes 8 (sz.getD 0 1 * bytes) ++ leBytes 8 (sz.getD 0 1 * sz.getD 1 1 * bytes) ++ leBytes 6 (sz.getD 0 1 * sz.getD 1 1 * sz.getD 2 1 * bytes) ++ zeros 6

/-- FP32, INT32 and BF16 tensors; descriptor `k` lies at 0x1000 × k and its elements at 0x100000 × k. -/
def f32 (k : Nat) (sz : List Nat) : Nat × List Byte := (0x1000 * k, dsc (0x100000 * k) 7 4 sz)
def i32 (k : Nat) (sz : List Nat) : Nat × List Byte := (0x1000 * k, dsc (0x100000 * k) 8 4 sz)
def b16 (k : Nat) (sz : List Nat) : Nat × List Byte := (0x1000 * k, dsc (0x100000 * k) 5 2 sz)

/-- One stroke on a unit of cluster 0, with structures in memory. -/
def unitState (cls op : Nat) (pl : Place) (param : Nat) (opnds : List Nat) (m : List (Nat × List Byte)) : State :=
  { withJob up (running cls op pl param opnds) with mem := m.foldl (fun t e => Tab.putList 0 t e.1 e.2) [] }

/-- A parameter block of hatch: words P0 to P7, and the addresses E0 and E1. -/
def pBlock (p : List Nat) (e : List Nat) : Nat × List Byte :=
  (0x4000, (List.range 8).flatMap (fun k => leBytes 4 (p.getD k 0)) ++ (List.range 4).flatMap (fun k => leBytes 8 (e.getD k 0)))

/-- A hatch stroke with X, Y, Z, E0 and a parameter block. -/
def hatchState (op param : Nat) (x y z e : List (Nat × List Byte)) (p : List Nat) : State :=
  let at_ (l : List (Nat × List Byte)) : Nat := (l.head?.map (·.1)).getD 0
  unitState 3 op (.hatch 0) param [at_ x, at_ y, at_ z, 0x4000] (x ++ y ++ z ++ e ++ [pBlock p [at_ e]])

/-- One in FP32. -/
def one32 : Nat := 0x3F800000

/-- Elementwise operations on one element. -/
def elementwiseStates : List State :=
  [1, 2, 3, 4, 5, 6].map (fun op => hatchState op 0 [f32 1 [1]] [f32 2 [1]] [f32 3 [1]] [] [one32, one32]) ++
  [7, 8, 9].map (fun op => hatchState op 0 [f32 1 [1]] [] [f32 3 [1]] [] [0, one32]) ++
  [0xA, 0xB].map (fun op => hatchState op 0 [] [] [i32 3 [2]] [] [7]) ++
  [0x10, 0x11, 0x12, 0x13, 0x14, 0x15, 0x16, 0x17, 0x18, 0x19].map (fun op => hatchState op 0 [f32 1 [1]] [] [f32 3 [1]] [] []) ++
  [hatchState 0x1A 0 [f32 1 [1]] [f32 2 [1]] [f32 3 [1]] [] []]

/-- Operations along dimension 0 on rows of two. -/
def rowStates : List State :=
  [hatchState 0x20 0 [f32 1 [2]] [] [f32 3 [1]] [] [], hatchState 0x21 0 [f32 1 [2]] [] [f32 3 [1]] [] [], hatchState 0x22 0 [f32 1 [2]] [] [i32 3 [1]] [] [],
   hatchState 0x23 0 [f32 1 [2]] [] [f32 3 [2]] [] [one32], hatchState 0x24 0 [f32 1 [2]] [] [f32 3 [2]] [] [one32],
   hatchState 0x25 0 [f32 1 [2]] [f32 2 [2, 2]] [f32 3 [2]] [] [one32], hatchState 0x26 0 [f32 1 [2]] [f32 2 [2]] [f32 3 [2]] [] [one32],
   hatchState 0x27 0 [f32 1 [2]] [f32 2 [2]] [f32 3 [2]] [f32 5 [2]] [one32], hatchState 0x28 0 [f32 1 [2]] [f32 2 [2]] [f32 3 [2]] [] []]

/-- The other operations of the hatch unit. -/
def otherStates : List State :=
  [hatchState 0x29 (2 ^ 16) [f32 1 [2]] [] [f32 3 [1]] [i32 5 [1]] [], hatchState 0x2A 0 [f32 1 [2]] [i32 2 [1]] [f32 3 [1]] [] [],
   hatchState 0x30 0 [f32 1 [4, 1]] [f32 2 [4, 1]] [f32 3 [1, 1]] [] [], hatchState 0x31 0 [f32 1 [2, 1]] [f32 2 [2, 1]] [f32 3 [1, 1]] [] [],
   hatchState 0x32 (2 ^ 16) [f32 1 [4, 1]] [f32 2 [1]] [i32 3 [1]] [] [], hatchState 0x33 0 [f32 1 [1, 1]] [] [i32 3 [1]] [] [],
   hatchState 0x38 0 [f32 1 [1]] [f32 2 [1]] [f32 3 [1]] [] [], hatchState 0x39 0 [f32 1 [1]] [f32 2 [1]] [f32 3 [1]] [f32 5 [1]] [one32, one32, one32, one32],
   hatchState 0x3A 0 [f32 1 [2]] [] [f32 3 [1]] [] [], hatchState 0x3C 0 [] [] [i32 3 [5]] [] [], hatchState 0x3D 0 [f32 1 [1]] [] [f32 3 [1]] [] [],
   hatchState 0x40 0 [f32 1 [1, 1]] [i32 2 [1]] [f32 3 [1, 1]] [] [], hatchState 0x41 0 [f32 1 [1, 1]] [i32 2 [1]] [f32 3 [1, 1]] [] []]

/-- A state for an operation in which nothing hinders it. -/
def freeIn (x : UnitOp × State) : Bool := x.2.unhinderedB x.1.cls x.1.op 1 0 x.1.out

theorem test_elementwise_free : elementwiseStates.length = 22 ∧ ((hatchOps.take 22).zip elementwiseStates).all freeIn = true := by decide +kernel
theorem test_rowOps_free : rowStates.length = 9 ∧ (((hatchOps.drop 22).take 9).zip rowStates).all freeIn = true := by decide +kernel
theorem test_otherOps_free : otherStates.length = 13 ∧ hatchOps.length = 44 ∧ ((hatchOps.drop 31).zip otherStates).all freeIn = true := by decide +kernel

/-- The attention parameter block and the key/value layout of one row of 64 elements, with one ring of one key in BF16. -/
def attnBlock : Nat × List Byte :=
  (0x4000, leBytes 6 0x7000 ++ leBytes 2 1 ++ leBytes 8 0x900000 ++ leBytes 4 one32 ++ leBytes 4 0 ++ [0, 1, 1, 0] ++ zeros 4 ++ leBytes 8 0x5000 ++ leBytes 8 0x6000 ++
    leBytes 8 0xA00000 ++ leBytes 8 0xB00000)
def kvBlock : Nat × List Byte := (0x2000, leBytes 8 0xC00000 ++ leBytes 8 0xD00000 ++ zeros 16 ++ [5, 1, 0, 0] ++ leBytes 4 1 ++ leBytes 4 1)
def lenTable : Nat × List Byte := (0x7000, leBytes 4 0 ++ leBytes 2 1 ++ leBytes 2 0 ++ leBytes 4 1 ++ leBytes 4 0)
def attnState (op : Nat) : State :=
  unitState 2 op (.whole 0) 1 [0x1000, 0x2000, 0x3000, 0x4000]
    [b16 1 [64, 1, 1], b16 3 [64, 1, 1], b16 5 [64, 1, 1], f32 6 [64, 1, 1], attnBlock, kvBlock, lenTable]

/-- The control block of a convolution: kernel, strides and dilations of 1, no padding. -/
def ctlBlock : Nat × List Byte := (0x4000, zeros 0x14 ++ leBytes 4 0x111111 ++ zeros 8)

def arrayStates : List State :=
  [unitState 1 1 (.whole 0) 0 [0x1000, 0x2000, 0x3000, 0] [b16 1 [1, 1], b16 2 [1, 1], f32 3 [1, 1]],
   unitState 1 2 (.whole 0) 0 [0x1000, 0x2000, 0x3000, 0x4000] [b16 1 [1, 1, 1, 1], b16 2 [1, 1, 1, 1], f32 3 [1, 1, 1, 1], ctlBlock],
   unitState 1 0x20 (.whole 0) 0 [0x1000, 0x2000, 0x3000, 0] [b16 1 [1, 1], b16 2 [1, 1], f32 3 [1, 1]],
   attnState 1, attnState 2, attnState 3]

def moveState (op param a b : Nat) (m : List (Nat × List Byte)) : State := unitState 4 op (.mover 0) param [a, b, 0, 0] m

def moveStates : List State :=
  [moveState 1 0 0x1000 0x2000 [f32 1 [1], f32 2 [1]], moveState 2 3 0x1000 hostBase [(0x1000, [1, 2, 3])], moveState 3 8 0x1000 0x0102030405060708 [],
   moveState 0x20 0 0x1000 0x2000 [f32 1 [1], b16 2 [1]]]

theorem test_arrayOps_free : arrayStates.length = 6 ∧ (arrayOps 1 0 0 2047).length = 6 ∧ ((arrayOps 1 0 0 2047).zip arrayStates).all freeIn = true := by decide +kernel
theorem test_moveOps_free : moveStates.length = 4 ∧ moveOps.length = 4 ∧ (moveOps.zip moveStates).all freeIn = true := by decide +kernel

/-- Every operation of the data units has a state in which nothing hinders it; the same states serve OperationFrame. -/
theorem witness_UnitStrokes :
    ∀ x ∈ (arrayOps 1 0 0 2047).zip arrayStates ++ ((hatchOps.take 22).zip elementwiseStates ++ ((hatchOps.drop 22).take 9).zip rowStates ++ (hatchOps.drop 31).zip otherStates) ++
        moveOps.zip moveStates, x.2.Unhindered x.1.cls x.1.op 1 0 x.1.out := by
  intro x hx
  apply State.unhindered_of
  simp only [List.mem_append] at hx
  rcases hx with (h | (h | h) | h) | h
  · exact List.all_eq_true.mp test_arrayOps_free.2.2 x h
  · exact List.all_eq_true.mp test_elementwise_free.2 x h
  · exact List.all_eq_true.mp test_rowOps_free.2 x h
  · exact List.all_eq_true.mp test_otherOps_free.2.2 x h
  · exact List.all_eq_true.mp test_moveOps_free.2.2 x h

/-- The same strokes of the array and of the attention path, pre-empted before they have run, with a save frame. -/
def preemptStates : List State :=
  (arrayStates.take 2 ++ (arrayStates.drop 3).take 2).map (fun s => { s with
    jobs := s.jobs.map (fun e => (e.1, { e.2 with strokes := e.2.strokes.map (fun t => { t with preempting := true, frame := some 1 }) })) })

theorem witness_StrokesPlacedAndEnded_preempt : ∀ s ∈ preemptStates,
    s.Wf ∧ s.svc.halted = false ∧ (s.job 1).phase = .running ∧ (s.job 1).killed = none ∧ ((s.job 1).stroke 0).state = .running ∧
    ((s.job 1).stroke 0).preempting = true ∧ ((s.job 1).stroke 0).ran = false ∧ ((s.job 1).stroke 0).frame = some 1 ∧
    ((s.job 1).stroke 0).place = some (.whole 0) ∧ s.hasRetry 1 0 = false ∧ s.foreign false ((s.part (s.job 1).part).saveBase + 1 * 0x101000) 0x101000 = none ∧
    (let j := s.job 1
     let t0 := j.stroke 0
     let u : State := { s with fresh := s.fresh + 2 }
     let q := if t0.cls = 1 then mmSave 1 0 0 0 (Config.freeValue s.fresh) (Config.freeValue (s.fresh + 1)) u j t0 else attnSave 0 (Config.freeValue (s.fresh + 1)) u j t0
     u.Admits 1 0 q.out) := by
  intro s hs
  simp only [preemptStates, arrayStates, List.take_succ_cons, List.take_zero, List.drop_succ_cons, List.drop_zero, List.cons_append, List.nil_append, List.map_cons, List.map_nil,
    List.mem_cons, List.not_mem_nil, or_false] at hs
  rcases hs with rfl | rfl | rfl | rfl <;>
    exact ⟨State.wf_of_wfB (by decide +kernel), by decide +kernel, by decide +kernel, by decide +kernel, by decide +kernel, by decide +kernel, by decide +kernel,
      by decide +kernel, by decide +kernel, by decide +kernel, by decide +kernel, State.admits_of (by decide +kernel)⟩

/-- The first operation of the array, of the hatch unit and of the move engine in such a state. -/
theorem witness_OperationFrame : ∀ x ∈ ((arrayOps 1 0 0 2047).zip arrayStates).take 1 ++ (hatchOps.zip elementwiseStates).take 1 ++ (moveOps.zip moveStates).take 1,
    x.1 ∈ arrayOps 1 0 0 2047 ++ hatchOps ++ moveOps ∧ x.2.Unhindered x.1.cls x.1.op 1 0 x.1.out := by
  intro x hx
  refine ⟨?_, witness_UnitStrokes x ?_⟩
  · simp only [List.mem_append] at hx ⊢
    rcases hx with (h | h) | h
    · exact .inl (.inl (List.of_mem_zip (List.mem_of_mem_take h)).1)
    · exact .inl (.inr (List.of_mem_zip (List.mem_of_mem_take h)).1)
    · exact .inr (List.of_mem_zip (List.mem_of_mem_take h)).1
  · simp only [List.mem_append] at hx ⊢
    rcases hx with (h | h) | h
    · exact .inl (.inl (List.mem_of_mem_take h))
    · refine .inl (.inr (.inl (.inl ?_)))
      have e : (hatchOps.zip elementwiseStates).take 1 = ((hatchOps.take 22).zip elementwiseStates).take 1 := rfl
      exact List.mem_of_mem_take (e ▸ h)
    · exact .inr (List.mem_of_mem_take h)

/-- R110, hatch.add: 1 + 2 = 3 in FP32, written to Z. -/
theorem test_hatchAdd : (after (.hatchAdd 1 0) (unitState 3 1 (.hatch 0) 0 [0x1000, 0x2000, 0x3000, 0]
    [f32 1 [1], f32 2 [1], f32 3 [1], (0x100000, leBytes 4 0x3F800000), (0x200000, leBytes 4 0x40000000)])).numAt 0x300000 4 = 0x40400000 := by decide +kernel

/-- R57, mm.gemm of BF16 2 × 3 into FP32. -/
theorem test_mmGemm : (after (.mmGemm 1 0 0) (unitState 1 1 (.whole 0) 0 [0x1000, 0x2000, 0x3000, 0]
    [b16 1 [1, 1], b16 2 [1, 1], f32 3 [1, 1], (0x100000, leBytes 2 0x4000), (0x200000, leBytes 2 0x4040)])).numAt 0x300000 4 = 0x40C00000 := by decide +kernel

/-- R128, attn.fwd with one key gives that key's value: the softmax of one score is 1. -/
theorem test_attnFwd : (after (.attnFwd 1 0) (withMem (attnState 1) 0xD00000 (leBytes 2 0x4040))).numAt 0x300000 2 = 0x4040 := by decide +kernel

/-- R103, move.requant of FP32 3 into BF16. -/
theorem test_moveRequant : (after (.moveRequant 1 0) (withMem (moveState 0x20 0 0x1000 0x2000 [f32 1 [1], b16 2 [1]]) 0x100000 (leBytes 4 0x40400000))).numAt 0x200000 2 = 0x4040 := by
  decide +kernel

/-- A state whose segment 31 serves the lines at 0 as a cache, in a given power state. -/
def cacheState (op : Nat) (p : SegPower) : State :=
  { moveState op 129 0 0 [] with segs := [(31, { power := p, drainLimit := 1 })], modeUnits := [(pgPS 31, { current := 1 })] }

theorem witness_MoveStrokes :
    State.Unhindered (moveState 2 3 0x1000 hostBase [(0x1000, [1, 2, 3])]) 0x04 0x02 1 0 linearOp ∧
    State.Unhindered (moveState 3 8 0x1000 0x0102030405060708 []) 0x04 0x03 1 0 fillOp ∧
    (moveState 2 3 hostBase 0x1000 []).Wf ∧
    (let s := moveState 2 3 hostBase 0x1000 []
     s.svc.halted = false ∧ s.runnable 1 0 0x04 0x02 = true ∧ (linearOp s (s.job 1) ((s.job 1).stroke 0)).check = none ∧ ((s.job 1).stroke 0).param ≠ 0 ∧
     regionOf (((s.job 1).stroke 0).opnds.getD 0 0) ((s.job 1).stroke 0).param = .host) ∧
    (∀ x ∈ cacheOps, ∀ p ∈ [SegPower.on, .off, .draining],
      (cacheState x.2.1 p).Wf ∧ (cacheState x.2.1 p).svc.halted = false ∧ (cacheState x.2.1 p).runnable 1 0 0x04 x.2.1 = true ∧ (cacheState x.2.1 p).hasRetry 1 0 = false ∧
      moveRangeOk (cacheState x.2.1 p) 0 false ((((cacheState x.2.1 p).job 1).stroke 0).opnds.getD 0 0) (((cacheState x.2.1 p).job 1).stroke 0).param = true ∧
      (cacheState x.2.1 p).servingSeg [0, 128] (fun g => decide (((cacheState x.2.1 p).seg g).power = .off)) = (if p = .off then some 31 else none) ∧
      (cacheState x.2.1 p).servingSeg [0, 128] (cacheState x.2.1 p).segRetries = (if p = .draining then some 31 else none)) := by
  refine ⟨State.unhindered_of (by decide +kernel), State.unhindered_of (by decide +kernel), State.wf_of_wfB (by decide +kernel), by decide +kernel, ?_⟩
  intro x hx p hp
  simp only [cacheOps, List.mem_cons, List.not_mem_nil, or_false] at hx hp
  rcases hx with rfl | rfl | rfl <;> rcases hp with rfl | rfl | rfl <;>
    exact ⟨State.wf_of_wfB (by decide +kernel), by decide +kernel, by decide +kernel, by decide +kernel, by decide +kernel, by decide +kernel, by decide +kernel⟩

/-- R155: a prefetch that an OFF segment would serve is late and kills its job; one that a draining segment would serve waits for it. -/
theorem test_cacheStroke_late : ((after (.movePrefetch 1 0) (cacheState 8 .off)).job 1).killed = some 0x30 := by decide +kernel
theorem test_cacheStroke_waits : (after (.moveFlush 1 0) (cacheState 9 .draining)).hasRetry 1 0 = true := by decide +kernel

/-- R97 and R60, on the worked values of the formats: the largest finite E4M3 is 448 (0x7E), 3 is 0x4040 in BF16, −0 keeps its sign, and INT8 clips at 127. -/
theorem test_conversions :
    (convert .e4m3 (.fin false 448 0)).bits = 0x7E ∧ (convert .bf16 (.fin false 3 0)).bits = 0x4040 ∧ (convert .fp16 (.fin true 0 0)).bits = 0x8000 ∧
    (convert .int8 (.fin false 300 0)).bits = 0x7F ∧ (convert .int8 (.fin false 300 0)).sat = true ∧ (convert .e5m2 (.inf true)).bits = 0xFC := by decide +kernel

theorem witness_NansAreCanonical : Fmt.isInt .e4m3 = false ∧ 0xFF % 2 ^ 7 = 0x7F ∧ 0xFD / 4 % 32 = 31 ∧ 0xFD % 4 ≠ 0 ∧ 0xFFC1 / 2 ^ 7 % 2 ^ 8 = 255 ∧ 0xFFC1 % 2 ^ 7 ≠ 0 ∧
    0x7C01 / 2 ^ 10 % 2 ^ 5 = 31 ∧ 0x7C01 % 2 ^ 10 ≠ 0 ∧ 0x7F800001 / 2 ^ 23 % 2 ^ 8 = 255 ∧ 0x7F800001 % 2 ^ 23 ≠ 0 ∧
    decodeElem .e4m3 (convert .e4m3 .nan).bits = .nan := by decide +kernel

theorem witness_WideningIsExact : 0xFF < 2 ^ Fmt.bits .e5m2 := by decide


/-! ## Clusters and plate memory -/

/-- A state of the array or the attention path whose stroke runs on cluster 0. -/
def arrayAt (k : Nat) : State := { arrayStates.getD k up with clusters := [(0, { left := some ⟨1, 0⟩ })] }

theorem witness_ClusterEvents_pass :
    (arrayAt 0).Wf ∧
    (let s := arrayAt 0
     let t0 := (s.job 1).stroke 0
     s.svc.halted = false ∧ (s.cluster 0).left = some ⟨1, 0⟩ ∧ (s.job 1).phase = .running ∧ (s.job 1).killed = none ∧ t0.state = .running ∧ t0.ran = false ∧ t0.place = some (.whole 0) ∧
     s.firesOn (.whole 0) [4, 1, 2, 0, 3] = none ∧ t0.cls = 1 ∧ t0.preempting = false ∧ mmCheck s (s.job 1) t0 = none ∧
     (((mmOf s (s.job 1) t0).plan t0).passes.drop t0.passes).map (fun g => decide (g.m ≤ 2048) && decide (g.n ≤ 128)) = [true]) ∧
    (arrayAt 3).Wf ∧
    (let s := arrayAt 3
     let t0 := (s.job 1).stroke 0
     s.svc.halted = false ∧ (s.cluster 0).left = some ⟨1, 0⟩ ∧ (s.job 1).phase = .running ∧ (s.job 1).killed = none ∧ t0.state = .running ∧ t0.ran = false ∧ t0.place = some (.whole 0) ∧
     s.firesOn (.whole 0) [4, 1, 2, 0, 3] = none ∧ t0.cls = 2 ∧ (attnOf s (s.job 1) t0).check t0.op = none) :=
  ⟨State.wf_of_wfB (by decide +kernel), by decide +kernel, State.wf_of_wfB (by decide +kernel), by decide +kernel⟩

/-- Job 1 runs one stroke on a whole cluster, whose passes have begun. -/
def onCluster (n : Nat) : State :=
  { withJob up { running 1 1 (.whole n) 0 [0, 0, 0, 0] with strokes := [{ cls := 1, op := 1, state := .running, place := some (.whole n), passes := 1 }] } with
    clusters := [(n, { left := some ⟨1, 0⟩, right := some ⟨1, 0⟩ })] }

/-- A failed check of a path, at pass 0. -/
def hitOn (path : Nat) : ParityHit := { path := path, pass := 0, row := 0, column := 127, accRow := 0 }

theorem witness_ClusterEvents :
    (onCluster 15).Wf ∧
    (let s := onCluster 15
     s.svc.halted = false ∧ ∀ k ∈ [0, 1, 2, 3, 4, 5], (faultedStrokes (s.cluster 15) (hitOn k).path false (s.splitMode 15)).head? = some ⟨1, 0⟩ ∧
       ((s.job 1).stroke 0).reached (hitOn k) = true) ∧
    (withReg (onCluster 15) 0 (pgBC 15) 0x128 (1 + 3 * 2)).Wf ∧
    (let s := withReg (onCluster 15) 0 (pgBC 15) 0x128 (1 + 3 * 2)
     faultedStrokes (s.cluster 15) 3 false (s.splitMode 15) = [⟨1, 0⟩] ∧ ((s.job 1).stroke 0).reached (hitOn 3) = true ∧ s.armed 15 3 false = true ∧
     (s.job 1).phase ≠ .gone ∧ (s.job 1).killed = none) ∧
    up.Open 0 ∧ (up.cluster 16).withdrawn = false ∧
    (let s : State := { up with clusters := [(15, { burnishL := true, burnishR := true, burnishH := true, burnishM := true })] }
     s.svc.halted = false ∧ (s.cluster 15).burnishL = true ∧ (s.cluster 15).burnishR = true ∧ (s.cluster 15).burnishH = true ∧ (s.cluster 15).burnishM = true) :=
  ⟨State.wf_of_wfB (by decide +kernel), by decide +kernel, State.wf_of_wfB (by decide +kernel), by decide +kernel, State.open_of_openB (by decide +kernel), by decide +kernel⟩

/-- Job 1 runs a move.copy on cluster 0; with `again`, its stroke has been re-run once. -/
def plateReader (again : Bool) : State :=
  withJob up { running 4 1 (.mover 0) 0 [0, 0, 0, 0] with
    strokes := [{ cls := 4, op := 1, state := .running, place := some (.mover 0), rerun := again }] }

/-- A dirty line that a stroke reads which has been re-run once. -/
def dirtyAgain : State :=
  { plateReader true with modeUnits := [(pgPS 31, { current := 1 })], lines := [(31 * 65536 + (segSize - 1) / 128, { valid := true, dirty := true })] }

/-- The same with segment 31 in cache mode, and its last line valid. -/
def cacheReader (dirty : Bool) : State :=
  { plateReader false with modeUnits := [(pgPS 31, { current := 1 })], lines := [(31 * 65536 + (segSize - 1) / 128, { valid := true, dirty := dirty })] }

theorem witness_PlateParity :
    (∀ b ∈ [false, true], (plateReader b).Wf ∧ (let s := plateReader b
      s.svc.halted = false ∧ (s.job 1).phase = .running ∧ (s.job 1).killed = none ∧ ((s.job 1).stroke 0).state = .running ∧ ((s.job 1).stroke 0).ran = false ∧
      (s.seg 31).withdrawn = false ∧ s.reserve.queue = [] ∧ s.mode (pgPS 31) ≠ 1 ∧
      ((s.job 1).stroke 0).reRunnable (inPlace s (s.job 1) ((s.job 1).stroke 0)) = true ∧ ((s.job 1).stroke 0).rerun = b)) ∧
    (∀ d ∈ [false, true], (cacheReader d).Wf ∧ (let s := cacheReader d
      s.mode (pgPS 31) = 1 ∧ (Tab.get {} s.lines (31 * 65536 + (segSize - 1) / 128)).valid = true ∧ (Tab.get {} s.lines (31 * 65536 + (segSize - 1) / 128)).dirty = d ∧
      ((s.job 1).stroke 0).reRunnable (inPlace s (s.job 1) ((s.job 1).stroke 0)) = true ∧ ((s.job 1).stroke 0).rerun = false)) ∧
    dirtyAgain.Wf ∧ (let s := dirtyAgain
      s.mode (pgPS 31) = 1 ∧ (Tab.get {} s.lines (31 * 65536 + (segSize - 1) / 128)).dirty = true ∧ ((s.job 1).stroke 0).rerun = true) := by
  refine ⟨?_, ?_, State.wf_of_wfB (by decide +kernel), by decide +kernel⟩ <;>
  · intro b hb
    simp only [List.mem_cons, List.not_mem_nil, or_false] at hb
    rcases hb with rfl | rfl <;> exact ⟨State.wf_of_wfB (by decide +kernel), by decide +kernel⟩

/-- An access of job 1 waits for a segment in a power state. -/
def waitingFor (p : SegPower) : State := { plateReader false with segs := if p = .on then [] else [(31, { power := p })], retries := [{ who := ⟨1, 0⟩, seg := 31, isWrite := true, addr := 0 }] }

/-- A write that waited for a segment that serves again. -/
def waitingWrite : State := { plateReader false with retries := [{ who := ⟨1, 0⟩, seg := 31, isWrite := true, addr := plateBase, data := [1, 2] }] }

theorem witness_PlateEvents_write :
    waitingWrite.Wf ∧ waitingWrite.Plain ∧ waitingWrite.Writable 1 false (plateBase, [1, 2]) ∧
    (let s := waitingWrite
     s.svc.halted = false ∧ s.retries[0]? = some { who := ⟨1, 0⟩, seg := 31, isWrite := true, addr := plateBase, data := [1, 2] } ∧ (s.seg 31).power ≠ .off ∧ s.segRetries 31 = false ∧
     s.burnishOf [(plateBase, [1, 2])] = none ∧ (s.part (s.job 1).part).measure = true) :=
  ⟨State.wf_of_wfB (by decide +kernel), State.plain_of (by decide +kernel), State.writable_of (by decide +kernel), by decide +kernel⟩

theorem witness_PlateEvents :
    (let s : State := { up with segs := [(31, { burnish := [127] })] }
     s.svc.halted = false ∧ (s.seg 31).burnish = 127 :: []) ∧
    (∀ p ∈ [SegPower.on, SegPower.draining, SegPower.off], (waitingFor p).Wf ∧ (let s := waitingFor p
      s.svc.halted = false ∧ s.retries[0]? = some { who := ⟨1, 0⟩, seg := 31, isWrite := true, addr := 0 } ∧ (s.job 1).phase = .running ∧ (s.job 1).killed = none ∧
      ((s.job 1).stroke 0).state = .running ∧ (s.seg 31).power = p ∧ s.segRetries 31 = decide (p = .draining))) ∧
    up.Open 0 ∧ (up.seg 31).withdrawn = false ∧ up.shows 0 (pgPS 31) = true ∧ up.mode (pgPS 31) = 0 ∧ (up.modeUnit (pgPS 31)).pending = 0 ∧ 23 ≤ fld 23 5 0 ∧ fld 23 5 0 ≤ 34 ∧
    (fld 23 31 23 * 2 ^ 23 + (up.seg 31).windowHiStaged * 2 ^ 32) % 2 ^ fld 23 5 0 = 0 := by
  refine ⟨by decide +kernel, ?_, State.open_of_openB (by decide +kernel), by decide +kernel⟩
  intro p hp
  simp only [List.mem_cons, List.not_mem_nil, or_false] at hp
  rcases hp with rfl | rfl | rfl <;> exact ⟨State.wf_of_wfB (by decide +kernel), by decide +kernel⟩

theorem witness_PlatePower :
    up.Wf ∧ up.Open 0 ∧ (up.seg 31).withdrawn = false ∧ up.moving 1 31 = false ∧ bit 0x10000 0 = (up.seg 31).req ∧ bit 1 0 ≠ (up.seg 31).req ∧
    (up.modeUnit (pgPS 31)).pending = 0 ∧ up.sparing 1 31 = false ∧
    (changing (pgPS 31) {}).Wf ∧ (changing (pgPS 31) {}).Open 0 ∧ ((changing (pgPS 31) {}).modeUnit (pgPS 31)).pending ≠ 0 ∧
    (∀ p ∈ [SegPower.draining, SegPower.waking], State.Wf { later with segs := [(31, { power := p, req := true })] } ∧
      (let s : State := { later with segs := [(31, { power := p, req := true })] }
       s.svc.halted = false ∧ (s.seg 31).power = p ∧ (s.seg 31).inReads = 0 ∧ (s.seg 31).inWrites = 0 ∧ (s.seg 31).drainStart + (s.seg 31).drainLimit ≤ s.ticks)) := by
  refine ⟨State.wf_of_wfB (by decide +kernel), State.open_of_openB (by decide +kernel), by decide +kernel, by decide +kernel, by decide +kernel, by decide +kernel, by decide +kernel,
    by decide +kernel, State.wf_of_wfB (by decide +kernel), State.open_of_openB (by decide +kernel), by decide +kernel, ?_⟩
  intro p hp
  simp only [List.mem_cons, List.not_mem_nil, or_false] at hp
  rcases hp with rfl | rfl <;> exact ⟨State.wf_of_wfB (by decide +kernel), by decide +kernel⟩


/-! ## The lettering engine -/

/-- A device with vocabulary slot 0 of two tokens bound by partition 0 at 0x10000, session 16383 in slot 0 of group 63 for job 2, and the engine's areas in the upper half of GDDR6. -/
def letState (x : Session) (op param : Nat) (pl : Place) (opnds : List Nat) (m : List (Nat × List Byte)) : State :=
  { unitState 5 op pl param opnds (m ++ [(0x10008, leBytes 4 2), (0x10024, leBytes 4 1)]) with
    vocabs := [(0, { owner := 1, base := 0x10000, gen := 1 })]
    jobs := [(1, running 5 op pl param opnds), (2, running 5 1 (.session 16383) 0 [0, 0, 0, 0])]
    nextJob := 3
    groups := [(63, { owner := 1, slots := [(0, 16383)], rows := [0] })]
    sessions := [(16383, x)]
    bases := [(pgLET * 0x1000 + 0x104, 2 ^ 30), (pgLET * 0x1000 + 0x118, 2 ^ 31)] }

/-- A session that has drawn a token and draws another. -/
def drawing : Session := { state := .active, group := 63, job := 2, maxNew := 8, kvLen := 2, qLen := 1, promptLen := 1, generated := 1, gslot := 1, textCap := 16, ready := true }

/-- A request block for group 63: MAX_NEW 1, one prompt token. -/
def joinBlock : List Byte := [63, 0, 0xFF, 0] ++ leBytes 2 0xFFFF ++ leBytes 2 1 ++ leBytes 2 1 ++ zeros 54

/-- A step-group record for group 63: one session, one row. -/
def stepBlock : List Byte :=
  [63, 0] ++ leBytes 2 1 ++ leBytes 4 1 ++ leBytes 8 0x20000 ++ leBytes 8 0x21000 ++ leBytes 8 0x22000 ++ leBytes 8 0x23000 ++ leBytes 8 0x7000 ++ zeros 16

def letJoin : State := letState drawing 1 0 (.session 0) [0x4000, 0x5000, 0, 0] [(0x4000, joinBlock)]
def letStepAt (x : Session) : State := letState x 2 0 .letStep [0x4000, 0, 0, 0] [(0x4000, stepBlock), f32 7 [2, 1]]
def letTok : State := letState drawing 3 4 .letBulk [0x4000, 0x5000, 0x6000, 0x6100] [(0x4000, [0x41, 0xC3, 0xFF, 0xE2])]
def letDetok : State := letState drawing 4 2 .letBulk [0x4000, 0x5000, 0x6000, 0] []
/-- Unbinding a vocabulary slot (bit 8 clear) or a grammar slot. -/
def letBind (param : Nat) : State := letState drawing 8 param .letBulk [0, 0, 0, 0] []

theorem witness_LetteringStrokes :
    ((letJoin.job 1).stroke 0).place = some (.session 0) ∧ letJoin.Unhindered 0x05 0x01 1 0 (joinOp 1 0) ∧
    (letStepAt drawing).Unhindered 0x05 0x02 1 0 stepOp ∧
    ((letStepAt drawing).group 63).slots.any (fun e => (letStepAt drawing).awaitsMask e.2) = false ∧
    (let s := letStepAt { drawing with grammar := 0, ready := false }
     s.svc.halted = false ∧ (s.group (parseStep (s.bytesAt (((s.job 1).stroke 0).opnds.getD 0 0) 64)).group).slots.any (fun e => s.awaitsMask e.2) = true) ∧
    letTok.Unhindered 0x05 0x03 1 0 tokOp ∧ letDetok.Unhindered 0x05 0x04 1 0 detokOp ∧
    (letBind 3).Unhindered 0x05 0x08 1 0 bindOp ∧ (letBind 0x11F).Unhindered 0x05 0x08 1 0 bindOp :=
  ⟨by decide +kernel, State.unhindered_of (by decide +kernel), State.unhindered_of (by decide +kernel), by decide +kernel, by decide +kernel,
   State.unhindered_of (by decide +kernel), State.unhindered_of (by decide +kernel), State.unhindered_of (by decide +kernel), State.unhindered_of (by decide +kernel)⟩

/-- The valid bytes of an input and the sequence that its end leaves open: "A", 0xC3 before 0xFF, 0xE2 at the end. -/
theorem test_divide : (divide true 5 [0x41, 0xC3, 0xFF, 0xE2]).2 = [0xE2] ∧ (divide true 5 [0x41, 0xC3, 0xFF, 0xE2]).1.length = 3 := by decide +kernel

theorem test_stop_string :
    let t := textRun [[0x62, 0x63]] false { tail := [], held := [] } [0x61, 0x62, 0x64, 0x62, 0x63]
    t.hit = true ∧ t.out = [0x61, 0x62, 0x64] := by decide +kernel

/-- A session of a grammar whose mask is not ready, in a step that was placed 12 µs ago. -/
def lateSession (st : SessState) (grace : Nat) : State :=
  withReg { letStepAt { drawing with state := st, grammar := 31, ready := false, job := 2 } with ticks := grace } 0 pgLET 0x114 (grace * 2 ^ 20)

theorem witness_LetteringEvents :
    (∀ st ∈ [SessState.waiting, SessState.active], (lateSession st 4095).Wf ∧ (let s := lateSession st 4095
      s.svc.halted = false ∧ (s.session 16383).grammar ≠ 0xFF ∧ (s.session 16383).ready = false ∧ (s.session 16383).state = st)) ∧
    (lateSession .active 4095).Wf ∧ (let s := lateSession .active 4095
      s.svc.halted = false ∧ s.runningStep = some (1, 0) ∧ ((s.job 1).stroke 0).startTick + fld (s.reg 0 pgLET 0x114) 31 20 ≤ s.ticks ∧
      (s.group (parseStep (s.bytesAt (((s.job 1).stroke 0).opnds.getD 0 0) 64)).group).slots.any (fun e => s.awaitsMask e.2) = true) ∧
    (∀ st ∈ [SessState.free, SessState.waiting, SessState.active, SessState.closing], (lateSession st 0).Wf ∧ (lateSession st 0).Open 0 ∧ ((lateSession st 0).session (0xFFFFFFFF % 16384)).state = st) := by
  refine ⟨?_, State.wf_of_wfB (by decide +kernel), by decide +kernel, ?_⟩
  · intro st hs
    simp only [List.mem_cons, List.not_mem_nil, or_false] at hs
    rcases hs with rfl | rfl <;> exact ⟨State.wf_of_wfB (by decide +kernel), by decide +kernel⟩
  · intro st hs
    simp only [List.mem_cons, List.not_mem_nil, or_false] at hs
    rcases hs with rfl | rfl | rfl | rfl <;> exact ⟨State.wf_of_wfB (by decide +kernel), State.open_of_openB (by decide +kernel), by decide +kernel⟩


/-! ## The media engine -/

/-- Pool 15 has one free buffer of 8 KiB of partition 0, at 0x200000; the side table lies at 2 GiB. -/
def pooled (s : State) : State :=
  { withReg (withMem s 0x200000 (linkBytes 0 true 0 15 0 1)) 0 pgPOL 0x100 0x80000000 with
    pools := [(15, { enable := true, size4k := 2, first := 1048575, slices := [(0, { enable := true, count := 1, base := 0x200000, state := 1, free := 1, gen := 1 })] })] }

/-- A picture of 2 × 2 in NV12. -/
def pic22 : CodedPic :=
  { width := 2, height := 2, depth := 8, mono := false, unit := 16, matrix := 0, fullRange := false, poc := 0, here := true, starts := true, shows := true, early := false, existing := false,
    silent := false, rap := true, refs := [], keep := true, longTerm := false, outputs := [0], drops := [], rows := 2, parts := 1 }

/-- The work of stroke 0 of job 1 on context 255. -/
def work (k : MedKind) : MedWork :=
  { id := 5, kind := k, job := 1, idx := 0, ctx := 255, order := 5, part := 0, parts := 1, pic := pic22, format := 1, time := 0, came := 0, shown := true, pool := 15, owner := 0 }

/-- Job 1 runs a media stroke on context 255. -/
def mediaState (op param : Nat) (x : StreamCtx) (opnds : List Nat) (m : List (Nat × List Byte)) : State :=
  pooled { unitState 6 op .media param opnds m with streams := if x = {} then [] else [(255, x)] }

def decoding : StreamCtx := { state := 2, codec := 1, maxCores := 4, ring := 0x8000, ringLog2 := 4, pool := 15 }
def encoding : StreamCtx := { state := 1, encode := true, codec := 1, maxCores := 1, ring := 0x8000, ringLog2 := 4, pool := 15, width := 2, height := 2, refresh := 8 }

/-- A picture descriptor of 2 × 2 with its planes at 0x5000 and 0x5800. -/
def pic22Bytes (fmt : Nat) : List Byte :=
  PicDesc.bytes { luma := 0x5000, chroma := 0x5800, pitch := 256, width := 2, height := 2, format := fmt, matrix := 0, fullRange := false, flags := 0, context := 0xFF,
                  buffer := 0, time := 0, number := 0, poc := 0, concealed := 0 }

def medOpen : State := mediaState 1 255 {} [0x4000, 0, 0, 0] [(0x4000, [0, 1, 2, 4] ++ zeros 4 ++ leBytes 6 0x8000 ++ [12, 15, 0xFF, 0xFF] ++ zeros 46)]
def medClose : State := mediaState 4 255 decoding [0, 0, 0, 0] []
def medClass : State := mediaState 5 (255 + 2 * 256) decoding [0, 0, 0, 0] []
def medDecode : State := mediaState 2 255 decoding [0x4000, 16777216, 7, 0] []
def medEncode : State := mediaState 3 255 encoding [0x4000, 0x6000, 0x7000, 16] [(0x4000, pic22Bytes 1)]
def medPage : State := mediaState 8 0 {} [0x4000, 0x6000, 0, 0] [(0x4000, leBytes 8 0x5000 ++ leBytes 4 16 ++ [1, 15, 0, 0] ++ leBytes 2 16384 ++ leBytes 2 32768 ++ zeros 44)]
def medCws : State :=
  mediaState 0x10 0 {} [0x4000, 0x4100, 0x3000, 0x4200]
    [(0x4000, pic22Bytes 3), (0x4100, leBytes 4 one32 ++ zeros 12 ++ leBytes 4 one32 ++ zeros 12), (0x4200, leBytes 2 1 ++ leBytes 2 1 ++ leBytes 2 1 ++ [1, 0xF0] ++ zeros 56), f32 3 [1, 1, 1, 1]]

/-- A crop-warp-scale stroke into a pool whose slice is under rebuild waits. -/
def medWait : State :=
  { mediaState 0x10 0 {} [0x4000, 0x4100, 0x3000, 0x4200]
      [(0x4000, pic22Bytes 3), (0x4100, leBytes 4 one32 ++ zeros 12 ++ leBytes 4 one32 ++ zeros 12), (0x4200, leBytes 2 1 ++ leBytes 2 2 ++ leBytes 2 2 ++ [0x11, 0xF0] ++ zeros 56)] with
    pools := [(15, { enable := true, size4k := 2, slices := [(0, { enable := true, count := 1, base := 0x200000, state := 3 })] })] }

/-- An earlier chunk of the same context is being decoded. -/
def medTurnTaken (op : Nat) : State :=
  let s := mediaState op 255 decoding [0, 0, 0, 0] []
  let j := running 6 op .media 255 [0, 0, 0, 0]
  withJob s { j with strokes := { (j.stroke 0) with op := 2, begun := true } :: j.strokes.map (fun t => { t with started := 1 }) }

theorem witness_MediaStrokes :
    medOpen.medTurn 1 0 true = true ∧ medOpen.Unhindered 0x06 0x01 1 0 medOpenOp ∧
    medClose.medTurn 1 0 true = true ∧ medClose.Unhindered 0x06 0x04 1 0 medCloseOp ∧
    (medTurnTaken 4).Wf ∧ (medTurnTaken 4).svc.halted = false ∧ (medTurnTaken 4).medTurn 1 1 true = false ∧ (medTurnTaken 4).runnable 1 1 0x06 0x04 = true ∧
    (medTurnTaken 1).medTurn 1 1 true = false ∧ ((medClass.job 1).stroke 0).place = some .media ∧
    medWait.svc.halted = false ∧ (cwsWaits 1 0 medWait).isSome = true ∧
    medClass.medTurn 1 0 false = true ∧ medClass.Unhindered 0x06 0x05 1 0 medClassOp ∧
    medDecode.medTurn 1 0 false = true ∧ medDecode.Unhindered 0x06 0x02 1 0 (medDecodeOp 1 0 [pic22] [] true) ∧
    medEncode.medTurn 1 0 false = true ∧ medEncode.Unhindered 0x06 0x03 1 0 (medEncodeOp 1 0) ∧
    medPage.Unhindered 0x06 0x08 1 0 (medPageOp 1 0 { ok := true, width := 1, height := 1, colour := false, halfWidth := false, halfHeight := false, restart := 0 }) ∧
    cwsWaits 1 0 medCws = none ∧ State.Unhindered { medCws with fresh := medCws.fresh + 1 } 0x06 0x10 1 0 (medCwsOp 1 0 (Config.freeValue medCws.fresh)) :=
  ⟨by decide +kernel, State.unhindered_of (by decide +kernel), by decide +kernel, State.unhindered_of (by decide +kernel), State.wf_of_wfB (by decide +kernel), by decide +kernel, by decide +kernel,
   by decide +kernel, by decide +kernel, by decide +kernel, by decide +kernel, by decide +kernel, by decide +kernel, State.unhindered_of (by decide +kernel), by decide +kernel, State.unhindered_of (by decide +kernel), by decide +kernel,
   State.unhindered_of (by decide +kernel), State.unhindered_of (by decide +kernel), by decide +kernel, State.unhindered_of (by decide +kernel)⟩

/-- An entry waits in the queue, with a buffer or without. -/
def medQueued (w : MedWork) : State := { medDecode with medQueue := [w], medNext := 6, ticks := 10000 }

/-- The same with the slice of pool 15 under rebuild. -/
def rebuilding (w : MedWork) : State := { medQueued w with pools := [(15, { enable := true, size4k := 2, slices := [(0, { enable := true, count := 1, base := 0x200000, state := 3 })] })] }

/-- A picture for an intake context needs no buffer, and one that no buffer of the pool holds finds none. -/
theorem witness_MediaEvents_start :
    (let w := { work .jpeg with intake := some (0, 0) }
     (medQueued w).Wf ∧ (medQueued w).svc.halted = false ∧ (medQueued w).nextWork.map (·.1) = some w ∧ w.intake.isSome = true) ∧
    (let w := { work .decode with pic := { pic22 with width := 4096, height := 4096 } }
     (medQueued w).Wf ∧ (medQueued w).nextWork = some (w, 0) ∧ w.handle = 0 ∧ w.kind ≠ .encode ∧ w.pic.existing = false ∧ w.intake = none ∧ w.isPage = false ∧
     (∀ v ∈ (medQueued w).medQueue, v.id = w.id → v = w) ∧ (allocate (medQueued w) w.owner w.pool (pictureBytes w.pic.width w.pic.height w.format)).1 = .noFit) :=
  ⟨⟨State.wf_of_wfB (by decide +kernel), by decide +kernel, by decide +kernel, by decide +kernel⟩,
   ⟨State.wf_of_wfB (by decide +kernel), by decide +kernel, by decide +kernel, by decide +kernel, by decide +kernel, by decide +kernel, by decide +kernel, by decide +kernel,
    by decide +kernel⟩⟩

theorem witness_MediaEvents_queue :
    (∀ w ∈ [{ work .decode with handle := 1 }, work .encode, { work .decode with pic := { pic22 with existing := true } }], (medQueued w).Wf ∧ (medQueued w).svc.halted = false ∧
      (medQueued w).nextWork = some (w, 0) ∧ (w.handle ≠ 0 ∨ w.kind = .encode ∨ w.pic.existing = true)) ∧
    (let w := work .decode
     (medQueued w).Wf ∧ (medQueued w).svc.halted = false ∧ (medQueued w).nextWork = some (w, 0) ∧ w.handle = 0 ∧ w.kind ≠ .encode ∧ w.pic.existing = false ∧
     (allocate (medQueued w) w.owner w.pool (pictureBytes w.pic.width w.pic.height w.format)).1 = .got (15 * 2 ^ 20) 0x200000 ∧
     (∀ v ∈ (medQueued w).medQueue, v.id = w.id → v = w) ∧
     (rebuilding w).Wf ∧ (rebuilding w).svc.halted = false ∧ (rebuilding w).nextWork = some (w, 0) ∧
     (allocate (rebuilding w) w.owner w.pool (pictureBytes w.pic.width w.pic.height w.format)).1 = .wait) ∧
    (∀ k ∈ [MedKind.decode, MedKind.jpeg], let w := { work k with waitSince := some 5000, tried := 9900 }
      (medQueued w).Wf ∧ (medQueued w).svc.halted = false ∧ (medQueued w).medQueue.find? (fun v => v.id == w.id) = some w ∧ w.waitSince = some 5000 ∧ w.tried + 100 ≤ (medQueued w).ticks ∧
      (allocate (medQueued w) w.owner w.pool (pictureBytes w.pic.width w.pic.height w.format)).1 = .got (15 * 2 ^ 20) 0x200000 ∧
      5000 + (medQueued w).reg 0 pgMED 0x128 % 2 ^ 16 ≤ (medQueued w).ticks ∧ w.isPage = decide (k = .jpeg) ∧ ((medQueued w).job w.job).phase = .running ∧ ((medQueued w).job w.job).killed = none) := by
  refine ⟨?_, ?_, ?_⟩
  · intro w hw
    simp only [List.mem_cons, List.not_mem_nil, or_false] at hw
    rcases hw with rfl | rfl | rfl <;> exact ⟨State.wf_of_wfB (by decide +kernel), by decide +kernel, by decide +kernel, by decide +kernel⟩
  · exact ⟨State.wf_of_wfB (by decide +kernel), by decide +kernel, by decide +kernel, by decide +kernel, by decide +kernel, by decide +kernel, by decide +kernel, by decide +kernel,
      State.wf_of_wfB (by decide +kernel), by decide +kernel⟩
  · intro k hk
    simp only [List.mem_cons, List.not_mem_nil, or_false] at hk
    rcases hk with rfl | rfl <;> exact ⟨State.wf_of_wfB (by decide +kernel), by decide +kernel⟩

/-- A core or a page decoder runs an entry. -/
def onCore (s : State) (n : Nat) (w : MedWork) (x : Core) : State :=
  { s with medQueue := [{ w with core := some n }], medNext := 6, ticks := 70000, cores := [(n, { x with work := w.id + 1 })] }

/-- The same entry on its core. -/
def onIt (n : Nat) (w : MedWork) : MedWork := { w with core := some n }

/-- Two parts of one picture run, on cores 6 and 7. -/
def twoParts : State :=
  { medDecode with medQueue := [{ work .decode with core := some 7 }, { work .decode with id := 6, part := 1, core := some 6 }], medNext := 7, cores := [(6, { work := 7 }), (7, { work := 6 })] }

theorem witness_MediaEvents_part :
    twoParts.Wf ∧ twoParts.svc.halted = false ∧ twoParts.workOn 7 = some (onIt 7 (work .decode)) ∧ (onIt 7 (work .decode)).isPage = false ∧
    (∀ v ∈ twoParts.medQueue, v.id = (onIt 7 (work .decode)).id → v = onIt 7 (work .decode)) ∧
    { work .decode with id := 6, part := 1, core := some 6 } ∈ twoParts.medQueue ∧ (6 : Nat) ≠ (work .decode).id :=
  ⟨State.wf_of_wfB (by decide +kernel), by decide +kernel, by decide +kernel, by decide +kernel, by decide +kernel, by decide +kernel, by decide +kernel⟩

theorem witness_MediaEvents_done :
    (let s := onCore medDecode 7 { work .decode with handle := 15 * 2 ^ 20 + 1 } {}
     let w := onIt 7 { work .decode with handle := 15 * 2 ^ 20 + 1 }
     s.Wf ∧ s.svc.halted = false ∧ s.workOn 7 = some w ∧ w.isPage = false ∧ (∀ v ∈ s.medQueue, v.id = w.id → v = w) ∧ (∀ v ∈ s.medQueue, v.order = w.order → v = w) ∧ w.kind = .decode ∧
     (let s2 := { s with fresh := s.fresh + 2 }
      let x := s.stream w.ctx
      let units := (w.damaged ++ [0]).dedup
      let rows := if w.pic.existing then []
        else decodedRows s2 (bufferDesc s2 (w.handle - 1) w.pic.width w.pic.height w.format) w.pic.unit units
          ((x.nearestRef w).map (fun d => bufferDesc s2 d.handle d.width d.height d.format)) (Config.freeValue s.fresh) (Config.freeValue (s.fresh + 1))
      let y := x.afterPicture w units.length
      let outs := if y.group = 0 then y.leaving w.pic.outputs else []
      s2.Granted w.job { cls := 0, core := some 7 } (y.ringReads outs) (rows ++ y.ringWrites s2 outs))) ∧
    (let s := onCore medEncode 7 (work .encode) {}
     let w := onIt 7 (work .encode)
     s.Wf ∧ s.svc.halted = false ∧ s.workOn 7 = some w ∧ w.isPage = false ∧ (∀ v ∈ s.medQueue, v.id = w.id → v = w) ∧ (∀ v ∈ s.medQueue, v.order = w.order → v = w) ∧ w.kind = .encode ∧
     ∀ coded ∈ [zeros 16, zeros 17],
      (let s1 := { s with fresh := s.fresh + 1 }
       let t0 := (s.job w.job).stroke w.idx
       let excess := decide (t0.opnds.getD 3 0 < coded.length)
       let writes := (if excess then [] else [(t0.opnds.getD 1 0, coded)]) ++ [(t0.opnds.getD 2 0, leBytes 4 (if excess then 0 else coded.length))]
       s1.Granted w.job { cls := 0, core := some 7 } [] writes)) ∧
    (let s := onCore medPage 19 { work .bilevel with handle := 15 * 2 ^ 20 + 1 } {}
     let w := onIt 19 { work .bilevel with handle := 15 * 2 ^ 20 + 1 }
     s.Wf ∧ s.svc.halted = false ∧ s.workOn (16 + 3) = some w ∧ w.intake = none ∧
     (let o := { bufferDesc s (w.handle - 1) w.pic.width w.pic.height w.format with fullRange := true, context := 0xFF }
      let r := decodedPage s w.page o []
      let writes := r.1 ++ [(((s.job w.job).stroke w.idx).opnds.getD 1 0, PicDesc.bytes { o with concealed := r.2, flags := bitAt (r.2 != 0) 0 })]
      s.Granted w.job { cls := 1 } [] writes)) := by
  refine ⟨⟨State.wf_of_wfB (by decide +kernel), by decide +kernel, by decide +kernel, by decide +kernel, by decide +kernel, by decide +kernel, by decide +kernel,
      State.granted_of (by decide +kernel)⟩,
    ⟨State.wf_of_wfB (by decide +kernel), by decide +kernel, by decide +kernel, by decide +kernel, by decide +kernel, by decide +kernel, by decide +kernel, ?_⟩,
    ⟨State.wf_of_wfB (by decide +kernel), by decide +kernel, by decide +kernel, by decide +kernel, State.granted_of (by decide +kernel)⟩⟩
  intro coded hc
  simp only [List.mem_cons, List.not_mem_nil, or_false] at hc
  rcases hc with rfl | rfl <;> exact State.granted_of (by decide +kernel)

/-- A LIVE picture that is due at 70,000 µs. -/
def liveWork : MedWork := { work .decode with deadline := some 70000 }

/-- Job 1 runs a crop-warp-scale stroke: med.cws or int.cws. -/
def cwsRunning (cls op : Nat) : State := withJob up (running cls op .media 0 [0, 0, 0, 0])

theorem witness_MediaEvents_panic :
    (let s := onCore medDecode 7 (work .decode) { cls := 2 }
     s.Wf ∧ s.svc.halted = false ∧ s.workOn 7 = some (onIt 7 (work .decode)) ∧ (onIt 7 (work .decode)).deadline = none) ∧
    (let s := onCore medDecode 7 liveWork { cls := 2 }
     let w := onIt 7 liveWork
     s.Wf ∧ s.svc.halted = false ∧ s.workOn 7 = some w ∧ w.deadline = some 70000 ∧ (s.core 7).cls = 2 ∧ (s.core 7).cut = false ∧ (s.core 7).panic = false ∧
     (let rows := max 1 w.pic.rows
      let done := min rows ((s.core 7).rows + 1)
      70000 * (rows * 1000) < s.ticks * (rows * 1000) + ((rows - done) * (w.pic.width * w.pic.height) + fld (s.reg 0 pgMED 0x120) 15 0 * rows * 1000))) ∧
    (let s := onCore medDecode 7 liveWork { cls := 2, panic := true }
     s.Wf ∧ s.svc.halted = false ∧ s.workOn 7 = some (onIt 7 liveWork) ∧ (s.core 7).panic = true ∧ (s.core 7).panicStart + fld (s.reg 0 pgMED 0x120) 31 16 ≤ s.ticks ∧
     (s.job 1).phase = .running ∧ (s.job 1).killed = none ∧ s.reserve.queue = []) ∧
    (∀ k ∈ [(6, 0x10), (7, 2)], (cwsRunning k.1 k.2).Wf ∧ (let s := cwsRunning k.1 k.2
      s.svc.halted = false ∧ (s.job 1).phase = .running ∧ (s.job 1).killed = none ∧ ((s.job 1).stroke 0).state = .running ∧ ((s.job 1).stroke 0).cls = k.1 ∧
      ((s.job 1).stroke 0).op = k.2)) ∧
    (let s := onCore medPage 19 { work .bilevel with handle := 15 * 2 ^ 20 + 1 } {}
     (s.workOn (16 + 3)).map (·.job) = some 1 ∧ (s.job 1).phase = .running ∧ (s.job 1).killed = none) ∧
    (withReg medDecode 0 pgMED 0x104 254).Open 0 ∧ (let s := withReg medDecode 0 pgMED 0x104 254
     254 = s.reg 0 pgMED 0x104 % 256 ∧ (s.stream 254).state = 0) ∧
    (let s := withReg medDecode 0 pgMED 0x104 255
     s.Open 0 ∧ 255 = s.reg 0 pgMED 0x104 % 256 ∧ (s.stream 255).state ≠ 0 ∧ fld 0x80FFFFFF 31 30 ≠ 3) := by
  refine ⟨⟨State.wf_of_wfB (by decide +kernel), by decide +kernel⟩, ⟨State.wf_of_wfB (by decide +kernel), by decide +kernel⟩,
    ⟨State.wf_of_wfB (by decide +kernel), by decide +kernel⟩, ?_, by decide +kernel, State.open_of_openB (by decide +kernel), by decide +kernel, State.open_of_openB (by decide +kernel),
    by decide +kernel⟩
  intro k hk
  simp only [List.mem_cons, List.not_mem_nil, or_false] at hk
  rcases hk with rfl | rfl <;> exact ⟨State.wf_of_wfB (by decide +kernel), by decide +kernel⟩


/-! ## The intake pipeline and sensor registration -/

/-- An intake context block: one shard at 0x4000, the index at 0x5000, a cache of `mib` MiB at 0x100000, `n` samples, the report at 0x6000, pool 15. -/
def intBlock (n mib : Nat) (refill : Bool) : List Byte :=
  leBytes 6 0x4000 ++ leBytes 2 1 ++ leBytes 6 0x5000 ++ leBytes 2 0xFFFF ++ leBytes 8 0x100000 ++ leBytes 4 mib ++ leBytes 4 n ++ leBytes 8 7 ++
  leBytes 6 0x6000 ++ leBytes 2 1 ++ [BitVec.ofNat 8 (bitAt refill 0), 15] ++ zeros 14

/-- Its shard: records from 0x8000 on, all at offset 0. -/
def shard (n : Nat) : List (Nat × List Byte) := [(0x4000, leBytes 8 0x8000 ++ leBytes 8 0x4100 ++ leBytes 16 n), (0x4100, zeros (4 * n))]

/-- A proof record with its CRC: KIND, three data bytes, the label "L", SAMPLE_ID 9. -/
def record (kind : Nat) : List Byte :=
  let b := leBytes 2 0x5250 ++ [BitVec.ofNat 8 kind, 0] ++ leBytes 4 3 ++ leBytes 4 1 ++ leBytes 2 2 ++ leBytes 2 2 ++ leBytes 8 9 ++ zeros 8 ++ [1, 2, 3] ++ [0x4C]
  b ++ leBytes 4 (crc32c b)

/-- An epoch block: batches of one in two buffers, the ring at 0xA000, labels of one byte. -/
def epochBlock : List Byte :=
  leBytes 4 3 ++ zeros 4 ++ leBytes 4 0 ++ leBytes 2 1 ++ leBytes 2 1 ++ leBytes 8 0xA000 ++ leBytes 8 0x9100 ++ leBytes 8 0x9000 ++ leBytes 8 0xB000 ++
  leBytes 6 0xC000 ++ leBytes 2 1 ++ zeros 8

/-- The parameters and the output tensors of the epoch. -/
def epochMem : List (Nat × List Byte) :=
  [(0x9000, dsc 0x300000 7 4 [1, 1, 1, 1]), (0x9040, dsc 0x310000 7 4 [1, 1, 1, 1]), (0x9100, leBytes 2 1 ++ leBytes 2 1 ++ leBytes 2 1 ++ [1, 0] ++ zeros 56)]

/-- Job 1 runs an intake stroke. -/
def intakeState (op param : Nat) (opnds : List Nat) (m : List (Nat × List Byte)) : State := pooled (unitState 7 op .intake param opnds m)

def intOpen : State := intakeState 1 7 [0x7000, 0, 0, 0] ((0x7000, intBlock 1 1 false) :: shard 1)
def intClose : State := { intakeState 3 7 [0, 0, 0, 0] [] with intakes := [(7, { state := 1, block := intBlock 1 1 false })] }
def intEpoch : State :=
  { intakeState 2 7 [0x7000, 0, 0, 0] ((0x7000, epochBlock) :: shard 1 ++ epochMem) with intakes := [(7, { state := 1, block := intBlock 1 1 false })] }
def regOpen : State :=
  { intakeState 8 15 [0x7000, 0, 0, 0] [(0x7000, [1, 12, 0xFF, 0xFF] ++ leBytes 4 5 ++ leBytes 4 1000000 ++ zeros 4 ++ leBytes 8 0x10000 ++ [255] ++ zeros 39)] with
    streams := [(255, decoding)] }

/-- A picture at time 1,000 µs in a sensor's buffer. -/
def regPic : RegPic :=
  { desc := PicDesc.bytes { luma := 0x5000, chroma := 0x5800, pitch := 256, width := 2, height := 2, format := 1, matrix := 0, fullRange := false, flags := 0, context := 0,
                            buffer := 0, time := 1000, number := 0, poc := 0, concealed := 0 }, handle := 15 * 2 ^ 20 }

/-- Group 15 with two members, at tick 10,000. -/
def groupState (sets : List RegSet) (last : Option Int) (arr : List (Nat × RegPic)) (tail : Nat) : State :=
  { intakeState 9 15 [0, 0, 0, 0] [] with
    ticks := 10000
    regGroups := [(15, { isOpen := true, count := 2, members := [0, 1], contexts := [255, 254], offsets := [0, -5], tol := 5, deadline := 100, ring := 0x10000,
                         ringLog2 := 4, sets := sets, lastAnchor := last, arrivals := arr, tail := tail })]
    streams := [(255, { decoding with group := 16 })] }

theorem witness_IntakeStrokes :
    intOpen.Unhindered 0x07 0x01 1 0 intOpenOp ∧ intClose.Unhindered 0x07 0x03 1 0 intCloseOp ∧ intEpoch.Unhindered 0x07 0x02 1 0 (epochStartOp 1 0) ∧
    regOpen.Unhindered 0x07 0x08 1 0 regOpenOp ∧ (groupState [] none [(0, regPic)] 0).Unhindered 0x07 0x09 1 0 regCloseOp :=
  ⟨State.unhindered_of (by decide +kernel), State.unhindered_of (by decide +kernel), State.unhindered_of (by decide +kernel), State.unhindered_of (by decide +kernel),
   State.unhindered_of (by decide +kernel)⟩

/-- A running epoch over `n` samples that share one record, with a window. -/
def epochState (n mib : Nat) (refill : Bool) (rec_ : List Byte) (w : Tab Sample) : State :=
  { intakeState 2 7 [0x7000, 0, 0, 0] ((0x7000, epochBlock) :: (0x8000, rec_) :: shard n ++ epochMem) with
    jobs := [(1, { running 7 2 .intake 7 [0x7000, 0, 0, 0] with
      strokes := [{ cls := 7, op := 2, param := 7, opnds := [0x7000, 0, 0, 0], state := .running, place := some .intake, begun := true }] })]
    intakes := [(7, { state := 2, block := intBlock n mib refill, epoch := epochBlock, job := 1, window := w })] }

/-- A JPEG of 2 × 2 that its header admits, or not. -/
def jpeg22 (ok : Bool) : PageInfo := { ok := ok, width := 2, height := 2, colour := false, halfWidth := false, halfHeight := false, restart := 0 }

/-- Position 0 is dispatched; a page of it, when it needs one, is on page decoder 1. -/
def sampleState (mib : Nat) (rec_ : List Byte) : State :=
  let s := epochState 1 mib false rec_ [(0, .fetch 0)]
  { s with ticks := 100000000, medQueue := [{ pageWork 1 0 {} 0 0 0 15 0 (some (7, 0)) with core := some 17 }], cores := [(17, { work := 1 })] }

/-- What a sample comes to: its corruption reason, 100 for raw bytes, 200 for a picture. -/
def sampleKind (s : State) (page : PageInfo) : Nat :=
  let x := s.intake 7
  match sampleEnd s x (s.job x.job) (recordAddr s x (x.sampleAt 0)).1 page [] with
  | .corrupt r => r
  | .raw => 100
  | .picture .. => 200

/-- What the clauses on a sample of position 0 share, with what it writes. -/
def sampleB (s : State) (page : PageInfo) (kind : Nat) (writes : List (Nat × List Byte)) : Bool :=
  let x := s.intake 7
  let ra := recordAddr s x (x.sampleAt 0)
  s.wfB && !s.svc.halted && (runsOnUnit s 7 0).isSome && sampleKind s page == kind && (s.samplePage 7 0).isSome &&
  s.grantedB x.job { cls := 1 } (ra.2 ++ [(ra.1, (recordFault s x (s.job x.job) ra.1).2)]) writes

/-- What a corrupt sample writes. -/
def corruptWrite (s : State) (reason : Nat) : List (Nat × List Byte) := [((s.intake 7).indexAddr ((s.intake 7).sampleAt 0), corruptWord reason)]

theorem witness_IntakeEvents_samples :
    sampleB (sampleState 1 (zeros 32)) (jpeg22 true) 1 (corruptWrite (sampleState 1 (zeros 32)) 1) = true ∧
    sampleB (sampleState 1 (record 1)) (jpeg22 false) 4 (corruptWrite (sampleState 1 (record 1)) 4) = true ∧
    sampleB (sampleState 1 (record 3)) (jpeg22 true) 100 [] = true ∧
    ((sampleState 1 (record 3)).intake 7).sampleAt 0 = 0 := by decide +kernel

/-- A JPEG sample whose object fits its cache, or not, with a free buffer; and one whose pool is under rebuild. -/
theorem witness_IntakeEvents_pictures :
    (∀ mib ∈ [0, 1], let s := sampleState mib (record 1)
      let x := s.intake 7
      (allocate s 0 x.pool (pictureBytes 2 2 3)).1 = .got (15 * 2 ^ 20) 0x200000 ∧ x.fits (objectBytes 2 2 3) = decide (mib = 1) ∧
      (let spec := recordPage s (recordAddr s x (x.sampleAt 0)).1 (jpeg22 true)
       let o := { bufferDesc s (15 * 2 ^ 20) 2 2 (pageFormat spec) with fullRange := true, context := 0xFF }
       pageFormat spec = 3 ∧ sampleB s (jpeg22 true) 200 ((decodedPage s spec o []).1 ++ cacheWrites x (x.sampleAt 0) 2 2 3) = true)) ∧
    (let s : State := { sampleState 1 (record 1) with pools := [(15, { enable := true, size4k := 2, slices := [(0, { enable := true, count := 1, base := 0x200000, state := 3 })] })] }
     (allocate s 0 (s.intake 7).pool (pictureBytes 2 2 3)).1 = .wait ∧ sampleB s (jpeg22 true) 200 [] = true) := by
  refine ⟨?_, by decide +kernel⟩
  intro mib hm
  simp only [List.mem_cons, List.not_mem_nil, or_false] at hm
  rcases hm with rfl | rfl <;> decide +kernel

/-- A sample at its time limit. -/
theorem witness_IntakeEvents_limit :
    (sampleState 1 (record 1)).Wf ∧ (sampleState 1 (record 1)).Granted 1 { cls := 1 } [] (corruptWrite (sampleState 1 (record 1)) 5) ∧
    (let s := sampleState 1 (record 1)
     runsOnUnit s 7 0 = some 0 ∧ (s.intake 7).job = 1 ∧ 0 + s.reg 0 pgINT 0x100 % 2 ^ 16 * 1000 ≤ s.ticks) :=
  ⟨State.wf_of_wfB (by decide +kernel), State.granted_of (by decide +kernel), by decide +kernel⟩

/-- A decided sample of raw bytes, and one that is corrupt. -/
def rawSample : Drawn := { id := 9, raw := true, data := [1, 2, 3], label := [0x4C] }
def corruptSample : Drawn := { id := 9, reason := 3 }

/-- The scan of an epoch and the premises of the batch that follows. -/
def batchB (s : State) : Bool :=
  let s1 := { s with fresh := s.fresh + 1 }
  let x := s.intake 7
  let j := s.job x.job
  let r := x.scan s
  let next := r.nextPos x
  let k := x.tail % x.bufs
  let last := decide (r.stop = .last)
  let corrupt := if last then r.corrupt else r.corrupt.filter (fun e => decide (e.1 < next))
  let y := x.afterBatch r.slots corrupt next (!r.slots.isEmpty)
  let o := s1.operand j (x.ep 0x20 6 + 64 * k)
  let cw := epochCws s1 x.epoch
  let reads := if r.slots.isEmpty then [] else batchReads s1 x o cw r.slots
  let writes := (if r.slots.isEmpty then [] else (batchTensor s1 x o cw (Config.freeValue s.fresh) r.slots).writes ++ batchMeta x k r.slots ++
    [(x.ep 0x10 6 + 64 + k * 64, batchDesc x k next last r.slots), (x.ep 0x10 6, leBytes 4 ((x.tail + 1) % 2 ^ 32))]) ++
    (if last then [(x.blk 0x28 6, epochReport y)] else [])
  s.wfB && !s.svc.halted && nextEmitter s == some 7 && s1.grantedB x.job { cls := 1 } reads writes

/-- The scan of context 7. -/
def scanOf (s : State) : Scan := (s.intake 7).scan s

theorem witness_IntakeEvents_batches :
    (let s := epochState 1 1 false [] [(0, .ready rawSample)]
     batchB s = true ∧ (scanOf s).slots ≠ [] ∧ (scanOf s).stop = .last) ∧
    (let s := epochState 2 1 false [] [(0, .ready rawSample), (1, .ready rawSample)]
     batchB s = true ∧ (scanOf s).slots ≠ [] ∧ (scanOf s).stop = .full) ∧
    (let s := epochState 1 1 true [] [(0, .ready corruptSample)]
     batchB s = true ∧ (scanOf s).slots = [] ∧ (scanOf s).stop = .last) :=
  ⟨by decide +kernel, by decide +kernel, by decide +kernel⟩

/-- `PartGranted`, decided. -/
def partGrantedB (s : State) (p : Nat) (reads : List (Nat × Nat)) (writes : List (Nat × List Byte)) : Bool :=
  (s.retryOf p false (reads ++ writes.map (fun w => (w.1, w.2.length)))).isNone && (s.burnishOf writes).isNone && !s.held p (reads ++ writes.map (fun w => (w.1, w.2.length)))

theorem partGranted_of {s : State} {p : Nat} {reads : List (Nat × Nat)} {writes : List (Nat × List Byte)} (h : partGrantedB s p reads writes = true) : s.PartGranted p reads writes := by
  simp only [partGrantedB, Bool.and_eq_true, Option.isNone_iff_eq_none, Bool.not_eq_true'] at h
  exact ⟨h.1.1, h.1.2, h.2⟩

/-- An open set that member 1 has joined, with its anchor 5 µs away and its deadline at a tick. -/
def openSet (due : Nat) : RegSet := { anchor := 1005, due := due, pics := [(1, some regPic)] }

theorem witness_IntakeEvents_sets :
    (let s := groupState [openSet 10001] none [(0, regPic)] 0
     s.Wf ∧ s.svc.halted = false ∧ (s.regGroup 15).arrivals = [(0, regPic)] ∧ ((parsePic regPic.desc).time : Int) - 1005 = -5 ∧ (s.regGroup 15).tol = 5 ∧
     (openSet 10001).pic 0 = none ∧ s.ticks < 10001) ∧
    (let s := groupState [{ openSet 10001 with pics := [] }] none [(0, regPic)] 0
     s.Wf ∧ s.svc.halted = false ∧ ({ openSet 10001 with pics := [] } : RegSet).pic 0 = none ∧ (1 : Nat) ∈ (s.regGroup 15).members ∧ ({ openSet 10001 with pics := [] } : RegSet).pic 1 = none) ∧
    (let s := groupState [] (some 994) [(0, regPic)] 0
     s.Wf ∧ s.svc.halted = false ∧ (s.regGroup 15).sets = [] ∧ (994 : Int) + (s.regGroup 15).tol < 1000 ∧ 0 < (s.regGroup 15).deadline ∧ (1 : Nat) ∈ (s.regGroup 15).members) ∧
    (let s := groupState [] (some 995) [(0, regPic)] 0
     s.Wf ∧ s.svc.halted = false ∧ (s.regGroup 15).sets = [] ∧ (s.regGroup 15).lastAnchor = some 995 ∧ (1000 : Int) ≤ 995 + (s.regGroup 15).tol) ∧
    (∀ tail ∈ [15, 16], (groupState [openSet 10000] none [] tail).Wf ∧ (let s := groupState [openSet 10000] none [] tail
      let g := s.regGroup 15
      s.svc.halted = false ∧ g.sets = [openSet 10000] ∧ (openSet 10000).due ≤ s.ticks ∧ g.full s = decide (tail = 16) ∧
      partGrantedB s (g.owner - 1) [(g.ring + 4, 4)] (setWrites s g (openSet 10000) false) = true)) := by
  refine ⟨⟨State.wf_of_wfB (by decide +kernel), by decide +kernel⟩, ⟨State.wf_of_wfB (by decide +kernel), by decide +kernel⟩,
    ⟨State.wf_of_wfB (by decide +kernel), by decide +kernel⟩, ⟨State.wf_of_wfB (by decide +kernel), by decide +kernel⟩, ?_⟩
  intro k hk
  simp only [List.mem_cons, List.not_mem_nil, or_false] at hk
  rcases hk with rfl | rfl <;> exact ⟨State.wf_of_wfB (by decide +kernel), by decide +kernel⟩

/-- Sixteen open sets far from the picture that arrives: the lowest leaves first. -/
def farSets : State := groupState ((List.range 16).map (fun k => { openSet 10001 with anchor := 2000 + 100 * k })) none [(0, regPic)] 0

theorem witness_IntakeEvents_full :
    farSets.Wf ∧ farSets.PartGranted ((farSets.regGroup 15).owner - 1) [((farSets.regGroup 15).ring + 4, 4)] (setWrites farSets (farSets.regGroup 15) { openSet 10001 with anchor := 2000 } true) ∧
    (let g := farSets.regGroup 15
     farSets.svc.halted = false ∧ g.arrivals = [(0, regPic)] ∧ g.sets.head? = some { openSet 10001 with anchor := 2000 } ∧ 16 ≤ g.sets.length ∧
     setReady farSets g { openSet 10001 with anchor := 2000 } = false ∧ nearestSet g 0 1000 = none ∧ g.lastAnchor = none) :=
  ⟨State.wf_of_wfB (by decide +kernel), partGranted_of (by decide +kernel), by decide +kernel⟩

/-! ## The tracking and metadata unit -/

/-- Ring 63, in host memory. -/
def ring63 : OutRing := { state := 1, ctrl := 0x8000_0000_0000, data := 0x8000_0010_0000, log2 := 26 }

/-- Tracking on stream 255, its table at 0x100000, records to ring 63. -/
def tracking : TrkStream := { isOpen := true, base := 0x100000, ring := 63, embFmt := 7, maxAge := 1, cols := 1, nextId := 1, columns := 1 }

/-- Job 1 runs a trk stroke; ring 63 is open. -/
def trkState (op param : Nat) (opnds : List Nat) (x : TrkStream) (r : OutRing) (m : List (Nat × List Byte)) : State :=
  { unitState 8 op .trk param opnds m with tracks := if x = {} then [] else [(255, x)], outRings := if r = {} then [] else [(63, r)] }

def trkRing : State := trkState 1 63 [0x7000, 0, 0, 0] {} {} [(0x7000, leBytes 8 0x8000_0000_0000 ++ leBytes 8 0x8000_0010_0000 ++ [26] ++ zeros 15)]
def trkRingclose : State := trkState 2 63 [0, 0, 0, 0] {} ring63 []
def trkOpen : State := trkState 4 255 [0x7000, 0, 0, 0] {} ring63 [(0x7000, leBytes 6 0x100000 ++ [63, 3] ++ leBytes 2 0 ++ [7, 1] ++ zeros 12 ++ leBytes 2 1 ++ zeros 38)]
def trkClose : State := trkState 5 255 [0, 0, 0, 0] tracking ring63 []

/-- A picture of NUMBER 3, and a detection set with one box. -/
def detMem : List (Nat × List Byte) :=
  [(0x7000, leBytes 8 0x7100 ++ leBytes 8 0x1000 ++ leBytes 8 0x2000 ++ zeros 40), (0x7200, pic22Bytes 1), (0x7228, leBytes 4 3), f32 1 [4, 1], f32 2 [1],
   (0x100000, leBytes 8 0 ++ leBytes 4 one32 ++ leBytes 4 one32)]

def trkPrep : State := trkState 6 255 [0x7000, 0x7200, 0, 0] tracking ring63 detMem
/-- The assignment is at 0x8000: slot 0 takes column 0; slot 0 holds a track or none. -/
def trkUpdate (stale : Bool) : State :=
  trkState 7 255 [0x8000, 0x7200, 0, 0]
    { tracking with prepped := true, prepNumber := 3, stalePrep := stale, slots := [(0, { state := 1, id := 9, hits := 2, age := 2, box := [0, 0, 0, 0], centre := [0, 0], velocity := [0, 0] })] }
    ring63 detMem

def trkText : State := trkState 0x10 (2 ^ 16) [0x7000, 0x7100, 0x7200, 0x7300] {} ring63 [(0x7000, [2, 1] ++ zeros 6 ++ leBytes 4 3), (0x7210, [63])]
def trkPage : State := trkState 0x11 0xFFFFFFFF [0x7000, 0x7200, 0, 0] {} ring63 [(0x7010, [63]), (0x7200, pic22Bytes 3)]
/-- A clip to a ring whose data area has 32 bytes left before its end. -/
def trkClip : State := trkState 0x12 63 [0x7000, 0, 0, 0] {} { ring63 with tail := 2 ^ 26 - 32, head := 2 ^ 26 - 32, seq := 2 ^ 32 - 1 } [(0x7000, [0, 1])]

/-- Another trk stroke placed before is still running. -/
theorem test_trkTurn :
    (let s := trkClose
     let j := s.job 1
     let u := { s with jobs := [(1, { j with strokes := [{ (j.stroke 0) with started := 1 }, { (j.stroke 0) with started := 0 }] })] }
     u.trkTurn 1 0 = false ∧ u.trkTurn 1 1 = true) := by decide +kernel

theorem witness_TrackingStrokes :
    trkRing.trkTurn 1 0 = true ∧ trkRing.Unhindered 0x08 0x01 1 0 trkRingOp ∧
    trkRingclose.trkTurn 1 0 = true ∧ trkRingclose.Unhindered 0x08 0x02 1 0 trkRingcloseOp ∧
    trkOpen.trkTurn 1 0 = true ∧ trkOpen.Unhindered 0x08 0x04 1 0 trkOpenOp ∧
    trkClose.trkTurn 1 0 = true ∧ trkClose.Unhindered 0x08 0x05 1 0 trkCloseOp ∧ ((trkClose.job 1).stroke 0).place = some .trk ∧
    trkPrep.trkTurn 1 0 = true ∧ State.Unhindered { trkPrep with fresh := trkPrep.fresh + 1 } 0x08 0x06 1 0 (trkPrepOp (Config.freeValue trkPrep.fresh) .ok) ∧
    (∀ b ∈ [false, true], (trkUpdate b).trkTurn 1 0 = true ∧
      State.Unhindered { trkUpdate b with fresh := (trkUpdate b).fresh + 1 } 0x08 0x07 1 0 (trkUpdateOp 0 (Config.freeValue (trkUpdate b).fresh) .ok)) ∧
    trkText.trkTurn 1 0 = true ∧ trkText.Unhindered 0x08 0x10 1 0 (trkTextOp .ok) ∧
    trkPage.trkTurn 1 0 = true ∧ trkPage.Unhindered 0x08 0x11 1 0 (trkPageOp .ok) ∧
    trkClip.trkTurn 1 0 = true ∧ trkClip.Unhindered 0x08 0x12 1 0 (trkClipOp .ok) ∧
    (trkClip.outRing 63).state = 1 ∧ (trkClip.outRing 63).pad 64 = 32 ∧ (trkClip.outRing 63).pad 64 + 64 ≤ (trkClip.outRing 63).free := by
  refine ⟨by decide +kernel, State.unhindered_of (by decide +kernel), by decide +kernel, State.unhindered_of (by decide +kernel), by decide +kernel,
    State.unhindered_of (by decide +kernel), by decide +kernel, State.unhindered_of (by decide +kernel), by decide +kernel, by decide +kernel,
    State.unhindered_of (by decide +kernel), ?_,
    by decide +kernel, State.unhindered_of (by decide +kernel), by decide +kernel, State.unhindered_of (by decide +kernel), by decide +kernel,
    State.unhindered_of (by decide +kernel), by decide +kernel⟩
  intro b hb
  simp only [List.mem_cons, List.not_mem_nil, or_false] at hb
  rcases hb with rfl | rfl <;> exact ⟨by decide +kernel, State.unhindered_of (by decide +kernel)⟩


/-! ## The Ulzia links -/

/-- NODE 15 in a ring of 16, with U1 in a state. -/
def ringState (x : Port) : State := { withReg up 0 pgULZ 0x100 0xF0F with ports := if x = {} then [] else [(1, x)], ticks := 100000 }

def allGood : List Bool := [true, true, true, true, true]

/-- The body of a flit with a SEQ: no acknowledgement beyond it, empty units. -/
def flitBody (seq : Nat) : List Byte := leBytes 4 (seq + 4095 * 4096) ++ zeros 0xF4

theorem witness_LinkPorts :
    (ringState {}).Wf ∧ (ringState { state := 1 }).Wf ∧ (ringState {}).svc.halted = false ∧ ((ringState {}).port 1).state < 2 ∧ ((ringState { state := 1 }).port 1).state < 2 ∧
    (ringState {}).ring ≠ 1 ∧ 15 + 1 = (ringState {}).ring ∧ 14 = (ringState {}).neighbour 1 ∧ 0 = (ringState {}).neighbour 0 ∧
    laneMap (andLanes ((ringState {}).port 1).good allGood) ≠ [] ∧ 14 + 1 ≠ (ringState {}).ring ∧ 15 ≠ (ringState {}).neighbour 1 ∧
    ((ringState {}).port 1).state = 0 ∧ ((ringState {}).port 1).tried + 100000 ≤ (ringState {}).ticks ∧
    (∀ n ∈ [1, 2], (ringState { state := 3, failed := n }).Wf ∧ ((ringState { state := 3, failed := n }).port 1).state = 3 ∧ ((ringState { state := 3, failed := n }).port 1).failed = n ∧
      laneMap (andLanes ((ringState { state := 3, failed := n }).port 1).good allGood) ≠ []) ∧
    ((ringState { state := 2 }).Wf ∧ (ringState { state := 2 }).svc.halted = false ∧ ((ringState { state := 2 }).port 1).state = 2 ∧ ((ringState { state := 2 }).port 1).failed < 2 ∧
      laneMap (andLanes ((ringState { state := 2 }).port 1).good allGood) ≠ []) ∧
    (∀ st ∈ [2, 3], (ringState { state := st }).Wf ∧ ((ringState { state := st }).port 1).alive = true ∧ ((ringState { state := st }).port 1).rxSeq = 4095 ∧
      ∀ q ∈ [(0, 0), (1, 1), (2047, 2047), (2048, 2048), (4095, 4095)], (flitBody q.1).length = 0xF8 ∧
        (fld (rdN (flitBody q.1) 0 4) 11 0 + 4096 - (((ringState { state := st }).port 1).rxSeq + 1)) % 4096 = q.2) ∧
    (∀ u ∈ [([] : Tab Nat), [(7, 2)]], let s := withReg (ringState { state := 2, used := u }) 0 (pgU 1) 0x108 7
      s.Wf ∧ s.Open 0 ∧ (∀ k, k < 8 → Tab.get 0 (s.port 1).grantNext k = 0) ∧ s.reg 0 (pgU 1) 0x108 % 8 = 7 ∧
      (((List.range 8).filter (· != 7)).map (s.port 1).grantOf).sum + 512 = 4096 ∧ Tab.get 0 (s.port 1).used 7 = if u = [] then 0 else 2) ∧
    (ringState {}).Open 0 ∧ ((ringState {}).port 0).state = 0 ∧ (ringState { state := 2 }).Open 0 ∧ ((ringState { state := 2 }).port 1).state ≠ 0 := by
  refine ⟨State.wf_of_wfB (by decide +kernel), State.wf_of_wfB (by decide +kernel), by decide +kernel, by decide +kernel, by decide +kernel, by decide +kernel, by decide +kernel,
    by decide +kernel, by decide +kernel, by decide +kernel, by decide +kernel, by decide +kernel, by decide +kernel, by decide +kernel, ?_, ⟨State.wf_of_wfB (by decide +kernel), by decide +kernel⟩, ?_, ?_,
    State.open_of_openB (by decide +kernel), by decide +kernel, State.open_of_openB (by decide +kernel), by decide +kernel⟩
  · intro n hn
    simp only [List.mem_cons, List.not_mem_nil, or_false] at hn
    rcases hn with rfl | rfl <;> exact ⟨State.wf_of_wfB (by decide +kernel), by decide +kernel⟩
  · intro n hn
    simp only [List.mem_cons, List.not_mem_nil, or_false] at hn
    rcases hn with rfl | rfl <;> exact ⟨State.wf_of_wfB (by decide +kernel), by decide +kernel⟩
  · intro u hu
    simp only [List.mem_cons, List.not_mem_nil, or_false] at hu
    rcases hu with rfl | rfl <;> exact ⟨State.wf_of_wfB (by decide +kernel), State.open_of_openB (by decide +kernel), by decide +kernel⟩

/-- The same with the PF in D3hot or in D0. -/
def ringPower (d3 : Bool) : State := { ringState {} with funcs := [(0, { (ringState {}).func 0 with d3hot := d3 })] }

theorem witness_LinkPorts_power : (ringPower false).Wf ∧ ((ringPower false).func 0).d3hot = false ∧ ((ringPower false).port 1).state = 0 ∧ (ringPower false).ring ≠ 1 ∧
    (ringPower false).svc.halted = false ∧ ((ringPower false).port 1).tried + 100000 ≤ (ringPower false).ticks ∧ ((ringPower true).func 0).d3hot = true ∧ (ringPower true).svc.halted = false :=
  ⟨State.wf_of_wfB (by decide +kernel), by decide +kernel⟩

/-- A packet of node 14 for this node. -/
def packet (typ arg status : Nat) (data : List Byte) : Packet :=
  { typ := typ, dst := 15, src := 14, vc := 0, len := cdiv data.length 16, status := status, tag := 65535, arg := arg, data := data, tick := 0, via := 2 }

/-- U1 is UP and holds a packet, while job 1 runs a link stroke. -/
def received (k : Packet) : State :=
  { withJob (ringState { state := 2, inbox := [k], used := [(0, k.units)] }) { running 9 1 .links 0 [0, 0, 0, 0] with
      strokes := [{ cls := 9, op := 1, state := .running, place := some .links, begun := true }] } with ticks := 20000000 }

/-- The node's segment 0 is in a power state. -/
def segAt (x : SegPower) (s : State) : State := { s with segs := [(0, { s.seg 0 with power := x })] }

/-- The node's partition answers at the memory that a packet names. -/
theorem witness_LinkPackets_requests :
    (∀ a ∈ [0x100, 2 ^ 38], let k := packet 1 a 0 (zeros 256); let s := received k
      s.wfB = true ∧ s.svc.halted = false ∧ (s.part k.vc).measure = true ∧ nextOf (s.port 1).inbox (fun k => k.typ == 1) = some k ∧
      (let r := remoteRange s k.vc k.addr (k.data.length - k.pad)
       r.2 = .ok ∧ s.burnishOf [(r.1, zeros (k.data.length - k.pad))] = none ∧ s.foreign false r.1 (k.data.length - k.pad) = none) ∧ s.plainB = true) ∧
    (let k := packet 2 (0xE0 + 31 * 2 ^ 40) 0 []; let s := received k
     s.wfB = true ∧ s.svc.halted = false ∧ (s.part k.vc).measure = true ∧ nextOf (s.port 1).inbox (fun k => k.typ == 2) = some k ∧ k.want = 32 ∧
     remoteRange s k.vc k.addr k.want = (0xE0, .ok) ∧ s.plainB = true) ∧
    (∀ q ∈ [(SegPower.draining, Access.retry 0), (.waking, .retry 0), (.off, .late 0)], ∀ t ∈ [1, 2], let k := packet t (2 ^ 38) 0 (if t = 1 then zeros 16 else [])
      let s := segAt q.1 (received k)
      s.wfB = true ∧ s.svc.halted = false ∧ nextOf (s.port 1).inbox (fun k => k.typ == t) = some k ∧
      (if t = 1 then remoteRange s k.vc k.addr (k.data.length - k.pad) else remoteRange s k.vc k.addr k.want).2 = q.2) ∧
    (∀ t ∈ [1, 2], let k := packet t (2 ^ 39) 0 []; let s := received k
      s.wfB = true ∧ s.svc.halted = false ∧ nextOf (s.port 1).inbox (fun k => k.typ == t) = some k ∧ (remoteRange s k.vc k.addr (k.data.length - k.pad)).2 = .refused none ∧
      (remoteRange s k.vc k.addr k.want).2 = .refused none) ∧
    (∀ set ∈ [0, 2 ^ 16], let k := packet 5 (4095 + set + 0xFFFF * 2 ^ 32) 0 []; let s := received k
      s.wfB = true ∧ s.svc.halted = false ∧ nextOf (s.port 1).inbox (fun k => k.typ == 5) = some k ∧ partServes s k.vc = true ∧ fld k.arg 11 0 < (s.part k.vc).semCount ∧
      (s.semOf k.vc (fld k.arg 11 0)).mutex = false) := by
  decide +kernel

/-- A transfer of job 1 awaits an answer. -/
def awaiting (typ : Nat) (k : Packet) : State :=
  { received k with xfers := [{ tag := 65535, port := 1, vc := 0, job := 1, idx := 0, typ := typ, addr := 0x100, len := 20, start := 0 }] }

theorem witness_LinkPackets_answers :
    (∀ q ∈ [(4, 0), (6, 0), (3, 0), (4, 1), (3, 2)], let k := packet q.1 0 q.2 (if q.1 = 3 then zeros 32 else []); let s := awaiting q.1 k
      s.wfB = true ∧ s.svc.halted = false ∧ nextOf (s.port 1).inbox (fun k => k.typ == 3 || k.typ == 4 || k.typ == 6) = some k ∧
      s.xfers.find? (fun x => x.tag == k.tag && x.vc == k.vc && x.typ == k.typ) = s.xfers.head? ∧ s.xfers.length = 1 ∧ (s.job 1).phase = .running ∧ (s.job 1).killed = none ∧
      k.status = q.2 ∧ ((s.job 1).stroke 0).begun = true ∧ s.grantedB 1 { cls := 7 } [] [(0x100, k.data.take 20)] = true) ∧
    (let s := awaiting 4 (packet 7 0 0 [])
     s.wfB = true ∧ s.svc.halted = false ∧ (s.xfers.all (fun x => x.job == 1 && x.idx == 0 && decide (x.start + s.reg 0 pgULZ 0x104 % 65536 * 1000 ≤ s.ticks))) = true ∧
     (s.job 1).phase = .running ∧ (s.job 1).killed = none) := by
  decide +kernel

/-- Job 1 sums or gathers over a ring of 16, with bytes of its destination still missing. -/
def collecting (reduce : Bool) (missing : Nat) (k : Packet) : State :=
  { received k with colls := [{ job := 1, idx := 0, id := 0xFFFF, vc := 0, reduce := reduce, bf16 := false, ring := 16, node := 15, src := 0x1000, dst := 0x2000,
                                size := if reduce then 128 else 4, done := (if reduce then 128 else 64) - missing, start := 0 }] }

/-- A packet of the collective: its step, its chunk, a status and its data. -/
def collPart (step chunk status : Nat) (data : List Byte) : Packet := packet 7 (0xFFFF + step * 2 ^ 16 + chunk * 2 ^ 32) status data

/-- What the clauses on a packet of an open collective share. -/
def collB (s : State) (k : Packet) : Bool :=
  s.wfB && !s.svc.halted && decide (nextOf (s.port 1).inbox (fun k => k.typ == 7) = some k) &&
  decide (s.colls.find? (fun c => c.id == fld k.arg 15 0 && c.vc == k.vc) = s.colls.head?) && s.colls.length == 1 && decide ((s.job 1).phase = .running) && (s.job 1).killed.isNone &&
  ((s.job 1).stroke 0).begun

/-- The step that a packet's bytes are in the collective, granted, with what it leaves of `missing` bytes. -/
def stepB (s : State) (k : Packet) (size : Nat) (missing : Nat) : Bool :=
  s.colls.all (fun c => match collStep c 0 (fld k.arg 31 16) (fld k.arg 47 32) k.data s with
    | none => false
    | some x => s.grantedB 1 { cls := 7 } x.reads x.writes && x.next.done + missing == size)

theorem witness_LinkPackets_collectives :
    (∀ t ∈ [999999, 1000000], let k := packet 7 0xFFFF 0 (zeros 16); let s := { received k with ticks := t }
      s.wfB = true ∧ s.svc.halted = false ∧ nextOf (s.port 1).inbox (fun k => k.typ == 7) = some k ∧ s.colls = [] ∧
      decide (s.ticks < k.tick + s.reg 0 pgULZ 0x104 % 65536 * 1000) = decide (t = 999999)) ∧
    (let k := collPart 14 15 1 []; let s := collecting false 2 k; collB s k = true ∧ k.status = 1) ∧
    (∀ q ∈ [(2, 0), (4, 2)], let k := collPart 14 15 0 (zeros 16); let s := collecting false q.1 k
      collB s k = true ∧ s.colls.all (fun c => !c.reduce && decide (fld k.arg 47 32 < c.ring) && fld k.arg 31 16 == c.lastStep && c.part 0 15 == (0, 2) &&
        s.grantedB 1 { cls := 7 } [] [(c.dst + 15 * c.size, k.data.take 2)]) = true ∧ stepB s k 64 q.2 = true) ∧
    (∀ q ∈ [(0, 4, 4), (14, 4, 0), (29, 4, 0)], let k := collPart q.1 15 0 (zeros 4); let s := collecting true q.2.1 k
      collB s k = true ∧ stepB s k 128 q.2.2 = true) ∧
    (∀ q ∈ [(15, 15), (14, 16)], let k := collPart q.1 q.2 0 (zeros 16); let s := collecting false 2 k
      collB s k = true ∧ s.colls.all (fun c => (collStep c 0 (fld k.arg 31 16) (fld k.arg 47 32) k.data s).isNone) = true) := by
  decide +kernel

/-- Both ports are UP while job 1 begins a link stroke. -/
def linkStroke (op param : Nat) (opnds : List Nat) (m : List (Nat × List Byte)) : State :=
  let s := withReg (unitState 9 op .links param opnds m) 0 pgULZ 0x100 0xF0F
  { s with ports := [(0, { state := 2 }), (1, { state := 3 })] }

/-- Offset 0x100 in the GDDR6 of a node. -/
def atNode (n : Nat) : Nat := remoteBase + n * 2 ^ 40 + 0x100

def linkGather : State :=
  linkStroke 4 0xFFFF [0x1000, 0x2000, 0, 0] [f32 1 [2], f32 2 [32]]

/-- Job 2's collective is open under COLL_ID 0xFFFF. -/
def openColl : Coll :=
  { job := 2, idx := 0, id := 0xFFFF, vc := 0, reduce := true, bf16 := false, ring := 16, node := 15, src := 0, dst := 0, size := 64, done := 0, start := 0 }

theorem witness_LinkStrokes :
    (linkStroke 1 300 [0x4000, atNode 14, 0, 0] []).Unhindered 0x09 0x01 1 0 (copyLinkOp 1 0) ∧
    (linkStroke 1 33 [atNode 0, 0x4000, 0, 0] []).Unhindered 0x09 0x01 1 0 (copyLinkOp 1 0) ∧
    (∀ n ∈ [14, 15], (linkStroke 2 (4095 * 2 ^ 16 + 0xFFFF + 2 ^ 31) [n, 0, 0, 0] []).Unhindered 0x09 0x02 1 0 (semLinkOp 1 0)) ∧
    (let s := linkStroke 2 (4095 * 2 ^ 16 + 0xFFFF) [15, 0, 0, 0] []
     15 = s.node ∧ 4095 < (s.part 0).semCount ∧ (s.semOf 0 4095).mutex = false) ∧
    (linkStroke 3 0xFFFF [0x1000, 0, 0, 0] [f32 1 [16]]).Unhindered 0x09 0x03 1 0 (allreduceOp 1 0) ∧ linkGather.Unhindered 0x09 0x04 1 0 (allgatherOp 1 0) ∧
    1 < linkGather.ring ∧ (linkGather.port 0).alive = true ∧ (linkGather.port 1).alive = true ∧ linkGather.colls = [] ∧
    (∀ q ∈ [(0, 3), (2, 0), (2, 3)], let c : List Coll := if q = (2, 3) then [openColl] else []
      let s := { linkStroke 3 0xFFFF [0x1000, 0, 0, 0] [f32 1 [16]] with ports := Tab.put {} (Tab.put {} [] 0 { state := q.1 }) 1 { state := q.2 }, colls := c }
      let u := { linkGather with ports := Tab.put {} (Tab.put {} [] 0 { state := q.1 }) 1 { state := q.2 }, colls := c }
      s.Unhindered 0x09 0x03 1 0 (allreduceOp 1 0) ∧ u.Unhindered 0x09 0x04 1 0 (allgatherOp 1 0) ∧
      ((u.port 0).alive = false ∨ (u.port 1).alive = false ∨ u.colls = [openColl])) := by
  refine ⟨State.unhindered_of (by decide +kernel), State.unhindered_of (by decide +kernel), ?_, by decide +kernel, State.unhindered_of (by decide +kernel),
    State.unhindered_of (by decide +kernel), by decide +kernel, by decide +kernel, by decide +kernel, by decide +kernel, ?_⟩
  · intro n hn
    simp only [List.mem_cons, List.not_mem_nil, or_false] at hn
    rcases hn with rfl | rfl <;> exact State.unhindered_of (by decide +kernel)
  · intro q hq
    simp only [List.mem_cons, List.not_mem_nil, or_false] at hq
    rcases hq with rfl | rfl | rfl <;> exact ⟨State.unhindered_of (by decide +kernel), State.unhindered_of (by decide +kernel), by decide +kernel⟩


/-! ## Buffer pools -/

/-- Pool 15, selected, with a slice of partition 0 of one buffer of 8 KiB, and the reference count of the buffer. -/
def poolState (enabled : Bool) (st free refs : Nat) : State :=
  let s := withReg (withMem up 0x200000 (linkBytes 0 true 0 15 0 1)) 0 pgPOL 0x108 15
  { s with
    pools := [(15, { enable := enabled, size4k := 2, first := 1048575, slices := [(0, { enable := true, count := 1, base := 0x200000, state := st, free := free, gen := 1 })] })]
    refs := if refs = 0 then [] else [(1048575, refs)] }

/-- The pool as a write of POL_POOL_CFG asks for it. -/
def askedPool (s : State) (v : Nat) : State :=
  { s with pools := Tab.put {} s.pools 15 { s.pool 15 with stepUp := bit v 30, nextEn := bit v 29, next := fld v 27 24, size4k := fld v 17 0 } }

/-- An allocation from pool 15 of `n` times 4 KiB with TAG 63. -/
def allocWord (n : Nat) : Nat := 15 * 2 ^ 28 + n * 256 + 63

theorem witness_BufferPools_enable :
    (∀ free ∈ [0, 1], (poolState true 1 free 0).Wf ∧ (poolState true 1 free 0).Open 0 ∧ ((poolState true 1 free 0).pool 15).enable = true ∧
      ((poolState true 1 free 0).reg 0 pgPOL 0x108 % 16 = 15) ∧
      ((List.range 8).all (fun p => !(((poolState true 1 free 0).pool 15).slice p).enable || (((poolState true 1 free 0).pool 15).slice p).free == (((poolState true 1 free 0).pool 15).slice p).count))
        = decide (free = 1)) ∧
    (poolState false 0 0 0).Wf ∧ (poolState false 0 0 0).Open 0 ∧ ((poolState false 0 0 0).pool 15).enable = false ∧
    poolRefused (askedPool (poolState false 0 0 0) (2 ^ 31)) 15 = true ∧ poolRefused (askedPool (poolState false 0 0 0) (2 ^ 31 + 2)) 15 = false := by
  refine ⟨?_, State.wf_of_wfB (by decide +kernel), State.open_of_openB (by decide +kernel), by decide +kernel⟩
  intro n hn
  simp only [List.mem_cons, List.not_mem_nil, or_false] at hn
  rcases hn with rfl | rfl <;> exact ⟨State.wf_of_wfB (by decide +kernel), State.open_of_openB (by decide +kernel), by decide +kernel⟩

theorem witness_BufferPools_alloc :
    (poolState true 1 1 0).Wf ∧ (poolState true 1 1 0).Open 0 ∧ allocWord 3 < 2 ^ 32 ∧ (poolState true 1 1 0).partOf 0 = some 0 ∧ (poolState true 1 1 0).polWaits = [] ∧
    (allocate (poolState true 1 1 0) 0 (fld (allocWord 2) 31 28) (fld (allocWord 2) 25 8 * 4096)).1 = .got (15 * 2 ^ 20) 0x200000 ∧
    (allocate (poolState true 1 1 0) 0 (fld (allocWord 3) 31 28) (fld (allocWord 3) 25 8 * 4096)).1 = .noFit ∧
    (allocate (poolState true 1 0 1) 0 (fld (allocWord 2) 31 28) (fld (allocWord 2) 25 8 * 4096)).1 = .empty ∧
    (allocate (poolState true 3 0 0) 0 (fld (allocWord 2) 31 28) (fld (allocWord 2) 25 8 * 4096)).1 = .wait ∧
    (poolState true 1 0 1).Wf ∧ (poolState true 1 0 1).Open 0 ∧ (poolState true 3 0 0).Wf ∧ (poolState true 3 0 0).Open 0 ∧
    State.Wf { poolState true 3 0 0 with polWaits := [(0, allocWord 2 + 1)] } ∧ State.Open { poolState true 3 0 0 with polWaits := [(0, allocWord 2 + 1)] } 0 :=
  ⟨State.wf_of_wfB (by decide +kernel), State.open_of_openB (by decide +kernel), by decide +kernel, by decide +kernel, by decide +kernel, by decide +kernel, by decide +kernel,
   by decide +kernel, by decide +kernel, State.wf_of_wfB (by decide +kernel), State.open_of_openB (by decide +kernel), State.wf_of_wfB (by decide +kernel),
   State.open_of_openB (by decide +kernel), State.wf_of_wfB (by decide +kernel), State.open_of_openB (by decide +kernel)⟩

theorem witness_BufferPools_refs :
    (∀ n ∈ [0, 1, 2, 0xFFFE], (poolState true 1 0 n).Wf ∧ (poolState true 1 0 n).Open 0 ∧ (poolState true 1 0 n).partOf 0 = some 0 ∧
      (poolState true 1 0 n).refCount (fld (15 * 2 ^ 20) 23 20) (fld (15 * 2 ^ 20) 19 0) = n ∧ ((poolState true 1 0 n).pool 15).enable = true ∧
      ((poolState true 1 0 n).pool 15).sliceOf 0 = some 0 ∧ (((poolState true 1 0 n).pool 15).slice 0).state = 1) ∧
    ((poolState true 1 0 1).pool 15).sliceOf 1 ≠ some 0 ∧ (poolState false 0 0 0).Wf ∧ (poolState false 0 0 0).Open 0 ∧ ((poolState false 0 0 0).pool 15).enable = false ∧
    (((poolState false 0 0 0).pool 15).slice 0).enable = true ∧ (poolState true 1 0 1).reg 0 pgPOL 0x114 % 8 = 0 ∧
    (poolState true 3 0 0).Wf ∧ (poolState true 3 0 0).svc.halted = false ∧ (((poolState true 3 0 0).pool 15).slice 0).state = 3 ∧ (poolState true 3 0 0).polWaits = [] := by
  refine ⟨?_, by decide +kernel, State.wf_of_wfB (by decide +kernel), State.open_of_openB (by decide +kernel), by decide +kernel, by decide +kernel, by decide +kernel,
    State.wf_of_wfB (by decide +kernel), by decide +kernel⟩
  intro n hn
  simp only [List.mem_cons, List.not_mem_nil, or_false] at hn
  rcases hn with rfl | rfl | rfl | rfl <;> exact ⟨State.wf_of_wfB (by decide +kernel), State.open_of_openB (by decide +kernel), by decide +kernel⟩


/-! ## Partitions and the ruling table -/

/-- Partition 7 selected, in CONFIG for function 8 with ranges that meet no other, while partition 0 keeps to the lower halves. -/
def partState (x : Part) : State :=
  { withReg up 0 pgPAR 0x100 7 with
    parts := [(0, { Part.factory0 with window := 512, qCount := 4095, sCount := 32767, semCount := 4095, sessCount := 16383, gSize := 100 }), (7, x)] }

def part7 : Part :=
  { state := .config, fn := 8, qCount := 1, qFirst := 4095, sCount := 1, sFirst := 32767, semCount := 1, semFirst := 4095, sessCount := 1, sessFirst := 16383, gSize := 1, gBase := 100 }

/-- ACTIVE, MAX_PRIORITY 7, WINDOW 512 for function 8. -/
def partWord : Nat := 2 * 2 ^ 30 + 8 * 2 ^ 24 + 7 * 2 ^ 20 + 512

/-- A move of a unit to partition 7, and one under way. -/
def moveWord (kind n : Nat) : Nat := 7 * 2 ^ 24 + kind * 2 ^ 16 + n
def moving (kind n : Nat) : State := { partState part7 with unitMove := { status := 1, kind := kind, index := n, dest := 7 }, segs := if kind = 1 then [(n, { power := .off })] else [] }

theorem witness_PartitionsAndRuling_units :
    (partState part7).Wf ∧ (partState part7).Open 0 ∧ fld ((partState part7).reg 0 pgPAR 0x100) 2 0 = 7 ∧
    parStateOk (partState part7) 7 partWord = true ∧ parStateOk (partState part7) 7 (partWord + 1) = false ∧
    (partState part7).unitMove.status ≠ 1 ∧ moveReason (partState part7) 0 15 7 = 0 ∧ moveReason (partState part7) 2 255 7 = 0 ∧ moveReason (partState part7) 4 15 7 = 0 ∧
    moveReason (partState part7) 0 16 7 = 5 ∧ moveReason (partState part7) 0 15 0 = 1 ∧
    (∀ k ∈ [(0, 15), (1, 31)], (moving k.1 k.2).Wf ∧ (moving k.1 k.2).Open 0 ∧ (moving k.1 k.2).unitMove.status = 1 ∧ (moving k.1 k.2).unitMove.kind = k.1 ∧
      (moving k.1 k.2).safePoint k.1 (moving k.1 k.2).unitMove.index = true) := by
  refine ⟨State.wf_of_wfB (by decide +kernel), State.open_of_openB (by decide +kernel), by decide +kernel, by decide +kernel, by decide +kernel, by decide +kernel, by decide +kernel,
    by decide +kernel, by decide +kernel, by decide +kernel, by decide +kernel, ?_⟩
  intro n hn
  simp only [List.mem_cons, List.not_mem_nil, or_false] at hn
  rcases hn with rfl | rfl <;> exact ⟨State.wf_of_wfB (by decide +kernel), State.open_of_openB (by decide +kernel), by decide +kernel⟩

/-- A table of two entries at 0x10000: one that reserves cluster 15 for partition 0, and one of a duration. -/
def tableState (duration : Nat) (r : Ruling) : State :=
  let e (d c : Nat) : List Byte := leBytes 4 d ++ leBytes 2 c ++ [if c = 0 then 0 else 0x80] ++ zeros 9
  { withReg (withReg (withMem up 0x10000 (e 100 0x8000 ++ e duration 0)) 0 pgPAR 0x140 0x10000) 0 pgPAR 0x148 2 with ruling := r, ticks := 20000 }

/-- What R270 asks of entry `k` of that table. -/
def entryOk (s : State) (k : Nat) : Bool :=
  regionOf (0x10000 + 16 * k) 16 = .gddr && !s.meetsPoison (0x10000 + 16 * k) 16 && !badRul s (s.bytesAt (0x10000 + 16 * k) 16)

/-- The ruling table runs entry `k` of two since tick 10,000. -/
def ruling (k d : Nat) : Ruling := { table := [{ duration := d }, { duration := d }], pendingTable := some [{ duration := 100 }], enable := true, entry := k, slotStart := 10000 }

theorem witness_PartitionsAndRuling_table :
    (∀ r ∈ [({} : Ruling), ruling 0 100], (tableState 10000 r).Wf ∧ (tableState 10000 r).Open 0 ∧ (tableState 10000 r).ruling.enable = r.enable ∧
      fld ((tableState 10000 r).reg 0 pgPAR 0x148) 9 0 = 2 ∧ (tableState 10000 r).reg 0 pgPAR 0x140 + (tableState 10000 r).reg 0 pgPAR 0x144 * 2 ^ 32 = 0x10000 ∧
      entryOk (tableState 10000 r) 0 = true ∧ entryOk (tableState 10000 r) 1 = true) ∧
    (tableState 10001 {}).Wf ∧ (tableState 10001 {}).Open 0 ∧ entryOk (tableState 10001 {}) 0 = true ∧ entryOk (tableState 10001 {}) 1 = false ∧
    (∀ k ∈ [0, 1], (tableState 100 (ruling k 10000)).Wf ∧ (tableState 100 (ruling k 10000)).svc.halted = false ∧ (tableState 100 (ruling k 10000)).ruling.table[k]? = some { duration := 10000 } ∧
      (tableState 100 (ruling k 10000)).ruling.slotStart + 10000 ≤ (tableState 100 (ruling k 10000)).ticks) ∧
    (tableState 100 (ruling 0 10001)).ticks < (tableState 100 (ruling 0 10001)).ruling.slotStart + 10001 ∧
    (let s := partState { part7 with gddr := { rate := 2, depth := 3, level := -64, held := true }, measure := false, measureNext := some true }
     s.Wf ∧ s.svc.halted = false ∧ (s.port 0).waiting = [] ∧ (s.port 1).waiting = []) := by
  refine ⟨?_, State.wf_of_wfB (by decide +kernel), State.open_of_openB (by decide +kernel), by decide +kernel, by decide +kernel, ?_, by decide +kernel,
    State.wf_of_wfB (by decide +kernel), by decide +kernel⟩
  · intro n hn
    simp only [List.mem_cons, List.not_mem_nil, or_false] at hn
    rcases hn with rfl | rfl <;> exact ⟨State.wf_of_wfB (by decide +kernel), State.open_of_openB (by decide +kernel), by decide +kernel⟩
  · intro n hn
    simp only [List.mem_cons, List.not_mem_nil, or_false] at hn
    rcases hn with rfl | rfl <;> exact ⟨State.wf_of_wfB (by decide +kernel), by decide +kernel⟩


/-! ## GDDR6 -/

/-- The last byte of 8 positions of 992 MiB. -/
def lastByte : Nat := 7936 * 2 ^ 20 - 1

/-- GDDR6 with or without a spare behind M8, while job 1 runs. -/
def memState (g : Gddr) : State := { withJob up (running 4 1 (.mover 0) 0 [0, 0, 0, 0]) with gddr := g, ticks := 5000000 }

/-- Trained, M8 a spare that works. -/
def spared : Gddr := { trained := true, spare := true }

/-- The premises on a byte, whose position is in service. -/
def errorB (s : State) (a : Nat) (spare : Bool) : Bool :=
  s.wfB && !s.svc.halted && s.memServes && decide (a < s.usable) && !s.servedByM8 a && !(s.pos (s.posOf a)).withdrawn && !s.gddr.migrating && s.gddr.spare == spare

theorem witness_MemoryErrors :
    (∀ b ∈ [false, true], let s := memState { spared with spare := b }
      errorB s 0 b = true ∧ errorB s lastByte b = true ∧ errorB s (lastByte + 1) b = false ∧ (s.job 1).phase = .running ∧ (s.job 1).killed = none) ∧
    (memState spared).calm 3 2 ((memState spared).posOf lastByte) 1 ∧ (memState spared).calm 3 3 ((memState spared).posOf lastByte) 3 := by
  refine ⟨by decide +kernel, ?_, ?_⟩ <;> (simp only [State.calm]; decide +kernel)

/-- Bits of a block that come back flipped. -/
def flipped (l : List Nat) : BlockErr := { flips := l, wrongAddress := false }

/-- What the code makes of an error, at the first and the last bit of the data and of the code. -/
theorem witness_MemoryErrors_code :
    [[], [528]].map (fun l => decodeBlock (flipped l)) = [.clean, .clean] ∧ [[0], [511], [527]].map (fun l => decodeBlock (flipped l)) = [.corrected, .corrected, .corrected] ∧
    [[0, 527], [504, 505, 506, 507, 508, 509, 510, 511]].map (fun l => decodeBlock (flipped l)) = [.detected, .detected] ∧
    decodeBlock { flips := [], wrongAddress := true } = .detected ∧ [[510, 511, 512], [7, 8, 9]].map (fun l => decodeBlock (flipped l)) = [.unstated, .unstated] := by
  decide +kernel

/-- A block that is POISONED, at both ends of memory. -/
theorem witness_MemoryErrors_poisoned :
    ∀ b ∈ [0, lastByte / 64], let s := { memState spared with poisoned := [(b, true)] }
      errorB s (b * 64) true = true ∧ Tab.get false s.poisoned (b * 64 / 64) = true ∧ (s.job 1).phase = .running ∧ (s.job 1).killed = none := by
  decide +kernel

/-- The scrubber reaches block `b` next, which is POISONED or not. -/
def scrubState (b : Nat) (poisoned : Bool) : State := { memState { spared with scrub := b } with poisoned := if poisoned then [(b, true)] else [] }

theorem witness_MemoryErrors_scrub :
    (∀ p ∈ [false, true], ∀ b ∈ [0, lastByte / 64], let s := scrubState b p
      errorB s (b * 64) true = true ∧ s.reg 0 pgMEM 0x10C % 65536 ≠ 0 ∧ Tab.get false s.poisoned s.gddr.scrub = p ∧ s.powered 7 = true ∧
      decide (s.usable / 64 ≤ s.gddr.scrub + 1) = decide (b ≠ 0)) ∧
    (∀ b ∈ [0, lastByte / 64], (scrubState b false).calm 3 2 ((scrubState b false).posOf (b * 64)) 1) := by
  refine ⟨by decide +kernel, ?_⟩
  intro b hb
  simp only [List.mem_cons, List.not_mem_nil, or_false] at hb
  rcases hb with rfl | rfl <;> (simp only [State.calm]; decide +kernel)

/-- A migration of position 7 to M8. -/
def migration (copying : Bool) (page : Nat) : State := memState { spared with migrating := true, source := 7, copying := copying, page := page }

/-- An address in the last page of position 7, and one in its first page. -/
def inPage (first : Bool) : Nat := if first then 7 * 512 else lastByte

/-- A device of 8 Gb that trained with a margin. -/
def trained (m : Nat) : TrainRun := { answers := true, dense := false, ok := true, read := m, write := m }

theorem witness_MemoryService :
    (∀ n ∈ [0, 7, 8], let s := { memState spared with positions := if n = 0 then [] else [(7, { postponed := [(31, n)] })] }
      s.wfB = true ∧ s.svc.halted = false ∧ (s.pos 7).withdrawn = false ∧ s.memServes = true ∧ Tab.get 0 (s.pos 7).postponed 31 = n) ∧
    (let s := memState spared
     s.powered 0 = true ∧ s.powered 7 = true ∧ s.powered 8 = false ∧ (s.pos 7).retraining = false ∧ s.mbxRuns 0x11 = false ∧ s.gddr.marginsOk 8 8 = true ∧ s.gddr.marginsOk 7 8 = false ∧
     s.gddr.marginsOk 8 7 = false ∧ s.gddr.migrating = false ∧ s.gddr.spare = true) ∧
    (∀ q ∈ [(false, 0), (true, 0), (true, 262143), (true, 262144)], let s := migration q.1 q.2
      s.wfB = true ∧ s.svc.halted = false ∧ s.gddr.migrating = true ∧ s.memServes = true ∧ s.gddr.copying = q.1 ∧ decide (s.gddr.page < s.gddr.pages) = decide (q.2 ≠ 262144) ∧
      s.reserve.queue = []) ∧
    (let s := { up with gddr := {}, regs := [] }
     s.wfB = true ∧ s.svc.halted = false ∧ s.gddr.trained = false ∧ s.svc.stage ≠ 3 ∧ s.gddr.frozen = false ∧ (s.pos 7).withdrawn = false ∧
     bootDensity (List.replicate 9 (trained 8)) = false ∧ (List.replicate 9 (trained 8))[s.physOf 3 7]? = some (trained 8) ∧ coldResult s.gddr false (trained 8) = 1 ∧
     coldResult s.gddr false (trained 7) = 2 ∧ coldResult s.gddr true (trained 8) = 4 ∧ coldResult s.gddr false { trained 8 with answers := false } = 5) ∧
    (∀ b ∈ [false, true], let r : MemReq := { addr := 31, write := false, cls := 7, core := 0, came := 0 }
     let s := { memState spared with channels := if b then [(1, { reads := [r] })] else [] }
     s.wfB = true ∧ s.svc.halted = false ∧ (s.pos 0).withdrawn = false ∧ s.memServes = true ∧ s.readsQueued 0 1 0 = b) := by
  decide +kernel

/-- An address of position 7 in the page that the copy reaches. -/
theorem witness_MemoryService_copy :
    (let s := migration true 0
     inPage true < s.usable ∧ s.posOf (inPage true) = s.gddr.source ∧ s.dramPage (inPage true) = s.gddr.page) := by
  decide +kernel


/-! ## Boot, resets of the device, power and temperature -/

/-- Unit initialisation has come to its end: the firmware runs, GDDR6 is trained or frozen. -/
def booted (frozen : Bool) : State :=
  { up with funcs := [], svc := { stage := 1, initialising := true, fwRaise := true, svn := 3 }, gddr := { trained := true, frozen := frozen } }

/-- The PF in D3hot or D0, while job 1 runs and both ports are UP. -/
def powerState (d3 : Bool) : State :=
  { withJob up (running 4 1 (.mover 0) 0 [0, 0, 0, 0]) with
    funcs := (0, { ready := true, busMaster := true, d3hot := d3 }) :: (List.range 8).map (fun fn => (fn + 1, { ready := true, busMaster := true }))
    ports := [(0, { state := 2 }), (1, { state := 2 })] }

theorem witness_BootAndPower :
    up.Wf ∧ up.mbx.state ≠ .busy ∧ up.svc.halted = false ∧ up.svc.stage = 2 ∧
    (∀ b ∈ [false, true], (booted b).Wf ∧ (let s := booted b
      s.svc.halted = false ∧ s.svc.stage = 1 ∧ s.svc.initialising = true ∧ s.gddr.trained = true ∧ s.selfTestPends = false ∧ (s.func 0).flr = false ∧ s.gddr.frozen = b ∧
      s.gddr.again = 0 ∧ s.reserve.queue = [] ∧ s.mbx.state ≠ .busy)) ∧
    (∀ b ∈ [false, true], (powerState b).Wf ∧ (let s := powerState b
      s.svc.halted = false ∧ (s.func 0).flr = false ∧ s.pcie.coreFailed = false ∧ (s.func 0).d3hot = b)) ∧
    (115 ≤ degC 115 ∧ degC 114 < 115 ∧ degC 0xFF < 115 ∧ (23 : Nat) < 24) := by
  refine ⟨State.wf_of_wfB (by decide +kernel), by decide +kernel, by decide +kernel, by decide +kernel, ?_, ?_, by decide +kernel⟩ <;>
  · intro b hb
    simp only [List.mem_cons, List.not_mem_nil, or_false] at hb
    rcases hb with rfl | rfl <;> exact ⟨State.wf_of_wfB (by decide +kernel), by decide +kernel⟩

/-- The boot ROM waits for the sensors to cool. -/
def waiting : State := { up with svc := { halted := true, bootWait := some { strap := 3, lanes := 8, rate := 5, flashOk := true, fuseOk := true } } }

/-- Every sensor reads 109 degrees, or one reads 110. -/
theorem witness_BootAndPower_wait :
    waiting.Wf ∧ waiting.svc.halted = true ∧ waiting.svc.bootWait = some { strap := 3, lanes := 8, rate := 5, flashOk := true, fuseOk := true } ∧
    (waiting.svc.temps.mapIdx (fun k _ => (List.replicate 24 109).getD k 0 % 256)).all (fun v => decide (degC v < 110)) = true ∧
    (waiting.svc.temps.mapIdx (fun k _ => (List.replicate 23 20 ++ [110]).getD k 0 % 256)).any (fun v => decide (110 ≤ degC v)) = true ∧ up.svc.bootWait = none := by
  exact ⟨State.wf_of_wfB (by decide +kernel), by decide +kernel⟩

/-- Where the alert is, and one sample of 24 equal readings later: asserted from 105 degrees on, released at 102, kept between. -/
def alertAfter (alert : Bool) (t : Nat) : Bool × Bool :=
  let s := after (.thermalSample (List.replicate 24 t) 0) { up with svc := { up.svc with alert := alert } }
  (s.svc.alert, s.svc.halted)

theorem witness_ThermalAlertLine :
    up.Wf ∧ up.svc.halted = false ∧ up.svc.bootWait = none ∧ (fld (up.reg 0 pgCLK 0x124) 15 8 = 105 ∧ fld (up.reg 0 pgCLK 0x124) 19 16 = 3) ∧ 115 ≤ degC 115 ∧ (23 : Nat) < 24 :=
  ⟨State.wf_of_wfB (by decide +kernel), by decide +kernel⟩

theorem test_alert_levels :
    alertAfter false 105 = (true, false) ∧ alertAfter false 104 = (false, false) ∧ alertAfter true 103 = (true, false) ∧ alertAfter true 102 = (false, false) ∧
    alertAfter false 115 = (true, true) := by decide +kernel


/-! ## The event recorder and the reserve -/

/-- A record of partition 3, charged to it or not, that opened at a tick. -/
def rec (num : Nat) (charged : Bool) (tick : Nat) : LogRec :=
  { num := num, cycle := 1, blk := 0, ev := { cls := 2, code := 0x31, seconds := 0, stroke := 0, part := 3, charged := charged, fn := 2, page := 0, check := 1, detail := [1, 2], tick := tick, times := 1, last := 0 } }

/-- A recorder with records 1 to 3 in its log, one of them another's, at tick `tk`; partition 3 is function 2's. -/
def recorderState (opened : List LogRec) (staged : List Event) (freezes : List (Nat × Nat)) (tk : Nat) : State :=
  { up with
    ticks := tk
    parts := [(0, Part.factory0), (3, { state := .active, fn := 2 })]
    recorder := { log := [rec 1 true 0, rec 2 false 0, rec 3 true 0], opened := opened, staged := staged, next := 5, freezes := freezes } }

theorem witness_EventRecorder :
    (∀ tk ∈ [1999999, 2000000], (recorderState [rec 4 true 1000000] [] [] tk).Wf ∧ (let s := recorderState [rec 4 true 1000000] [] [] tk
      s.svc.halted = false ∧ s.recorder.opened = rec 4 true 1000000 :: [] ∧ decide ((rec 4 true 1000000).ev.tick + 1000000 ≤ s.ticks) = decide (tk = 2000000))) ∧
    (∀ tk ∈ [3599999999, 3600000000], (recorderState [] [] [] tk).Wf ∧ (recorderState [] [] [] tk).svc.halted = false ∧
      decide ((recorderState [] [] [] tk).recorder.checkpoint + 3600000000 ≤ (recorderState [] [] [] tk).ticks) = decide (tk = 3600000000)) ∧
    (let s := recorderState [rec 4 true 0] [] [] 0
     s.Wf ∧ s.Open 2 ∧ s.recorder.freezes = [] ∧ s.recorder.present.find? (fun l => l.num == 3) = some (rec 3 true 0) ∧ s.mayRead 2 (rec 3 true 0).ev = true ∧
     s.recorder.present.find? (fun l => l.num == 2) = some (rec 2 false 0) ∧ s.mayRead 2 (rec 2 false 0).ev = false ∧ s.mayRead 0 (rec 2 false 0).ev = true ∧ s.Open 0 ∧ s.Open 1) ∧
    (∀ f ∈ [[(2, 0)], [(2, 0), (8, 0)]], (recorderState [] [(rec 4 true 0).ev] f 1000000).Wf ∧ (recorderState [] [(rec 4 true 0).ev] f 1000000).Open 2 ∧
      (let s := recorderState [] [(rec 4 true 0).ev] f 1000000
       (2, 0) ∈ s.recorder.freezes ∧ 0 + s.recorder.freezeLimit * 1000 ≤ s.ticks ∧ s.recorder.clearing = none ∧ s.recorder.lostNow = 0 ∧
       s.recorder.freezes.all (fun f => f.1 == 2) = decide (f.length = 1))) := by
  refine ⟨?_, ?_, ?_, ?_⟩
  · intro n hn
    simp only [List.mem_cons, List.not_mem_nil, or_false] at hn
    rcases hn with rfl | rfl <;> exact ⟨State.wf_of_wfB (by decide +kernel), by decide +kernel⟩
  · intro n hn
    simp only [List.mem_cons, List.not_mem_nil, or_false] at hn
    rcases hn with rfl | rfl <;> exact ⟨State.wf_of_wfB (by decide +kernel), by decide +kernel⟩
  · exact ⟨State.wf_of_wfB (by decide +kernel), State.open_of_openB (by decide +kernel), by decide +kernel, by decide +kernel, by decide +kernel, by decide +kernel, by decide +kernel,
      by decide +kernel, State.open_of_openB (by decide +kernel), State.open_of_openB (by decide +kernel)⟩
  · intro n hn
    simp only [List.mem_cons, List.not_mem_nil, or_false] at hn
    rcases hn with rfl | rfl <;> exact ⟨State.wf_of_wfB (by decide +kernel), State.open_of_openB (by decide +kernel), by decide +kernel⟩

/-- What function 2, a VF with partition 3, reads of records 1 to 3, and what the PF reads: state and the next number. -/
def selected (fn num : Nat) : Nat × Nat := let e : EvtSel := Tab.get {} (after (.evtSelWrite fn num) (recorderState [] [] [] 0)).evtSels fn; (e.state, e.next)

theorem witness_VfReadsItsRecords :
    (∀ fn ∈ [0, 2, 8], (recorderState [] [] [] 0).Open fn ∧ fn < 9) ∧ (2 ^ 32 - 1 < 2 ^ 32) ∧ (recorderState [] [] [] 0).partOf 2 = some 3 ∧
    (recorderState [] [] [] 0).recorder.present.length = 3 := by
  refine ⟨?_, by decide +kernel⟩
  intro n hn
  simp only [List.mem_cons, List.not_mem_nil, or_false] at hn
  rcases hn with rfl | rfl | rfl <;> exact ⟨State.open_of_openB (by decide +kernel), by decide +kernel⟩

theorem test_vf_selection :
    [selected 2 0, selected 2 1, selected 2 2, selected 2 3] = [(2, 1), (1, 3), (2, 3), (1, 0)] ∧ [selected 0 1, selected 0 2] = [(1, 2), (1, 3)] ∧ selected 8 1 = (2, 0) := by
  decide +kernel

/-- A spare-in is in hand, or none. -/
def spareState (r : Reserve) : State := { up with reserve := r, gddr := { trained := true, spare := true }, ports := [(1, { state := 2, lanes := [0, 1, 2, 4] })] }

/-- A trigger of a unit that retires it. -/
def trig (kind n : Nat) : Trigger := { kind := kind, index := n, cause := 5, retire := true, byMailbox := false }

/-- Job 1 runs on cluster 15, so that it is not free. -/
def busyCluster (r : Reserve) : State :=
  { withJob (spareState r) (running 1 1 (.whole 15) 0 [0, 0, 0, 0]) with clusters := [(15, { left := some ⟨1, 0⟩, right := some ⟨1, 0⟩ })] }

theorem witness_ReserveManager_triggers :
    (∀ q ∈ [(0, 15), (1, 31), (2, 7)], (spareState {}).Wf ∧ (let s := spareState {}
      s.svc.halted = false ∧ q.1 < 3 ∧ q.2 < unitsOf q.1 ∧ s.withdrawn q.1 q.2 = false ∧ s.reserve.hasTrigger q.1 q.2 = false ∧ s.reserve.running = none ∧ s.reserve.queue = [] ∧
      s.svc.initialising = false ∧ (Tab.get {} s.modeUnits (unitPage q.1 q.2)).pending = 0) ∧
      (spareState { running := some (trig 0 0), phase := 2 }).Wf ∧ (let s := spareState { running := some (trig 0 0), phase := 2 }
      s.withdrawn q.1 q.2 = false ∧ s.reserve.hasTrigger q.1 q.2 = false ∧ s.reserve.running ≠ none)) ∧
    (let s : State := { up with clusters := [(15, { withdrawn := true })] }
     s.svc.halted = false ∧ s.withdrawn 0 15 = true) ∧
    [0, 1, 2].map (spareState {}).hasSpare = [true, true, true] ∧
    (let s := spareState { spareCluster := false, spareSegs := 0, spareCore := false }
     s.Wf ∧ s.svc.halted = false ∧ s.withdrawn 0 15 = false ∧ s.reserve.hasTrigger 0 15 = false ∧ s.reserve.running = none ∧ s.reserve.queue = [] ∧ s.svc.initialising = false ∧
     (Tab.get {} s.modeUnits (unitPage 0 15)).pending = 0 ∧ [0, 1, 2].map s.hasSpare = [false, false, false]) ∧
    (let s := spareState {}
     (s.cluster 15).withdrawn = false ∧ (s.core 7).withdrawn = false ∧ s.reserve.wearCluster ≤ 10 ∧ 9 < s.reserve.wearCluster ∧ s.reserve.wearCore ≤ 10 ∧ 9 < s.reserve.wearCore) := by
  refine ⟨?_, by decide +kernel, by decide +kernel, ⟨State.wf_of_wfB (by decide +kernel), by decide +kernel⟩, by decide +kernel⟩
  intro n hn
  simp only [List.mem_cons, List.not_mem_nil, or_false] at hn
  rcases hn with rfl | rfl | rfl <;> exact ⟨State.wf_of_wfB (by decide +kernel), by decide +kernel, State.wf_of_wfB (by decide +kernel), by decide +kernel⟩

theorem witness_ReserveManager_completion :
    (∀ q ∈ [(0, 15), (1, 31), (2, 7)],
      (spareState { running := some (trig q.1 q.2), phase := 2 }).Wf ∧ (let s := spareState { running := some (trig q.1 q.2), phase := 2 }
      s.svc.halted = false ∧ s.reserve.running = some (trig q.1 q.2) ∧ s.reserve.queue = [] ∧ s.reserve.phase = 2 ∧ s.hasSpare q.1 = true ∧ s.drained q.1 q.2 = true) ∧
      (spareState { running := some (trig q.1 q.2), phase := 6 }).Wf ∧ (let s := spareState { running := some (trig q.1 q.2), phase := 6 }
      s.reserve.phase = 6 ∧ s.reserve.running = some (trig q.1 q.2) ∧ s.drained q.1 q.2 = true)) ∧
    (let s := busyCluster { running := some (trig 0 15), phase := 2 }
     s.Wf ∧ s.drained 0 15 = false) ∧
    (let s := spareState { running := some (trig 4 (1 + 2 * 3)), phase := 2 }
     s.Wf ∧ s.reserve.running = some (trig 4 7) ∧ (trig 4 7).kind = 4 ∧ s.reserve.phase ≠ 4 ∧ (s.port (7 % 2)).state = 2 ∧ (s.port 1).lanes.getD (7 / 2) 0 = 4) := by
  refine ⟨?_, ⟨State.wf_of_wfB (by decide +kernel), by decide +kernel⟩, State.wf_of_wfB (by decide +kernel), by decide +kernel⟩
  intro n hn
  simp only [List.mem_cons, List.not_mem_nil, or_false] at hn
  rcases hn with rfl | rfl | rfl <;> exact ⟨State.wf_of_wfB (by decide +kernel), by decide +kernel, State.wf_of_wfB (by decide +kernel), by decide +kernel⟩



/-! ## Pins, flits and flash -/

/-- How many of the 2,601 balls have a property. -/
def ballCount (f : Ball → Bool) : Nat :=
  ((List.range 51).map (fun r => ((List.range 51).filter (fun c => ((ballAt (r + 1) (c + 1)).map f).getD false)).length)).foldl (· + ·) 0

/-- The counts of R381, R383 and R385: 743 signals, 144 VDDQ_G, 449, 22, 58, 18, 4 and 6 of the rails, 1,157 VSS. -/
theorem test_ball_counts :
    ballCount (·.isSignal) = 743 ∧ [Ball.vddqG, .vddCore, .vddPlate, .vddPhy, .vddhPhy, .vddaPll, .vddIo, .vss].map (fun b => ballCount (fun x => decide (x = b))) =
      [144, 449, 22, 58, 18, 4, 6, 1157] := by decide +kernel

/-- The two examples of R383, and lanes and signals of R384. -/
theorem test_ball_places : ballAt 49 23 = some (.wckT 5 true) ∧ ballAt 20 51 = some (.dq 8 false 0) ∧ ballAt 34 2 = some (.peTx 7 true) ∧ ballAt 41 48 = some (.uRx 1 4 false) ∧
    ballAt 40 2 = some .thermAlertN ∧ ballAt 52 1 = none := by decide +kernel

/-- R394: 39, 32, 1,917 and 40 cells, 2,028 in all. -/
theorem test_scan_cells : scanCells.length = 2028 ∧ cellIndex ⟨.perstN, .input⟩ = some 0 ∧ cellIndex ⟨.peTx 0 false, .output⟩ = some 39 ∧ cellIndex ⟨.dq 0 false 0, .input⟩ = some 71 ∧
    cellIndex ⟨.uTx 0 0 false, .output⟩ = some 1988 := by decide +kernel

/-- The check value that CRC-64/ECMA-182 has for the nine digits. -/
theorem test_crc64 : crc64 ("123456789".toUTF8.toList.map (fun c => BitVec.ofNat 8 c.toNat)) = 0x6C40DF5F0B497347 := by decide +kernel

/-- The head of a flit by R317: SEQ 1, ACK 2, NAK, 5 units for VC 3. -/
theorem test_flit_head : let b := ({ seq := 1, ack := 2, nak := true, creditVc := 3, credit := 5, units := [] } : Flit).bytes
    b.length = 256 ∧ (b.take 8).map (·.toNat) = [0x01, 0x20, 0x00, 0x07, 0x05, 0, 0, 0] := by decide +kernel

/-- R318: a packet served returns its units, and the next flit carries them. -/
theorem test_credit_returned :
    let x := ({ used := [(3, 2)], rxSeq := 7 } : Port).freeUnits 3 2
    x.used = [] ∧ x.owed = [(3, 2)] ∧ (x.addFlit [1]).owed = [] ∧ ((x.addFlit [1]).replay.map (fun f => (f.ack, f.creditVc, f.credit))) = [(7, 3, 2)] := by decide +kernel

/-- R363: a block of the event area begins with MAGIC, the number of its first record and the power cycle. -/
theorem test_event_block :
    (({ log := [{ num := 9, cycle := 2, blk := 513, ev := ({ cls := 0x10, code := 2 } : EvArgs).record .reset }], headBlk := 513 } : Recorder).blockAt 1).take 12 =
      leBytes 4 0x4B4C5645 ++ leBytes 4 9 ++ leBytes 4 2 := by decide +kernel

/-- R387: in thermal shutdown RESET_N is low, the lanes are off and THERM_ALERT_N is asserted; before the boot the lanes idle. -/
theorem test_pin_states :
    (let s : State := { up with svc := { up.svc with halted := true, shut := true } }
     [Ball.memResetN 0, .dq 0 false 0, .peTx 0 false, .spiCsN, .thermAlertN, .smbDat, .tdo].map s.pinState =
       [some .low, some .pulledLow, some .off, some .high, some .asserted, some .released, some .highZ]) ∧
    (let s : State := { State.reset with svc := { halted := true } }
     [Ball.memResetN 0, .peTx 0 false, .uTx 1 4 true, .thermAlertN].map s.pinState = [some .low, some .idle, some .idle, some .released]) := by decide +kernel


end Sys2Proof.Tests
end

section
/-! The reports of the device: the recorder after an event, and a violation as `State.Violated` states it (R32, R364). -/
namespace Sys2Proof.Machine

/-! ## The recorder after an event -/

/-- The recorder that a plan leaves rests on the recorder that it meets, and on nothing else of the state. -/
def Plan.RecorderLocal (p : Plan) : Prop := ∀ s t : State, s.recorder = t.recorder → (p.run s).recorder = (p.run t).recorder

theorem Plan.Only.recorderLocal {F : List Field} {p : Plan} (h : Plan.Only F p) (hF : Field.recorder ∉ F) : Plan.RecorderLocal p := by
  intro s t hr
  have hs : (p.run s).recorder = s.recorder := h.same s hF
  have ht : (p.run t).recorder = t.recorder := h.same t hF
  rw [hs, ht, hr]

theorem Plan.recorderLocal_act_recorder (r : Recorder) : Plan.RecorderLocal (Plan.act (.recorder r)) := fun _ _ _ => rfl

theorem Plan.RecorderLocal.andThen {p q : Plan} (hp : Plan.RecorderLocal p) (hq : Plan.RecorderLocal q) : Plan.RecorderLocal (Plan.andThen p q) := by
  intro s t hr
  rw [Plan.run_andThen, Plan.run_andThen]
  exact hq _ _ (hp s t hr)

theorem Plan.RecorderLocal.when {p : Plan} (b : Bool) (hp : Plan.RecorderLocal p) : Plan.RecorderLocal (Plan.when b p) := by
  intro s t hr
  cases b with
  | false => exact hr
  | true => exact hp s t hr

theorem setRecorder_recorderLocal (x : Recorder × Nat) : Plan.RecorderLocal (setRecorder x) :=
  (Plan.recorderLocal_act_recorder x.1).andThen ((Plan.only_when (raiseErr_only ..)).recorderLocal (by simp))

theorem appendNow_recorderLocal (e : Event) : Plan.RecorderLocal (appendNow e) := by
  intro s t hr
  rw [Plan.run_def, Plan.run_def]
  unfold appendNow
  rw [hr]
  exact setRecorder_recorderLocal _ s t hr

theorem commitOldest_recorderLocal : Plan.RecorderLocal commitOldest := by
  intro s t hr
  rw [Plan.run_def, Plan.run_def]
  unfold commitOldest
  rw [hr]
  cases t.recorder.opened with
  | nil => exact hr
  | cons l ls => exact setRecorder_recorderLocal _ s t hr

theorem openRecord_recorderLocal (e : Event) : Plan.RecorderLocal (openRecord e) := by
  intro s t hr
  rw [Plan.run_def, Plan.run_def]
  unfold openRecord
  rw [hr]
  refine (commitOldest_recorderLocal.when _).andThen (fun u v huv => ?_) s t hr
  simp only [Plan.run, State.applyAll, State.apply, huv]

/-- The recorder after an event rests on the recorder, the clock and the stage of service before it. -/
theorem event_recorder_congr {s t : State} (a : EvArgs) (hr : s.recorder = t.recorder) (ht : s.ticks = t.ticks) (hsvc : s.svc = t.svc) :
    ((event a).run s).recorder = ((event a).run t).recorder := by
  have he : a.record s = a.record t := by simp only [EvArgs.record, State.seconds, hr, ht]
  rw [Plan.run_def, Plan.run_def]
  unfold event
  simp only [he, hr, hsvc]
  by_cases hrec : t.svc.stage = 3
  · simp only [if_pos hrec]
    exact hr
  simp only [if_neg hrec]
  by_cases hu : urgentEvent (a.record t) = true
  · simp only [if_pos hu]
    exact appendNow_recorderLocal _ s t hr
  simp only [if_neg hu]
  by_cases hf : (!t.recorder.freezes.isEmpty || t.recorder.clearing.isSome) = true
  · simp only [if_pos hf]
    cases countIn (a.record t) t.recorder.staged with
    | some st => rfl
    | none =>
      by_cases hfull : t.recorder.staged.length < 64
      · simp only [if_pos hfull]
        rfl
      · simp only [if_neg hfull]
        exact ((Plan.recorderLocal_act_recorder _).andThen ((raiseErr_only ..).recorderLocal (by simp))) s t hr
  · simp only [if_neg hf]
    cases countOpen (a.record t) t.recorder.opened with
    | some os => rfl
    | none => exact openRecord_recorderLocal _ s t hr

/-! ## Violations -/

/-- A violation is reported as R32 says: it is counted, it is the last one, and its event is recorded. -/
theorem violation_violated {s : State} (hs : s.Wf) (fn code queue : Nat) (hc : code < 2 ^ 12) : s.Violated ((violation fn code queue).run s) fn code queue where
  count := violation_count hs fn code queue
  last := violation_last hs fn code queue hc
  logged := by
    rw [violation_run]
    exact event_recorder_congr _ rfl rfl rfl

end Sys2Proof.Machine
end

section
/-! REGISTER_WRITE and CLK_TIME_LO_READ, case by case (R5, R6, R8, R11, R32 code 0x05, R328). -/
namespace Sys2Proof.Machine

/-! ## Gates and sizes -/

/-- An access of a function that answers has its effects. -/
theorem hostGate_of_answers {s : State} {fn : Nat} (p : Plan) (h : s.answers fn = true) : (hostGate fn p).run s = p.run s :=
  Plan.run_congr (if_pos h)

theorem sized_word (fn : Nat) {off : Nat} (v : Nat) (w : Nat → Nat → Plan) (h : off % 4 = 0) : sized fn off 4 v w = w off (v % 2 ^ 32) :=
  if_pos ⟨rfl, h⟩

/-- An access that is neither an aligned word nor an aligned double word is violation 0x05 (R32). -/
theorem sized_invalid (fn : Nat) {off size : Nat} (v : Nat) (w : Nat → Nat → Plan) (h4 : ¬(size = 4 ∧ off % 4 = 0)) (h8 : ¬(size = 8 ∧ off % 8 = 0)) :
    sized fn off size v w = violation fn 0x05 0 := by
  rw [sized, if_neg h4, if_neg h8]

/-! ## Registers that only hold a value -/

/-- A word written where the view shows a register that only holds a value sets the bits of its mask (R6, R400). -/
theorem bar0Word_plain {s : State} {fn off pg mask : Nat} {k : PageKind} (v : Nat) (hstage : s.svc.stage ≠ 3) (hpage : s.pageAt fn off = some pg)
    (hkind : pageKind pg = some k) (hmap : mapped fn k (off % 0x1000) = true) (hused : s.pageWithdrawn pg = false) (hblock : 0x100 ≤ off % 0x1000)
    (hmask : plainMask k (off % 0x1000) = some mask) (hown : ¬(fn ≠ 0 ∧ (k = .par ∨ (k = .pol ∧ off % 0x1000 = 0x114)))) :
    bar0Word fn off v s = setReg fn pg (off % 0x1000) (Nat.land v mask) s := by
  have hword : wordWrite fn pg k (off % 0x1000) v = setReg fn pg (off % 0x1000) (Nat.land v mask) := by
    simp only [wordWrite, if_neg (Nat.not_lt.mpr hblock), hmask, if_neg hown]
  simp [bar0Word, hpage, hkind, hmap, hstage, hused, hword]

/-! ## REGISTER_WRITE by space -/

section
variable {s : State} {fn : Nat}

/-- A write that is gated as a host access has the effects of the plan behind the gate. -/
theorem exec_registerWrite_gated {sp : Space} {off size v : Nat} {p : Plan} (hp : registerWrite fn sp off size v s = hostGate fn p s)
    (hserves : s.svc.halted = false) (ha : s.answers fn = true) : exec (.registerWrite fn sp off size v) s = .next (p.run s) :=
  (Plan.done_eq _ _ hserves).trans (by rw [Plan.run_congr hp, hostGate_of_answers _ ha])

theorem exec_registerWrite_bar0 (off size v : Nat) (hserves : s.svc.halted = false) (hfn : fn < 9) (ha : s.answers fn = true) :
    exec (.registerWrite fn .bar0 off size v) s = .next ((sized fn off size v (bar0Word fn)).run s) :=
  exec_registerWrite_gated (if_neg (Nat.not_le.mpr hfn)) hserves ha

theorem exec_registerWrite_bar2 (off size v : Nat) (hserves : s.svc.halted = false) (hfn : fn < 9) (ha : s.answers fn = true) :
    exec (.registerWrite fn .bar2 off size v) s = .next ((sized fn off size v (bar2Word fn)).run s) :=
  exec_registerWrite_gated (if_neg (Nat.not_le.mpr hfn)) hserves ha

/-- Configuration space answers whatever the function's BARs do, unless the PCIe core has failed (R379). -/
theorem exec_registerWrite_config {sp : Space} (off size v : Nat) (hserves : s.svc.halted = false) (hfn : fn < 9) (hcore : s.pcie.coreFailed = false)
    (h0 : sp ≠ .bar0) (h2 : sp ≠ .bar2) : exec (.registerWrite fn sp off size v) s = .next ((configWrite fn sp v).run s) := by
  have hrun : (registerWrite fn sp off size v).run s = (configWrite fn sp v).run s := by
    apply Plan.run_congr
    cases sp with
    | bar0 => exact absurd rfl h0
    | bar2 => exact absurd rfl h2
    | _ => simp [registerWrite, hfn, hcore]
  exact (Plan.done_eq _ _ hserves).trans (by rw [hrun])

/-- An access of a size or alignment that BAR0 and BAR2 do not take is a violation and nothing else (R32). -/
theorem registerWrite_invalid {sp : Space} {off size : Nat} (v : Nat) (hs : s.Wf) (hserves : s.svc.halted = false) (hfn : fn < 9) (ha : s.answers fn = true)
    (hsp : sp = .bar0 ∨ sp = .bar2) (h4 : ¬(size = 4 ∧ off % 4 = 0)) (h8 : ¬(size = 8 ∧ off % 8 = 0)) :
    ∃ t, exec (.registerWrite fn sp off size v) s = .next t ∧ s.Violated t fn 0x05 0 ∧ s.SameBut reportFields t := by
  refine ⟨(violation fn 0x05 0).run s, ?_, violation_violated hs fn 0x05 0 (by decide), (violation_only fn 0x05 0).sameBut s⟩
  rcases hsp with rfl | rfl
  · rw [exec_registerWrite_bar0 _ _ _ hserves hfn ha, sized_invalid _ _ _ h4 h8]
  · rw [exec_registerWrite_bar2 _ _ _ hserves hfn ha, sized_invalid _ _ _ h4 h8]

end

/-- A read of CLK_TIME_LO returns the low word of device time and latches the high word (R328). -/
theorem exec_clkTimeLoRead {s : State} (hserves : s.svc.halted = false) (ha : s.answers 0 = true) :
    exec .clkTimeLoRead s = .next { s with hostRead := { data := leBytes 4 s.ticks }, svc := { s.svc with timeHi := s.ticks / 2 ^ 32 % 2 ^ 32 } } :=
  (Plan.done_eq _ _ hserves).trans (by rw [hostGate_of_answers _ ha]; rfl)

/-- Settles O15, clause by clause: the write of a plain register, the access of a wrong size or alignment, the spaces of the configuration fields, and the read of CLK_TIME_LO. -/
theorem registersOfBar0 : Obligations.RegistersOfBar0 := by
  unfold Obligations.RegistersOfBar0
  refine ⟨?plain, ?invalid, ?config, ?time⟩
  case plain =>
    intro fn off v pg mask k s hserves hfn ha hstage halign hpage hkind hmap hused hblock hmask hown
    have hword := bar0Word_plain (v % 2 ^ 32) hstage hpage hkind hmap hused hblock hmask hown
    rw [exec_registerWrite_bar0 _ _ _ hserves hfn ha, sized_word _ _ _ halign, Plan.run_congr hword]
    rfl
  case invalid =>
    intro fn off size v sp s hs hserves hfn ha hsp h4 h8
    exact registerWrite_invalid v hs hserves hfn ha hsp h4 h8
  case config =>
    intro fn off size v s hserves hfn hcore
    have hconfig : ∀ sp : Space, sp ≠ .bar0 → sp ≠ .bar2 → exec (.registerWrite fn sp off size v) s = .next ((configWrite fn sp v).run s) :=
      fun sp h0 h2 => exec_registerWrite_config off size v hserves hfn hcore h0 h2
    refine ⟨?_, ?_, ?_, ?_, ?_⟩ <;> exact hconfig _ (by decide) (by decide)
  case time =>
    intro s hserves ha
    exact exec_clkTimeLoRead hserves ha

end Sys2Proof.Machine
end

section
/-! The canonical form of the state: every command is a list of effects, and effects keep every table canonical (R10). -/
namespace Sys2Proof.Machine

theorem execThermalSample_effs (readings : List Nat) (estimate : Nat) (s : State) : ∃ es, execThermalSample readings estimate s = .next (s.applyAll es) := by
  unfold execThermalSample
  split
  · exact Plan.always_effs _ s
  · exact Plan.done_effs _ s

/-- Whatever the command, it answers a next state, and that state is the old one with a list of effects carried out. -/
theorem exec_effs (c : Instr) (s : State) : ∃ es, exec c s = .next (s.applyAll es) := by
  cases c with
  | coldReset => exact Plan.always_effs _ s
  | railDip => exact Plan.always_effs _ s
  | thermalSample readings estimate => exact execThermalSample_effs readings estimate s
  | tapReset => exact Plan.always_effs _ s
  | tapExtest => exact Plan.always_effs _ s
  | tapIdcode => exact Plan.always_effs _ s
  | samplePreload => exact Plan.always_effs _ s
  | tapHighz => exact Plan.always_effs _ s
  | tapClamp => exact Plan.always_effs _ s
  | extestPulse => exact Plan.always_effs _ s
  | extestTrain => exact Plan.always_effs _ s
  | tapBypass => exact Plan.always_effs _ s
  | _ => exact Plan.done_effs _ s

/-- A command keeps the canonical form. -/
theorem exec_wf {c : Instr} {s t : State} (h : s.Wf) (ht : exec c s = .next t) : t.Wf := by
  obtain ⟨es, hes⟩ := exec_effs c s
  obtain rfl : s.applyAll es = t := Host.Outcome.next.inj (hes.symm.trans ht)
  exact h.applyAll es

/-- The commands that wait are no table: taking one off the queue keeps the canonical form. -/
theorem State.Wf.withPending {s : State} (h : s.Wf) (cs : List Instr) : ({ s with pending := cs } : State).Wf := { h with }

/-- Settles O4: a step idles, or carries out the effects of the front command, each of which keeps every table canonical. -/
theorem stepKeepsCanonicalForm : Obligations.StepKeepsCanonicalForm := by
  unfold Obligations.StepKeepsCanonicalForm
  intro s t hs ht
  unfold step at ht
  split at ht
  next => exact Host.Outcome.next.inj ht ▸ hs
  next c cs _ => exact exec_wf (hs.withPending cs) ht

/-- Settles O5: the registers and the factory layout are listed canonically, and no other table lists anything. -/
theorem resetCanonical : Obligations.ResetCanonical := State.wf_of_wfB (by decide +kernel)

end Sys2Proof.Machine
end

section
/-! Rules that the statements of the host interface share: what a command answers, what a queue and a vector are after an operation, and when a report stays a report (R16-R26, R32). -/
namespace Sys2Proof.Machine

/-! ## What a command answers -/

/-- In a device that serves, a command leaves what any plan with the same effects leaves. -/
theorem Plan.done_of_eq {p q : Plan} {s : State} (h : s.svc.halted = false) (hpq : p s = q s) : Plan.done p s = .next (q.run s) :=
  (Plan.done_eq p s h).trans (congrArg _ (Plan.run_congr hpq))

/-- A host access of a function that answers leaves what its plan leaves. -/
theorem Plan.done_hostGate {p q : Plan} {s : State} {fn : Nat} (h : s.svc.halted = false) (ha : s.answers fn = true) (hpq : p s = q s) :
    Plan.done (hostGate fn p) s = .next (q.run s) :=
  Plan.done_of_eq h ((if_pos ha).trans hpq)

/-- An effect, and then a plan that sees what it leaves. -/
theorem Plan.run_cons (e : Eff) (p : Plan) (s : State) : Plan.run (fun s => e :: p (s.apply e)) s = p.run (s.apply e) := rfl

/-! ## Frames -/

theorem State.SameBut.trans {F : List Field} {s t u : State} (h : s.SameBut F t) (h' : t.SameBut F u) : s.SameBut F u :=
  ⟨h'.1.trans h.1, fun f hf => Field.same_trans (h'.2 f hf) (h.2 f hf)⟩

theorem State.SameBut.mono {F G : List Field} {s t : State} (h : s.SameBut F t) (hFG : F ⊆ G) : s.SameBut G t := ⟨h.1, fun f hf => h.2 f (fun hm => hf (hFG hm))⟩

section
variable {F : List Field} {p : Plan} (h : Plan.Only F p) (s : State)
include h

theorem Plan.Only.mem_eq (hf : Field.mem ∉ F) : (p.run s).mem = s.mem := h.same s hf

theorem Plan.Only.queues_eq (hf : Field.queues ∉ F) : (p.run s).queues = s.queues := h.same s hf

theorem Plan.Only.pcie_eq (hf : Field.pcie ∉ F) : (p.run s).pcie = s.pcie := h.same s hf

theorem Plan.Only.mbx_eq (hf : Field.mbx ∉ F) : (p.run s).mbx = s.mbx := h.same s hf

theorem Plan.Only.svc_eq (hf : Field.svc ∉ F) : (p.run s).svc = s.svc := h.same s hf

theorem Plan.Only.ticks_eq (hf : Field.ticks ∉ F) : (p.run s).ticks = s.ticks := h.same s hf

theorem Plan.Only.parts_eq (hf : Field.parts ∉ F) : (p.run s).parts = s.parts := h.same s hf

theorem Plan.Only.modeUnits_eq (hf : Field.modeUnits ∉ F) : (p.run s).modeUnits = s.modeUnits := h.same s hf

theorem Plan.Only.poisoned_eq (hf : Field.poisoned ∉ F) : (p.run s).poisoned = s.poisoned := h.same s hf

theorem Plan.Only.queue_eq (hf : Field.queues ∉ F) (q : Nat) : (p.run s).queue q = s.queue q :=
  congrArg (fun t => Tab.get ({} : Queue) t q) (h.same s hf : (p.run s).queues = s.queues)

theorem Plan.Only.job_eq (hf : Field.jobs ∉ F) (id : Nat) : (p.run s).job id = s.job id :=
  congrArg (fun t => Tab.get ({} : Job) t id) (h.same s hf : (p.run s).jobs = s.jobs)

theorem Plan.Only.func_eq (hf : Field.funcs ∉ F) (fn : Nat) : (p.run s).func fn = s.func fn :=
  congrArg (fun t => Tab.get ({} : Func) t fn) (h.same s hf : (p.run s).funcs = s.funcs)

theorem Plan.Only.reg_eq (hf : Field.regs ∉ F) (fn page off : Nat) : (p.run s).reg fn page off = s.reg fn page off :=
  congrArg (fun t => (Tab.get (0 : Word) t (regKey fn page off)).toNat) (h.same s hf : (p.run s).regs = s.regs)

end

/-! ## Reports before and after other effects -/

theorem partOf_congr {s t : State} (h : s.parts = t.parts) (fn : Nat) : s.partOf fn = t.partOf fn := by
  unfold State.partOf State.part
  rw [h]

/-- A violation reported after effects that no report looks at is a violation of the state before them. -/
theorem State.Violated.of_before {F : List Field} {s u t : State} {fn code queue : Nat} (h : u.Violated t fn code queue) (hb : s.SameBut F u)
    (hF : ∀ f ∈ F, f ∉ ([.regs, .parts, .recorder, .ticks, .svc] : List Field)) : s.Violated t fn code queue := by
  have hsame : ∀ f ∈ ([.regs, .parts, .recorder, .ticks, .svc] : List Field), Field.same u s f := fun f hf => hb.2 f (fun hm => hF f hm hf)
  have hregs : u.regs = s.regs := hsame .regs (by decide)
  have hparts : u.parts = s.parts := hsame .parts (by decide)
  have hrec : u.recorder = s.recorder := hsame .recorder (by decide)
  have hticks : u.ticks = s.ticks := hsame .ticks (by decide)
  have hsvc : u.svc = s.svc := hsame .svc (by decide)
  refine ⟨?_, h.last, ?_⟩
  · rw [h.count, State.reg, hregs, ← State.reg]
  · rw [h.logged, partOf_congr hparts]
    exact event_recorder_congr _ hrec hticks hsvc

/-- A violation stays reported through effects on other fields than the registers and the recorder. -/
theorem State.Violated.of_after {F : List Field} {s u t : State} {fn code queue : Nat} (h : s.Violated u fn code queue) (ha : u.SameBut F t)
    (hr : Field.regs ∉ F) (hc : Field.recorder ∉ F) : s.Violated t fn code queue := by
  have hregs : t.regs = u.regs := ha.2 .regs hr
  have hrec : t.recorder = u.recorder := ha.2 .recorder hc
  refine ⟨?_, ?_, hrec.trans h.logged⟩
  · rw [State.reg, hregs]; exact h.count
  · rw [State.reg, hregs]; exact h.last

/-! ## Queues -/

/-- QUE_ERR with a bit set. -/
def Queue.withErr (x : Queue) (b : Nat) : Queue := { x with err := if bit x.err b then x.err else x.err + 2 ^ b }

/-- An error bit of a queue is set, and no other queue changes (R18, R25). -/
theorem queueErr_queue {s : State} (hs : s.Wf) (q b r : Nat) : ((queueErr q b).run s).queue r = if r = q then (s.queue q).withErr b else s.queue r := by
  rw [Plan.run_def]
  unfold queueErr Queue.withErr
  by_cases hb : bit (s.queue q).err b = true
  · simp only [if_pos hb, State.applyAll_nil]
    by_cases hr : r = q
    · rw [if_pos hr, hr]
    · rw [if_neg hr]
  · simp only [if_neg hb, State.applyAll_cons]
    exact ((sendVec_only _ _).queue_eq _ (by decide) r).trans (queue_put hs q _ r)

theorem queueErr_queue_same {s : State} (hs : s.Wf) (q b : Nat) : ((queueErr q b).run s).queue q = (s.queue q).withErr b := by
  rw [queueErr_queue hs, if_pos rfl]

theorem queueErr_queue_other {s : State} (hs : s.Wf) {q r : Nat} (b : Nat) (h : r ≠ q) : ((queueErr q b).run s).queue r = s.queue r := by
  rw [queueErr_queue hs, if_neg h]

theorem queue_put_same {s : State} (hs : s.Wf) (q : Nat) (x : Queue) : (s.apply (.queues q x)).queue q = x := by rw [queue_put hs, if_pos rfl]

theorem queue_put_other {s : State} (hs : s.Wf) {q r : Nat} (x : Queue) (h : r ≠ q) : (s.apply (.queues q x)).queue r = s.queue r := by rw [queue_put hs, if_neg h]

/-! ## Tables as what their keys read as -/

theorem Tab.above_mem {α : Type} {b : Nat} {t : Tab α} (h : Tab.above b t = true) {e : Nat × α} (he : e ∈ t) : b ≤ e.1 := by
  induction t generalizing b with
  | nil => exact absurd he List.not_mem_nil
  | cons x t ih =>
    simp only [Tab.above, Bool.and_eq_true, decide_eq_true_eq] at h
    rcases List.mem_cons.mp he with rfl | he
    · exact h.1
    · have := ih h.2 he
      omega

section
variable {α : Type} [DecidableEq α] {d : α}

omit [DecidableEq α] in
/-- A key listed in a canonical table reads as the value listed with it. -/
theorem Tab.get_of_mem {t : Tab α} {b : Nat} (h : Tab.above b t = true) {e : Nat × α} (he : e ∈ t) : Tab.get d t e.1 = e.2 := by
  induction t generalizing b with
  | nil => exact absurd he List.not_mem_nil
  | cons x t ih =>
    simp only [Tab.above, Bool.and_eq_true, decide_eq_true_eq] at h
    rcases List.mem_cons.mp he with rfl | he
    · exact if_pos rfl
    · have := Tab.above_mem h.2 he
      rw [Tab.get, if_neg (by omega)]
      exact ih h.2 he

omit [DecidableEq α] in
/-- Tables with rising keys and no default listed that read alike are the same. -/
theorem Tab.ext_above : ∀ {b : Nat} {t u : Tab α}, Tab.above b t = true → Tab.above b u = true → (∀ e ∈ t, e.2 ≠ d) → (∀ e ∈ u, e.2 ≠ d) →
    (∀ k, Tab.get d t k = Tab.get d u k) → t = u
  | _, [], [], _, _, _, _, _ => rfl
  | _, [], y :: u, _, hu, _, hud, h => absurd ((Tab.get_of_mem hu List.mem_cons_self).symm.trans (h y.1).symm) (hud y List.mem_cons_self)
  | _, x :: t, [], ht, _, htd, _, h => absurd ((Tab.get_of_mem ht List.mem_cons_self).symm.trans (h x.1)) (htd x List.mem_cons_self)
  | b, (kx, vx) :: t, (ky, vy) :: u, ht, hu, htd, hud, h => by
    have hx : Tab.get d ((ky, vy) :: u) kx = vx := by rw [← h]; exact if_pos rfl
    have hy : Tab.get d ((kx, vx) :: t) ky = vy := by rw [h]; exact if_pos rfl
    simp only [Tab.above, Bool.and_eq_true, decide_eq_true_eq] at ht hu
    obtain rfl : kx = ky := by
      by_contra hne
      rcases Nat.lt_or_gt_of_ne hne with hlt | hgt
      · rw [Tab.get, if_neg (Ne.symm hne), Tab.get_of_above hu.2 (by omega)] at hx
        exact htd _ List.mem_cons_self hx.symm
      · rw [Tab.get, if_neg hne, Tab.get_of_above ht.2 (by omega)] at hy
        exact hud _ List.mem_cons_self hy.symm
    obtain rfl : vy = vx := (if_pos rfl).symm.trans hx
    have htail : ∀ k, Tab.get d t k = Tab.get d u k := by
      intro k
      by_cases hk : kx = k
      · rw [← hk, Tab.get_of_above ht.2 (by omega), Tab.get_of_above hu.2 (by omega)]
      · have := h k
        rwa [Tab.get, Tab.get, if_neg hk, if_neg hk] at this
    rw [Tab.ext_above ht.2 hu.2 (fun e he => htd e (List.mem_cons_of_mem _ he)) (fun e he => hud e (List.mem_cons_of_mem _ he)) htail]

/-- The canonical form is unique: canonical tables that read alike are the same. -/
theorem Tab.ext_get {t u : Tab α} (ht : Tab.wf d t = true) (hu : Tab.wf d u = true) (h : ∀ k, Tab.get d t k = Tab.get d u k) : t = u := by
  simp only [Tab.wf, Bool.and_eq_true, List.all_eq_true, decide_eq_true_eq] at ht hu
  exact Tab.ext_above ht.1 hu.1 ht.2 hu.2 h

/-- Of two writes to a key the later one stands. -/
theorem Tab.put_put {t : Tab α} (h : Tab.wf d t = true) (k : Nat) (v w : α) : Tab.put d (Tab.put d t k v) k w = Tab.put d t k w := by
  refine Tab.ext_get (Tab.wf_put _ _ (Tab.wf_put _ _ h)) (Tab.wf_put _ _ h) (fun j => ?_)
  rw [Tab.get_put (Tab.wf_put _ _ h), Tab.get_put h, Tab.get_put h]
  split <;> rfl

end

end Sys2Proof.Machine
end

section
/-! Packets are fetched and doorbells taken: PACKET_FETCH, SQ_TAIL and CQ_HEAD (R17, R18, R24, R32 codes 0x01 to 0x04 and 0x0C). -/
namespace Sys2Proof.Machine

/-! ## A queue error with its violation -/

/-- An error bit of a queue is set and the violation reported: the other queues are as they were, and the report is one of the state before (R24, R32). -/
theorem queueErr_violation {s : State} (hs : s.Wf) (g b fn code q : Nat) (hc : code < 2 ^ 12) :
    let t := (Plan.andThen (queueErr g b) (violation fn code q)).run s
    t.queue g = (s.queue g).withErr b ∧ (∀ r, r ≠ g → t.queue r = s.queue r) ∧ s.Violated t fn code q ∧ s.SameBut [.queues, .vecs, .regs, .recorder] t := by
  have hq : ∀ r, ((Plan.andThen (queueErr g b) (violation fn code q)).run s).queue r = ((queueErr g b).run s).queue r := fun r => by
    rw [Plan.run_andThen, (violation_only fn code q).queue_eq _ (by decide)]
  have honly : Plan.Only [.queues, .vecs, .regs, .recorder] (Plan.andThen (queueErr g b) (violation fn code q)) :=
    Plan.only_andThen ((queueErr_only g b).mono (by decide)) ((violation_only fn code q).mono (by decide))
  refine ⟨(hq g).trans (queueErr_queue_same hs g b), fun r hr => (hq r).trans (queueErr_queue_other hs b hr), ?_, honly.sameBut s⟩
  rw [Plan.run_andThen]
  exact (violation_violated (Plan.run_wf hs _) fn code q hc).of_before ((queueErr_only g b).sameBut s) (by decide)

/-- A violation that concerns no queue leaves every queue as it was. -/
theorem violation_report {s : State} (hs : s.Wf) (fn code q : Nat) (hc : code < 2 ^ 12) :
    ((violation fn code q).run s).queues = s.queues ∧ s.Violated ((violation fn code q).run s) fn code q ∧ s.SameBut reportFields ((violation fn code q).run s) :=
  ⟨(violation_only fn code q).queues_eq s (by decide), violation_violated hs fn code q hc, (violation_only fn code q).sameBut s⟩

/-! ## SQ_TAIL -/

section
variable {s : State} {fn q v : Nat} (hserves : s.svc.halted = false) (ha : s.answers fn = true)
include hserves ha

/-- A doorbell of a queue that the function does not have, or that is not enabled, is violation 0x04. -/
theorem exec_sqTail_noQueue (h : (s.queueRange fn).2 ≤ q ∨ (s.queue ((s.queueRange fn).1 + q)).enable = false) :
    exec (.sqTailDoorbell fn q v) s = .next ((violation fn 0x04 q).run s) :=
  Plan.done_of_eq hserves (by simp [sqTailDoorbell, ha, h])

theorem exec_sqTail_beyond (hq : q < (s.queueRange fn).2) (he : (s.queue ((s.queueRange fn).1 + q)).enable = true)
    (hv : (s.queue ((s.queueRange fn).1 + q)).sqSize ≤ v) :
    exec (.sqTailDoorbell fn q v) s = .next ((Plan.andThen (queueErr ((s.queueRange fn).1 + q) 0) (violation fn 0x01 q)).run s) :=
  Plan.done_of_eq hserves (by simp [sqTailDoorbell, ha, Nat.not_le.mpr hq, he, hv])

theorem exec_sqTail_behind (hq : q < (s.queueRange fn).2) (he : (s.queue ((s.queueRange fn).1 + q)).enable = true)
    (hv : v < (s.queue ((s.queueRange fn).1 + q)).sqSize) (ht : (s.queue ((s.queueRange fn).1 + q)).tailOk v = false) :
    exec (.sqTailDoorbell fn q v) s = .next ((Plan.andThen (queueErr ((s.queueRange fn).1 + q) 1) (violation fn 0x02 q)).run s) :=
  Plan.done_of_eq hserves (by simp [sqTailDoorbell, ha, Nat.not_le.mpr hq, he, Nat.not_le.mpr hv, ht])

/-- A tail that the ring admits is taken (R24). -/
theorem exec_sqTail_taken (hq : q < (s.queueRange fn).2) (he : (s.queue ((s.queueRange fn).1 + q)).enable = true)
    (hv : v < (s.queue ((s.queueRange fn).1 + q)).sqSize) (ht : (s.queue ((s.queueRange fn).1 + q)).tailOk v = true) :
    exec (.sqTailDoorbell fn q v) s = .next { s with queues := Tab.put {} s.queues ((s.queueRange fn).1 + q) { s.queue ((s.queueRange fn).1 + q) with sqTail := v } } :=
  Plan.done_of_eq (q := Plan.act (.queues ((s.queueRange fn).1 + q) { s.queue ((s.queueRange fn).1 + q) with sqTail := v })) hserves
    (by simp [sqTailDoorbell, ha, Nat.not_le.mpr hq, he, Nat.not_le.mpr hv, ht, Plan.act])

/-! ## CQ_HEAD -/

theorem exec_cqHead_noQueue
    (h : (s.queueRange fn).2 ≤ q ∨ ((s.queue ((s.queueRange fn).1 + q)).enable = false ∧ (s.queue ((s.queueRange fn).1 + q)).state ≠ .draining)) :
    exec (.cqHeadDoorbell fn q v) s = .next ((violation fn 0x04 q).run s) :=
  Plan.done_of_eq hserves (by simp [cqHeadDoorbell, ha, h])

theorem exec_cqHead_outside (hq : q < (s.queueRange fn).2)
    (he : (s.queue ((s.queueRange fn).1 + q)).enable = true ∨ (s.queue ((s.queueRange fn).1 + q)).state = .draining)
    (hv : (s.queue ((s.queueRange fn).1 + q)).headOk v = false) :
    exec (.cqHeadDoorbell fn q v) s = .next ((Plan.andThen (queueErr ((s.queueRange fn).1 + q) 2) (violation fn 0x03 q)).run s) :=
  Plan.done_of_eq hserves (by
    have hn : ¬ ((s.queue ((s.queueRange fn).1 + q)).enable = false ∧ ¬ (s.queue ((s.queueRange fn).1 + q)).state = .draining) := by
      rintro ⟨h1, h2⟩; rcases he with h | h <;> simp_all
    simp [cqHeadDoorbell, ha, Nat.not_le.mpr hq, hn, hv])

/-- A head that the ring admits is taken; completions that wait follow, and a queue that has drained shows DISABLED (R18, R24). -/
theorem exec_cqHead_taken (hq : q < (s.queueRange fn).2)
    (he : (s.queue ((s.queueRange fn).1 + q)).enable = true ∨ (s.queue ((s.queueRange fn).1 + q)).state = .draining)
    (hv : (s.queue ((s.queueRange fn).1 + q)).headOk v = true) :
    exec (.cqHeadDoorbell fn q v) s = .next ((Plan.seq [Plan.act (.queues ((s.queueRange fn).1 + q) { s.queue ((s.queueRange fn).1 + q) with cqHead := v }),
      drainHeld ((s.queueRange fn).1 + q) ((s.queue ((s.queueRange fn).1 + q)).held.length + 1), drainedQueue ((s.queueRange fn).1 + q)]).run s) :=
  Plan.done_of_eq hserves (by
    have hn : ¬ ((s.queue ((s.queueRange fn).1 + q)).enable = false ∧ ¬ (s.queue ((s.queueRange fn).1 + q)).state = .draining) := by
      rintro ⟨h1, h2⟩; rcases he with h | h <;> simp_all
    simp [cqHeadDoorbell, ha, Nat.not_le.mpr hq, hn, hv])

end

/-- Settles O10: each doorbell that is turned away sets its queue's error bit, where it names a queue, and reports its violation. -/
theorem badDoorbellIsViolation : Obligations.BadDoorbellIsViolation := by
  unfold Obligations.BadDoorbellIsViolation
  intro fn q v s hs hserves ha
  refine ⟨?beyond, ?behind, ?outside, ?noTail, ?noHead⟩
  case beyond => exact fun hq he hv => ⟨_, exec_sqTail_beyond hserves ha hq he hv, queueErr_violation hs _ _ fn _ q (by decide)⟩
  case behind => exact fun hq he hv ht => ⟨_, exec_sqTail_behind hserves ha hq he hv ht, queueErr_violation hs _ _ fn _ q (by decide)⟩
  case outside => exact fun hq he hv => ⟨_, exec_cqHead_outside hserves ha hq he hv, queueErr_violation hs _ _ fn _ q (by decide)⟩
  case noTail => exact fun h => ⟨_, exec_sqTail_noQueue hserves ha h, violation_report hs fn _ q (by decide)⟩
  case noHead => exact fun h => ⟨_, exec_cqHead_noQueue hserves ha h, violation_report hs fn _ q (by decide)⟩

/-! ## PACKET_FETCH -/

/-- The state once a queue that fetches has taken the packet at SQ_HEAD as its next job (R17). -/
def State.fetched (s : State) (q : Nat) : State :=
  { s with
    jobs := Tab.put {} s.jobs s.nextJob (Job.ofPacket (Tab.getList 0 s.mem (hostBase + (s.queue q).sqBase + (s.queue q).sqHead * 64) 64) (s.queueFn q) q
      ((s.queuePart q).getD 0) s.ticks (s.func (s.queueFn q)).ready (s.part ((s.queuePart q).getD 0)).maxPriority)
    nextJob := s.nextJob + 1
    queues := Tab.put {} s.queues q { s.queue q with sqHead := ((s.queue q).sqHead + 1) % (s.queue q).sqSize } }

theorem packetFetch_run {s : State} {q : Nat} (h : s.canFetch q = true) : (packetFetch q).run s = s.fetched q := by
  rw [Plan.run_def]
  simp only [packetFetch, h, Bool.not_true, Bool.false_eq_true, if_false]
  rfl

/-- A queue whose fetch failed twice: ERROR and FETCH_FAIL, with vector 0 whether or not FETCH_FAIL was set, and the violation (R17, R25, R32 code 0x0C). -/
def fetchError (q : Nat) : Plan := fun s =>
  Plan.seq [Plan.act (.queues q { s.queue q with state := .error }), (if bit (s.queue q).err 3 then sendVec (s.queueFn q) 0 else queueErr q 3),
    violation (s.queueFn q) 0x0C (s.queueLocal q)] s

theorem fetchError_only (q : Nat) : Plan.Only [.queues, .vecs, .regs, .recorder] (fetchError q) := by
  refine ⟨fun s => (Plan.only_seq_cons (Plan.only_act (by simp [Eff.field])) (Plan.only_seq_cons ?_
    (Plan.only_seq_cons ((violation_only ..).mono (by decide)) Plan.only_seq_nil))).effs s⟩
  split
  · exact (sendVec_only ..).mono (by decide)
  · exact (queueErr_only ..).mono (by decide)

theorem fetchError_queue {s : State} (hs : s.Wf) (q r : Nat) :
    ((fetchError q).run s).queue r = if r = q then Queue.withErr { s.queue q with state := .error } 3 else s.queue r := by
  have hrun : ((fetchError q).run s).queue r =
      ((if bit (s.queue q).err 3 then sendVec (s.queueFn q) 0 else queueErr q 3).run (s.apply (.queues q { s.queue q with state := .error }))).queue r := by
    rw [Plan.run_def, fetchError, ← Plan.run_def, Plan.run_seq_cons, Plan.run_seq_cons, Plan.run_seq_cons, Plan.run_seq_nil,
      (violation_only ..).queue_eq _ (by decide), Plan.run_act]
  rw [hrun]
  by_cases hb : bit (s.queue q).err 3 = true
  · rw [if_pos hb, (sendVec_only _ _).queue_eq _ (by decide), queue_put hs]
    simp only [Queue.withErr, hb, if_true]
  · rw [if_neg hb, queueErr_queue (hs.apply _), queue_put_same hs, queue_put hs]
    split <;> rfl

/-- Settles O7: the packet at SQ_HEAD becomes the next job, at once or after one failure; a second failure stops the queue. -/
theorem packetFetch_holds : Obligations.PacketFetch := by
  unfold Obligations.PacketFetch
  intro q s hs hserves hf
  refine ⟨⟨?fetch, ?again⟩, (fetchError q).run s, ?fails, ?_, ?_, (fetchError_only q).sameBut s⟩
  case fetch => exact (Plan.done_eq _ _ hserves).trans (congrArg _ (packetFetch_run hf))
  case again =>
    refine (Plan.done_of_eq (q := packetFetch q) hserves ?_).trans (congrArg _ (packetFetch_run hf))
    simp [packetFetchFail, hf]
  case fails => exact Plan.done_of_eq hserves (by simp [packetFetchFail, hf]; rfl)
  · rw [fetchError_queue hs, if_pos rfl]
    rfl
  · intro r hr
    rw [fetchError_queue hs, if_neg hr]

end Sys2Proof.Machine
end

section
/-! Completion entries: what posting one leaves of its queue and of memory, and the completions that wait on chip (R18, R21, R24, R26). -/
namespace Sys2Proof.Machine

theorem leBytes_length : ∀ n v : Nat, (leBytes n v).length = n
  | 0, _ => rfl
  | n + 1, v => by rw [leBytes, List.length_cons, leBytes_length n]

theorem Cqe.bytes_length (c : Cqe) (phase : Bool) : (c.bytes phase).length = 16 := by
  simp only [Cqe.bytes, List.length_append, leBytes_length]

/-! ## Posting one entry -/

/-- The address of an entry of a completion queue (R21). -/
def Queue.cqeAddr (x : Queue) (i : Nat) : Nat := hostBase + x.cqBase + i * 16

/-- A queue whose CQ_TAIL has moved on by one entry; PHASE inverts on a wrap (R21). -/
def Queue.advanced (x : Queue) : Queue :=
  { x with cqTail := (x.cqTail + 1) % x.cqSize, phase := if (x.cqTail + 1) % x.cqSize = 0 then !x.phase else x.phase }

/-- A queue that has posted an entry, with the count and the timer that coalescing leaves it (R21, R26). -/
def Queue.posted (x : Queue) (n : Nat) (timer : Option Nat) : Queue := { x.advanced with count := n, timer := timer }

@[simp] theorem Queue.posted_cqTail (x : Queue) (n : Nat) (timer : Option Nat) : (x.posted n timer).cqTail = (x.cqTail + 1) % x.cqSize := rfl
@[simp] theorem Queue.posted_cqSize (x : Queue) (n : Nat) (timer : Option Nat) : (x.posted n timer).cqSize = x.cqSize := rfl
@[simp] theorem Queue.posted_cqHead (x : Queue) (n : Nat) (timer : Option Nat) : (x.posted n timer).cqHead = x.cqHead := rfl
@[simp] theorem Queue.posted_held (x : Queue) (n : Nat) (timer : Option Nat) : (x.posted n timer).held = x.held := rfl
@[simp] theorem Queue.posted_cqeAddr (x : Queue) (n : Nat) (timer : Option Nat) (i : Nat) : (x.posted n timer).cqeAddr i = x.cqeAddr i := rfl

theorem coalesce_only_queue (q : Nat) (c : Cqe) : Plan.Only [.queues, .vecs] (coalesce q c) := by
  refine ⟨fun s => ?_⟩
  simp only [coalesce]
  split
  · exact (Plan.only_andThen (Plan.only_act (by simp [Eff.field])) ((sendVec_only ..).mono (by decide))).effs s
  · exact EffsIn.one (by simp [Eff.field])

theorem coalesce_queue {s : State} (hs : s.Wf) (q : Nat) (c : Cqe) :
    ∃ n timer, ∀ r, ((coalesce q c).run s).queue r = if r = q then { s.queue q with count := n, timer := timer } else s.queue r := by
  rw [Plan.run_def]
  unfold coalesce
  dsimp only
  split
  · refine ⟨0, none, fun r => ?_⟩
    rw [← Plan.run_def, Plan.run_andThen, (sendVec_only _ _).queue_eq _ (by decide), Plan.run_act, queue_put hs]
  · exact ⟨_, _, fun r => queue_put hs _ _ _⟩

theorem queue_store (s : State) (a : Nat) (bs : List Byte) (q : Nat) : (s.apply (.store a bs)).queue q = s.queue q := rfl

/-- An entry is stored at CQ_TAIL, the tail moves on, and coalescing follows. -/
theorem writeCqe_run (s : State) (q : Nat) (c : Cqe) : (writeCqe q c).run s =
    (coalesce q c).run ((s.apply (.store ((s.queue q).cqeAddr (s.queue q).cqTail) (c.bytes (s.queue q).phase))).apply (.queues q (s.queue q).advanced)) := by
  simp only [Queue.cqeAddr, Queue.advanced]
  rw [Plan.run_def, writeCqe, ← Plan.run_def, Plan.run_andThen]
  rfl

/-- An entry is written at CQ_TAIL, and memory is otherwise as it was. -/
theorem writeCqe_mem (s : State) (q : Nat) (c : Cqe) :
    ((writeCqe q c).run s).mem = Tab.putList 0 s.mem ((s.queue q).cqeAddr (s.queue q).cqTail) (c.bytes (s.queue q).phase) := by
  rw [writeCqe_run, (coalesce_only_queue q c).mem_eq _ (by decide)]
  simp only [State.apply_mem]

theorem writeCqe_queue {s : State} (hs : s.Wf) (q : Nat) (c : Cqe) :
    ∃ n timer, ∀ r, ((writeCqe q c).run s).queue r = if r = q then (s.queue q).posted n timer else s.queue r := by
  have hs1 := hs.apply (.store ((s.queue q).cqeAddr (s.queue q).cqTail) (c.bytes (s.queue q).phase))
  obtain ⟨n, timer, h⟩ := coalesce_queue (hs1.apply (.queues q (s.queue q).advanced)) q c
  refine ⟨n, timer, fun r => ?_⟩
  rw [writeCqe_run, h r, queue_put_same hs1, queue_put hs1]
  by_cases hr : r = q
  · rw [if_pos hr, if_pos hr, Queue.posted]
  · rw [if_neg hr, if_neg hr, if_neg hr, queue_store]

/-- Bytes outside a range that is written read as before. -/
theorem getList_putList_disjoint {α : Type} [DecidableEq α] {d : α} {t : Tab α} (h : Tab.wf d t = true) (vs : List α) {a b n : Nat} (hab : b + n ≤ a ∨ a + vs.length ≤ b) :
    Tab.getList d (Tab.putList d t a vs) b n = Tab.getList d t b n := by
  refine List.map_congr_left (fun i hi => ?_)
  have := List.mem_range.mp hi
  rw [Tab.get_putList vs a h, if_neg (by omega)]

/-! ## The ring of completions -/

/-- Entry `i` of a completion queue is none of those that the queue still has room for: the free entries lie from CQ_TAIL on, up to the one before CQ_HEAD (R23; log entry 7). -/
def Queue.Keeps (x : Queue) (i : Nat) : Prop :=
  x.cqTail < x.cqSize ∧ ∃ free, (x.cqTail + free + 1) % x.cqSize = x.cqHead ∧ ∀ k < free, (x.cqTail + k) % x.cqSize ≠ i

theorem add_mod_ne_self {n t m : Nat} (ht : t < n) (h0 : 0 < m) (hm : m < n) : (t + m) % n ≠ t := by
  rcases Nat.lt_or_ge (t + m) n with h | h
  · rw [Nat.mod_eq_of_lt h]; omega
  · rw [Nat.mod_eq_sub_mod h, Nat.mod_eq_of_lt (by omega)]; omega

/-- The entry just written is kept, for a head within the ring. -/
theorem Queue.keeps_posted {x : Queue} (n : Nat) (timer : Option Nat) (hv : x.cqHead < x.cqSize) : (x.posted n timer).Keeps x.cqTail := by
  have hn : 0 < x.cqSize := by omega
  have htail : (x.cqTail + 1) % x.cqSize < x.cqSize := Nat.mod_lt _ hn
  simp only [Queue.Keeps, Queue.posted_cqTail, Queue.posted_cqSize, Queue.posted_cqHead]
  refine ⟨htail, (x.cqHead + x.cqSize - 1 - (x.cqTail + 1) % x.cqSize) % x.cqSize, ?_, fun k hk he => ?_⟩
  · generalize (x.cqTail + 1) % x.cqSize = t at htail
    rw [Nat.add_right_comm, Nat.add_mod_mod, show t + 1 + (x.cqHead + x.cqSize - 1 - t) = x.cqHead + x.cqSize by omega, Nat.add_mod_right, Nat.mod_eq_of_lt hv]
  · have hfree := Nat.mod_lt (x.cqHead + x.cqSize - 1 - (x.cqTail + 1) % x.cqSize) hn
    rw [Nat.mod_add_mod, Nat.add_assoc] at he
    exact add_mod_ne_self (he ▸ Nat.mod_lt _ hn) (by omega) (by omega) he

/-- Posting into a queue that has room keeps what the queue keeps, and does not write it. -/
theorem Queue.Keeps.posted {x : Queue} {i : Nat} (h : x.Keeps i) (hroom : x.cqFull = false) (n : Nat) (timer : Option Nat) :
    x.cqTail ≠ i ∧ (x.posted n timer).Keeps i := by
  obtain ⟨htail, free, hhead, hfree⟩ := h
  have hroom : (x.cqTail + 1) % x.cqSize ≠ x.cqHead := by simpa [Queue.cqFull] using hroom
  cases free with
  | zero => exact absurd hhead hroom
  | succ free =>
    have h0 := hfree 0 (Nat.succ_pos _)
    rw [Nat.add_zero, Nat.mod_eq_of_lt htail] at h0
    simp only [Queue.Keeps, Queue.posted_cqTail, Queue.posted_cqSize, Queue.posted_cqHead]
    refine ⟨h0, Nat.mod_lt _ (by omega), free, ?_, fun k hk => ?_⟩
    · rw [Nat.add_assoc, Nat.mod_add_mod, ← hhead]
      congr 1; omega
    · rw [Nat.mod_add_mod, Nat.add_assoc, Nat.add_comm 1 k]
      exact hfree (k + 1) (by omega)

/-! ## Completions that wait on chip -/

/-- The first completion that waits is taken off and posted. -/
theorem drainHeld_cons {s : State} {q : Nat} {c : Cqe} {cs : List Cqe} (fuel : Nat) (hheld : (s.queue q).held = c :: cs) (hroom : (s.queue q).cqFull = false) :
    (drainHeld q (fuel + 1)).run s =
      (drainHeld q fuel).run ((writeCqe q c).run (s.apply (.queues q { s.queue q with held := cs, heldSince := cs.head?.map (·.since) }))) := by
  have hrun : (drainHeld q (fuel + 1)).run s =
      (Plan.seq [Plan.act (.queues q { s.queue q with held := cs, heldSince := cs.head?.map (·.since) }), writeCqe q c, drainHeld q fuel]).run s :=
    Plan.run_congr (by simp only [drainHeld, hheld, hroom, Bool.false_eq_true, if_false])
  rw [hrun, Plan.run_seq_cons, Plan.run_seq_cons, Plan.run_seq_cons, Plan.run_seq_nil, Plan.run_act]

/-- Where nothing waits, or nothing has room, nothing is posted. -/
theorem drainHeld_stays {s : State} {q : Nat} (fuel : Nat) (h : (s.queue q).held = [] ∨ (s.queue q).cqFull = true) : (drainHeld q fuel).run s = s := by
  cases fuel with
  | zero => rfl
  | succ fuel =>
    have : drainHeld q (fuel + 1) s = [] := by
      rcases h with h | h
      · simp only [drainHeld, h]
      · simp only [drainHeld, h, if_true]
        split <;> rfl
    exact Plan.run_congr (q := Plan.skip) this

/-- A first completion posted: the queue with its tail moved on, and the entry in memory. -/
theorem drainHeld_first {s : State} (hs : s.Wf) (q : Nat) (c : Cqe) (cs : List Cqe) :
    let u := (writeCqe q c).run (s.apply (.queues q { s.queue q with held := cs, heldSince := cs.head?.map (·.since) }))
    u.Wf ∧ (∃ n timer, u.queue q = Queue.posted { s.queue q with held := cs, heldSince := cs.head?.map (·.since) } n timer) ∧
      u.mem = Tab.putList 0 s.mem ((s.queue q).cqeAddr (s.queue q).cqTail) (c.bytes (s.queue q).phase) := by
  have hs1 := hs.apply (.queues q { s.queue q with held := cs, heldSince := cs.head?.map (·.since) })
  obtain ⟨n, timer, hq⟩ := writeCqe_queue hs1 q c
  refine ⟨Plan.run_wf hs1 _, ⟨n, timer, ?_⟩, ?_⟩
  · rw [hq, if_pos rfl, queue_put_same hs]
  · rw [writeCqe_mem, queue_put_same hs]
    rfl

/-- Posting what waits takes nothing off CQ_HEAD, adds nothing that waits, and writes no entry that the queue keeps. -/
theorem drainHeld_keeps (q i : Nat) : ∀ (fuel : Nat) {s : State}, s.Wf → (s.queue q).Keeps i →
    (((drainHeld q fuel).run s).queue q).cqHead = (s.queue q).cqHead ∧ (((drainHeld q fuel).run s).queue q).held.length ≤ (s.queue q).held.length ∧
      Tab.getList 0 ((drainHeld q fuel).run s).mem ((s.queue q).cqeAddr i) 16 = Tab.getList 0 s.mem ((s.queue q).cqeAddr i) 16
  | 0, _, _, _ => ⟨rfl, Nat.le_refl _, rfl⟩
  | fuel + 1, s, hs, hk => by
    by_cases hstay : (s.queue q).held = [] ∨ (s.queue q).cqFull = true
    · rw [drainHeld_stays _ hstay]
      exact ⟨rfl, Nat.le_refl _, rfl⟩
    · obtain ⟨hne, hroom⟩ := not_or.mp hstay
      obtain ⟨c, cs, hheld⟩ := List.exists_cons_of_ne_nil hne
      obtain ⟨hu, ⟨n, timer, huq⟩, hmem⟩ := drainHeld_first hs q c cs
      rw [drainHeld_cons fuel hheld (Bool.eq_false_iff.mpr hroom)]
      generalize (writeCqe q c).run _ = u at hu huq hmem
      obtain ⟨hne, hkeeps⟩ := Queue.Keeps.posted (x := { s.queue q with held := cs, heldSince := cs.head?.map (·.since) }) hk (Bool.eq_false_iff.mpr hroom) n timer
      obtain ⟨hhead, hlen, hbytes⟩ := drainHeld_keeps q i fuel hu (huq ▸ hkeeps)
      refine ⟨hhead.trans (by rw [huq, Queue.posted_cqHead]), hlen.trans (by rw [huq, Queue.posted_held, hheld]; exact Nat.le_succ _), ?_⟩
      have haddr : (u.queue q).cqeAddr i = (s.queue q).cqeAddr i := by rw [huq, Queue.posted_cqeAddr]; rfl
      rw [← haddr, hbytes, hmem, haddr]
      have hne : (s.queue q).cqTail ≠ i := hne
      refine getList_putList_disjoint hs.mem _ ?_
      rw [Cqe.bytes_length]
      unfold Queue.cqeAddr
      omega

/-! ## A queue that drains -/

theorem jobsOfQueue_eq_nil (s : State) (q : Nat) : s.jobsOfQueue q = [] ↔ s.jobs.any (fun e => e.2.phase ≠ .gone && e.2.queue == q) = false := by
  unfold State.jobsOfQueue
  rw [List.map_eq_nil_iff, List.filter_eq_nil_iff, List.any_eq_false]

/-- A queue that drains shows DISABLED once nothing of it is left (R18). -/
theorem drainedQueue_run (s : State) (q : Nat) : (drainedQueue q).run s =
    if (s.queue q).state = .draining ∧ (s.queue q).held = [] ∧ s.jobsOfQueue q = [] then s.apply (.queues q { s.queue q with state := .disabled }) else s := by
  rw [Plan.run_def]
  unfold drainedQueue
  simp only [jobsOfQueue_eq_nil, Bool.and_eq_true, decide_eq_true_eq, List.isEmpty_iff, Bool.not_eq_true', and_assoc]
  split <;> rfl

/-- A queue that drains changes in its state alone. -/
theorem drainedQueue_queue {s : State} (hs : s.Wf) (q r : Nat) : ∃ st, ((drainedQueue q).run s).queue r = { s.queue r with state := st } := by
  rw [drainedQueue_run]
  split
  · rw [queue_put hs]
    split
    next h => exact ⟨_, by rw [h]⟩
    · exact ⟨_, rfl⟩
  · exact ⟨_, rfl⟩

/-! ## Doorbells that the ring admits -/

section
variable {s : State} {g v : Nat}

/-- What a taken head leaves: the head, the completions that wait posted, and the queue DISABLED where it has drained. -/
def cqHeadTaken (g v : Nat) (s : State) : Plan :=
  Plan.seq [Plan.act (.queues g { s.queue g with cqHead := v }), drainHeld g ((s.queue g).held.length + 1), drainedQueue g]

/-- With nothing that waits the head is taken and nothing else happens but the end of a drain. -/
theorem cqHeadTaken_run_nil (hs : s.Wf) (hheld : (s.queue g).held = []) : (cqHeadTaken g v s).run s = { s with
    queues := Tab.put {} s.queues g { s.queue g with cqHead := v, state := if (s.queue g).state = .draining ∧ s.jobsOfQueue g = [] then .disabled else (s.queue g).state } } := by
  have hq : (s.apply (.queues g { s.queue g with cqHead := v })).queue g = { s.queue g with cqHead := v } := queue_put_same hs _ _
  rw [cqHeadTaken, Plan.run_seq_cons, Plan.run_seq_cons, Plan.run_seq_cons, Plan.run_seq_nil, Plan.run_act, drainHeld_stays _ (by rw [hq]; exact .inl hheld),
    drainedQueue_run, hq]
  have hj : (s.apply (.queues g { s.queue g with cqHead := v })).jobsOfQueue g = s.jobsOfQueue g := rfl
  rw [hj]
  by_cases hd : (s.queue g).state = .draining ∧ s.jobsOfQueue g = []
  · rw [if_pos ⟨hd.1, hheld, hd.2⟩, if_pos hd]
    simp only [State.apply, Tab.put_put hs.queues]
  · rw [if_neg (fun h => hd ⟨h.1, h.2.2⟩), if_neg hd]
    rfl

theorem cqHeadTaken_only (g v : Nat) (s : State) : Plan.Only postFields (cqHeadTaken g v s) :=
  Plan.only_seq_cons (Plan.only_act (by simp [Eff.field, postFields])) (Plan.only_seq_cons (drainHeld_only _ _)
    (Plan.only_seq_cons ((drainedQueue_only _).mono (by decide)) Plan.only_seq_nil))

/-- Room for a completion that waits: the first one lands at CQ_TAIL, and stays there as others follow. -/
theorem cqHeadTaken_run_cons (hs : s.Wf) {c : Cqe} {cs : List Cqe} (hheld : (s.queue g).held = c :: cs) (hv : v < (s.queue g).cqSize)
    (hroom : Queue.cqFull { s.queue g with cqHead := v } = false) :
    let t := (cqHeadTaken g v s).run s
    (t.queue g).cqHead = v ∧ (t.queue g).held.length < (s.queue g).held.length ∧
      Tab.getList 0 t.mem ((s.queue g).cqeAddr (s.queue g).cqTail) 16 = c.bytes (s.queue g).phase := by
  have hs1 := hs.apply (.queues g { s.queue g with cqHead := v })
  have hq : (s.apply (.queues g { s.queue g with cqHead := v })).queue g = { s.queue g with cqHead := v } := queue_put_same hs _ _
  have hrun : (cqHeadTaken g v s).run s = (drainedQueue g).run ((drainHeld g ((s.queue g).held.length + 1)).run (s.apply (.queues g { s.queue g with cqHead := v }))) := by
    rw [cqHeadTaken, Plan.run_seq_cons, Plan.run_seq_cons, Plan.run_seq_cons, Plan.run_seq_nil, Plan.run_act]
  have hmem0 : (s.apply (.queues g { s.queue g with cqHead := v })).mem = s.mem := rfl
  rw [hrun]
  generalize s.apply (.queues g { s.queue g with cqHead := v }) = s1 at hs1 hq hmem0
  rw [drainHeld_cons _ (by rw [hq]; exact hheld) (by rw [hq]; exact hroom)]
  obtain ⟨hu, ⟨n, timer, huq⟩, hmem⟩ := drainHeld_first hs1 g c cs
  generalize (writeCqe g c).run _ = u at hu huq hmem
  rw [hq] at huq hmem
  have hkeeps : (u.queue g).Keeps (s.queue g).cqTail := by
    rw [huq]
    exact Queue.keeps_posted (x := { s.queue g with cqHead := v, held := cs, heldSince := cs.head?.map (·.since) }) n timer hv
  obtain ⟨hhead, hlen, hbytes⟩ := drainHeld_keeps g (s.queue g).cqTail (s.queue g).held.length hu hkeeps
  have hw := Plan.run_wf hu (drainHeld g (s.queue g).held.length)
  generalize (drainHeld g (s.queue g).held.length).run u = w at hhead hlen hbytes hw
  obtain ⟨st, hst⟩ := drainedQueue_queue hw g g
  have haddr : (u.queue g).cqeAddr (s.queue g).cqTail = (s.queue g).cqeAddr (s.queue g).cqTail := by rw [huq, Queue.posted_cqeAddr]; rfl
  refine ⟨?_, ?_, ?_⟩
  · rw [hst]
    exact hhead.trans (by rw [huq, Queue.posted_cqHead])
  · rw [hst, hheld]
    exact Nat.lt_succ_of_le (hlen.trans (by rw [huq, Queue.posted_held]))
  · have hdm : ((drainedQueue g).run w).mem = w.mem := (drainedQueue_only g).mem_eq w (by decide)
    rw [hdm, ← haddr, hbytes, hmem, haddr, hmem0]
    have := Tab.getList_putList (c.bytes (s.queue g).phase) ((s.queue g).cqeAddr (s.queue g).cqTail) hs.mem
    rwa [Cqe.bytes_length] at this

theorem headOk_lt {x : Queue} (h : x.headOk v = true) : v < x.cqSize := by
  simp only [Queue.headOk, Bool.and_eq_true, decide_eq_true_eq] at h
  exact h.1

end

/-- Settles O9: a tail is taken; a head is taken with nothing that waits, or with the first completion that waits at CQ_TAIL. -/
theorem doorbellsMoveRings : Obligations.DoorbellsMoveRings := by
  unfold Obligations.DoorbellsMoveRings
  refine ⟨fun fn q v s hserves ha hq he hv ht => exec_sqTail_taken hserves ha hq he hv ht, ?_⟩
  intro fn q v s hs hserves ha hq g x he hv
  have hexec : exec (.cqHeadDoorbell fn q v) s = .next ((cqHeadTaken g v s).run s) := exec_cqHead_taken hserves ha hq he hv
  refine ⟨fun hheld => hexec.trans (congrArg _ (cqHeadTaken_run_nil hs hheld)), fun c cs hheld hroom => ?_⟩
  obtain ⟨hhead, hlen, hbytes⟩ := cqHeadTaken_run_cons hs hheld (headOk_lt hv) hroom
  exact ⟨_, hexec, hhead, hlen, hbytes, (cqHeadTaken_only g v s).sameBut s⟩

end Sys2Proof.Machine
end

section
/-! Interrupts, result slots and damaged TLPs (R8, R25-R29, R32 codes 0x06, 0x0A, 0x0B, 0x0E and 0x13). -/
namespace Sys2Proof.Machine

/-! ## Vectors -/

/-- A vector of a function once it is to be sent: pending where it is masked, one more message where it is not (R26). -/
def Vec.signal (e : Vec) : Vec := if e.masked then { e with pend := true } else { e with sent := e.sent + 1 }

/-- A vector is sent, but for vector 0 while the function's reset is in progress (R25, R26). -/
theorem sendVec_run (s : State) (fn v : Nat) : (sendVec fn v).run s =
    if v = 0 ∧ (s.func fn).resetting = true then s else { s with vecs := Tab.put {} s.vecs (fn * 2048 + v) (Tab.get {} s.vecs (fn * 2048 + v)).signal } := by
  rw [Plan.run_def]
  unfold sendVec Vec.signal
  dsimp only
  by_cases h0 : v = 0 ∧ (s.func fn).resetting = true
  · simp [h0]
  · rw [if_neg (by simpa using h0), if_neg h0]
    split <;> rfl

/-! ## Coalescing -/

section
variable {s : State} {q t0 : Nat}

theorem exec_coalesceTimerExpiry (hserves : s.svc.halted = false) (htimer : (s.queue q).timer = some t0) (htime : (s.queue q).coalTime ≠ 0)
    (hdue : t0 + (s.queue q).coalTime ≤ s.ticks) :
    exec (.coalesceTimerExpiry q) s = .next ((sendVec (s.queueFn q) (s.queue q).vector).run (s.apply (.queues q { s.queue q with count := 0, timer := none }))) :=
  Plan.done_of_eq (q := Plan.andThen (Plan.act (.queues q { s.queue q with count := 0, timer := none })) (sendVec (s.queueFn q) (s.queue q).vector)) hserves
    (by simp [coalesceTimerExpiry, htimer, htime, hdue])

/-- The event of a completion that waits for room, and the wait counted anew. -/
def cqFullWaitEvent (q : Nat) : Plan := fun s =>
  Plan.andThen (violation (s.queueFn q) 0x0E (s.queueLocal q)) (fun s => [.queues q { s.queue q with heldSince := some s.ticks }]) s

theorem cqFullWaitEvent_only (q : Nat) : Plan.Only [.queues, .vecs, .regs, .recorder] (cqFullWaitEvent q) :=
  ⟨fun s => (Plan.only_andThen ((violation_only ..).mono (by decide)) ⟨fun _ => EffsIn.one (by simp [Eff.field])⟩).effs s⟩

theorem exec_cqFullWaitExpiry (hserves : s.svc.halted = false) (hsince : (s.queue q).heldSince = some t0) (hdue : t0 + 1000000 ≤ s.ticks) :
    exec (.cqFullWaitExpiry q) s = .next ((cqFullWaitEvent q).run s) :=
  Plan.done_of_eq hserves (by simp [cqFullWaitExpiry, hsince, hdue, cqFullWaitEvent])

theorem cqFullWaitEvent_run (hs : s.Wf) (q : Nat) :
    let t := (cqFullWaitEvent q).run s
    t.queue q = { s.queue q with heldSince := some s.ticks } ∧ (∀ r, r ≠ q → t.queue r = s.queue r) ∧ s.Violated t (s.queueFn q) 0x0E (s.queueLocal q) := by
  have hv := violation_violated hs (s.queueFn q) 0x0E (s.queueLocal q) (by decide)
  have hq := (violation_only (s.queueFn q) 0x0E (s.queueLocal q)).queue_eq s (by decide)
  have ht : ((violation (s.queueFn q) 0x0E (s.queueLocal q)).run s).ticks = s.ticks := (violation_only ..).ticks_eq s (by decide)
  have hu := Plan.run_wf hs (violation (s.queueFn q) 0x0E (s.queueLocal q))
  have hrun : (cqFullWaitEvent q).run s = (fun u : State => u.apply (.queues q { u.queue q with heldSince := some u.ticks })) ((violation (s.queueFn q) 0x0E (s.queueLocal q)).run s) := by
    rw [Plan.run_def, cqFullWaitEvent, ← Plan.run_def, Plan.run_andThen]
    rfl
  rw [hrun]
  generalize (violation (s.queueFn q) 0x0E (s.queueLocal q)).run s = u at hv hq ht hu
  refine ⟨?_, fun r hr => (queue_put_other hu _ hr).trans (hq r), ?_⟩
  · exact (queue_put_same hu _ _).trans (by rw [hq, ht])
  · exact hv.of_after (F := [.queues]) ((Plan.only_act (e := .queues q { u.queue q with heldSince := some u.ticks }) (by simp [Eff.field])).sameBut u) (by decide) (by decide)

end

/-! ## Unmasking and result slots -/

section
variable {s : State} {fn : Nat} (hserves : s.svc.halted = false) (ha : s.answers fn = true)
include hserves ha

theorem exec_msixVectorUnmask {v : Nat} (hv : v < vectorsOf fn) :
    exec (.msixVectorUnmask fn v) s = .next { s with
      vecs := Tab.put {} s.vecs (fn * 2048 + v)
        { Tab.get {} s.vecs (fn * 2048 + v) with
          masked := false, pend := false, sent := (Tab.get {} s.vecs (fn * 2048 + v)).sent + (if (Tab.get {} s.vecs (fn * 2048 + v)).pend then 1 else 0) } } := by
  refine (Plan.done_hostGate (q := msixVectorUnmask fn v) hserves ha rfl).trans ?_
  rw [Plan.run_def, msixVectorUnmask, if_neg (Nat.not_le.mpr hv)]
  dsimp only
  by_cases hp : (Tab.get ({} : Vec) s.vecs (fn * 2048 + v)).pend = true
  · simp only [if_pos hp]
    rfl
  · simp only [if_neg hp]
    rfl

theorem exec_resultSlotAck_full {slot : Nat} (hslot : slot < (s.queueRange fn).2) (hfull : (Tab.get {} s.slots ((s.queueRange fn).1 + slot)).state = .full) :
    exec (.resultSlotAck fn slot (Tab.get {} s.slots ((s.queueRange fn).1 + slot)).seq) s = .next { s with
      slots := Tab.put {} s.slots ((s.queueRange fn).1 + slot) { Tab.get {} s.slots ((s.queueRange fn).1 + slot) with state := .free, payload := [] } } :=
  Plan.done_hostGate (q := Plan.act (.slots ((s.queueRange fn).1 + slot) { Tab.get {} s.slots ((s.queueRange fn).1 + slot) with state := .free, payload := [] })) hserves ha
    (by simp [resultSlotAck, Nat.not_le.mpr hslot, hfull, Plan.act])

theorem exec_resultSlotAck_bad {slot v : Nat} (hslot : slot < (s.queueRange fn).2)
    (hbad : (Tab.get {} s.slots ((s.queueRange fn).1 + slot)).state ≠ .full ∨ v ≠ (Tab.get {} s.slots ((s.queueRange fn).1 + slot)).seq) :
    exec (.resultSlotAck fn slot v) s = .next ((violation fn 0x0A 0).run s) :=
  Plan.done_hostGate hserves ha (by
    have hn : ¬ ((Tab.get {} s.slots ((s.queueRange fn).1 + slot)).state = .full ∧ v = (Tab.get {} s.slots ((s.queueRange fn).1 + slot)).seq) :=
      fun h => hbad.elim (fun hb => hb h.1) (fun hb => hb h.2)
    simp only [resultSlotAck, if_neg (Nat.not_le.mpr hslot), if_neg hn])

theorem exec_resultSlotAck_none {slot v : Nat} (hslot : (s.queueRange fn).2 ≤ slot) : exec (.resultSlotAck fn slot v) s = .next ((violation fn 0x06 0).run s) :=
  Plan.done_hostGate hserves ha (by simp only [resultSlotAck, if_pos hslot])

end

/-- Settles O12, command by command. -/
theorem vectorsAndSlots : Obligations.VectorsAndSlots := by
  unfold Obligations.VectorsAndSlots
  refine ⟨?timer, ?unmask, ?ack, ?badAck, ?noSlot, ?wait⟩
  case timer =>
    intro q t0 s hserves htimer htime hdue
    refine (exec_coalesceTimerExpiry hserves htimer htime hdue).trans (congrArg _ ?_)
    rw [sendVec_run]
    by_cases h0 : (s.queue q).vector = 0 ∧ (s.func (s.queueFn q)).resetting = true
    · exact (if_pos h0).trans (by simp only [if_pos h0]; rfl)
    · exact (if_neg h0).trans (by simp only [if_neg h0]; rfl)
  case unmask => exact fun fn v s hserves ha hv => exec_msixVectorUnmask hserves ha hv
  case ack => exact fun fn slot s hserves ha hslot hfull => exec_resultSlotAck_full hserves ha hslot hfull
  case badAck =>
    exact fun fn slot v s hs hserves ha hslot hbad => ⟨_, exec_resultSlotAck_bad hserves ha hslot hbad, (violation_report hs fn _ 0 (by decide)).2⟩
  case noSlot => exact fun fn slot v s hs hserves ha hslot => ⟨_, exec_resultSlotAck_none hserves ha hslot, (violation_report hs fn _ 0 (by decide)).2⟩
  case wait =>
    intro q t0 s hs hserves hsince hdue
    obtain ⟨hq, hother, hviol⟩ := cqFullWaitEvent_run hs q
    exact ⟨_, exec_cqFullWaitExpiry hserves hsince hdue, hq, hother, hviol, (cqFullWaitEvent_only q).sameBut s⟩

/-! ## Damaged TLPs -/

/-- An AER status bit set, and then the violation: the bit is the endpoint's whole change (R8, R32). -/
theorem aer_violation {s : State} (hs : s.Wf) (p : Pcie) (fn code : Nat) (hc : code < 2 ^ 12) :
    let t := (Plan.andThen (Plan.act (.pcie p)) (violation fn code 0)).run s
    t.pcie = p ∧ s.Violated t fn code 0 ∧ s.SameBut (.pcie :: reportFields) t := by
  have haer : s.SameBut [.pcie] (s.apply (.pcie p)) := (Plan.only_act (F := [.pcie]) (e := .pcie p) (by simp [Eff.field])).sameBut s
  refine ⟨?_, ?_, (Plan.only_andThen (Plan.only_act (by simp [Eff.field])) ((violation_only ..).mono (by decide))).sameBut s⟩
  · rw [Plan.run_andThen, (violation_only fn code 0).pcie_eq _ (by decide)]
    rfl
  · rw [Plan.run_andThen]
    exact (violation_violated (hs.apply _) fn code 0 hc).of_before haer (by decide)

/-- Settles O14: each damaged TLP that is looked at sets its AER bit and is a violation; an ECRC that nobody asked to check does nothing. -/
theorem badTlpIsReported : Obligations.BadTlpIsReported := by
  unfold Obligations.BadTlpIsReported
  intro fn s hs hserves
  refine ⟨⟨_, Plan.done_eq _ _ hserves, aer_violation hs _ fn 0x0B (by decide)⟩, fun hecrc => ?checked, fun hecrc => ?unchecked⟩
  case checked =>
    exact ⟨_, Plan.done_of_eq (q := Plan.andThen (Plan.act (.pcie { s.pcie with aerEcrc := true })) (violation fn 0x13 0)) hserves (by simp [ecrcFailTlp, hecrc]),
      aer_violation hs _ fn 0x13 (by decide)⟩
  case unchecked => exact Plan.done_of_eq (q := Plan.skip) hserves (by simp [ecrcFailTlp, hecrc, Plan.skip])

end Sys2Proof.Machine
end

section
/-! The mailbox: a command taken, carried out at once, unknown or dropped (R30, R32 codes 0x11 and 0x12). -/
namespace Sys2Proof.Machine

/-! ## Taking a command and ending it -/

/-- The end of an operation leaves the mailbox DONE with its result, and vector 0 of the PF sent (R30). -/
theorem mbxEnd_run (s : State) (result : Nat) (rsps : List Nat) : (mbxEnd result rsps).run s = s.mbxFinished result rsps := by
  rw [Plan.run_def, mbxEnd, ← Plan.run_def, Plan.run_andThen]
  rfl

theorem mbxFinished_mbx (s : State) (result : Nat) (rsps : List Nat) : (s.mbxFinished result rsps).mbx = s.mbx.ended result rsps :=
  (sendVec_only 0 0).mbx_eq { s with mbx := s.mbx.ended result rsps } (by decide)

/-- A mailbox that takes commands is BUSY with this one, and carries it out (R30). -/
theorem exec_mbxCommand {s : State} (h : s.TakesMbx) (code tag : Nat) (p : Plan) :
    Plan.done (hostGate 0 (mbxCommand code tag p)) s = .next (p.run { s with mbx := s.mbxTaken code tag }) := by
  have hallowed : allowedNow { s with mbx := s.mbxTaken code tag } code = true := by
    simp [allowedNow, h.isOpen.notRecovery, h.notFrozen]
  have hrun : (mbxCommand code tag p).run s = p.run { s with mbx := s.mbxTaken code tag } := by
    rw [Plan.run_def, mbxCommand, if_neg h.idle, ← Plan.run_def, Plan.run_andThen]
    exact Plan.run_congr (if_pos hallowed)
  exact (Plan.done_hostGate h.isOpen.serves h.isOpen.answers rfl).trans (congrArg _ hrun)

/-- A command that only reports is carried out at once, with SUCCESS and its words (R30). -/
theorem exec_mbxReport {s : State} (h : s.TakesMbx) (code tag : Nat) {p : Plan} {rsps : List Nat}
    (hp : p { s with mbx := s.mbxTaken code tag } = mbxEnd 0 rsps { s with mbx := s.mbxTaken code tag }) :
    Plan.done (hostGate 0 (mbxCommand code tag p)) s = .next (s.mbxAnswered code tag 0 rsps) :=
  (exec_mbxCommand h code tag p).trans (congrArg _ ((Plan.run_congr hp).trans (mbxEnd_run _ 0 rsps)))

/-- DUMP_READ at an aligned offset of a subsystem that is not frozen reports the dump as it now stands; the mailbox itself is no part of it (R307). -/
theorem mbxDump_taken {s : State} (h : s.TakesMbx) (tag : Nat) (hoff : s.mbx.args.getD 0 0 % 32 = 0) :
    mbxDump { s with mbx := s.mbxTaken 0x04 tag } =
      mbxEnd 0 ((List.range 8).map (fun k => rdN s.dumpNow (s.mbx.args.getD 0 0 + 4 * k) 4)) { s with mbx := s.mbxTaken 0x04 tag } := by
  have harg : State.arg { s with mbx := s.mbxTaken 0x04 tag } 0 = s.mbx.args.getD 0 0 := rfl
  have hdump : State.dumpNow { s with mbx := s.mbxTaken 0x04 tag } = s.dumpNow := rfl
  simp only [mbxDump, harg, hdump, hoff, h.notFrozen, ne_eq, not_true_eq_false, if_false, Bool.false_eq_true]

/-- Settles O16: what the three commands report does not rest on the mailbox, so it is what it was before they were taken. -/
theorem mailboxReports : Obligations.MailboxReports := by
  unfold Obligations.MailboxReports
  intro tag s h
  exact ⟨exec_mbxReport h 0x01 tag rfl, exec_mbxReport h 0x02 tag rfl, fun hoff => exec_mbxReport h 0x04 tag (mbxDump_taken h tag hoff)⟩

/-! ## Commands that are not carried out -/

/-- An unknown code: the mailbox ends with UNKNOWN_CMD, and the violation follows (R32 code 0x12). -/
def unknownCmd (code tag : Nat) : Plan := fun s =>
  Plan.seq [Plan.act (.mbx { s.mbx with cmd := code % 256, tag := tag % 256, latched := s.mbx.args }), mbxEnd 1 [], violation 0 0x12 0] s

theorem exec_mbxUnknownCmd {s : State} (h : s.TakesMbx) {code : Nat} (tag : Nat) (hcode : code ∉ mbxCodes) :
    exec (.mbxUnknownCmd code tag) s = .next ((unknownCmd code tag).run s) :=
  Plan.done_hostGate h.isOpen.serves h.isOpen.answers (by simp only [mbxUnknownCmd, List.contains_eq_mem, hcode, decide_false, Bool.false_eq_true, if_false, h.idle]; rfl)

theorem unknownCmd_only (code tag : Nat) : Plan.Only [.mbx, .vecs, .regs, .recorder] (unknownCmd code tag) :=
  ⟨fun s => (Plan.only_seq_cons (Plan.only_act (by simp [Eff.field])) (Plan.only_seq_cons ((mbxEnd_only 1 []).mono (by decide))
    (Plan.only_seq_cons ((violation_only ..).mono (by decide)) Plan.only_seq_nil))).effs s⟩

/-- The mailbox after an unknown code, and the violation as one of the state before the command. -/
theorem unknownCmd_run {s : State} (hs : s.Wf) (code tag : Nat) :
    let t := (unknownCmd code tag).run s
    t.mbx = { s.mbx with state := .done, cmd := code % 256, tag := tag % 256, latched := s.mbx.args, result := 1, rsps := words8 [], percent := 0 } ∧
      s.Violated t 0 0x12 0 := by
  have hend : Plan.Only [.mbx, .vecs] (Plan.seq [Plan.act (.mbx { s.mbx with cmd := code % 256, tag := tag % 256, latched := s.mbx.args }), mbxEnd 1 []]) :=
    Plan.only_seq_cons (Plan.only_act (by simp [Eff.field])) (Plan.only_seq_cons (mbxEnd_only 1 []) Plan.only_seq_nil)
  have hrun : (unknownCmd code tag).run s = (violation 0 0x12 0).run
      ((Plan.seq [Plan.act (.mbx { s.mbx with cmd := code % 256, tag := tag % 256, latched := s.mbx.args }), mbxEnd 1 []]).run s) := by
    rw [Plan.run_def, unknownCmd, ← Plan.run_def]
    simp only [Plan.run_seq_cons, Plan.run_seq_nil]
  have hu := hend.sameBut s
  have hwf := Plan.run_wf hs (Plan.seq [Plan.act (.mbx { s.mbx with cmd := code % 256, tag := tag % 256, latched := s.mbx.args }), mbxEnd 1 []])
  have hmbx : ((Plan.seq [Plan.act (.mbx { s.mbx with cmd := code % 256, tag := tag % 256, latched := s.mbx.args }), mbxEnd 1 []]).run s).mbx =
      { s.mbx with state := .done, cmd := code % 256, tag := tag % 256, latched := s.mbx.args, result := 1, rsps := words8 [], percent := 0 } := by
    rw [Plan.run_seq_cons, Plan.run_seq_cons, Plan.run_seq_nil, mbxEnd_run, mbxFinished_mbx]
    rfl
  rw [hrun]
  generalize (Plan.seq [_, _]).run s = u at hu hwf hmbx
  have hv : ((violation 0 0x12 0).run u).mbx = u.mbx := (violation_only 0 0x12 0).mbx_eq u (by decide)
  exact ⟨hv.trans hmbx, (violation_violated hwf 0 0x12 0 (by decide)).of_before hu (by decide)⟩

/-- A command written while the mailbox is BUSY is counted, and nothing else happens (R32 code 0x11). -/
theorem exec_mbxCommand_busy {s : State} (h : s.Open 0) (hbusy : s.mbx.state = .busy) (code tag : Nat) (p : Plan) :
    Plan.done (hostGate 0 (mbxCommand code tag p)) s =
      .next { s with regs := Tab.put 0 s.regs (regKey 0 pgSVC 0x148) (BitVec.ofNat 32 (satAdd 0xFFFFFFFF (s.reg 0 pgSVC 0x148) 1)) } :=
  Plan.done_hostGate (q := bump pgSVC 0x148 1) h.serves h.answers (if_pos hbusy)

/-- Settles O19: an unknown code ends at once as a violation; each of the twelve commands is dropped by a BUSY mailbox. -/
theorem droppedMailboxCommands : Obligations.DroppedMailboxCommands := by
  unfold Obligations.DroppedMailboxCommands
  refine ⟨fun code tag s hs h hcode => ?_, fun c s h hbusy hc => ?_⟩
  · obtain ⟨hmbx, hviol⟩ := unknownCmd_run hs code tag
    exact ⟨_, exec_mbxUnknownCmd h tag hcode, hmbx, hviol, (unknownCmd_only code tag).sameBut s⟩
  · cases c with
    | mbxIdentity => exact exec_mbxCommand_busy h hbusy _ _ _
    | mbxEventSummary => exact exec_mbxCommand_busy h hbusy _ _ _
    | attestSign => exact exec_mbxCommand_busy h hbusy _ _ _
    | attestRead => exact exec_mbxCommand_busy h hbusy _ _ _
    | attestCert => exact exec_mbxCommand_busy h hbusy _ _ _
    | mbxDumpRead => exact exec_mbxCommand_busy h hbusy _ _ _
    | mbxSpareIn => exact exec_mbxCommand_busy h hbusy _ _ _
    | mbxGddr6Retrain => exact exec_mbxCommand_busy h hbusy _ _ _
    | mbxProfileCommit => exact exec_mbxCommand_busy h hbusy _ _ _
    | mbxFlashWrite => exact exec_mbxCommand_busy h hbusy _ _ _
    | mbxEventClear => exact exec_mbxCommand_busy h hbusy _ _ _
    | mbxAttestKeyRoll => exact exec_mbxCommand_busy h hbusy _ _ _
    | _ => exact absurd hc Bool.false_ne_true

end Sys2Proof.Machine
end

section
/-! The BAR4 window: its base, its reads and its writes (R14, R15, R294). -/
namespace Sys2Proof.Machine

/-! ## The base -/

/-- A violation leaves every value register but its own two, and those of the recorder's header, as it is. -/
theorem violation_keepsReg {k fn : Nat} (h118 : k ≠ regKey fn pgHIF 0x118) (h11C : k ≠ regKey fn pgHIF 0x11C) (hevt : NotEvt k) (code queue : Nat) :
    Plan.KeepsReg k (violation fn code queue) := by
  intro s hs
  have h1 := setReg_keepsReg h118 (satAdd 0xFFFFFFFF (s.reg fn pgHIF 0x118) 1) s hs
  have hs1 := Plan.run_wf hs (setReg fn pgHIF 0x118 (satAdd 0xFFFFFFFF (s.reg fn pgHIF 0x118) 1))
  have h2 := setReg_keepsReg h11C (queue % 4096 * 2 ^ 12 + code) _ hs1
  rw [violation_run]
  exact (event_keepsReg hevt _ _ (Plan.run_wf hs1 _)).trans (h2.trans h1)

theorem violation_bar4Base {s : State} (hs : s.Wf) (code queue : Nat) : ((violation 0 code queue).run s).bar4Base = s.bar4Base := by
  have hlo := (violation_keepsReg (fn := 0) (k := regKey 0 pgHIF 0x110) (by decide) (by decide) (notEvt_hif 0 0x110 (by decide)) code queue).reg hs
  have hhi := (violation_keepsReg (fn := 0) (k := regKey 0 pgHIF 0x114) (by decide) (by decide) (notEvt_hif 0 0x114 (by decide)) code queue).reg hs
  unfold State.bar4Base
  rw [hlo, hhi]

/-! ## What stands in the way of an access -/

theorem servers_noCache {s : State} (h : s.cacheSegs = []) (a n : Nat) : s.servers a n = [] := by simp [State.servers, h]

theorem badCached_noCache {s : State} (h : s.cacheSegs = []) (a n : Nat) : s.badCached a n = [] := by simp [State.badCached, h]

theorem gddrTouch_noCache {s : State} (h : s.cacheSegs = []) (a n : Nat) : gddrTouch a n s = [] := by simp [gddrTouch, h]

/-- Without cache lines a read goes straight to its memory. -/
theorem cachedRead_noCache {s : State} (h : s.cacheSegs = []) (note : Nat × Nat × Bool → Plan) (d g : Plan) (a n : Nat) : cachedRead note d g a n s = g s := by
  simp only [cachedRead, badCached_noCache h]

theorem meetsPoison_plain {s : State} (hp : s.Plain) (a n : Nat) : s.meetsPoison a n = false := by simp [State.meetsPoison, hp.noPoison, hp.noLines]

theorem partialOnPoison_plain {s : State} (hp : s.Plain) (a n : Nat) : s.partialOnPoison a n = false := by
  have hc : ∀ b, s.cacheOf b = none := fun b => by simp [State.cacheOf, hp.noCache]
  simp [State.partialOnPoison, State.mergePoisoned, hp.noPoison, hc]

theorem badWordIn_none {s : State} (h : s.badWords = []) (a n : Nat) : s.badWordIn a n = none := by simp [State.badWordIn, h]

/-- Segments that neither refuse the window nor are down. -/
theorem segs_open {s : State} {l : List Nat} (h : l.all (fun n => !s.bar4Refuses n && !s.segNotOn n) = true) :
    firstSeg l s.bar4Refuses = none ∧ l.any s.segNotOn = false := by
  simp only [List.all_eq_true, Bool.and_eq_true, Bool.not_eq_true'] at h
  refine ⟨List.find?_eq_none.mpr (fun n hn => ?_), List.any_eq_false.mpr (fun n hn => ?_)⟩
  · rw [(h n hn).1]; exact Bool.false_ne_true
  · rw [(h n hn).2]; exact Bool.false_ne_true

/-! ## Reads -/

/-- A read of plate segments that are ON and not refused returns what they hold. -/
theorem bar4Read_plate {s : State} {off len : Nat} (hlen : len ≠ 0) (hin : off + len ≤ s.bar4Size) (hreg : regionOf (s.bar4Base + off) len = .plate)
    (hsegs : (segsOf (s.bar4Base + off) len).all (fun n => !s.bar4Refuses n && !s.segNotOn n) = true) (hbad : s.badWords = []) :
    bar4Read off len s = answerRead (s.bytesAt (s.bar4Base + off) len) false false s := by
  obtain ⟨hrefuse, hon⟩ := segs_open hsegs
  unfold bar4Read
  rw [if_neg (by simp [hlen, hin]), hrefuse, hon, badWordIn_none hbad, hreg]
  rfl

/-- A read of the local memory of a cluster that is in use returns what it holds. -/
theorem bar4Read_local {s : State} {off len : Nat} (hlen : len ≠ 0) (hin : off + len ≤ s.bar4Size) (hreg : regionOf (s.bar4Base + off) len = .localMem)
    (hn : (s.bar4Base + off - localBase) / 0x400000 < 16) (hw : (s.cluster ((s.bar4Base + off - localBase) / 0x400000)).withdrawn = false) :
    bar4Read off len s = answerRead (s.bytesAt (s.bar4Base + off) len) false false s := by
  simp only [bar4Read, hlen, Nat.not_lt.mpr hin, hreg, decide_false, Bool.or_self, Bool.false_eq_true, if_false]
  generalize (s.bar4Base + off - localBase) / 0x400000 = n at hn hw
  rw [if_neg (by simp [hw, Nat.not_le.mpr hn])]

section
variable {s : State} {off len : Nat} (hserves : s.svc.halted = false) (ha : s.answers 0 = true)
include hserves ha

theorem exec_bar4Read_of {p : Plan} (hp : bar4Read off len s = p s) : exec (.bar4Read off len) s = .next (p.run s) :=
  Plan.done_of_eq hserves ((if_pos ha).trans hp)

theorem exec_bar4Read_beyond (h : s.bar4Size < off + len) : exec (.bar4Read off len) s = .next { s with hostRead := { data := zeros len, unsupported := true } } :=
  exec_bar4Read_of (p := answerRead (zeros len) false true) hserves ha (by simp [bar4Read, h])

/-- A read of plain GDDR6 passes its channels and returns what is stored (R15, R297). -/
theorem exec_bar4Read_gddr (hlen : len ≠ 0) (hin : off + len ≤ s.bar4Size) (hreg : regionOf (s.bar4Base + off) len = .gddr) (hp : s.Plain) (hstage : s.svc.stage ≠ 3) :
    exec (.bar4Read off len) s =
      .next { (memRequests { cls := 7 } false (s.bar4Base + off) len).run s with hostRead := { data := s.bytesAt (s.bar4Base + off) len } } := by
  have hplan : bar4Read off len s = Plan.seq [memRequests { cls := 7 } false (s.bar4Base + off) len, gddrTouch (s.bar4Base + off) len,
      answerRead (s.bytesAt (s.bar4Base + off) len) false false] s := by
    simp [bar4Read, hlen, Nat.not_lt.mpr hin, hreg, hp.answers, hstage, servers_noCache hp.noCache, cachedRead_noCache hp.noCache, meetsPoison_plain hp]
  refine (exec_bar4Read_of hserves ha hplan).trans (congrArg _ ?_)
  have hmode : ((memRequests { cls := 7 } false (s.bar4Base + off) len).run s).modeUnits = s.modeUnits := (memRequests_only ..).modeUnits_eq s (by decide)
  have hcache : ((memRequests { cls := 7 } false (s.bar4Base + off) len).run s).cacheSegs = [] := by
    unfold State.cacheSegs; rw [hmode]; exact hp.noCache
  rw [Plan.run_seq_cons, Plan.run_seq_cons, Plan.run_seq_cons, Plan.run_seq_nil]
  generalize (memRequests { cls := 7 } false (s.bar4Base + off) len).run s = u at hcache
  rw [Plan.run_def (gddrTouch _ _), gddrTouch_noCache hcache]
  rfl

/-- A read that meets a POISONED block is answered poisoned, with AER and the error of the position (R294). -/
theorem exec_bar4Read_poison (hlen : len ≠ 0) (hin : off + len ≤ s.bar4Size) (hreg : regionOf (s.bar4Base + off) len = .gddr) (hcache : s.cacheSegs = [])
    (hfrozen : s.gddr.frozen = false) (hstage : s.svc.stage ≠ 3) (hpoison : s.meetsPoison (s.bar4Base + off) len = true) :
    ∃ t, exec (.bar4Read off len) s = .next t ∧ t.hostRead = { data := s.bytesAt (s.bar4Base + off) len, poisoned := true } ∧
      t.pcie = { s.pcie with aerOther := true } ∧ s.SameBut [.hostRead, .pcie, .regs, .vecs] t := by
  have hplan : bar4Read off len s = Plan.seq [poisonRead { cls := 7 } (s.bar4Base + off), raiseAer, answerRead (s.bytesAt (s.bar4Base + off) len) true false] s := by
    simp [bar4Read, hlen, Nat.not_lt.mpr hin, hreg, hfrozen, hstage, servers_noCache hcache, cachedRead_noCache hcache, hpoison]
  have honly : Plan.Only [.hostRead, .pcie, .regs, .vecs] (Plan.seq [poisonRead { cls := 7 } (s.bar4Base + off), raiseAer, answerRead (s.bytesAt (s.bar4Base + off) len) true false]) :=
    Plan.only_seq_cons ((poisonRead_only ..).mono (by decide)) (Plan.only_seq_cons ⟨fun _ => EffsIn.one (by simp [Eff.field])⟩
      (Plan.only_seq_cons (Plan.only_act (by simp [Eff.field])) Plan.only_seq_nil))
  refine ⟨_, exec_bar4Read_of hserves ha hplan, ?_, ?_, honly.sameBut s⟩
  · rw [Plan.run_seq_cons, Plan.run_seq_cons, Plan.run_seq_cons, Plan.run_seq_nil]
    rfl
  · have hpcie : ((poisonRead { cls := 7 } (s.bar4Base + off)).run s).pcie = s.pcie := (poisonRead_only ..).pcie_eq s (by decide)
    rw [Plan.run_seq_cons, Plan.run_seq_cons, Plan.run_seq_cons, Plan.run_seq_nil, ← hpcie]
    rfl

theorem exec_bar4Read_plate (hlen : len ≠ 0) (hin : off + len ≤ s.bar4Size) (hreg : regionOf (s.bar4Base + off) len = .plate)
    (hsegs : (segsOf (s.bar4Base + off) len).all (fun n => !s.bar4Refuses n && !s.segNotOn n) = true) (hbad : s.badWords = []) :
    exec (.bar4Read off len) s = .next ((answerRead (s.bytesAt (s.bar4Base + off) len) false false).run s) := by
  have hplan := bar4Read_plate hlen hin hreg hsegs hbad
  exact exec_bar4Read_of hserves ha hplan

theorem exec_bar4Read_local (hlen : len ≠ 0) (hin : off + len ≤ s.bar4Size) (hreg : regionOf (s.bar4Base + off) len = .localMem)
    (hn : (s.bar4Base + off - localBase) / 0x400000 < 16) (hw : (s.cluster ((s.bar4Base + off - localBase) / 0x400000)).withdrawn = false) :
    exec (.bar4Read off len) s = .next ((answerRead (s.bytesAt (s.bar4Base + off) len) false false).run s) := by
  have hplan := bar4Read_local hlen hin hreg hn hw
  exact exec_bar4Read_of hserves ha hplan

end

/-! ## Writes -/

/-- Where a byte of a cluster's 4 MiB lies: each half's share of the accumulator store is in one piece (R70). -/
def localOffset (x : Nat) : Nat := if x < 0x300000 then x else 0x300000 + (if x % 512 < 256 then 0 else 0x80000) + (x - 0x300000) / 512 * 256 + x % 256

theorem localOffset_lt {x : Nat} (h : x < 0x400000) : localOffset x < 0x400000 := by
  unfold localOffset
  split_ifs <;> omega

theorem localOffset_injective {x y : Nat} (hx : x < 0x400000) (hy : y < 0x400000) (h : localOffset x = localOffset y) : x = y := by
  unfold localOffset at h
  split_ifs at h <;> omega

theorem localKey_eq (o : Nat) : localKey (localBase + o) = o / 0x400000 * 0x400000 + localOffset (o % 0x400000) := by
  unfold localKey localOffset
  rw [Nat.add_sub_cancel_left]
  dsimp only
  split_ifs <;> omega

/-- Two addresses of cluster local memory do not share a place (R15, R70). -/
theorem localKey_injective {a b : Nat} (ha : localBase ≤ a) (hb : localBase ≤ b) (h : localKey a = localKey b) : a = b := by
  obtain ⟨x, rfl⟩ := Nat.exists_eq_add_of_le ha
  obtain ⟨y, rfl⟩ := Nat.exists_eq_add_of_le hb
  rw [localKey_eq, localKey_eq] at h
  have hx := Nat.mod_lt x (show 0 < 0x400000 by decide)
  have hy := Nat.mod_lt y (show 0 < 0x400000 by decide)
  have hlx := localOffset_lt hx
  have hly := localOffset_lt hy
  have hmod : localOffset (x % 0x400000) = localOffset (y % 0x400000) := by
    generalize localOffset (x % 0x400000) = p at *
    generalize localOffset (y % 0x400000) = q at *
    omega
  have := localOffset_injective hx hy hmod
  rw [hmod] at h
  congr 1
  omega

/-- Bytes written to local memory from an address on. -/
def localWrites (a : Nat) (data : List Byte) : Plan := fun _ => data.mapIdx (fun i b => .localMem (localKey (a + i)) b)

theorem localWrites_only (a : Nat) (data : List Byte) : Plan.Only [.localMem] (localWrites a data) := by
  refine ⟨fun s e he => ?_⟩
  obtain ⟨i, hi, rfl⟩ := List.mem_mapIdx.mp he
  simp [Eff.field]

theorem localWrites_cons (a : Nat) (b : Byte) (data : List Byte) (s : State) :
    (localWrites a (b :: data)).run s = (localWrites (a + 1) data).run (s.apply (.localMem (localKey a) b)) := by
  rw [Plan.run_def, Plan.run_def]
  simp only [localWrites, List.mapIdx_cons, State.applyAll_cons, Nat.add_zero, Nat.add_assoc, Nat.add_comm 1]

theorem localWrites_other (k : Nat) : ∀ (data : List Byte) (a : Nat) {s : State}, s.Wf → (∀ i, i < data.length → k ≠ localKey (a + i)) →
    Tab.get 0 ((localWrites a data).run s).localMem k = Tab.get 0 s.localMem k
  | [], _, _, _, _ => rfl
  | b :: data, a, s, hs, h => by
    have h0 : k ≠ localKey a := h 0 (Nat.succ_pos _)
    rw [localWrites_cons, localWrites_other k data (a + 1) (hs.apply _) (fun i hi => by
      rw [Nat.add_assoc, Nat.add_comm 1]; exact h (i + 1) (Nat.succ_lt_succ hi))]
    exact (Tab.get_put hs.localMem ..).trans (if_neg h0)

theorem localWrites_at {data : List Byte} {a i : Nat} {s : State} (hs : s.Wf) (ha : localBase ≤ a) (hi : i < data.length) :
    Tab.get 0 ((localWrites a data).run s).localMem (localKey (a + i)) = data.getD i 0 := by
  induction data generalizing a i s with
  | nil => exact absurd hi (Nat.not_lt_zero i)
  | cons b data ih =>
    rw [localWrites_cons]
    cases i with
    | zero =>
      have hne : ∀ i, i < data.length → localKey a ≠ localKey (a + 1 + i) := fun i _ he => by
        have := localKey_injective ha (Nat.le_add_right_of_le (Nat.le_add_right_of_le ha)) he
        omega
      show Tab.get 0 ((localWrites (a + 1) data).run _).localMem (localKey a) = b
      rw [localWrites_other (localKey a) data (a + 1) (hs.apply (.localMem (localKey a) b)) hne]
      exact (Tab.get_put hs.localMem ..).trans (if_pos rfl)
    | succ i =>
      have := ih (hs.apply (.localMem (localKey a) b)) (a := a + 1) (Nat.le_add_right_of_le ha) (Nat.lt_of_succ_lt_succ hi)
      rw [Nat.add_comm i 1, ← Nat.add_assoc, this, Nat.add_comm 1 i, List.getD_cons_succ]

theorem localBase_le_of_region {a n : Nat} (h : regionOf a n = .localMem) : localBase ≤ a := by
  unfold regionOf at h
  split at h
  · exact absurd h (by decide)
  · split at h
    · exact absurd h (by decide)
    · split at h
      next hl => exact hl.1
      next => split at h <;> exact absurd h (by decide)

/-- A write to plate segments that are ON, not refused and not being burnished stores its bytes. -/
theorem bar4Write_plate {s : State} {off : Nat} {data : List Byte} (hdata : data ≠ []) (hin : off + data.length ≤ s.bar4Size)
    (hreg : regionOf (s.bar4Base + off) data.length = .plate)
    (hsegs : (segsOf (s.bar4Base + off) data.length).all (fun n => !s.bar4Refuses n && !s.segNotOn n) = true) (hbad : s.badWords = [])
    (hburn : s.burnishOf [(s.bar4Base + off, data)] = none) : bar4Write off data s = Plan.act (.store (s.bar4Base + off) data) s := by
  obtain ⟨hrefuse, hon⟩ := segs_open hsegs
  have hlen : data.length ≠ 0 := fun h => hdata (List.length_eq_zero_iff.mp h)
  unfold bar4Write
  rw [if_neg (by simp [hlen, hin]), hrefuse, hon, hburn, plateStore_plain hbad, hreg]
  rfl

/-- A write to the local memory of a quiet cluster stores its bytes. -/
theorem bar4Write_local {s : State} {off : Nat} {data : List Byte} (hdata : data ≠ []) (hin : off + data.length ≤ s.bar4Size)
    (hreg : regionOf (s.bar4Base + off) data.length = .localMem) (hn : (s.bar4Base + off - localBase) / 0x400000 < 16)
    (hw : (s.cluster ((s.bar4Base + off - localBase) / 0x400000)).withdrawn = false)
    (hquiet : (s.cluster ((s.bar4Base + off - localBase) / 0x400000)).quiet = true) : bar4Write off data s = localWrites (s.bar4Base + off) data s := by
  have hlen : data.length ≠ 0 := fun h => hdata (List.length_eq_zero_iff.mp h)
  simp only [bar4Write, hlen, Nat.not_lt.mpr hin, hreg, decide_false, Bool.or_self, Bool.false_eq_true, if_false]
  generalize (s.bar4Base + off - localBase) / 0x400000 = n at hn hw hquiet
  rw [if_pos (by simp [hw, hquiet, hn]), localWrites]

section
variable {s : State} {off : Nat} {data : List Byte} (hserves : s.svc.halted = false) (ha : s.answers 0 = true)
include hserves ha

theorem exec_bar4Write_of {p : Plan} (hp : bar4Write off data s = p s) : exec (.bar4Write off data) s = .next (p.run s) := Plan.done_hostGate hserves ha hp

theorem exec_bar4Write_beyond (h : s.bar4Size < off + data.length) : exec (.bar4Write off data) s = .next s :=
  exec_bar4Write_of (p := Plan.skip) hserves ha (by simp [bar4Write, h, Plan.skip])

/-- A write to plain GDDR6 passes its channels and is stored (R15, R297). -/
theorem exec_bar4Write_gddr (hdata : data ≠ []) (hin : off + data.length ≤ s.bar4Size) (hreg : regionOf (s.bar4Base + off) data.length = .gddr) (hp : s.Plain)
    (hstage : s.svc.stage ≠ 3) (hown : s.foreign true (s.bar4Base + off) data.length = none) :
    exec (.bar4Write off data) s =
      .next { (memRequests { cls := 7 } true (s.bar4Base + off) data.length).run s with mem := Tab.putList 0 s.mem (s.bar4Base + off) data } := by
  have hplan : bar4Write off data s = Plan.andThen (memRequests { cls := 7 } true (s.bar4Base + off) data.length) (gddrStore 0 (s.bar4Base + off) data) s := by
    simp [bar4Write, hdata, Nat.not_lt.mpr hin, hreg, hp.answers, hstage, hown, servers_noCache hp.noCache, partialOnPoison_plain hp]
  refine (exec_bar4Write_of hserves ha hplan).trans (congrArg _ ?_)
  have honly := memRequests_only { cls := 7 } true (s.bar4Base + off) data.length
  have hmode : ((memRequests { cls := 7 } true (s.bar4Base + off) data.length).run s).modeUnits = s.modeUnits := honly.modeUnits_eq s (by decide)
  have hpois : ((memRequests { cls := 7 } true (s.bar4Base + off) data.length).run s).poisoned = s.poisoned := honly.poisoned_eq s (by decide)
  have hmem : ((memRequests { cls := 7 } true (s.bar4Base + off) data.length).run s).mem = s.mem := honly.mem_eq s (by decide)
  rw [Plan.run_andThen, ← hmem]
  generalize (memRequests { cls := 7 } true (s.bar4Base + off) data.length).run s = u at hmode hpois
  have hcache : u.cacheSegs = [] := by unfold State.cacheSegs; rw [hmode]; exact hp.noCache
  have hstore : gddrStore 0 (s.bar4Base + off) data u = [.store (s.bar4Base + off) data] := by simp [gddrStore, hcache, hpois, hp.noPoison]
  rw [Plan.run_def, hstore]
  rfl

theorem exec_bar4Write_plate (hdata : data ≠ []) (hin : off + data.length ≤ s.bar4Size) (hreg : regionOf (s.bar4Base + off) data.length = .plate)
    (hsegs : (segsOf (s.bar4Base + off) data.length).all (fun n => !s.bar4Refuses n && !s.segNotOn n) = true) (hbad : s.badWords = [])
    (hburn : s.burnishOf [(s.bar4Base + off, data)] = none) :
    exec (.bar4Write off data) s = .next ((Plan.act (.store (s.bar4Base + off) data)).run s) := by
  have hplan := bar4Write_plate hdata hin hreg hsegs hbad hburn
  exact exec_bar4Write_of hserves ha hplan

theorem exec_bar4Write_local (hdata : data ≠ []) (hin : off + data.length ≤ s.bar4Size) (hreg : regionOf (s.bar4Base + off) data.length = .localMem)
    (hn : (s.bar4Base + off - localBase) / 0x400000 < 16) (hw : (s.cluster ((s.bar4Base + off - localBase) / 0x400000)).withdrawn = false)
    (hquiet : (s.cluster ((s.bar4Base + off - localBase) / 0x400000)).quiet = true) :
    exec (.bar4Write off data) s = .next ((localWrites (s.bar4Base + off) data).run s) :=
  exec_bar4Write_of hserves ha (bar4Write_local hdata hin hreg hn hw hquiet)

end

/-- Settles O13, access by access. -/
theorem bar4Window : Obligations.Bar4Window := by
  unfold Obligations.Bar4Window
  refine ⟨?base, ?reads, ?writes⟩
  case base =>
    intro v s hserves ha base
    refine ⟨fun hok => ?_, fun hs hbad => ⟨(violation 0 0x14 0).run s, ?_, violation_bar4Base hs 0x14 0, (violation_report hs 0 0x14 0 (by decide)).2⟩⟩
    · exact Plan.done_hostGate (q := Plan.andThen (setReg 0 pgHIF 0x110 (base % 2 ^ 32)) (setReg 0 pgHIF 0x114 (base / 2 ^ 32))) hserves ha (if_pos hok)
    · exact Plan.done_hostGate hserves ha (if_neg (Bool.eq_false_iff.mp hbad))
  case reads =>
    intro off len s hserves ha hlen
    refine ⟨exec_bar4Read_beyond hserves ha, fun hin => ⟨?_, ?_, ?_, ?_⟩⟩
    · exact exec_bar4Read_gddr hserves ha hlen hin
    · exact exec_bar4Read_poison hserves ha hlen hin
    · exact exec_bar4Read_plate hserves ha hlen hin
    · exact exec_bar4Read_local hserves ha hlen hin
  case writes =>
    intro off data s hserves ha hdata
    refine ⟨exec_bar4Write_beyond hserves ha, fun hin => ⟨?_, ?_, ?_⟩⟩
    · exact exec_bar4Write_gddr hserves ha hdata hin
    · exact exec_bar4Write_plate hserves ha hdata hin
    · intro hs hreg hn hw hquiet
      exact ⟨_, exec_bar4Write_local hserves ha hdata hin hreg hn hw hquiet, fun i hi => localWrites_at hs (localBase_le_of_region hreg) hi,
        fun k hk => localWrites_other k data _ hs hk, (localWrites_only _ data).sameBut s⟩

end Sys2Proof.Machine
end

section
/-! What becomes of a job: what every part of a kill and of a release leaves of its phase and its kill, and when it is gone (R22, R53). -/
namespace Sys2Proof.Machine

/-! ## Plans over lists, and properties that plans leave standing -/

/-- Each element's plan brings about a property of it, given one that every plan keeps, and no plan of the list takes it away: it holds of all of them afterwards. -/
theorem Plan.each_establishes {α : Type} {Q P : α → State → Prop} {f : α → Plan} (hpre : ∀ x y s, s.Wf → Q y s → Q y ((f x).run s))
    (hself : ∀ x s, s.Wf → Q x s → P x ((f x).run s)) (hkeep : ∀ x y s, s.Wf → P y s → P y ((f x).run s)) :
    ∀ (xs : List α) (s : State), s.Wf → ∀ y, Q y s → y ∈ xs ∨ P y s → P y ((Plan.each xs f).run s)
  | [], _, _, _, _, hy => hy.elim (fun h => absurd h List.not_mem_nil) id
  | x :: xs, s, hs, y, hq, hy => by
    rw [Plan.run_each_cons]
    refine Plan.each_establishes hpre hself hkeep xs _ (Plan.run_wf hs _) y (hpre x y s hs hq) ?_
    rcases hy with hy | hy
    · rcases List.mem_cons.mp hy with rfl | hy
      · exact .inr (hself y s hs hq)
      · exact .inl hy
    · exact .inr (hkeep x y s hs hy)

/-- A plan leaves a property of the state standing. -/
def Plan.Preserves (I : State → Prop) (p : Plan) : Prop := ∀ s, s.Wf → I s → I (p.run s)

section
variable {I : State → Prop}

theorem Plan.Keeps.preserves {α : Type} {P : State → α} {p : Plan} (h : Plan.Keeps P p) (R : α → Prop) : Plan.Preserves (fun s => R (P s)) p := fun s hs hI => by
  have := h s hs
  dsimp only at hI ⊢
  rwa [this]

theorem Plan.preserves_skip : Plan.Preserves I Plan.skip := fun _ _ h => h

theorem Plan.preserves_andThen {p q : Plan} (hp : Plan.Preserves I p) (hq : Plan.Preserves I q) : Plan.Preserves I (Plan.andThen p q) := fun s hs h => by
  rw [Plan.run_andThen]
  exact hq _ (Plan.run_wf hs p) (hp s hs h)

theorem Plan.preserves_look {f : State → Plan} (h : ∀ s, Plan.Preserves I (f s)) : Plan.Preserves I (Plan.look f) := fun s hs hI => h s s hs hI

theorem Plan.preserves_when {b : Bool} {p : Plan} (h : Plan.Preserves I p) : Plan.Preserves I (Plan.when b p) := fun s hs hI => by
  rw [Plan.run_when]
  split
  · exact h s hs hI
  · exact hI

theorem Plan.preserves_seq_nil : Plan.Preserves I (Plan.seq []) := Plan.preserves_skip

theorem Plan.preserves_seq_cons {p : Plan} {ps : List Plan} (hp : Plan.Preserves I p) (hps : Plan.Preserves I (Plan.seq ps)) : Plan.Preserves I (Plan.seq (p :: ps)) :=
  Plan.preserves_andThen hp hps

theorem Plan.preserves_each {α : Type} {f : α → Plan} (h : ∀ x, Plan.Preserves I (f x)) : ∀ xs : List α, Plan.Preserves I (Plan.each xs f)
  | [] => Plan.preserves_skip
  | x :: xs => Plan.preserves_seq_cons (h x) (Plan.preserves_each h xs)

end

/-! ## What a re-evaluation leaves -/

/-- A stroke but for whether it is READY. -/
def Stroke.core (t : Stroke) : Stroke := if t.state = .ready then { t with state := .waiting } else t

/-- A job but for what a re-evaluation may change: which of its waiting strokes are READY, when that last changed, and the priority it inherits (R39, R44, R50). -/
def Job.core (j : Job) : Job := { j with strokes := j.strokes.map Stroke.core, changed := 0, eff := 0, via := 0 }

theorem evalStroke_core (s : State) (id : Nat) (j : Job) (i : Nat) (t : Stroke) : (evalStroke s id j i t).core = t.core := by
  unfold evalStroke
  split
  next h =>
    split
    · cases t; cases h; rfl
    · rfl
  next h =>
    split
    · rfl
    · cases t; cases h; rfl
  · rfl

theorem core_evalStrokes (s : State) (id n : Nat) (j : Job) :
    Job.core { j with strokes := j.strokes.mapIdx (fun i t => evalStroke s id j i t), changed := n } = j.core := by
  have hstrokes : (j.strokes.mapIdx (fun i t => evalStroke s id j i t)).map Stroke.core = j.strokes.map Stroke.core :=
    List.ext_getElem? (fun i => by simp only [List.getElem?_map, List.getElem?_mapIdx, Option.map_map, Function.comp_def, evalStroke_core])
  simp only [Job.core, hstrokes]

theorem phase_core (j : Job) : j.core.phase = j.phase := rfl
theorem killed_core (j : Job) : j.core.killed = j.killed := rfl

/-- A plan leaves a job as it is but for its re-evaluation. -/
def Plan.KeepsCore (id : Nat) (p : Plan) : Prop := Plan.Keeps (fun s => (s.job id).core) p

theorem Plan.Only.keepsCore {F : List Field} {p : Plan} (h : Plan.Only F p) (hj : Field.jobs ∉ F) (id : Nat) : Plan.KeepsCore id p :=
  fun s _ => congrArg Job.core (h.job_eq s hj id)

theorem job_put_same {s : State} (hs : s.Wf) (id : Nat) (j : Job) : (s.apply (.jobs id j)).job id = j := by rw [job_put hs, if_pos rfl]

theorem job_put_other {s : State} (hs : s.Wf) {id k : Nat} (j : Job) (h : id ≠ k) : (s.apply (.jobs k j)).job id = s.job id := by rw [job_put hs, if_neg h]

/-- A job written with the same value, seen through `f`, is the same seen through `f`. -/
theorem job_put_congr {α : Type} (f : Job → α) {s : State} (hs : s.Wf) (id k : Nat) (j : Job) (hj : f j = f (s.job k)) :
    f ((s.apply (.jobs k j)).job id) = f (s.job id) := by
  rw [job_put hs]
  split
  next h => rw [hj, h]
  · rfl

theorem evalJob_keepsCore (id k : Nat) : Plan.KeepsCore id (evalJob k) := by
  intro s hs
  rw [Plan.run_def]
  unfold evalJob
  dsimp only
  split
  · split
    · rfl
    · exact job_put_congr Job.core hs id k _ (core_evalStrokes s k s.ticks (s.job k))
  · rfl

theorem raiseHolder_keepsCore (id : Nat) : ∀ (fuel p h : Nat), Plan.KeepsCore id (raiseHolder fuel p h)
  | 0, _, _ => Plan.keeps_skip
  | fuel + 1, p, h => by
    intro s hs
    rw [Plan.run_def]
    unfold raiseHolder
    dsimp only
    split
    · have hset : (((setJob h { s.job h with eff := p, via := 4 - fuel }).run s).job id).core = (s.job id).core := job_put_congr Job.core hs id h _ rfl
      have hrest : Plan.KeepsCore id (Plan.seq [Plan.when (decide ((s.job h).eff < p)) (Plan.act (.parts (s.job h).part { s.part (s.job h).part with inherits := satAdd 0xFFFFFFFF (s.part (s.job h).part).inherits 1 })),
          Plan.look (fun s => Plan.each (jobBlockers s h) (raiseHolder fuel p))]) :=
        Plan.keeps_seq_cons (Plan.Only.keepsCore (F := [.parts]) (Plan.only_when (Plan.only_act (by simp [Eff.field]))) (by decide) id)
          (Plan.keeps_seq_cons (Plan.keeps_look (fun s => Plan.keeps_each (fun k => raiseHolder_keepsCore id fuel p k))) Plan.keeps_seq_nil)
      rw [← Plan.run_def, Plan.run_seq_cons]
      exact (hrest _ (Plan.run_wf hs _)).trans hset
    · rfl

theorem inherit_keepsCore (id : Nat) : Plan.KeepsCore id inherit := by
  intro s hs
  rw [Plan.run_def]
  unfold inherit
  refine Plan.keeps_each (P := fun s => (s.job id).core) (fun k s hs => ?_) s hs
  rw [Plan.run_def]
  dsimp only
  split
  · exact Plan.keeps_each (P := fun s => (s.job id).core) (fun h => raiseHolder_keepsCore id _ _ h) s hs
  · rfl

/-- Waiting strokes evaluated again, and priorities inherited, leave every job but for that as it is. -/
theorem settle_keepsCore (id : Nat) : Plan.KeepsCore id settle := fun s hs =>
  Plan.keeps_andThen (P := fun s => (s.job id).core) (Plan.keeps_each (fun k => evalJob_keepsCore id k)) (inherit_keepsCore id) s hs

/-! ## Phase and kill -/

/-- Where a job stands: its phase, and the status of its kill. -/
def State.fate (s : State) (id : Nat) : JobPhase × Option Nat := ((s.job id).phase, (s.job id).killed)

/-- A plan leaves the phase and the kill of a job as they are. -/
def Plan.KeepsFate (id : Nat) (p : Plan) : Prop := Plan.Keeps (fun s => s.fate id) p

theorem Plan.KeepsCore.keepsFate {id : Nat} {p : Plan} (h : Plan.KeepsCore id p) : Plan.KeepsFate id p := by
  intro s hs
  have hphase := congrArg Job.phase (h s hs)
  have hkilled := congrArg Job.killed (h s hs)
  exact Prod.ext hphase hkilled

theorem Plan.Only.keepsFate {F : List Field} {p : Plan} (h : Plan.Only F p) (hj : Field.jobs ∉ F) (id : Nat) : Plan.KeepsFate id p := (h.keepsCore hj id).keepsFate

theorem settle_keepsFate (id : Nat) : Plan.KeepsFate id settle := (settle_keepsCore id).keepsFate

theorem fate_put_other {s : State} (hs : s.Wf) {id k : Nat} (j : Job) (h : id ≠ k) : (s.apply (.jobs k j)).fate id = s.fate id :=
  congrArg (fun j : Job => (j.phase, j.killed)) (job_put_other hs j h)

theorem fate_put_same {s : State} (hs : s.Wf) (id : Nat) (j : Job) : (s.apply (.jobs id j)).fate id = (j.phase, j.killed) :=
  congrArg (fun j : Job => (j.phase, j.killed)) (job_put_same hs id j)

/-- A change of a job that leaves its phase and kill alone. -/
theorem modJob_keepsFate (id k : Nat) {f : Job → Job} (hp : ∀ j, (f j).phase = j.phase) (hk : ∀ j, (f j).killed = j.killed) : Plan.KeepsFate id (modJob k f) := fun s hs =>
  job_put_congr (fun j => (j.phase, j.killed)) hs id k _ (by rw [hp, hk])

theorem modStroke_keepsFate (id k i : Nat) (f : Stroke → Stroke) : Plan.KeepsFate id (modStroke k i f) := fun _ hs =>
  job_put_congr (fun j => (j.phase, j.killed)) hs id k _ rfl

/-! ## The parts of a kill -/

/-- The fields that the parts of a kill can change, but for the jobs themselves. -/
def sideFields : List Field := [.sems, .segs, .sessions, .groups, .streams, .medQueue, .cores, .intakes, .clusters, .localMem] ++ refFields

theorem freeMutexes_side (id : Nat) : Plan.Only sideFields (freeMutexes id) :=
  ⟨fun s => (Plan.only_each (fun _ => ⟨fun s => (Plan.only_andThen (Plan.only_act (by simp [Eff.field, sideFields])) ((event_only _).mono (by decide))).effs s⟩)).effs s⟩

theorem freeFrames_side (id : Nat) : Plan.Only sideFields (freeFrames id) := by
  refine ⟨fun s => ?_⟩
  simp only [freeFrames]
  split
  · exact EffsIn.one (by simp [Eff.field, sideFields, refFields, gddrFields])
  · exact EffsIn.nil

theorem burnishClaims_side (id : Nat) : Plan.Only sideFields (burnishClaims id) := by
  refine ⟨fun s => (Plan.only_each (fun b => ⟨fun s => ?_⟩)).effs s⟩
  dsimp only
  split
  · exact EffsIn.nil
  · exact EffsIn.one (by simp [Eff.field, sideFields])

theorem dropLines_side (id : Nat) : Plan.Only sideFields (dropLines id) := ⟨fun _ => EffsIn.map (fun _ => by simp [Eff.field, sideFields, refFields, gddrFields])⟩

theorem writeEntry_side (c n w : Nat) : Plan.Only sideFields (writeEntry c n w) :=
  ⟨fun s => (Plan.only_andThen ((ownStore_only ..).mono (by decide)) ((ownStore_only ..).mono (by decide))).effs s⟩

theorem writeWaiting_side (g : Nat) : Plan.Only sideFields (writeWaiting g) := by
  refine ⟨fun s => (Plan.only_seq (fun p hp => ?_)).effs s⟩
  obtain ⟨k, hk, rfl⟩ := List.mem_mapIdx.mp hp
  exact Plan.only_andThen (writeEntry_side ..) (writeEntry_side ..)

theorem freeEntry_side (s : State) (n : Nat) : Plan.Only sideFields (freeEntry s n) :=
  Plan.only_andThen ((ownStore_only ..).mono (by decide)) ((ownStore_only ..).mono (by decide))

theorem dropWaiting_side (id : Nat) : Plan.Only sideFields (dropWaiting id) :=
  ⟨fun s => (Plan.only_each (fun _ => ⟨fun s => (Plan.only_andThen
    ⟨fun _ => EffsIn.cons (by simp [Eff.field, sideFields]) (EffsIn.one (by simp [Eff.field, sideFields]))⟩
    (Plan.only_andThen (freeEntry_side ..) (writeWaiting_side _))).effs s⟩)).effs s⟩

theorem abandonIntake_side (id : Nat) : Plan.Only sideFields (abandonIntake id) :=
  ⟨fun s => (Plan.only_each (fun _ => ⟨fun s => (Plan.only_andThen (Plan.only_act (by simp [Eff.field, sideFields]))
    (Plan.only_each (fun h => (releaseRef_only h).mono (by decide)))).effs s⟩)).effs s⟩

theorem burnishLocal_side (pl : Place) : Plan.Only sideFields (burnishLocal pl) := by
  refine ⟨fun s => EffsIn.append ?_ (EffsIn.map (fun _ => by simp [Eff.field, sideFields]))⟩
  split
  all_goals first
    | exact EffsIn.one (by simp [Eff.field, sideFields])
    | exact EffsIn.nil

theorem mediaEnds_keepsFate (id : Nat) (l : List (Nat × Nat)) : Plan.KeepsFate id (mediaEnds l) := by
  refine Plan.keeps_each (fun r s hs => ?_)
  rw [Plan.run_def]
  dsimp only
  split
  · rfl
  · exact modStroke_keepsFate id _ _ _ s hs

theorem resync_keepsFate (id c : Nat) : Plan.KeepsFate id (resync c) := by
  intro s hs
  rw [Plan.run_def]
  simp only [resync]
  split
  · rfl
  · exact Plan.keeps_seq_cons (P := fun s => s.fate id) ((Plan.only_act (F := [.streams]) (by simp [Eff.field])).keepsFate (by decide) id)
      (Plan.keeps_seq_cons ((Plan.only_act (F := [.medQueue]) (by simp [Eff.field])).keepsFate (by decide) id)
        (Plan.keeps_seq_cons (Plan.keeps_each (fun h => (releaseRef_only _).keepsFate (by decide) id))
          (Plan.keeps_seq_cons (mediaEnds_keepsFate id _) Plan.keeps_seq_nil))) s hs

theorem abandonMedia_keepsFate (id k : Nat) : Plan.KeepsFate id (abandonMedia k) := by
  intro s hs
  rw [Plan.run_def]
  simp only [abandonMedia]
  split
  · rfl
  · exact Plan.keeps_seq_cons (P := fun s => s.fate id) ((Plan.only_act (F := [.medQueue]) (by simp [Eff.field])).keepsFate (by decide) id)
      (Plan.keeps_seq_cons (Plan.keeps_each (fun _ => Plan.Only.keepsFate (F := [.cores]) ⟨fun _ => EffsIn.one (by simp [Eff.field])⟩ (by decide) id))
        (Plan.keeps_seq_cons (Plan.keeps_each (fun c => resync_keepsFate id c))
          (Plan.keeps_seq_cons (Plan.keeps_each (fun _ => (releaseRef_only _).keepsFate (by decide) id)) Plan.keeps_seq_nil))) s hs

/-! ## The kill -/

/-- What a kill does after the job has been marked. -/
def killParts (id : Nat) (strokes : List Stroke) : Plan :=
  Plan.seq [freeMutexes id, freeFrames id, burnishClaims id, dropLines id, dropWaiting id, abandonMedia id, abandonIntake id,
    Plan.each (strokes.filterMap (fun t => if t.state = .running then t.place else none)) burnishLocal, settle]

theorem killParts_keepsFate (id k : Nat) (strokes : List Stroke) : Plan.KeepsFate id (killParts k strokes) :=
  Plan.keeps_seq_cons ((freeMutexes_side k).keepsFate (by decide) id) (Plan.keeps_seq_cons ((freeFrames_side k).keepsFate (by decide) id)
    (Plan.keeps_seq_cons ((burnishClaims_side k).keepsFate (by decide) id) (Plan.keeps_seq_cons ((dropLines_side k).keepsFate (by decide) id)
      (Plan.keeps_seq_cons ((dropWaiting_side k).keepsFate (by decide) id) (Plan.keeps_seq_cons (abandonMedia_keepsFate id k)
        (Plan.keeps_seq_cons ((abandonIntake_side k).keepsFate (by decide) id)
          (Plan.keeps_seq_cons (Plan.keeps_each (fun pl => (burnishLocal_side pl).keepsFate (by decide) id)) (Plan.keeps_seq_cons (settle_keepsFate id) Plan.keeps_seq_nil))))))))

/-- A job marked as killed (R53). -/
def Job.marked (j : Job) (status now : Nat) : Job :=
  { j with killed := some status, changed := now, strokes := j.strokes.map (fun t => if t.state = .preempted then { t with frame := none } else t) }

/-- A kill by the job it meets: one that is gone is left alone, one that is killed takes DISCARDED alone, another is marked and its units burnished. -/
theorem killJob_eq (id status : Nat) (s : State) : killJob id status s =
    if (s.job id).phase = .gone then [] else
    match (s.job id).killed with
    | some _ => if status = 0x10 then [.jobs id { s.job id with killed := some 0x10 }] else []
    | none => Plan.andThen (setJob id ((s.job id).marked status s.ticks)) (killParts id (s.job id).strokes) s := rfl

theorem killJob_keepsFate {id k : Nat} (h : id ≠ k) (status : Nat) : Plan.KeepsFate id (killJob k status) := by
  intro s hs
  rw [Plan.run_def, killJob_eq]
  split
  · rfl
  · split
    · split
      · exact fate_put_other hs _ h
      · rfl
    · rw [← Plan.run_def, Plan.run_andThen]
      exact (killParts_keepsFate id k _ _ (Plan.run_wf hs _)).trans (fate_put_other hs _ h)

/-- A kill of a job that has not ended leaves it killed: with the status given, or, where it is killed already, DISCARDED or the first status (R22, R53). -/
theorem killJob_fate {s : State} (hs : s.Wf) (id status : Nat) : ((killJob id status).run s).fate id =
    ((s.job id).phase, if (s.job id).phase = .gone then (s.job id).killed else
      match (s.job id).killed with | some x => some (if status = 0x10 then 0x10 else x) | none => some status) := by
  rw [Plan.run_def, killJob_eq]
  split
  · rfl
  · split
    next x hx =>
      split
      · exact fate_put_same hs id _
      · exact Prod.ext rfl hx
    next =>
      rw [← Plan.run_def, Plan.run_andThen]
      exact (killParts_keepsFate id id _ _ (Plan.run_wf hs _)).trans (fate_put_same hs id _)

/-- A kill leaves every phase as it is. -/
theorem killJob_phase {s : State} (hs : s.Wf) (id k status : Nat) : (((killJob k status).run s).job id).phase = (s.job id).phase := by
  by_cases h : id = k
  · rw [h]; exact congrArg Prod.fst (killJob_fate hs k status)
  · exact congrArg Prod.fst (killJob_keepsFate h status s hs)

/-- Killed with DISCARDED, a job that has not ended is killed with that status, whatever killed it before (R22). -/
theorem killJob_discarded {s : State} (hs : s.Wf) (id : Nat) (h : (s.job id).phase ≠ .gone) : (((killJob id 0x10).run s).job id).killed = some 0x10 := by
  refine (congrArg Prod.snd (killJob_fate hs id 0x10)).trans ?_
  dsimp only
  rw [if_neg h]
  split <;> rfl

/-- A job that has ended, or is killed with DISCARDED. -/
def Discarded (id : Nat) (s : State) : Prop := (s.job id).phase = .gone ∨ (s.job id).killed = some 0x10

theorem discarded_congr {s t : State} {id : Nat} (h : t.fate id = s.fate id) (hd : Discarded id s) : Discarded id t :=
  hd.imp (fun hg => (congrArg Prod.fst h).trans hg) (fun hk => (congrArg Prod.snd h).trans hk)

theorem killJob_discards {s : State} (hs : s.Wf) (id : Nat) : Discarded id ((killJob id 0x10).run s) := by
  by_cases hg : (s.job id).phase = .gone
  · exact .inl ((killJob_phase hs id id _).trans hg)
  · exact .inr (killJob_discarded hs id hg)

/-- A first kill sets its status. -/
theorem killJob_first {s : State} (hs : s.Wf) (id status : Nat) (h : (s.job id).phase ≠ .gone) (hk : (s.job id).killed = none) :
    (((killJob id status).run s).job id).killed = some status := by
  refine (congrArg Prod.snd (killJob_fate hs id status)).trans ?_
  dsimp only
  rw [if_neg h, hk]

/-! ## The end -/

/-- What the end of a job does before its record goes. -/
def endSteps (id : Nat) (payload : List Byte) (s : State) : List Plan :=
  let j := s.job id
  let c : Cqe := { status := s.endStatus j, queue := s.queueLocal j.queue, tag := j.tag, ptr := resultPtr s j, irqNow := j.irqNow, chunks := j.chunks, part := j.part }
  [ (match s.lateRefusal j with | some (_, some v) => violation j.fn v (s.queueLocal j.queue) | _ => Plan.skip),
    freeMutexes id,
    (match j.slot with
     | none => Plan.skip
     | some g => fun s => [.slots g (if 0x0F < j.status then { Tab.get {} s.slots g with state := .free } else (Tab.get {} s.slots g).fill payload)]),
    slowdownEntry id (s.endStatus j),
    releaseClaims id, freeFrames id,
    Plan.when (!j.silent) (postCqe j.queue c)]

def endParts (id : Nat) (payload : List Byte) (s : State) : Plan := Plan.seq (endSteps id payload s)

theorem finishJob_run (id : Nat) (payload : List Byte) (s : State) :
    (finishJob id payload).run s = settle.run ((drainedQueue (s.job id).queue).run (((endParts id payload s).run s).apply (.jobs id {}))) := by
  have hplan : finishJob id payload s = Plan.seq (endSteps id payload s ++ [Plan.act (.jobs id {}), drainedQueue (s.job id).queue, settle]) s := rfl
  rw [Plan.run_congr hplan, Plan.run_seq_append, Plan.run_seq_cons, Plan.run_seq_cons, Plan.run_seq_cons, Plan.run_seq_nil, Plan.run_act]
  rfl

/-- The fields that the end of a job can change, but for the jobs themselves. -/
def endFields : List Field := [.queues, .slots, .claims] ++ sideFields

theorem releaseClaims_claims (id : Nat) : Plan.Only [.claims] (releaseClaims id) := by
  refine ⟨fun s => EffsIn.filterMap (fun b e h => ?_)⟩
  split at h
  · exact absurd h (by simp)
  · obtain rfl := Option.some.inj h
    simp [Eff.field]

theorem endParts_only (id : Nat) (payload : List Byte) (s : State) : Plan.Only endFields (endParts id payload s) := by
  refine Plan.only_seq_cons ?_ (Plan.only_seq_cons ((freeMutexes_side id).mono (by decide)) (Plan.only_seq_cons ?_ (Plan.only_seq_cons ((slowdownEntry_only id _).mono (by decide))
    (Plan.only_seq_cons ((releaseClaims_claims id).mono (by decide)) (Plan.only_seq_cons ((freeFrames_side id).mono (by decide))
      (Plan.only_seq_cons (Plan.only_when ((postCqe_only ..).mono (by decide))) Plan.only_seq_nil))))))
  · split
    · exact (violation_only ..).mono (by decide)
    · exact Plan.only_skip
  · split
    · exact Plan.only_skip
    · exact ⟨fun _ => EffsIn.one (by simp [Eff.field, endFields])⟩

theorem finishJob_keepsFate {id k : Nat} (h : id ≠ k) (payload : List Byte) : Plan.KeepsFate id (finishJob k payload) := by
  intro s hs
  have hparts := (endParts_only k payload s).keepsFate (by decide) id s hs
  have hs1 := Plan.run_wf hs (endParts k payload s)
  rw [finishJob_run]
  generalize (endParts k payload s).run s = u at hparts hs1
  have hgone := fate_put_other hs1 ({} : Job) h
  have hs2 := hs1.apply (.jobs k {})
  generalize u.apply (.jobs k {}) = w at hgone hs2
  exact (settle_keepsFate id _ (Plan.run_wf hs2 _)).trans (((drainedQueue_only _).keepsFate (by decide) id w hs2).trans (hgone.trans hparts))

/-- A job that has ended is gone. -/
theorem finishJob_gone {s : State} (hs : s.Wf) (id : Nat) (payload : List Byte) : (((finishJob id payload).run s).job id).phase = .gone := by
  have hs1 := Plan.run_wf hs (endParts id payload s)
  rw [finishJob_run]
  generalize (endParts id payload s).run s = u at hs1
  have hgone : (u.apply (.jobs id {})).fate id = (.gone, none) := fate_put_same hs1 id {}
  have hs2 := hs1.apply (.jobs id {})
  generalize u.apply (.jobs id {}) = w at hgone hs2
  have hsettle := settle_keepsFate id _ (Plan.run_wf hs2 (drainedQueue (s.job id).queue))
  have hdrain := (drainedQueue_only (s.job id).queue).keepsFate (by decide) id w hs2
  exact congrArg Prod.fst (hsettle.trans (hdrain.trans hgone))

/-! ## The release -/

/-- The fields that a killed job's units can change as they let it go. -/
def unitFields : List Field := [.retries, .xfers, .colls] ++ sideFields

theorem dropHeld_units (k : Nat) : Plan.Only unitFields (dropHeld k) := by
  refine ⟨fun s => ?_⟩
  refine (Plan.only_seq_cons (Plan.only_each (fun n => ⟨fun s => ?_⟩)) (Plan.only_seq_cons ⟨fun s => ?_⟩ (Plan.only_seq_cons ⟨fun s => ?_⟩ Plan.only_seq_nil))).effs s
  · exact (Plan.only_andThen ⟨fun _ => EffsIn.cons (by simp [Eff.field, unitFields, sideFields]) (EffsIn.one (by simp [Eff.field, unitFields, sideFields]))⟩
      ((freeEntry_side ..).mono (by decide))).effs s
  · split
    · exact EffsIn.one (by simp [Eff.field, unitFields])
    · exact EffsIn.nil
  · split
    · exact EffsIn.one (by simp [Eff.field, unitFields])
    · exact EffsIn.nil

/-- What the release of a killed job does before its end: its strokes leave their units, and its retries, sessions, transfers and collectives end. -/
def releaseSteps (id : Nat) (strokes : List Stroke) : List Plan :=
  [ Plan.seq (strokes.mapIdx (fun i t => match t.place with | some pl => leaveUnit id i pl | none => Plan.skip)),
    (fun s => if s.retries.any (fun r => r.who.job == id) then [.retries (s.retries.filter (fun r => r.who.job != id))] else []), dropHeld id]

def releaseParts (id : Nat) (strokes : List Stroke) : Plan := Plan.seq (releaseSteps id strokes)

theorem releaseParts_only (k : Nat) (strokes : List Stroke) : Plan.Only unitFields (releaseParts k strokes) := by
  refine Plan.only_seq_cons (Plan.only_seq (fun p hp => ?_)) (Plan.only_seq_cons ⟨fun s => ?_⟩ (Plan.only_seq_cons (dropHeld_units k) Plan.only_seq_nil))
  · obtain ⟨n, hn, rfl⟩ := List.mem_mapIdx.mp hp
    split
    · exact (leaveUnit_only ..).mono (by decide)
    · exact Plan.only_skip
  · split
    · exact EffsIn.one (by simp [Eff.field, unitFields])
    · exact EffsIn.nil

/-- A job that is gone, or not killed, is not released; another lets go of its units and ends (R53 step 5). -/
theorem releaseKilled_run (id : Nat) (s : State) : (releaseKilled id).run s =
    if (s.job id).phase = .gone ∨ (s.job id).killed = none then s else (finishJob id []).run ((releaseParts id (s.job id).strokes).run s) := by
  split
  next h => exact Plan.run_congr (q := Plan.skip) (if_pos (by simpa using h))
  next h =>
    have hplan : releaseKilled id s = Plan.seq (releaseSteps id (s.job id).strokes ++ [finishJob id []]) s := if_neg (by simpa using h)
    rw [Plan.run_congr hplan, Plan.run_seq_append, Plan.run_seq_cons, Plan.run_seq_nil, releaseParts]

theorem releaseKilled_keepsFate {id k : Nat} (h : id ≠ k) : Plan.KeepsFate id (releaseKilled k) := by
  intro s hs
  dsimp only
  rw [releaseKilled_run]
  split
  · rfl
  · exact (finishJob_keepsFate h [] _ (Plan.run_wf hs _)).trans ((releaseParts_only k _).keepsFate (by decide) id s hs)

/-- A killed job that is released is gone. -/
theorem releaseKilled_gone {s : State} (hs : s.Wf) (k : Nat) (h : (s.job k).phase = .gone ∨ (s.job k).killed.isSome = true) :
    (((releaseKilled k).run s).job k).phase = .gone := by
  rw [releaseKilled_run]
  split
  next hstays => exact hstays.elim id (fun hn => h.resolve_right (fun hk => by rw [hn] at hk; exact Bool.false_ne_true hk))
  · exact finishJob_gone (Plan.run_wf hs _) k []

/-- A release leaves a job that is gone so. -/
theorem releaseKilled_keepsGone {s : State} (hs : s.Wf) (id k : Nat) (h : (s.job id).phase = .gone) : (((releaseKilled k).run s).job id).phase = .gone := by
  by_cases hk : id = k
  · rw [← hk]; exact releaseKilled_gone hs id (.inl h)
  · exact (congrArg Prod.fst (releaseKilled_keepsFate hk s hs)).trans h

/-! ## Killed, and completed where no unit holds it -/

theorem killAndFinish_eq (id status : Nat) (s : State) :
    killAndFinish id status s = if (s.job id).phase = .running then killJob id status s else Plan.andThen (killJob id status) (releaseKilled id) s := rfl

theorem killAndFinish_keepsFate {id k : Nat} (h : id ≠ k) (status : Nat) : Plan.KeepsFate id (killAndFinish k status) := by
  intro s hs
  rw [Plan.run_def, killAndFinish_eq]
  split
  · exact killJob_keepsFate h status s hs
  · exact Plan.keeps_andThen (P := fun s => s.fate id) (killJob_keepsFate h status) (releaseKilled_keepsFate h) s hs

theorem killAndFinish_run_running {s : State} {id : Nat} (h : (s.job id).phase = .running) (status : Nat) : (killAndFinish id status).run s = (killJob id status).run s :=
  Plan.run_congr (if_pos h)

/-- A job that no unit runs is gone once killed. -/
theorem killAndFinish_gone {s : State} (hs : s.Wf) (id status : Nat) (h : (s.job id).phase ≠ .running) : (((killAndFinish id status).run s).job id).phase = .gone := by
  rw [Plan.run_congr (killAndFinish_eq id status s ▸ if_neg h), Plan.run_andThen]
  have hfate := killJob_fate hs id status
  refine releaseKilled_gone (Plan.run_wf hs _) id ?_
  by_cases hg : (s.job id).phase = .gone
  · exact .inl ((congrArg Prod.fst hfate).trans hg)
  · refine .inr ?_
    rw [show (((killJob id status).run s).job id).killed = _ from congrArg Prod.snd hfate]
    dsimp only
    rw [if_neg hg]
    split <;> rfl

theorem killAndFinish_only (id status : Nat) : Plan.Only releaseFields (killAndFinish id status) := by
  refine ⟨fun s => ?_⟩
  rw [killAndFinish_eq]
  split
  · exact ((killJob_only ..).mono (by decide)).effs s
  · exact (Plan.only_andThen ((killJob_only ..).mono (by decide)) (releaseKilled_only id)).effs s

end Sys2Proof.Machine
end

section
/-! Jobs that are ended: by a limit, by their release, and with their queue (R16, R18, R19, R44, R53). -/
namespace Sys2Proof.Machine

/-! ## Limits and releases -/

section
variable {id : Nat} {s : State} (hs : s.Wf) (hserves : s.svc.halted = false)
include hs hserves

theorem exec_waitLimitExpiry (hphase : (s.job id).phase = .running) (hkilled : (s.job id).killed = none) (hlimit : (s.part (s.job id).part).waitLimit ≠ 0)
    (hwaits : (s.job id).strokes.all (fun t => !(t.state = .running || t.state = .ready)) = true)
    (hpast : (s.job id).changed + (s.part (s.job id).part).waitLimit * 1000 ≤ s.ticks) :
    ∃ t, exec (.waitLimitExpiry id) s = .next t ∧ (t.job id).killed = some 0x32 ∧ (t.job id).phase = .running ∧ s.SameBut killFields t := by
  have hany : (!(s.job id).strokes.any (fun t => t.state = .running || t.state = .ready)) = true := by rw [List.not_any_eq_all_not]; exact hwaits
  have hplan : waitLimitExpiry id s = killJob id 0x32 s := if_pos ⟨hphase, by rw [hkilled]; rfl, hlimit, hany, hpast⟩
  refine ⟨_, Plan.done_of_eq hserves hplan, killJob_first hs id _ ?_ hkilled, (killJob_phase hs id id _).trans hphase, (killJob_only id _).sameBut s⟩
  rw [hphase]; decide

theorem exec_timeLimitExpiry (hphase : (s.job id).phase ≠ .gone) (hkilled : (s.job id).killed = none) (hlimit : (s.job id).timeLimit ≠ 0)
    (hpast : (s.job id).fetchTick + (s.job id).timeLimit ≤ s.ticks) :
    ∃ t, exec (.timeLimitExpiry id) s = .next t ∧
      (if (s.job id).phase = .running then (t.job id).killed = some 0x32 ∧ (t.job id).phase = .running else (t.job id).phase = .gone) ∧ s.SameBut releaseFields t := by
  have hplan : timeLimitExpiry id s = killAndFinish id 0x32 s := if_pos ⟨hphase, by rw [hkilled]; rfl, hlimit, hpast⟩
  refine ⟨_, Plan.done_of_eq hserves hplan, ?_, (killAndFinish_only id _).sameBut s⟩
  split
  next hrun =>
    rw [killAndFinish_run_running hrun]
    exact ⟨killJob_first hs id _ hphase hkilled, (killJob_phase hs id id _).trans hrun⟩
  next hrun => exact killAndFinish_gone hs id _ hrun

theorem exec_jobKillRelease (hkilled : (s.job id).killed.isSome = true) (hheld : s.stillHeld id = false) :
    ∃ t, exec (.jobKillRelease id) s = .next t ∧ (t.job id).phase = .gone ∧ s.SameBut releaseFields t := by
  have hplan : jobKillRelease id s = releaseKilled id s := if_neg (by rw [hheld]; exact Bool.false_ne_true)
  exact ⟨_, Plan.done_of_eq hserves hplan, releaseKilled_gone hs id (.inr hkilled), (releaseKilled_only id).sameBut s⟩

end

/-- Settles O26: the limits kill, and a release ends what is killed. -/
theorem limitsAndKills : Obligations.LimitsAndKills := by
  unfold Obligations.LimitsAndKills
  exact fun id s hs hserves => ⟨exec_waitLimitExpiry hs hserves, exec_timeLimitExpiry hs hserves, fun _ => exec_jobKillRelease hs hserves⟩

/-! ## Whether a queue is enabled -/

/-- A plan leaves every queue enabled or not, as it is. -/
def Plan.KeepsEnable (q : Nat) (p : Plan) : Prop := Plan.Keeps (fun s => (s.queue q).enable) p

theorem Plan.Only.keepsEnable {F : List Field} {p : Plan} (h : Plan.Only F p) (hq : Field.queues ∉ F) (q : Nat) : Plan.KeepsEnable q p :=
  fun s _ => congrArg Queue.enable (h.queue_eq s hq q)

/-- A queue written with the same value, seen through `f`, is the same seen through `f`. -/
theorem queue_put_congr {α : Type} (f : Queue → α) {s : State} (hs : s.Wf) (q k : Nat) (x : Queue) (hx : f x = f (s.queue k)) :
    f ((s.apply (.queues k x)).queue q) = f (s.queue q) := by
  rw [queue_put hs]
  split
  next h => rw [hx, h]
  · rfl

theorem writeCqe_keepsEnable (q k : Nat) (c : Cqe) : Plan.KeepsEnable q (writeCqe k c) := by
  intro s hs
  obtain ⟨n, timer, h⟩ := writeCqe_queue hs k c
  dsimp only
  rw [h q]
  split
  next hq => rw [hq]; rfl
  · rfl

theorem postCqe_keepsEnable (q k : Nat) (c : Cqe) : Plan.KeepsEnable q (postCqe k c) := by
  intro s hs
  rw [Plan.run_def]
  unfold postCqe
  dsimp only
  split
  · rw [← Plan.run_def, Plan.run_andThen, queueErr_queue (Plan.run_wf hs _)]
    split
    next h => rw [h]; exact queue_put_congr Queue.enable hs k k _ rfl
    · exact queue_put_congr Queue.enable hs q k _ rfl
  · exact writeCqe_keepsEnable q k c s hs

theorem drainedQueue_keepsEnable (q k : Nat) : Plan.KeepsEnable q (drainedQueue k) := by
  intro s hs
  obtain ⟨st, h⟩ := drainedQueue_queue hs k q
  dsimp only
  rw [h]

theorem endParts_keepsEnable (q id : Nat) (payload : List Byte) (s : State) : Plan.KeepsEnable q (endParts id payload s) := by
  refine Plan.keeps_seq_cons ?_ (Plan.keeps_seq_cons ((freeMutexes_side id).keepsEnable (by decide) q) (Plan.keeps_seq_cons ?_
    (Plan.keeps_seq_cons ((slowdownEntry_only id _).keepsEnable (by decide) q) (Plan.keeps_seq_cons ((releaseClaims_claims id).keepsEnable (by decide) q)
      (Plan.keeps_seq_cons ((freeFrames_side id).keepsEnable (by decide) q) (Plan.keeps_seq_cons (Plan.keeps_when (postCqe_keepsEnable q _ _)) Plan.keeps_seq_nil))))))
  · split
    · exact (violation_only ..).keepsEnable (by decide) q
    · exact Plan.keeps_skip
  · split
    · exact Plan.keeps_skip
    · exact Plan.Only.keepsEnable (F := [.slots]) ⟨fun _ => EffsIn.one (by simp [Eff.field])⟩ (by decide) q

theorem finishJob_keepsEnable (q id : Nat) (payload : List Byte) : Plan.KeepsEnable q (finishJob id payload) := by
  intro s hs
  have hparts := endParts_keepsEnable q id payload s s hs
  have hs1 := Plan.run_wf hs (endParts id payload s)
  dsimp only at hparts ⊢
  rw [finishJob_run]
  generalize (endParts id payload s).run s = u at hparts hs1
  have hs2 := hs1.apply (.jobs id {})
  exact (settle_only.keepsEnable (by decide) q _ (Plan.run_wf hs2 _)).trans ((drainedQueue_keepsEnable q _ _ hs2).trans hparts)

theorem releaseKilled_keepsEnable (q id : Nat) : Plan.KeepsEnable q (releaseKilled id) := by
  intro s hs
  dsimp only
  rw [releaseKilled_run]
  split
  · rfl
  · exact (finishJob_keepsEnable q id [] _ (Plan.run_wf hs _)).trans ((releaseParts_only id _).keepsEnable (by decide) q s hs)

theorem killAndFinish_keepsEnable (q id status : Nat) : Plan.KeepsEnable q (killAndFinish id status) := by
  intro s hs
  rw [Plan.run_def, killAndFinish_eq]
  split
  · exact (killJob_only id status).keepsEnable (by decide) q s hs
  · exact Plan.keeps_andThen (P := fun s => (s.queue q).enable) ((killJob_only id status).keepsEnable (by decide) q) (releaseKilled_keepsEnable q id) s hs

/-! ## A queue that is disabled -/

theorem killAndFinish_discards {s : State} (hs : s.Wf) (id : Nat) : Discarded id ((killAndFinish id 0x10).run s) := by
  by_cases hrun : (s.job id).phase = .running
  · rw [killAndFinish_run_running hrun]
    exact .inr (killJob_discarded hs id (by rw [hrun]; decide))
  · exact .inl (killAndFinish_gone hs id _ hrun)

/-- Each of a list of jobs ends with DISCARDED. -/
theorem each_killAndFinish_discards (ids : List Nat) {s : State} (hs : s.Wf) (id : Nat) (h : id ∈ ids) : Discarded id ((Plan.each ids (fun id => killAndFinish id 0x10)).run s) := by
  refine Plan.each_establishes (Q := fun _ _ => True) (P := Discarded) (fun _ _ _ _ h => h) (fun id s hs _ => killAndFinish_discards hs id) (fun k id s hs hd => ?_) ids s hs id trivial
    (.inl h)
  by_cases hk : id = k
  · rw [hk]; exact killAndFinish_discards hs k
  · exact discarded_congr (killAndFinish_keepsFate hk 0x10 s hs) hd

/-- What disabling an enabled queue does. -/
def disableParts (q : Nat) (s : State) : Plan :=
  Plan.seq [Plan.act (.queues q { s.queue q with enable := false, state := .draining }), Plan.each (s.jobsOfQueue q) (fun id => killAndFinish id 0x10), drainedQueue q]

theorem disableParts_only (q : Nat) (s : State) : Plan.Only releaseFields (disableParts q s) :=
  Plan.only_seq_cons (Plan.only_act (by simp [Eff.field, releaseFields, finishFields])) (Plan.only_seq_cons (Plan.only_each (fun id => killAndFinish_only id _))
    (Plan.only_seq_cons ((drainedQueue_only q).mono (by decide)) Plan.only_seq_nil))

/-- A queue that drains without a job shows DISABLED unless completions wait on chip, and no other queue changes. -/
theorem drainedQueue_noJobs {s : State} (hs : s.Wf) {q : Nat} (hstate : (s.queue q).state = .draining) (hjobs : s.jobsOfQueue q = []) (r : Nat) :
    ((drainedQueue q).run s).queue r = if r = q then { s.queue q with state := if (s.queue q).held = [] then .disabled else .draining } else s.queue r := by
  rw [drainedQueue_run]
  by_cases hheld : (s.queue q).held = []
  · rw [if_pos ⟨hstate, hheld, hjobs⟩, queue_put hs, if_pos hheld]
  · rw [if_neg (fun h => hheld h.2.1), if_neg hheld]
    split
    next h => rw [h, ← hstate]
    · rfl

/-- A queue without a job shows DISABLED, or drains while completions wait on chip. -/
theorem disableParts_empty {s : State} (hs : s.Wf) {q : Nat} (hjobs : s.jobsOfQueue q = []) :
    let t := (disableParts q s).run s
    t.queue q = { s.queue q with enable := false, state := if (s.queue q).held = [] then .disabled else .draining } ∧ (∀ r, r ≠ q → t.queue r = s.queue r) ∧
      s.SameBut [.queues] t := by
  have honly : Plan.Only [.queues] (Plan.andThen (Plan.act (.queues q { s.queue q with enable := false, state := .draining })) (drainedQueue q)) :=
    Plan.only_andThen (Plan.only_act (by simp [Eff.field])) (drainedQueue_only q)
  have hrun : (disableParts q s).run s = (Plan.andThen (Plan.act (.queues q { s.queue q with enable := false, state := .draining })) (drainedQueue q)).run s := by
    rw [disableParts, hjobs, Plan.run_seq_cons, Plan.run_seq_cons, Plan.run_seq_cons, Plan.run_seq_nil, Plan.run_each_nil, Plan.run_andThen]
  have hput := queue_put hs q { s.queue q with enable := false, state := .draining }
  have hput_same := (hput q).trans (if_pos rfl)
  have hqueue : ∀ r, ((disableParts q s).run s).queue r =
      if r = q then { s.queue q with enable := false, state := if (s.queue q).held = [] then .disabled else .draining } else s.queue r := fun r => by
    have hdrain := drainedQueue_noJobs (hs.apply (.queues q { s.queue q with enable := false, state := .draining })) (q := q) (by rw [hput_same]) hjobs r
    rw [hput_same, hput r] at hdrain
    rw [hrun, Plan.run_andThen, Plan.run_act, hdrain]
    split <;> rfl
  exact ⟨(hqueue q).trans (if_pos rfl), fun r hr => (hqueue r).trans (if_neg hr), hrun ▸ honly.sameBut s⟩

/-- A queue that is disabled with jobs: it is no longer enabled, and each of its jobs has ended or is killed with DISCARDED. -/
theorem disableParts_jobs {s : State} (hs : s.Wf) (q : Nat) :
    let t := (disableParts q s).run s
    (t.queue q).enable = false ∧ ∀ id ∈ s.jobsOfQueue q, Discarded id t := by
  have hs1 := hs.apply (.queues q { s.queue q with enable := false, state := .draining })
  have henable : ((s.apply (.queues q { s.queue q with enable := false, state := .draining })).queue q).enable = false := by rw [queue_put_same hs]
  dsimp only
  rw [disableParts, Plan.run_seq_cons, Plan.run_seq_cons, Plan.run_seq_cons, Plan.run_seq_nil, Plan.run_act]
  generalize s.apply (.queues q { s.queue q with enable := false, state := .draining }) = u at hs1 henable
  have hs2 := Plan.run_wf hs1 (Plan.each (s.jobsOfQueue q) (fun id => killAndFinish id 0x10))
  refine ⟨?_, fun id hid => ?_⟩
  · have hkeep : Plan.KeepsEnable q (Plan.each (s.jobsOfQueue q) (fun id => killAndFinish id 0x10)) := Plan.keeps_each (fun id => killAndFinish_keepsEnable q id _)
    exact (drainedQueue_keepsEnable q q _ hs2).trans ((hkeep u hs1).trans henable)
  · exact discarded_congr ((drainedQueue_only q).keepsFate (by decide) id _ hs2) (each_killAndFinish_discards _ hs1 id hid)

/-! ## Enabling and disabling -/

theorem bit_withErr (x : Queue) (b : Nat) : bit (x.withErr b).err b = true := by
  unfold Queue.withErr
  dsimp only
  split
  · assumption
  next h =>
    simp only [bit, beq_iff_eq] at h ⊢
    rw [Nat.add_div_right _ (Nat.two_pow_pos b)]
    omega

section
variable {fn v q : Nat} {s : State} (hs : s.Wf) (hserves : s.svc.halted = false) (ha : s.answers fn = true) (hstage : s.svc.stage ≠ 3) (hsel : s.selQueue fn = some q)

/-- The queue's configuration, as a write of QUE_CFG leaves it, may be enabled (R16, R264). -/
def State.mayEnable (s : State) (fn v q : Nat) : Bool := ((s.queue q).withCfg v).cfgOk fn (decide ((s.part ((s.queuePart q).getD 0)).state = .active))

include hserves ha hstage hsel in
/-- Enabling a queue whose configuration holds starts it with empty rings and PHASE 1 (R16). -/
theorem exec_queueEnable_starts (henable : (s.queue q).enable = false) (hstate : (s.queue q).state ≠ .draining) (hcfg : s.mayEnable fn v q = true) :
    exec (.queueEnable fn v) s = .next { s with queues := Tab.put {} s.queues q { (s.queue q).withCfg v with
      enable := true, sqHead := 0, sqTail := 0, cqHead := 0, cqTail := 0, phase := true, state := .running, count := 0, timer := none, held := [], heldSince := none } } := by
  refine Plan.done_hostGate (q := Plan.act (.queues q { (s.queue q).withCfg v with
      enable := true, sqHead := 0, sqTail := 0, cqHead := 0, cqTail := 0, phase := true, state := .running, count := 0, timer := none, held := [], heldSince := none })) hserves ha ?_
  unfold State.mayEnable at hcfg
  simp [queueEnable, hsel, henable, hstate, hstage, hcfg, Plan.act]

include hs hserves ha hsel in
/-- Enabling an enabled queue is violation 0x0F. -/
theorem exec_queueEnable_enabled (henable : (s.queue q).enable = true) : ∃ t, exec (.queueEnable fn v) s = .next t ∧ t.queues = s.queues ∧
    s.Violated t fn 0x0F (q - (s.queueRange fn).1) ∧ s.SameBut reportFields t :=
  ⟨_, Plan.done_hostGate (q := violation fn 0x0F (q - (s.queueRange fn).1)) hserves ha (by simp only [queueEnable, hsel, henable, if_true]), violation_report hs _ _ _ (by decide)⟩

include hs hserves ha hsel in
/-- Enabling a queue whose configuration does not hold is violation 0x10, with its error bit set. -/
theorem exec_queueEnable_bad (henable : (s.queue q).enable = false) (hstate : (s.queue q).state ≠ .draining) (hcfg : s.mayEnable fn v q = false) :
    ∃ t, exec (.queueEnable fn v) s = .next t ∧ (t.queue q).enable = false ∧ bit (t.queue q).err 5 = true ∧ s.Violated t fn 0x10 (q - (s.queueRange fn).1) ∧
      s.SameBut (.queues :: reportFields) t := by
  have hplan : queueEnable fn v s =
      Plan.seq [Plan.act (.queues q ((s.queue q).withCfg v)), queueErr q 5, violation fn 0x10 (q - (s.queueRange fn).1)] s := by
    unfold State.mayEnable at hcfg
    simp [queueEnable, hsel, henable, hstate, hcfg]
  have hs1 := hs.apply (.queues q ((s.queue q).withCfg v))
  obtain ⟨hq, -, hviol, hsame⟩ := queueErr_violation hs1 q 5 fn 0x10 (q - (s.queueRange fn).1) (by decide)
  rw [queue_put_same hs] at hq
  have hbefore : s.SameBut [.queues] (s.apply (.queues q ((s.queue q).withCfg v))) :=
    (Plan.only_act (F := [.queues]) (e := .queues q ((s.queue q).withCfg v)) (by simp [Eff.field])).sameBut s
  refine ⟨_, Plan.done_hostGate hserves ha hplan, ?_⟩
  rw [Plan.run_seq_cons, Plan.run_act, Plan.run_seq_cons, Plan.run_seq_cons, Plan.run_seq_nil, ← Plan.run_andThen]
  exact ⟨(congrArg Queue.enable hq).trans henable, (congrArg (fun x : Queue => bit x.err 5) hq).trans (bit_withErr _ 5), hviol.of_before hbefore (by decide),
    (hbefore.mono (by decide)).trans (hsame.mono (by decide))⟩

include hserves ha hstage in
theorem exec_queueDisable_of {p : Plan} (hp : queueDisable fn v s = p s) : exec (.queueDisable fn v) s = .next (p.run s) :=
  Plan.done_of_eq hserves ((if_pos ha).trans ((if_neg hstage).trans hp))

end

/-- Settles O11: what enabling and disabling leave, by whether the queue is enabled. -/
theorem queueEnableAndDisable : Obligations.QueueEnableAndDisable := by
  unfold Obligations.QueueEnableAndDisable
  intro fn v q s hs hserves ha hstage hsel
  have hdisable : (s.queue q).enable = true → exec (.queueDisable fn v) s = .next ((disableParts q s).run s) := fun henable =>
    exec_queueDisable_of hserves ha hstage (by simp only [queueDisable, hsel, henable, Bool.not_true, Bool.false_eq_true, if_false, disableParts])
  refine ⟨exec_queueEnable_starts hserves ha hstage hsel, exec_queueEnable_enabled hs hserves ha hsel, exec_queueEnable_bad hs hserves ha hsel,
    fun henable hjobs => ⟨_, hdisable henable, disableParts_empty hs hjobs⟩, fun henable => ?_, fun henable => ?_⟩
  · obtain ⟨hoff, hjobs⟩ := disableParts_jobs hs q
    exact ⟨_, hdisable henable, hoff, hjobs, (disableParts_only q s).sameBut s⟩
  · exact exec_queueDisable_of (p := Plan.act (.queues q ((s.queue q).withCfg v))) hserves ha hstage
      (by simp only [queueDisable, hsel, henable, Bool.not_false, if_true, Plan.act])

end Sys2Proof.Machine
end

section
/-! The work that a failure or a reset ends: every job of a list is discarded; a mode change is rolled back and the next trigger begins, and what survives both (R31, R55, R373, R379). -/
namespace Sys2Proof.Machine

/-! ## Jobs that are discarded -/

/-- A job that has ended. -/
def Gone (id : Nat) (s : State) : Prop := (s.job id).phase = .gone

theorem Tab.get_of_notMem {α : Type} {d : α} {t : Tab α} {k : Nat} (h : k ∉ t.map (·.1)) : Tab.get d t k = d := by
  induction t with
  | nil => rfl
  | cons e t ih =>
    obtain ⟨hne, hmem⟩ := not_or.mp (fun hm => h (List.mem_cons.mpr hm))
    rw [Tab.get, if_neg (Ne.symm hne)]
    exact ih hmem

/-- A number that no job has. -/
theorem gone_of_notMem {s : State} {id : Nat} (h : id ∉ s.jobIds) : Gone id s := congrArg Job.phase (Tab.get_of_notMem (d := ({} : Job)) h)

theorem Plan.Only.keepsGone {F : List Field} {p : Plan} (h : Plan.Only F p) (hj : Field.jobs ∉ F) (id : Nat) : Plan.Preserves (Gone id) p := fun s _ hg =>
  (congrArg Job.phase (h.job_eq s hj id)).trans hg

theorem killJob_keepsGone (id k status : Nat) : Plan.Preserves (Gone id) (killJob k status) := fun _ hs hg => (killJob_phase hs id k status).trans hg

theorem releaseKilled_preservesGone (id k : Nat) : Plan.Preserves (Gone id) (releaseKilled k) := fun _ hs hg => releaseKilled_keepsGone hs id k hg

theorem settle_keepsGone (id : Nat) : Plan.Preserves (Gone id) settle := fun s hs hg => (settle_keepsPhase id s hs).trans hg

theorem modJob_keepsGone (id k : Nat) {f : Job → Job} (hf : ∀ j, (f j).phase = j.phase) : Plan.Preserves (Gone id) (modJob k f) := fun _ hs hg =>
  (job_put_congr Job.phase hs id k _ (hf _)).trans hg

theorem killJob_keepsDiscarded (id k : Nat) : Plan.Preserves (Discarded id) (killJob k 0x10) := fun s hs hd => by
  by_cases h : id = k
  · rw [h]; exact killJob_discards hs k
  · exact discarded_congr (killJob_keepsFate h _ s hs) hd

theorem releaseKilled_ends {s : State} (hs : s.Wf) (id : Nat) (h : Discarded id s) : Gone id ((releaseKilled id).run s) :=
  releaseKilled_gone hs id (h.imp_right (fun hk => by rw [hk]; rfl))

theorem releaseKilled_keepsDiscarded (id k : Nat) : Plan.Preserves (Discarded id) (releaseKilled k) := fun s hs hd => by
  by_cases h : id = k
  · rw [← h]; exact .inl (releaseKilled_ends hs id hd)
  · exact discarded_congr (releaseKilled_keepsFate h s hs) hd

/-- Every job of a list is killed with DISCARDED and let go. -/
def discardList (ids : List Nat) : Plan := Plan.andThen (Plan.each ids (fun id => killJob id 0x10)) (Plan.each ids releaseKilled)

theorem discardList_only (ids : List Nat) : Plan.Only releaseFields (discardList ids) :=
  Plan.only_andThen (Plan.only_each (fun id => (killJob_only id _).mono (by decide))) (Plan.only_each releaseKilled_only)

/-- A job of the list is gone, and one that was gone stays so. -/
theorem discardList_gone (ids : List Nat) {s : State} (hs : s.Wf) (id : Nat) (h : id ∈ ids ∨ Gone id s) : Gone id ((discardList ids).run s) := by
  have hkilled : Discarded id ((Plan.each ids (fun id => killJob id 0x10)).run s) :=
    Plan.each_establishes (Q := fun _ _ => True) (P := Discarded) (fun _ _ _ _ h => h) (fun k s hs _ => killJob_discards hs k) (fun k id s hs => killJob_keepsDiscarded id k s hs) ids s hs
      id trivial (h.imp_right .inl)
  have hgone : Gone id s → Gone id ((Plan.each ids (fun id => killJob id 0x10)).run s) := Plan.preserves_each (fun k => killJob_keepsGone id k _) ids s hs
  rw [discardList, Plan.run_andThen]
  exact Plan.each_establishes (Q := Discarded) (P := Gone) (fun k id s hs => releaseKilled_keepsDiscarded id k s hs) (fun k s hs => releaseKilled_ends hs k)
    (fun k id s hs => releaseKilled_preservesGone id k s hs) ids _ (Plan.run_wf hs _) id hkilled (h.imp_right hgone)

theorem discardAll_run (s : State) : discardAll.run s = (discardList s.jobIds).run s := rfl

theorem discardAll_only : Plan.Only releaseFields discardAll := ⟨fun s => (discardList_only s.jobIds).effs s⟩

/-- Every job of the device is gone (R306, R379). -/
theorem discardAll_gone {s : State} (hs : s.Wf) (id : Nat) : Gone id (discardAll.run s) := by
  rw [discardAll_run]
  refine discardList_gone _ hs id ?_
  by_cases h : id ∈ s.jobIds
  · exact .inl h
  · exact .inr (gone_of_notMem h)

theorem discardJobs_run (ids : List Nat) (post : Nat → Bool) (s : State) : (discardJobs ids post).run s =
    (discardList ids).run ((Plan.each (ids.filter (fun id => !post (s.job id).fn)) (fun id => modJob id (fun j => { j with silent := true }))).run s) := by
  have hplan : discardJobs ids post s = Plan.seq [Plan.each (ids.filter (fun id => !post (s.job id).fn)) (fun id => modJob id (fun j => { j with silent := true })),
      Plan.each ids (fun id => killJob id 0x10), Plan.each ids releaseKilled] s := rfl
  rw [Plan.run_congr hplan, Plan.run_seq_cons, Plan.run_seq_cons, Plan.run_seq_cons, Plan.run_seq_nil, discardList, Plan.run_andThen]

theorem discardJobs_only (ids : List Nat) (post : Nat → Bool) : Plan.Only releaseFields (discardJobs ids post) :=
  ⟨fun s => (Plan.only_seq_cons (Plan.only_each (fun id => (modJob_only id _).mono (by decide)))
    (Plan.only_seq_cons (Plan.only_each (fun id => (killJob_only id _).mono (by decide))) (Plan.only_seq_cons (Plan.only_each releaseKilled_only) Plan.only_seq_nil))).effs s⟩

/-- Every job of the list is gone (R31). -/
theorem discardJobs_gone (ids : List Nat) (post : Nat → Bool) {s : State} (hs : s.Wf) (id : Nat) (h : id ∈ ids ∨ Gone id s) : Gone id ((discardJobs ids post).run s) := by
  rw [discardJobs_run]
  have hsilent : ∀ k, Plan.Preserves (Gone id) (modJob k (fun j => { j with silent := true })) := fun k => modJob_keepsGone id k (fun _ => rfl)
  exact discardList_gone ids (Plan.run_wf hs _) id (h.imp_right (Plan.preserves_each hsilent _ s hs))

/-! ## The state of functions -/

theorem func_put {s : State} (hs : s.Wf) (k : Nat) (x : Func) (fn : Nat) : (s.apply (.funcs k x)).func fn = if fn = k then x else s.func fn := Tab.get_put hs.funcs ..

/-- Each of several functions is changed once. -/
theorem each_func (f : Func → Func) : ∀ (fns : List Nat), fns.Nodup → ∀ {s : State}, s.Wf → ∀ fn,
    ((Plan.each fns (fun fn => fun s => [.funcs fn (f (s.func fn))])).run s).func fn = if fn ∈ fns then f (s.func fn) else s.func fn
  | [], _, _, _, _ => rfl
  | k :: fns, hnd, s, hs, fn => by
    obtain ⟨hk, hnd⟩ := List.nodup_cons.mp hnd
    have hput : (Plan.run (fun s => [.funcs k (f (s.func k))]) s).func fn = if fn = k then f (s.func k) else s.func fn := func_put hs k _ fn
    rw [Plan.run_each_cons, each_func f fns hnd (Plan.run_wf hs _) fn, hput]
    by_cases h : fn = k
    · rw [h, if_neg hk, if_pos rfl, if_pos List.mem_cons_self]
    · rw [if_neg h]
      simp only [List.mem_cons, h, false_or]

theorem each_func_range (f : Func → Func) {s : State} (hs : s.Wf) {fn : Nat} (h : fn < 9) :
    ((Plan.each (List.range 9) (fun fn => fun s => [.funcs fn (f (s.func fn))])).run s).func fn = f (s.func fn) :=
  (each_func f _ List.nodup_range hs fn).trans (if_pos (List.mem_range.mpr h))

theorem each_func_only (f : Nat → State → Func) (fns : List Nat) : Plan.Only [.funcs] (Plan.each fns (fun fn => fun s => [.funcs fn (f fn s)])) :=
  Plan.only_each (fun _ => ⟨fun _ => EffsIn.one (by simp [Eff.field])⟩)

theorem signalAll_only : Plan.Only [.vecs] signalAll := Plan.only_each (fun fn => sendVec_only fn 0)

/-! ## The single points -/

/-- A device-domain fault ends every job, and every function shows it, out of service (R31). -/
theorem deviceFault_ends {s : State} (hs : s.Wf) :
    (deviceFault.run s).pcie = s.pcie ∧ (∀ id, Gone id (deviceFault.run s)) ∧ (∀ fn < 9, (deviceFault.run s).func fn = { s.func fn with fault := true, ready := false }) := by
  have hs1 := Plan.run_wf hs discardAll
  have hgone := discardAll_gone hs
  have hfunc : ∀ fn, (discardAll.run s).func fn = s.func fn := discardAll_only.func_eq s (by decide)
  have hpcie : (discardAll.run s).pcie = s.pcie := discardAll_only.pcie_eq s (by decide)
  rw [deviceFault, Plan.run_seq_cons, Plan.run_seq_cons, Plan.run_seq_cons, Plan.run_seq_nil]
  generalize discardAll.run s = u at hs1 hgone hfunc hpcie
  have hs2 := Plan.run_wf hs1 (Plan.each (List.range 9) (fun fn => fun s => [.funcs fn { s.func fn with fault := true, ready := false }]))
  have honly := each_func_only (fun fn s => { s.func fn with fault := true, ready := false }) (List.range 9)
  refine ⟨?_, fun id => ?_, fun fn hfn => ?_⟩
  · exact (signalAll_only.pcie_eq _ (by decide)).trans ((honly.pcie_eq u (by decide)).trans hpcie)
  · exact signalAll_only.keepsGone (by decide) id _ hs2 (honly.keepsGone (by decide) id u hs1 (hgone id))
  · rw [signalAll_only.func_eq _ (by decide), each_func_range (fun x => { x with fault := true, ready := false }) hs1 hfn, hfunc]

/-- Settles O23, failure by failure. -/
theorem singlePointsFail : Obligations.SinglePointsFail := by
  unfold Obligations.SinglePointsFail
  refine ⟨?scheduler, ?core, ?lane⟩
  case scheduler =>
    intro s hs hserves
    let e : EvArgs := { cls := 0x0F, code := 1, page := pgSCH }
    have hs1 := hs.apply (.pcie { s.pcie with schedFailed := true })
    have hs2 := Plan.run_wf hs1 (event e)
    obtain ⟨hpcie, hgone, hfunc⟩ := deviceFault_ends hs2
    have hrun : schedulerFailure.run s = deviceFault.run ((event e).run (s.apply (.pcie { s.pcie with schedFailed := true }))) := by
      rw [schedulerFailure, Plan.run_seq_cons, Plan.run_seq_cons, Plan.run_seq_cons, Plan.run_seq_nil]
      rfl
    refine ⟨schedulerFailure.run s, Plan.done_of_eq hserves rfl, ?_⟩
    rw [hrun]
    refine ⟨hpcie.trans ((event_only e).pcie_eq _ (by decide)), hgone, fun fn hfn => ?_⟩
    rw [hfunc fn hfn, (event_only e).func_eq _ (by decide)]
    rfl
  case core =>
    intro s hserves
    refine ⟨pcieCoreFailure.run s, Plan.done_of_eq hserves rfl, ?_, ?_⟩
    · rw [pcieCoreFailure, Plan.run_andThen, (event_only _).pcie_eq _ (by decide)]
      rfl
    · exact (Plan.only_andThen ⟨fun _ => EffsIn.one (by simp [Eff.field])⟩ ((event_only _).mono (by decide))).sameBut s
  case lane =>
    intro lane s hserves hlane hwidth
    have hplan : pcieLaneFault lane s = Plan.andThen (Plan.act (.pcie { s.pcie with width := 4, degraded := true })) (ledgerWrite 5 6 0 lane 0xFF 4 pgHIF) s :=
      if_neg (by omega)
    refine ⟨_, Plan.done_of_eq hserves hplan, ?_, ?_⟩
    · rw [Plan.run_andThen, (ledgerWrite_only ..).pcie_eq _ (by decide)]
      rfl
    · exact (Plan.only_andThen (Plan.only_act (by simp [Eff.field])) ((ledgerWrite_only ..).mono (by decide))).sameBut s

end Sys2Proof.Machine
end

section
/-! A mode change is rolled back and the next trigger begins: what survives both, and what a reset of a function begins with (R31, R55, R56, R305, R306, R373). -/
namespace Sys2Proof.Machine

/-! ## What a rollback and the next trigger leave standing -/

/-- The fields that a rollback can change of itself. -/
def changeFields : List Field := [.modeUnits, .modeChanges, .lines, .plru, .maskTags, .vecs]

/-- The fields that the next trigger can change of itself. -/
def triggerFields : List Field := [.gddr, .channels, .reserve, .regs, .recorder, .mbx, .positions, .vecs]

theorem coldCache_only (n : Nat) : Plan.Only changeFields (coldCache n) :=
  ⟨fun _ => EffsIn.cons (by simp [Eff.field, changeFields]) (EffsIn.one (by simp [Eff.field, changeFields]))⟩

theorem emptyMasks_only : Plan.Only changeFields emptyMasks := ⟨fun _ => EffsIn.map (fun _ => by simp [Eff.field, changeFields])⟩

theorem rollbackUnit_only (page : Nat) : Plan.Only changeFields (rollbackUnit page) := by
  refine ⟨fun s => (Plan.only_andThen ?_ (Plan.only_act (by simp [Eff.field, changeFields]))).effs s⟩
  split
  · exact Plan.only_when (coldCache_only _)
  · exact Plan.only_when emptyMasks_only
  · exact Plan.only_skip

theorem startMigration_only (p : Nat) (byError : Bool) : Plan.Only triggerFields (startMigration p byError) :=
  ⟨fun _ => EffsIn.cons (by simp [Eff.field, triggerFields]) (EffsIn.one (by simp [Eff.field, triggerFields]))⟩

/-- A property that no part of a kill, and no change of the fields given, takes away. -/
structure Survives (F : List Field) (I : State → Prop) : Prop where
  frame : ∀ p, Plan.Only F p → Plan.Preserves I p
  kill : ∀ id status, Plan.Preserves I (killJob id status)
  mark : ∀ id, Plan.Preserves I (modJob id (fun j => { j with rollback := true }))
  settle : Plan.Preserves I settle

theorem Survives.mono {F G : List Field} {I : State → Prop} (h : Survives G I) (hFG : F ⊆ G) : Survives F I :=
  { h with frame := fun p hp => h.frame p (hp.mono hFG) }

/-- A property of fields that neither a kill nor the fields given touch. -/
theorem Survives.of_only {F : List Field} {I : State → Prop} (h : ∀ p, Plan.Only (F ++ releaseFields) p → Plan.Preserves I p) : Survives F I where
  frame p hp := h p (hp.mono (List.subset_append_left _ _))
  kill id status := h _ ((killJob_only id status).mono (List.subset_append_of_subset_right _ (by decide)))
  mark id := h _ ((modJob_only id _).mono (List.subset_append_of_subset_right _ (by decide)))
  settle := h _ (settle_only.mono (List.subset_append_of_subset_right _ (by decide)))

/-- A job that is gone stays gone. -/
theorem survives_gone {F : List Field} (hF : Field.jobs ∉ F) (id : Nat) : Survives F (Gone id) where
  frame _ hp := hp.keepsGone hF id
  kill k status := killJob_keepsGone id k status
  mark k := modJob_keepsGone id k (fun _ => rfl)
  settle := settle_keepsGone id

section
variable {I : State → Prop}

theorem Survives.discardAll {F : List Field} (h : Survives F I) (hrelease : ∀ id, Plan.Preserves I (releaseKilled id)) : Plan.Preserves I discardAll := fun s hs hI =>
  Plan.preserves_andThen (Plan.preserves_each (fun id => h.kill id 0x10) s.jobIds) (Plan.preserves_each hrelease s.jobIds) s hs hI

/-- What survives a rollback: what its parts and what follows it leave standing (R55). -/
theorem Survives.rollbackThen (h : Survives changeFields I) {after : Plan} (hafter : Plan.Preserves I after) (fn : Nat) (quiet : Bool) :
    Plan.Preserves I (rollbackThen after fn quiet) := by
  intro s hs hI
  rw [Plan.run_def]
  simp only [Sys2Proof.Machine.rollbackThen]
  split
  · exact hI
  · refine Plan.preserves_seq_cons (Plan.preserves_each (fun page => h.frame _ (rollbackUnit_only page)) _)
      (Plan.preserves_seq_cons (h.frame _ ⟨fun _ => EffsIn.one (by simp [Eff.field, changeFields])⟩) (Plan.preserves_seq_cons ?_
        (Plan.preserves_seq_cons (Plan.preserves_when (h.frame _ ((sendVec_only ..).mono (by decide)))) (Plan.preserves_seq_cons hafter Plan.preserves_seq_nil)))) s hs hI
    split
    · intro u hu hIu
      rw [Plan.run_def]
      split
      · exact Plan.preserves_andThen (h.mark _) (h.kill _ _) u hu hIu
      · exact hIu
    · exact Plan.preserves_skip

/-- What a freeze does, in its order (R306). -/
def freezeSteps (cause p ledgerCause phys : Nat) (s : State) : List Plan :=
  [ (fun s => [.gddr { s.gddr with frozen := true, cause := cause, freezePos := phys, migrating := false, copying := false }]),
    (fun s => [.gddr { s.gddr with dump := s.dumpNow }]),
    (fun s => s.channels.map (fun e => Eff.channels e.1 { e.2 with reads := [], writes := [], draining := false, full := false })),
    Sys2Proof.Machine.discardAll,
    Plan.look (fun s => if (s.modeUnit (pgM p)).pending = 0 then Plan.skip else Sys2Proof.Machine.rollbackThen Sys2Proof.Machine.settle ((s.modeUnit (pgM p)).pending - 1) false),
    Plan.each (List.range 9) (fun fn => fun s => [.funcs fn { s.func fn with ready := false }]),
    signalAll,
    ledgerWrite 3 2 p phys 0xFF ledgerCause (pgM p),
    Plan.when (s.mbx.state = .busy && decide (0x10 ≤ s.mbx.cmd)) (mbxEnd 3 []),
    (fun s => [.reserve { s.reserve with running := none, phase := 0, queue := [] }])]

theorem freeze_run (cause p ledgerCause : Nat) (s : State) : (Sys2Proof.Machine.freeze cause p ledgerCause).run s = (Plan.seq (freezeSteps cause p ledgerCause (s.physOf 3 p) s)).run s :=
  Plan.run_congr (by simp only [Sys2Proof.Machine.freeze, freezeSteps])

/-- What survives a freeze: also that functions go out of service (R306). -/
theorem Survives.freeze (h : Survives triggerFields I) (hroll : ∀ fn, Plan.Preserves I (Sys2Proof.Machine.rollbackThen Sys2Proof.Machine.settle fn false))
    (hrelease : ∀ id, Plan.Preserves I (releaseKilled id))
    (hdown : ∀ fn, Plan.Preserves I (fun s => [.funcs fn { s.func fn with ready := false }])) (cause p ledgerCause : Nat) :
    Plan.Preserves I (freeze cause p ledgerCause) := by
  intro s hs hI
  rw [freeze_run]
  refine (?_ : Plan.Preserves I (Plan.seq (freezeSteps cause p ledgerCause (s.physOf 3 p) s))) s hs hI
  unfold freezeSteps
  refine Plan.preserves_seq_cons (h.frame _ ⟨fun _ => EffsIn.one (by simp [Eff.field, triggerFields])⟩) ?_
  refine Plan.preserves_seq_cons (h.frame _ ⟨fun _ => EffsIn.one (by simp [Eff.field, triggerFields])⟩) ?_
  refine Plan.preserves_seq_cons (h.frame _ ⟨fun _ => EffsIn.map (fun _ => by simp [Eff.field, triggerFields])⟩) ?_
  refine Plan.preserves_seq_cons (h.discardAll hrelease) (Plan.preserves_seq_cons (Plan.preserves_look (fun u => ?_)) (Plan.preserves_seq_cons (Plan.preserves_each hdown _) ?_))
  · split
    · exact Plan.preserves_skip
    · exact hroll _
  refine Plan.preserves_seq_cons (h.frame _ (signalAll_only.mono (by decide))) (Plan.preserves_seq_cons (h.frame _ ((ledgerWrite_only ..).mono (by decide))) ?_)
  refine Plan.preserves_seq_cons (Plan.preserves_when (h.frame _ ((mbxEnd_only ..).mono (by decide)))) ?_
  exact Plan.preserves_seq_cons (h.frame _ ⟨fun _ => EffsIn.one (by simp [Eff.field, triggerFields])⟩) Plan.preserves_seq_nil

/-- What survives the next trigger: also a freeze (R306, R373). -/
theorem Survives.nextTrigger (h : Survives triggerFields I) (hroll : ∀ fn, Plan.Preserves I (Sys2Proof.Machine.rollbackThen Sys2Proof.Machine.settle fn false))
    (hrelease : ∀ id, Plan.Preserves I (releaseKilled id))
    (hdown : ∀ fn, Plan.Preserves I (fun s => [.funcs fn { s.func fn with ready := false }])) : Plan.Preserves I nextTrigger := by
  intro s hs hI
  have hreserve : ∀ r, Plan.Preserves I (Plan.act (.reserve r)) := fun r => h.frame _ (Plan.only_act (by simp [Eff.field, triggerFields]))
  rw [Plan.run_def]
  simp only [Sys2Proof.Machine.nextTrigger]
  split
  next t ts hrun hqueue =>
    split
    · exact hI
    · split
      · exact Plan.preserves_andThen (hreserve _) (Plan.preserves_when (h.frame _ ((mbxEnd_only ..).mono (by decide)))) s hs hI
      · split
        · exact hI
        · split
          · split
            · exact Plan.preserves_andThen (hreserve _) (h.frame _ (startMigration_only _ _)) s hs hI
            · exact Plan.preserves_andThen (hreserve _) (h.freeze hroll hrelease hdown _ _ _) s hs hI
          · exact hreserve _ s hs hI
  · exact hI

/-- What survives a rollback that lets the next trigger begin. -/
theorem Survives.rollback (h : Survives changeFields I) (hnext : Plan.Preserves I Sys2Proof.Machine.nextTrigger) (fn : Nat) (quiet : Bool) : Plan.Preserves I (rollback fn quiet) :=
  h.rollbackThen (Plan.preserves_andThen h.settle hnext) fn quiet

theorem Survives.rollback_all (h : Survives (triggerFields ++ changeFields) I) (hrelease : ∀ id, Plan.Preserves I (releaseKilled id))
    (hdown : ∀ fn, Plan.Preserves I (fun s => [.funcs fn { s.func fn with ready := false }])) (fn : Nat) (quiet : Bool) :
    Plan.Preserves I (Sys2Proof.Machine.rollback fn quiet) :=
  have hchange : Survives changeFields I := h.mono (List.subset_append_right _ _)
  hchange.rollback ((h.mono (List.subset_append_left _ _)).nextTrigger (fun fn => hchange.rollbackThen h.settle fn false) hrelease hdown) fn quiet

end

theorem disarm_only (fn : Nat) : Plan.Only changeFields (disarm fn) := ⟨fun _ => EffsIn.map (fun _ => by simp [Eff.field, changeFields])⟩

/-! ## A function in reset -/

/-- A function is in the first phase of its reset, out of service (R31). -/
def InReset (fn : Nat) (s : State) : Prop := (s.func fn).flr = true ∧ (s.func fn).resetting = true ∧ (s.func fn).ready = false

theorem Plan.Only.keepsFunc {F : List Field} {p : Plan} (h : Plan.Only F p) (hf : Field.funcs ∉ F) (fn : Nat) (R : Func → Prop) : Plan.Preserves (fun s => R (s.func fn)) p :=
  fun s _ hR => (congrArg R (h.func_eq s hf fn)).mpr hR

theorem survives_func {F : List Field} (hF : Field.funcs ∉ F ++ releaseFields) (fn : Nat) (R : Func → Prop) : Survives F (fun s => R (s.func fn)) :=
  Survives.of_only (fun _ hp => hp.keepsFunc hF fn R)

/-- A function taken out of service keeps what does not speak of service. -/
theorem unready_keeps {R : Func → Prop} (hR : ∀ x, R x → R { x with ready := false }) (fn k : Nat) :
    Plan.Preserves (fun s => R (s.func fn)) (fun s => [.funcs k { s.func k with ready := false }]) := by
  intro s hs h
  have hput := func_put hs k { s.func k with ready := false } fn
  show R ((s.apply (.funcs k { s.func k with ready := false })).func fn)
  rw [hput]
  split
  next he => rw [← he]; exact hR _ h
  · exact h

/-- A property of a function that taking it out of service leaves standing survives a rollback. -/
theorem rollback_keepsFunc {R : Func → Prop} (hR : ∀ x, R x → R { x with ready := false }) (fn k : Nat) (quiet : Bool) :
    Plan.Preserves (fun s => R (s.func fn)) (rollback k quiet) :=
  (survives_func (by decide) fn R).rollback_all (fun id => (releaseKilled_only id).keepsFunc (by decide) fn R) (fun k => unready_keeps hR fn k) k quiet

theorem rollback_keepsGone (id k : Nat) (quiet : Bool) : Plan.Preserves (Gone id) (rollback k quiet) :=
  (survives_gone (by decide) id).rollback_all (releaseKilled_preservesGone id) (fun _ => Plan.Only.keepsGone (F := [.funcs]) ⟨fun _ => EffsIn.one (by simp [Eff.field])⟩ (by decide) id) k quiet

/-- A rollback changes neither the service controller nor the PCIe core. -/
theorem rollback_keepsCores (v : Svc) (x : Pcie) (k : Nat) (quiet : Bool) : Plan.Preserves (fun s => s.svc = v ∧ s.pcie = x) (rollback k quiet) := by
  have hframe : ∀ {F : List Field}, Field.svc ∉ F → Field.pcie ∉ F → ∀ p, Plan.Only F p → Plan.Preserves (fun s => s.svc = v ∧ s.pcie = x) p :=
    fun hv hx p hp s _ h => ⟨(hp.svc_eq s hv).trans h.1, (hp.pcie_eq s hx).trans h.2⟩
  exact (Survives.of_only (hframe (by decide) (by decide))).rollback_all (fun id => hframe (by decide) (by decide) _ (releaseKilled_only id))
    (fun _ => hframe (F := [.funcs]) (by decide) (by decide) _ ⟨fun _ => EffsIn.one (by simp [Eff.field])⟩) k quiet

end Sys2Proof.Machine
end

section
/-! What accesses to memory, the release of references and the kill of a job leave standing, for any property that their few changes outside memory do not touch (R53, R143-R150, R283, R371). -/
namespace Sys2Proof.Machine

theorem Plan.preserves_seq {I : State → Prop} : ∀ {ps : List Plan}, (∀ p ∈ ps, Plan.Preserves I p) → Plan.Preserves I (Plan.seq ps)
  | [], _ => Plan.preserves_skip
  | p :: _, h => Plan.preserves_seq_cons (h p List.mem_cons_self) (Plan.preserves_seq (fun q hq => h q (List.mem_cons_of_mem p hq)))

/-- The fields that accesses to memory, units and jobs change, but for the reserve and the partitions. -/
def plainFields : List Field :=
  [.mem, .poisoned, .badWords, .lines, .plru, .regs, .vecs, .recorder, .channels, .refs, .pools, .sems, .segs, .claims, .sessions, .groups, .streams, .medQueue, .cores, .intakes,
    .regGroups, .outRings, .tracks, .clusters, .localMem, .jobs]

/-- A property that no plain change takes away, nor a counted error, a segment's spare-in that waits, what is debited from a bucket, the frames of a job, or an evaluation of the jobs. -/
structure MemSafe (I : State → Prop) : Prop where
  frame : ∀ p, Plan.Only plainFields p → Plan.Preserves I p
  counts : ∀ c, Plan.Preserves I (fun s => [.reserve { s.reserve with counts := c }])
  segment : ∀ n, Plan.Preserves I (queueSegment n)
  debit : ∀ n, Plan.Preserves I (debitLine n)
  charge : ∀ p l, Plan.Preserves I (chargeTo p l)
  held : ∀ p l, Plan.Preserves I (noteHeld p l)
  frames : ∀ id, Plan.Preserves I (freeFrames id)
  settle : Plan.Preserves I settle

section
variable {I : State → Prop} (h : MemSafe I)
include h

theorem MemSafe.plain {F : List Field} {p : Plan} (hp : Plan.Only F p) (hF : F ⊆ plainFields) : Plan.Preserves I p := h.frame p (hp.mono hF)

theorem MemSafe.act {e : Eff} (he : e.field ∈ plainFields) : Plan.Preserves I (Plan.act e) := h.frame _ (Plan.only_act he)

/-! ## Memory -/

theorem MemSafe.noteMetric (kind metric n : Nat) {p : Plan} (hp : Plan.Preserves I p) : Plan.Preserves I (noteMetric kind metric n p) := by
  intro s hs ht
  rw [Plan.run_def]
  simp only [Sys2Proof.Machine.noteMetric]
  split
  · exact ht
  · split
    · exact ht
    · split
      · rw [← Plan.run_def, Plan.run_andThen]
        exact hp _ (Plan.run_wf hs _) (h.counts _ s hs ht)
      · exact h.counts _ s hs ht

theorem MemSafe.plateDetect (seg off source fn stroke part : Nat) (charged tag : Bool) (g : Nat) : Plan.Preserves I (plateDetect seg off source fn stroke part charged tag g) := by
  refine Plan.preserves_seq_cons ?_ (Plan.preserves_seq_cons (h.plain (bump_only ..) (by decide)) (Plan.preserves_seq_cons (h.plain (raiseErr_only ..) (by decide))
    (Plan.preserves_seq_cons (h.plain (event_only _) (by decide)) (Plan.preserves_seq_cons (h.noteMetric 1 1 seg (h.segment seg)) Plan.preserves_seq_nil))))
  cases tag with
  | true => exact h.plain (bumpField_only ..) (by decide)
  | false => exact h.plain (bumpField_only ..) (by decide)

theorem MemSafe.lineDetect (source fn stroke part : Nat) (charged : Bool) (x : Nat × Nat × Bool) : Plan.Preserves I (lineDetect source fn stroke part charged x) :=
  fun s hs ht => by
    rw [Plan.run_def]
    simp only [Sys2Proof.Machine.lineDetect]
    exact h.plateDetect _ _ _ _ _ _ _ _ _ s hs ht

theorem MemSafe.goodWords (key o n : Nat) : Plan.Preserves I (goodWords key o n) := by
  refine h.plain (F := [.badWords]) ⟨fun s => ?_⟩ (by decide)
  simp only [Sys2Proof.Machine.goodWords]
  split
  · exact EffsIn.nil
  · exact EffsIn.one (by simp [Eff.field])

theorem MemSafe.writeBack (key : Nat) : Plan.Preserves I (writeBack key) := by
  intro s hs ht
  rw [Plan.run_def]
  simp only [Sys2Proof.Machine.writeBack]
  split
  · refine Plan.preserves_seq_cons (Plan.preserves_each (fun x => h.lineDetect _ _ _ _ _ x) _) (Plan.preserves_seq_cons (h.debit _)
      (Plan.preserves_seq_cons (h.plain (memRequests_only ..) (by decide)) (Plan.preserves_seq_cons (h.plain (F := [.mem, .poisoned, .lines]) ?_ (by decide))
        Plan.preserves_seq_nil))) s hs ht
    exact ⟨fun _ => EffsIn.cons (by simp [Eff.field]) (EffsIn.cons (by simp [Eff.field]) (EffsIn.cons (by simp [Eff.field]) (EffsIn.one (by simp [Eff.field]))))⟩
  · exact ht

theorem MemSafe.bringLine (seg a : Nat) (whole : Bool) : Plan.Preserves I (bringLine seg a whole) := by
  intro s hs ht
  have htouch : ∀ k v, Plan.Preserves I (Plan.act (.plru k v)) := fun k v => h.plain (F := [.plru]) (Plan.only_act (by simp [Eff.field])) (by decide)
  rw [Plan.run_def]
  simp only [Sys2Proof.Machine.bringLine]
  split
  · exact Plan.preserves_andThen (h.plain (bumpWrap_only ..) (by decide)) (htouch _ _) s hs ht
  · exact Plan.preserves_seq_cons (h.plain (bumpWrap_only ..) (by decide)) (Plan.preserves_seq_cons (h.writeBack _)
      (Plan.preserves_seq_cons (Plan.preserves_when (Plan.preserves_andThen (h.debit seg) (h.plain (memRequests_only ..) (by decide))))
        (Plan.preserves_seq_cons (h.goodWords _ _ _)
          (Plan.preserves_seq_cons (h.plain (F := [.lines]) ⟨fun _ => EffsIn.one (by simp [Eff.field])⟩ (by decide))
            (Plan.preserves_seq_cons (htouch _ _) Plan.preserves_seq_nil))))) s hs ht

theorem MemSafe.writeLine (seg a job : Nat) (bs : List Byte) : Plan.Preserves I (writeLine seg a job bs) := by
  simp only [Sys2Proof.Machine.writeLine]
  refine Plan.preserves_andThen (h.bringLine _ _ _) (fun s hs ht => ?_)
  rw [Plan.run_def]
  split
  · exact ht
  · exact Plan.preserves_seq_cons (Plan.preserves_when (h.writeBack _)) (Plan.preserves_seq_cons (h.goodWords _ _ _)
      (Plan.preserves_seq_cons (h.plain (F := [.lines]) ⟨fun _ => EffsIn.one (by simp [Eff.field])⟩ (by decide)) Plan.preserves_seq_nil)) s hs ht

theorem MemSafe.gddrStore (job a : Nat) (bs : List Byte) : Plan.Preserves I (gddrStore job a bs) := by
  intro s hs ht
  rw [Plan.run_def]
  simp only [Sys2Proof.Machine.gddrStore]
  split
  · exact h.act (e := .store a bs) (by simp [Eff.field, plainFields]) s hs ht
  · refine Plan.preserves_each (I := I) (fun p u hu htu => ?_) _ s hs ht
    rw [Plan.run_def]
    split
    · exact h.writeLine _ _ _ _ u hu htu
    next hnone =>
      refine h.plain (F := [.mem, .poisoned]) (p := fun _ => _ :: List.filterMap (fun q : Nat × List Byte => if q.2.length = 64 then some (.poisoned (q.1 / 64) false) else none) _)
        ⟨fun _ => EffsIn.cons ?_ (EffsIn.filterMap (fun q e hmem => ?_))⟩ (by decide) u hu htu
      · simp [Eff.field]
      · split at hmem
        · obtain rfl := Option.some.inj hmem
          simp [Eff.field]
        · exact absurd hmem (by simp)

theorem MemSafe.ownStore (a : Nat) (bs : List Byte) : Plan.Preserves I (ownStore a bs) := by
  intro s hs ht
  rw [Plan.run_def]
  simp only [Sys2Proof.Machine.ownStore]
  split
  · exact ht
  · exact Plan.preserves_andThen (h.plain (memRequests_only ..) (by decide)) (h.gddrStore _ _ _) s hs ht

theorem MemSafe.unitStore (mine a : Nat) (bs : List Byte) : Plan.Preserves I (unitStore mine a bs) := by
  intro s hs ht
  have hrequests : Plan.Preserves I (memRequests { cls := 6 } true a bs.length) := h.plain (memRequests_only ..) (by decide)
  rw [Plan.run_def]
  simp only [Sys2Proof.Machine.unitStore]
  split
  · exact ht
  · split
    · split
      · exact Plan.preserves_andThen hrequests (h.gddrStore _ _ _) s hs ht
      · exact h.plain (noteForeign_only _) (by decide) s hs ht
    · refine Plan.preserves_andThen hrequests ?_ s hs ht
      split
      · exact h.plain (poisonRead_only ..) (by decide)
      · exact h.gddrStore _ _ _

theorem MemSafe.modSlice (pool part : Nat) (f : PolSlice → PolSlice) : Plan.Preserves I (modSlice pool part f) :=
  h.plain (F := [.pools]) ⟨fun _ => EffsIn.one (by simp [Eff.field])⟩ (by decide)

theorem MemSafe.setRef (pool i n : Nat) : Plan.Preserves I (setRef pool i n) :=
  h.plain (F := [.refs]) ⟨fun _ => EffsIn.one (by simp [Eff.field])⟩ (by decide)

theorem MemSafe.releaseRef (n : Nat) : Plan.Preserves I (releaseRef n) := by
  intro s hs ht
  rw [Plan.run_def]
  simp only [Sys2Proof.Machine.releaseRef]
  split
  · exact ht
  · split
    · exact Plan.preserves_andThen (h.modSlice _ _ _) (h.plain (event_only _) (by decide)) s hs ht
    · refine Plan.preserves_andThen (h.setRef _ _ _) (Plan.preserves_when (fun u hu htu => ?_)) s hs ht
      rw [Plan.run_def]
      simp only [pushFree]
      split
      · exact htu
      · split
        · exact htu
        · exact Plan.preserves_andThen (h.unitStore _ _ _) (h.modSlice _ _ _) u hu htu

/-! ### The kill of a job -/

theorem MemSafe.freeEntry (s : State) (n : Nat) : Plan.Preserves I (freeEntry s n) := Plan.preserves_andThen (h.ownStore _ _) (h.ownStore _ _)

theorem MemSafe.writeEntry (c n w : Nat) : Plan.Preserves I (writeEntry c n w) := by
  intro s hs ht
  rw [Plan.run_def]
  simp only [Sys2Proof.Machine.writeEntry]
  exact Plan.preserves_andThen (h.ownStore _ _) (h.ownStore _ _) s hs ht

theorem MemSafe.writeWaiting (g : Nat) : Plan.Preserves I (writeWaiting g) := by
  intro s hs ht
  rw [Plan.run_def]
  simp only [Sys2Proof.Machine.writeWaiting]
  refine Plan.preserves_seq (I := I) (fun p hp => ?_) s hs ht
  obtain ⟨k, hk, rfl⟩ := List.mem_mapIdx.mp hp
  exact Plan.preserves_andThen (h.writeEntry _ _ _) (h.writeEntry _ _ _)

theorem MemSafe.dropWaiting (id : Nat) : Plan.Preserves I (dropWaiting id) := by
  intro s hs ht
  rw [Plan.run_def]
  simp only [Sys2Proof.Machine.dropWaiting]
  refine Plan.preserves_each (I := I) (fun n u hu htu => ?_) _ s hs ht
  rw [Plan.run_def]
  refine Plan.preserves_andThen (h.plain (F := [.sessions, .groups]) ?_ (by decide))
    (Plan.preserves_andThen (h.freeEntry _ _) (h.writeWaiting _)) u hu htu
  exact ⟨fun _ => EffsIn.cons (by simp [Eff.field]) (EffsIn.one (by simp [Eff.field]))⟩

theorem MemSafe.mediaEnds (l : List (Nat × Nat)) : Plan.Preserves I (mediaEnds l) := by
  refine Plan.preserves_each (fun r s hs ht => ?_) _
  rw [Plan.run_def]
  dsimp only
  split
  · exact ht
  · exact h.plain (modStroke_only _ _ _) (by decide) s hs ht

theorem MemSafe.resync (c : Nat) : Plan.Preserves I (resync c) := by
  intro s hs ht
  rw [Plan.run_def]
  simp only [Sys2Proof.Machine.resync]
  split
  · exact ht
  · exact Plan.preserves_seq_cons (h.act (by simp [Eff.field, plainFields])) (Plan.preserves_seq_cons (h.act (by simp [Eff.field, plainFields]))
      (Plan.preserves_seq_cons (Plan.preserves_each (fun _ => h.releaseRef _) _) (Plan.preserves_seq_cons (h.mediaEnds _) Plan.preserves_seq_nil))) s hs ht

theorem MemSafe.abandonMedia (id : Nat) : Plan.Preserves I (abandonMedia id) := by
  intro s hs ht
  rw [Plan.run_def]
  simp only [Sys2Proof.Machine.abandonMedia]
  split
  · exact ht
  · exact Plan.preserves_seq_cons (h.act (by simp [Eff.field, plainFields])) (Plan.preserves_seq_cons
      (Plan.preserves_each (fun _ => h.plain (F := [.cores]) ⟨fun _ => EffsIn.one (by simp [Eff.field])⟩ (by decide)) _)
      (Plan.preserves_seq_cons (Plan.preserves_each h.resync _) (Plan.preserves_seq_cons (Plan.preserves_each (fun _ => h.releaseRef _) _) Plan.preserves_seq_nil))) s hs ht

theorem MemSafe.abandonIntake (id : Nat) : Plan.Preserves I (abandonIntake id) := by
  intro s hs ht
  rw [Plan.run_def]
  simp only [Sys2Proof.Machine.abandonIntake]
  refine Plan.preserves_each (I := I) (fun c u hu htu => ?_) _ s hs ht
  rw [Plan.run_def]
  exact Plan.preserves_andThen (h.act (by simp [Eff.field, plainFields])) (Plan.preserves_each h.releaseRef _) u hu htu

theorem MemSafe.freeMutexes (id : Nat) : Plan.Preserves I (freeMutexes id) := by
  refine h.plain (F := .sems :: reportFields) ⟨fun s => ?_⟩ (by decide)
  exact (Plan.only_each (fun _ => ⟨fun s => (Plan.only_andThen (Plan.only_act (by simp [Eff.field])) ((event_only _).mono (by decide))).effs s⟩)).effs s

theorem MemSafe.burnishClaims (id : Nat) : Plan.Preserves I (burnishClaims id) := by
  refine h.plain (F := [.segs]) ⟨fun s => (Plan.only_each (fun b => ⟨fun s => ?_⟩)).effs s⟩ (by decide)
  dsimp only
  split
  · exact EffsIn.nil
  · exact EffsIn.one (by simp [Eff.field])

theorem MemSafe.dropLines (id : Nat) : Plan.Preserves I (dropLines id) :=
  h.plain (F := [.lines]) ⟨fun _ => EffsIn.map (fun _ => by simp [Eff.field])⟩ (by decide)

theorem MemSafe.burnishLocal (pl : Place) : Plan.Preserves I (burnishLocal pl) := by
  have hcluster : ∀ n c, EffsIn [.clusters, .localMem] [Eff.clusters n c] := fun _ _ => EffsIn.one (by simp [Eff.field])
  refine h.plain (F := [.clusters, .localMem]) ⟨fun s => EffsIn.append ?_ (EffsIn.map (fun _ => by simp [Eff.field]))⟩ (by decide)
  split
  · exact hcluster _ _
  · exact hcluster _ _
  · exact hcluster _ _
  · exact hcluster _ _
  · exact hcluster _ _
  · exact EffsIn.nil

theorem MemSafe.killParts (id : Nat) (strokes : List Stroke) : Plan.Preserves I (killParts id strokes) :=
  Plan.preserves_seq_cons (h.freeMutexes id) (Plan.preserves_seq_cons (h.frames id) (Plan.preserves_seq_cons (h.burnishClaims id)
    (Plan.preserves_seq_cons (h.dropLines id) (Plan.preserves_seq_cons (h.dropWaiting id) (Plan.preserves_seq_cons (h.abandonMedia id)
      (Plan.preserves_seq_cons (h.abandonIntake id) (Plan.preserves_seq_cons (Plan.preserves_each h.burnishLocal _)
        (Plan.preserves_seq_cons (h.settle) Plan.preserves_seq_nil))))))))

theorem MemSafe.killJob (id status : Nat) : Plan.Preserves I (killJob id status) := by
  intro s hs ht
  rw [Plan.run_def, killJob_eq]
  split
  · exact ht
  · split
    · split
      · exact h.plain (setJob_only id _) (by decide) s hs ht
      · exact ht
    · exact Plan.preserves_andThen (h.plain (setJob_only _ _) (by decide)) (h.killParts id _) s hs ht

end

/-! ## What the changes outside memory touch -/

theorem queueSegment_reserve (n : Nat) : Plan.Only [.reserve] (queueSegment n) := by
  refine ⟨fun s => ?_⟩
  simp only [queueSegment]
  split
  · exact EffsIn.nil
  · split
    · exact EffsIn.one (by simp [Eff.field])
    · exact EffsIn.one (by simp [Eff.field])

theorem debitLine_parts (seg : Nat) : Plan.Only [.parts] (debitLine seg) := by
  refine ⟨fun s => ?_⟩
  simp only [debitLine]
  split
  · exact EffsIn.nil
  · exact EffsIn.one (by simp [Eff.field])

theorem noteHeld_parts (p : Nat) (l : List (Nat × Nat)) : Plan.Only [.parts] (noteHeld p l) := ⟨fun _ => EffsIn.one (by simp [Eff.field])⟩

theorem chargeTo_parts (p : Nat) (l : List (Nat × Nat)) : Plan.Only [.parts] (chargeTo p l) := by
  refine ⟨fun s => ?_⟩
  simp only [chargeTo]
  split
  · exact EffsIn.one (by simp [Eff.field])
  · exact EffsIn.nil

theorem freeFrames_parts (id : Nat) : Plan.Only [.parts] (freeFrames id) := by
  refine ⟨fun s => ?_⟩
  simp only [freeFrames]
  split
  · exact EffsIn.one (by simp [Eff.field])
  · exact EffsIn.nil

/-- A property of none of these fields. -/
theorem MemSafe.of_only {I : State → Prop} (h : ∀ p, Plan.Only ([.reserve, .parts] ++ plainFields) p → Plan.Preserves I p) : MemSafe I where
  frame p hp := h p (hp.mono (List.subset_append_right _ _))
  counts _ := h _ ⟨fun _ => EffsIn.one (by simp [Eff.field])⟩
  segment n := h _ ((queueSegment_reserve n).mono (by decide))
  debit n := h _ ((debitLine_parts n).mono (by decide))
  charge p l := h _ ((chargeTo_parts p l).mono (by decide))
  held p l := h _ ((noteHeld_parts p l).mono (by decide))
  frames id := h _ ((freeFrames_parts id).mono (by decide))
  settle := h _ (settle_only.mono (by decide))

/-! ## The layout of the partitions -/

/-- What a partition says of its function, its queues and its GDDR6 (R263, R264). -/
def Part.place (x : Part) : Part := { fn := x.fn, state := x.state, qFirst := x.qFirst, qCount := x.qCount, gBase := x.gBase, gSize := x.gSize }

/-- Every partition lies as given. -/
def LaidOut (L : Nat → Part) (s : State) : Prop := ∀ p, (s.part p).place = L p

theorem part_put {s : State} (hs : s.Wf) (k : Nat) (x : Part) (p : Nat) : (s.apply (.parts k x)).part p = if p = k then x else s.part p := Tab.get_put hs.parts ..

/-- A partition that stays where it was. -/
theorem laidOut_put {L : Nat → Part} {s : State} (hs : s.Wf) (h : LaidOut L s) (k : Nat) (x : Part) (hx : x.place = (s.part k).place) :
    LaidOut L (s.apply (.parts k x)) := fun p => by
  rw [part_put hs]
  split
  next hp => rw [hx, hp]; exact h k
  · exact h p

theorem Plan.Only.keepsLayout {F : List Field} {p : Plan} (h : Plan.Only F p) (hp : Field.parts ∉ F) (L : Nat → Part) : Plan.Preserves (LaidOut L) p :=
  fun s _ hl k => by
    have hpart : (p.run s).part k = s.part k := congrArg (fun t => Tab.get ({} : Part) t k) (h.parts_eq s hp)
    rw [hpart]
    exact hl k

section
variable {β : Type} {π : Part → β} (k : Nat)

theorem part_put_congr {s : State} (hs : s.Wf) (p : Nat) (x : Part) (hx : π x = π (s.part p)) : π ((s.apply (.parts p x)).part k) = π (s.part k) := by
  rw [part_put hs]
  split
  next h => rw [hx, h]
  · rfl

theorem Plan.Only.keepsPart {F : List Field} {p : Plan} (h : Plan.Only F p) (hp : Field.parts ∉ F) : Plan.Keeps (fun s => π (s.part k)) p := fun s _ =>
  congrArg (fun t => π (Tab.get ({} : Part) t k)) (h.parts_eq s hp)

variable (hπ : ∀ x n, π { x with inherits := n } = π x)
include hπ

theorem raiseHolder_keepsPart : ∀ (fuel p h : Nat), Plan.Keeps (fun s => π (s.part k)) (raiseHolder fuel p h)
  | 0, _, _ => Plan.keeps_skip
  | fuel + 1, p, h => by
    intro s hs
    rw [Plan.run_def]
    unfold raiseHolder
    dsimp only
    split
    · have hs1 := Plan.run_wf hs (setJob h { s.job h with eff := p, via := 4 - fuel })
      have hset := (setJob_only h { s.job h with eff := p, via := 4 - fuel }).keepsPart (π := π) k (by decide) s hs
      have hpart : ((setJob h { s.job h with eff := p, via := 4 - fuel }).run s).part (s.job h).part = s.part (s.job h).part := rfl
      rw [← Plan.run_def, Plan.run_seq_cons]
      generalize (setJob h { s.job h with eff := p, via := 4 - fuel }).run s = u at hs1 hset hpart
      rw [← hpart, Plan.run_seq_cons, Plan.run_seq_cons, Plan.run_seq_nil]
      have hraise : π (((Plan.when (decide ((s.job h).eff < p)) (Plan.act (.parts (s.job h).part
          { u.part (s.job h).part with inherits := satAdd 0xFFFFFFFF (u.part (s.job h).part).inherits 1 }))).run u).part k) = π (u.part k) := by
        rw [Plan.run_when]
        split
        · exact part_put_congr k hs1 _ _ (hπ _ _)
        · rfl
      exact (Plan.keeps_look (P := fun s => π (s.part k)) (fun v => Plan.keeps_each (fun n => raiseHolder_keepsPart fuel p n)) _ (Plan.run_wf hs1 _)).trans (hraise.trans hset)
    · rfl

/-- An evaluation of the jobs leaves of a partition all but what it has inherited (R50). -/
theorem settle_keepsPart : Plan.Keeps (fun s => π (s.part k)) settle := by
  intro s hs
  refine Plan.keeps_andThen (P := fun s => π (s.part k)) (Plan.keeps_each (fun id => (evalJob_only id).keepsPart k (by decide))) (fun u hu => ?_) s hs
  rw [Plan.run_def]
  unfold inherit
  refine Plan.keeps_each (P := fun s => π (s.part k)) (fun id v hv => ?_) u hu
  rw [Plan.run_def]
  dsimp only
  split
  · exact Plan.keeps_each (P := fun s => π (s.part k)) (fun n => raiseHolder_keepsPart k hπ _ _ n) v hv
  · rfl

end

theorem settle_keepsLayout (L : Nat → Part) : Plan.Preserves (LaidOut L) settle := fun s hs hl k => (settle_keepsPart (π := Part.place) k (fun _ _ => rfl) s hs).trans (hl k)

/-- Nothing that a unit or a job does moves a partition. -/
theorem memSafe_layout (L : Nat → Part) : MemSafe (LaidOut L) where
  frame _ hp := hp.keepsLayout (by decide) L
  counts _ := Plan.Only.keepsLayout (F := [.reserve]) ⟨fun _ => EffsIn.one (by simp [Eff.field])⟩ (by decide) L
  segment n := (queueSegment_reserve n).keepsLayout (by decide) L
  debit n := by
    intro s hs hl
    rw [Plan.run_def]
    simp only [debitLine]
    split
    · exact hl
    · exact laidOut_put hs hl _ _ rfl
  charge p l := by
    intro s hs hl
    rw [Plan.run_def]
    simp only [chargeTo]
    split
    · exact laidOut_put hs hl _ _ rfl
    · exact hl
  held p l := fun s hs hl => laidOut_put hs hl _ _ rfl
  frames id := by
    intro s hs hl
    rw [Plan.run_def]
    simp only [freeFrames]
    split
    · exact laidOut_put hs hl _ _ rfl
    · exact hl
  settle := settle_keepsLayout L

theorem LaidOut.part {s t : State} (h : LaidOut (fun p => (s.part p).place) t) (p : Nat) :
    (t.part p).fn = (s.part p).fn ∧ (t.part p).state = (s.part p).state ∧ (t.part p).qFirst = (s.part p).qFirst ∧ (t.part p).qCount = (s.part p).qCount ∧
      (t.part p).gBase = (s.part p).gBase ∧ (t.part p).gSize = (s.part p).gSize := by
  have := h p
  simp only [Part.place, Part.mk.injEq, and_true, true_and] at this
  obtain ⟨hstate, hfn, hcount, hfirst, hsize, hbase⟩ := this
  exact ⟨hfn, hstate, hfirst, hcount, hbase, hsize⟩

theorem LaidOut.inPartGddr {s t : State} (h : LaidOut (fun p => (s.part p).place) t) : t.inPartGddr = s.inPartGddr := by
  funext p a n
  obtain ⟨-, -, -, -, hbase, hsize⟩ := h.part p
  simp only [State.inPartGddr, hbase, hsize]

/-- Where the partitions lie as before, a function has the queues that it had. -/
theorem LaidOut.queueRange {s t : State} (h : LaidOut (fun p => (s.part p).place) t) (fn : Nat) : t.partOf fn = s.partOf fn ∧ t.queueRange fn = s.queueRange fn := by
  have hpart : t.partOf fn = s.partOf fn := by
    unfold State.partOf
    congr 1
    funext p
    obtain ⟨hfn, hstate, -⟩ := h.part p
    rw [hfn, hstate]
  refine ⟨hpart, ?_⟩
  unfold State.queueRange
  rw [hpart]
  split
  · rfl
  next p hp =>
    obtain ⟨-, -, hfirst, hcount, -⟩ := h.part p
    rw [hfirst, hcount]

/-! ## Triggers that begin without the mailbox and without a freeze -/

/-- No trigger that waits comes from the mailbox or concerns a GDDR6 position (R371, R373). -/
structure Tame (s : State) : Prop where
  queue : ∀ t ∈ s.reserve.queue, t.byMailbox = false ∧ t.kind ≠ 3

theorem Plan.Only.keepsTame {F : List Field} {p : Plan} (h : Plan.Only F p) (hr : Field.reserve ∉ F) : Plan.Preserves Tame p := fun s _ ht => by
  have hreserve : (p.run s).reserve = s.reserve := h.same s hr
  exact ⟨by rw [hreserve]; exact ht.queue⟩

theorem queueSegment_keepsTame (n : Nat) : Plan.Preserves Tame (queueSegment n) := by
  intro s hs ht
  rw [Plan.run_def]
  simp only [queueSegment]
  split
  · exact ht
  · split
    · refine ⟨fun t hmem => ?_⟩
      rcases List.mem_append.mp hmem with hmem | hmem
      · exact ht.queue t hmem
      · rw [List.mem_singleton.mp hmem]
        exact ⟨rfl, Nat.succ_succ_ne_one 1 ∘ Eq.symm⟩
    · exact ⟨ht.queue⟩

theorem memSafe_tame : MemSafe Tame where
  frame _ hp := hp.keepsTame (by decide)
  counts _ := fun _ _ ht => ⟨ht.queue⟩
  segment := queueSegment_keepsTame
  debit n := (debitLine_parts n).keepsTame (by decide)
  charge p l := (chargeTo_parts p l).keepsTame (by decide)
  held p l := (noteHeld_parts p l).keepsTame (by decide)
  frames id := (freeFrames_parts id).keepsTame (by decide)
  settle := settle_only.keepsTame (by decide)

/-- A trigger that begins from a tame queue changes the reserve alone: the mailbox waits for none of it, and nothing freezes (R373). -/
theorem nextTrigger_tame {s : State} (ht : Tame s) : Tame (nextTrigger.run s) ∧ s.SameBut [.reserve] (nextTrigger.run s) := by
  have hnone : ∀ r : Reserve, (∀ t ∈ r.queue, t.byMailbox = false ∧ t.kind ≠ 3) → Tame ((Plan.act (.reserve r)).run s) ∧ s.SameBut [.reserve] ((Plan.act (.reserve r)).run s) :=
    fun r hr => ⟨⟨hr⟩, (Plan.only_act (by simp [Eff.field])).sameBut s⟩
  have hskip : Tame (Plan.skip.run s) ∧ s.SameBut [.reserve] (Plan.skip.run s) := ⟨ht, Plan.only_skip.sameBut s⟩
  rw [Plan.run_def]
  simp only [nextTrigger]
  split
  next t ts hrun hqueue =>
    have htail : ∀ u ∈ ts, u.byMailbox = false ∧ u.kind ≠ 3 := fun u hu => ht.queue u (hqueue ▸ List.mem_cons_of_mem t hu)
    obtain ⟨hmail, hkind⟩ := ht.queue t (hqueue ▸ List.mem_cons_self)
    split
    · exact hskip
    · split
      · rw [hmail, ← Plan.run_def, Plan.run_andThen, Plan.run_when, if_neg Bool.false_ne_true]
        exact hnone _ htail
      · split
        · exact hskip
        · exact hnone _ htail
  · exact hskip

end Sys2Proof.Machine
end

section
/-! Resets of functions begin: FLR of a VF and of the PF (R31, R334, R354). -/
namespace Sys2Proof.Machine

/-! ## FLR of a VF -/

/-- A function that enters the first phase of its reset. -/
theorem enterReset_func {s : State} (hs : s.Wf) (fn k : Nat) :
    ((enterReset fn).run s).func k = if k = fn then { s.func fn with flr := true, resetting := true, ready := false } else s.func k := func_put hs fn _ k

theorem enterReset_inReset {s : State} (hs : s.Wf) (fn : Nat) : InReset fn ((enterReset fn).run s) := by
  unfold InReset
  rw [enterReset_func hs, if_pos rfl]
  exact ⟨rfl, rfl, rfl⟩

theorem enterReset_only (fn : Nat) : Plan.Only [.funcs] (enterReset fn) := ⟨fun _ => EffsIn.one (by simp [Eff.field])⟩

theorem inReset_unready (x : Func) (h : x.flr = true ∧ x.resetting = true ∧ x.ready = false) :
    ({ x with ready := false } : Func).flr = true ∧ ({ x with ready := false } : Func).resetting = true ∧ ({ x with ready := false } : Func).ready = false := ⟨h.1, h.2.1, rfl⟩

/-- A reset that goes on leaves a function in reset. -/
theorem rollback_keepsInReset (fn k : Nat) (quiet : Bool) : Plan.Preserves (InReset fn) (rollback k quiet) :=
  rollback_keepsFunc (R := fun x => x.flr = true ∧ x.resetting = true ∧ x.ready = false) inReset_unready fn k quiet

theorem Plan.Only.keepsInReset {F : List Field} {p : Plan} (h : Plan.Only F p) (hf : Field.funcs ∉ F) (fn : Nat) : Plan.Preserves (InReset fn) p :=
  h.keepsFunc hf fn (fun x => x.flr = true ∧ x.resetting = true ∧ x.ready = false)

/-- What an FLR of a VF does once it has entered its reset: the steps before its jobs end, and their end. -/
def vfResetRest (vf : Nat) (ids : List Nat) (bme : Bool) : Plan := Plan.seq [rollback vf true, disarm vf, discardJobs ids (fun _ => bme)]

theorem vfResetRest_keeps {I : State → Prop} (vf : Nat) (ids : List Nat) (bme : Bool) (hroll : Plan.Preserves I (rollback vf true))
    (hframe : ∀ p, Plan.Only (changeFields ++ releaseFields) p → Plan.Preserves I p) : Plan.Preserves I (vfResetRest vf ids bme) :=
  Plan.preserves_seq_cons hroll (Plan.preserves_seq_cons (hframe _ ((disarm_only vf).mono (List.subset_append_left _ _)))
    (Plan.preserves_seq_cons (hframe _ ((discardJobs_only ids _).mono (List.subset_append_right _ _))) Plan.preserves_seq_nil))

theorem vfResetRest_gone (vf : Nat) (ids : List Nat) (bme : Bool) {s : State} (hs : s.Wf) {id : Nat} (h : id ∈ ids) : Gone id ((vfResetRest vf ids bme).run s) := by
  rw [vfResetRest, Plan.run_seq_cons, Plan.run_seq_cons, Plan.run_seq_cons, Plan.run_seq_nil]
  exact discardJobs_gone ids _ (Plan.run_wf (Plan.run_wf hs _) _) id (.inl h)

/-- Jobs of a VF are all listed: a number that no job has belongs to the PF. -/
theorem mem_jobsOf_vf {s : State} {vf id : Nat} (hvf : vf ≠ 0) (h : (s.job id).fn = vf) : id ∈ s.jobIds.filter (fun id => (s.job id).fn == vf) := by
  refine List.mem_filter.mpr ⟨?_, beq_iff_eq.mpr h⟩
  by_contra hmem
  have hdefault : s.job id = {} := Tab.get_of_notMem hmem
  rw [hdefault] at h
  exact hvf h.symm

theorem exec_flrVf {vf : Nat} {s : State} (hs : s.Wf) (hserves : s.svc.halted = false) (h1 : 1 ≤ vf) (h8 : vf ≤ 8) (hflr : (s.func vf).flr = false)
    (hpf : (s.func 0).flr = false) (hcore : s.pcie.coreFailed = false) :
    ∃ t, exec (.flrVf vf) s = .next t ∧ (t.func vf).flr = true ∧ (t.func vf).resetting = true ∧ (t.func vf).ready = false ∧
      (∀ fn, fn ≠ vf → (t.func fn).flr = (s.func fn).flr) ∧ (∀ id, (s.job id).fn = vf → (t.job id).phase = .gone) ∧ t.svc = s.svc ∧ t.pcie = s.pcie := by
  have hvf : vf ≠ 0 := by omega
  let ids := s.jobIds.filter (fun id => (s.job id).fn == vf)
  let rest := vfResetRest vf ids (s.func vf).busMaster
  have hplan : flrVf vf s = Plan.andThen (enterReset vf) rest s := if_neg (by simp [hvf, Nat.not_lt.mpr h8, hflr, hpf, hcore])
  have hs1 := Plan.run_wf hs (enterReset vf)
  have hin := enterReset_inReset hs vf
  have hother := enterReset_func hs vf
  have honly := enterReset_only vf
  have hsvc : ((enterReset vf).run s).svc = s.svc := honly.svc_eq s (by decide)
  have hpcie : ((enterReset vf).run s).pcie = s.pcie := honly.pcie_eq s (by decide)
  refine ⟨_, Plan.done_of_eq hserves hplan, ?_⟩
  rw [Plan.run_andThen]
  generalize (enterReset vf).run s = u at hs1 hin hother hsvc hpcie
  have hin' : InReset vf (rest.run u) :=
    vfResetRest_keeps vf ids _ (rollback_keepsInReset vf vf true) (fun p hp => hp.keepsInReset (by decide) vf) u hs1 hin
  have hflrs : ∀ fn, fn ≠ vf → ((rest.run u).func fn).flr = (s.func fn).flr := fun fn hne =>
    vfResetRest_keeps (I := fun t => (t.func fn).flr = (s.func fn).flr) vf ids _
      (rollback_keepsFunc (R := fun x => x.flr = (s.func fn).flr) (fun _ h => h) fn vf true)
      (fun p hp => hp.keepsFunc (by decide) fn (fun x => x.flr = (s.func fn).flr)) u hs1
      (congrArg Func.flr ((hother fn).trans (if_neg hne)))
  have hcores : (rest.run u).svc = s.svc ∧ (rest.run u).pcie = s.pcie :=
    vfResetRest_keeps (I := fun t => t.svc = s.svc ∧ t.pcie = s.pcie) vf ids _ (rollback_keepsCores s.svc s.pcie vf true)
      (fun p hp t _ h => ⟨(hp.svc_eq t (by decide)).trans h.1, (hp.pcie_eq t (by decide)).trans h.2⟩) u hs1 ⟨hsvc, hpcie⟩
  exact ⟨hin'.1, hin'.2.1, hin'.2.2, hflrs, fun id hid => vfResetRest_gone vf ids _ hs1 (mem_jobsOf_vf hvf hid), hcores.1, hcores.2⟩

/-! ## The mailbox as the PF resets -/

/-- The fields that undoing a mailbox operation can change. -/
def undoFields : List Field := [.reserve, .positions, .flash, .svc] ++ reportFields

theorem appendStaged_only : Plan.Only reportFields appendStaged := by
  refine ⟨fun s => ?_⟩
  simp only [appendStaged]
  split
  · exact EffsIn.nil
  · exact (Plan.only_seq_cons (Plan.only_act (by simp [Eff.field, reportFields])) (Plan.only_seq_cons (Plan.only_each (fun e => appendNow_only e))
      (Plan.only_seq_cons (Plan.only_when ⟨fun s => (appendNow_only _).effs s⟩) Plan.only_seq_nil))).effs s

/-- Undoing an operation leaves a property standing that neither its frame touches, nor the parts of the reserve and of the service controller that it changes. -/
theorem mbxUndo_preserves {I : State → Prop} (hframe : ∀ p, Plan.Only (.positions :: .flash :: reportFields) p → Plan.Preserves I p)
    (hstaged : Plan.Preserves I (fun s => [.svc { s.svc with staged := [] }]))
    (hqueue : ∀ running phase, Plan.Preserves I (fun s => [.reserve { s.reserve with queue := s.reserve.queue.filter (fun t => !t.byMailbox), running := running, phase := phase }])) :
    Plan.Preserves I mbxUndo := by
  intro s hs hI
  rw [Plan.run_def]
  simp only [mbxUndo]
  split
  · exact hqueue _ _ s hs hI
  · exact hframe _ (Plan.only_act (e := .positions s.svc.retrain { s.pos s.svc.retrain with retraining := false }) (by simp [Eff.field])) s hs hI
  · exact Plan.preserves_andThen (hframe _ (Plan.only_act (e := .flashClear s.svc.stagedAt copySize) (by simp [Eff.field]))) hstaged s hs hI
  · exact hstaged s hs hI
  · exact hframe _ (Plan.only_andThen (Plan.only_act (by simp [Eff.field, reportFields])) (appendStaged_only.mono (by decide))) s hs hI
  · exact hI

theorem program_only (off size : Nat) (bs : List Byte) : Plan.Only [.flash] (program off size bs) :=
  ⟨fun _ => EffsIn.cons (by simp [Eff.field]) (fun e he => by obtain ⟨k, hk, rfl⟩ := List.mem_mapIdx.mp he; simp [Eff.field])⟩

/-- What the mailbox leaves standing as the PF resets (R31, R354). -/
theorem mbxReset_preserves {I : State → Prop} (hframe : ∀ p, Plan.Only ([.fresh, .mbx, .positions, .flash] ++ reportFields) p → Plan.Preserves I p)
    (hstaged : Plan.Preserves I (fun s => [.svc { s.svc with staged := [] }]))
    (howners : ∀ o, Plan.Preserves I (fun s => [.svc { s.svc with owners := o, staged := [] }]))
    (hqueue : ∀ running phase, Plan.Preserves I (fun s => [.reserve { s.reserve with queue := s.reserve.queue.filter (fun t => !t.byMailbox), running := running, phase := phase }])) :
    Plan.Preserves I mbxReset := by
  have hmbx : ∀ m, Plan.Preserves I (Plan.act (.mbx m)) := fun m => hframe _ (Plan.only_act (by simp [Eff.field]))
  have habort : Plan.Preserves I (Plan.andThen mbxUndo (Plan.act (.mbx { result := 7 }))) :=
    Plan.preserves_andThen (mbxUndo_preserves (fun p hp => hframe p (hp.mono (by decide))) hstaged hqueue) (hmbx _)
  have hcommit : Plan.Preserves I commitProfile := fun s hs hI => by
    rw [Plan.run_def]
    simp only [commitProfile]
    rw [← Plan.run_def, Plan.run_andThen, Plan.run_act]
    have hsvc : ((program s.svc.stagedAt copySize s.svc.staged).run s).svc = s.svc := (program_only ..).svc_eq s (by decide)
    have hI1 := hframe _ ((program_only s.svc.stagedAt copySize s.svc.staged).mono (by decide)) s hs hI
    have hs1 := Plan.run_wf hs (program s.svc.stagedAt copySize s.svc.staged)
    have := howners (ownerRun (sigAt s.svc.staged (rdN s.svc.staged 0x18 4)).signer s.svc.owners (entriesOf s.svc.staged)).1 _ hs1 hI1
    rw [Plan.run_def, hsvc] at this
    exact this
  intro s hs hI
  rw [Plan.run_def]
  simp only [mbxReset]
  split
  · exact hmbx {} s hs hI
  · split
    · simp only [withFree]
      refine Plan.preserves_andThen (hframe _ (Plan.only_act (by simp [Eff.field]))) ?_ s hs hI
      split
      · exact Plan.preserves_andThen hcommit (hmbx {})
      · exact habort
    · exact habort s hs hI

/-- After a reset of the PF the mailbox is IDLE; an operation that ran, unless it may have committed the profile, ended with ABORTED. -/
theorem mbxReset_mbx (s : State) : (mbxReset.run s).mbx.state = .idle ∧ (s.mbx.state = .busy → s.mbx.cmd ≠ 0x12 → (mbxReset.run s).mbx = { result := 7 }) := by
  have habort : ∀ u : State, ((Plan.andThen mbxUndo (Plan.act (.mbx { result := 7 }))).run u).mbx = { result := 7 } := fun u => by rw [Plan.run_andThen, Plan.run_act]; rfl
  have hcommit : ∀ u : State, ((Plan.andThen commitProfile (Plan.act (.mbx {}))).run u).mbx = {} := fun u => by rw [Plan.run_andThen, Plan.run_act]; rfl
  rw [Plan.run_def]
  simp only [mbxReset]
  split
  next hidle => exact ⟨rfl, fun hbusy => absurd hbusy hidle⟩
  next =>
    split
    next hcmd =>
      refine ⟨?_, fun _ hne => absurd hcmd hne⟩
      simp only [withFree]
      rw [← Plan.run_def, Plan.run_andThen]
      split
      · rw [hcommit]
      · rw [habort]
    next => exact ⟨congrArg Mailbox.state (habort s), fun _ _ => habort s⟩

/-! ## FLR of the PF -/

theorem abandonMigration_only : Plan.Only [.gddr, .positions] abandonMigration := by
  refine ⟨fun s => ?_⟩
  simp only [abandonMigration]
  split
  · exact EffsIn.nil
  · exact EffsIn.cons (by simp [Eff.field]) (EffsIn.cons (by simp [Eff.field]) (EffsIn.one (by simp [Eff.field])))

theorem abandonSpare_only : Plan.Only [.reserve] abandonSpare := by
  refine ⟨fun s => ?_⟩
  simp only [abandonSpare]
  split
  · exact EffsIn.nil
  · exact EffsIn.one (by simp [Eff.field])

/-- A spare-in that is abandoned while nothing waits leaves a tame queue: what waits again comes neither from the mailbox nor from a position. -/
theorem abandonSpare_tame {s : State} (h : s.reserve.queue = []) : Tame (abandonSpare.run s) := by
  rw [Plan.run_def]
  simp only [abandonSpare]
  split
  · refine ⟨fun t ht => absurd ht ?_⟩
    rw [State.applyAll_nil, h]
    exact List.not_mem_nil
  next t hrun =>
    refine ⟨fun u hu => ?_⟩
    have hu : u ∈ if t.byMailbox = true ∨ t.kind = 3 then s.reserve.queue else t :: s.reserve.queue := hu
    split at hu
    · rw [h] at hu; exact absurd hu List.not_mem_nil
    next hnot =>
      rw [h] at hu
      rw [List.mem_singleton.mp hu]
      exact ⟨Bool.eq_false_iff.mpr (fun hm => hnot (.inl hm)), fun hk => hnot (.inr hk)⟩

/-- What a reset of the PF does once the mailbox is IDLE and nothing is moved, migrated or spared in: changes are rolled back and every job ends. -/
def pfResetRest (s : State) (ids : List Nat) (post : Nat → Bool) : Plan :=
  Plan.seq [Plan.when (s.unitMove.status == 1) (Plan.act (.unitMove { s.unitMove with status := 3, reason := 6 })),
    Plan.each (List.range 9) (fun fn => rollback fn true), Plan.each (List.range 9) disarm, discardJobs ids post]

theorem pfResetRest_keeps {I : State → Prop} (s : State) (ids : List Nat) (post : Nat → Bool) (hroll : ∀ fn, Plan.Preserves I (rollback fn true))
    (hframe : ∀ p, Plan.Only (.unitMove :: changeFields ++ releaseFields) p → Plan.Preserves I p) : Plan.Preserves I (pfResetRest s ids post) :=
  Plan.preserves_seq_cons (hframe _ (Plan.only_when (Plan.only_act (by simp [Eff.field])))) (Plan.preserves_seq_cons (Plan.preserves_each hroll _)
    (Plan.preserves_seq_cons (Plan.preserves_each (fun fn => hframe _ ((disarm_only fn).mono (by decide))) _)
      (Plan.preserves_seq_cons (hframe _ ((discardJobs_only ids post).mono (by decide))) Plan.preserves_seq_nil)))

theorem pfResetRest_gone (s : State) (ids : List Nat) (post : Nat → Bool) {u : State} (hu : u.Wf) (id : Nat) (h : id ∈ ids ∨ Gone id u) :
    Gone id ((pfResetRest s ids post).run u) := by
  have hmove : Plan.Preserves (Gone id) (Plan.when (s.unitMove.status == 1) (Plan.act (.unitMove { s.unitMove with status := 3, reason := 6 }))) :=
    Plan.Only.keepsGone (F := [.unitMove]) (Plan.only_when (Plan.only_act (by simp [Eff.field]))) (by decide) id
  have hroll : Plan.Preserves (Gone id) (Plan.each (List.range 9) (fun fn => rollback fn true)) := Plan.preserves_each (fun fn => rollback_keepsGone id fn true) _
  have hdisarm : Plan.Preserves (Gone id) (Plan.each (List.range 9) disarm) := Plan.preserves_each (fun fn => (disarm_only fn).keepsGone (by decide) id) _
  rw [pfResetRest, Plan.run_seq_cons, Plan.run_seq_cons, Plan.run_seq_cons, Plan.run_seq_cons, Plan.run_seq_nil]
  exact discardJobs_gone ids post (Plan.run_wf (Plan.run_wf (Plan.run_wf hu _) _) _) id
    (h.imp_right (fun hg => hdisarm _ (Plan.run_wf (Plan.run_wf hu _) _) (hroll _ (Plan.run_wf hu _) (hmove u hu hg))))

/-- With a tame queue the rest of a reset leaves the mailbox as it is. -/
theorem pfResetRest_mbx (s : State) (ids : List Nat) (post : Nat → Bool) {u : State} (hu : u.Wf) (ht : Tame u) : ((pfResetRest s ids post).run u).mbx = u.mbx := by
  let I : State → Prop := fun t => Tame t ∧ t.mbx = u.mbx
  have hframe : ∀ {F : List Field}, Field.reserve ∉ F → Field.mbx ∉ F → ∀ p, Plan.Only F p → Plan.Preserves I p :=
    fun hr hm p hp t ht h => ⟨hp.keepsTame hr t ht h.1, (hp.mbx_eq t hm).trans h.2⟩
  have hsurvives : Survives changeFields I := {
    frame := hframe (by decide) (by decide)
    kill := fun id status t ht h => ⟨memSafe_tame.killJob id status t ht h.1, ((killJob_only id status).mbx_eq t (by decide)).trans h.2⟩
    mark := fun id => hframe (by decide) (by decide) _ (modJob_only id _)
    settle := hframe (by decide) (by decide) _ settle_only }
  have hnext : Plan.Preserves I nextTrigger := fun t _ h => ⟨(nextTrigger_tame h.1).1, ((nextTrigger_tame h.1).2.2 .mbx (by decide)).trans h.2⟩
  have hbefore : Plan.Preserves I (Plan.seq [Plan.when (s.unitMove.status == 1) (Plan.act (.unitMove { s.unitMove with status := 3, reason := 6 })),
      Plan.each (List.range 9) (fun fn => rollback fn true), Plan.each (List.range 9) disarm]) :=
    Plan.preserves_seq_cons (hframe (F := [.unitMove]) (by decide) (by decide) _ (Plan.only_when (Plan.only_act (by simp [Eff.field]))))
      (Plan.preserves_seq_cons (Plan.preserves_each (fun fn => hsurvives.rollback hnext fn true) _)
        (Plan.preserves_seq_cons (Plan.preserves_each (fun fn => hframe (by decide) (by decide) _ (disarm_only fn)) _) Plan.preserves_seq_nil))
  have h := (hbefore u hu ⟨ht, rfl⟩).2
  rw [Plan.run_seq_cons, Plan.run_seq_cons, Plan.run_seq_cons, Plan.run_seq_nil] at h
  rw [pfResetRest, Plan.run_seq_cons, Plan.run_seq_cons, Plan.run_seq_cons, Plan.run_seq_cons, Plan.run_seq_nil]
  exact ((discardJobs_only ids post).mbx_eq _ (by decide)).trans h

/-- The beginning of a reset of the PF: every function in reset, the cause set, the mailbox IDLE, and what the reserve manager ran abandoned. -/
def pfResetFirst (cause : Nat) (s : State) : Plan :=
  Plan.seq [Plan.each (List.range 9) enterReset, Plan.act (.svc { s.svc with resetCause := cause, initialising := s.svc.stage != 3 }), mbxReset, abandonMigration, abandonSpare]

theorem pfReset_run {s : State} (cause : Nat) (post : State → Nat → Bool) (hflr : (s.func 0).flr = false) (hcore : s.pcie.coreFailed = false) :
    (pfReset cause post).run s = (pfResetRest s s.jobIds (post s)).run ((pfResetFirst cause s).run s) := by
  have hplan : pfReset cause post s = Plan.seq [Plan.each (List.range 9) enterReset, Plan.act (.svc { s.svc with resetCause := cause, initialising := s.svc.stage != 3 }),
      mbxReset, abandonMigration, abandonSpare, Plan.when (s.unitMove.status == 1) (Plan.act (.unitMove { s.unitMove with status := 3, reason := 6 })),
      Plan.each (List.range 9) (fun fn => rollback fn true), Plan.each (List.range 9) disarm, discardJobs s.jobIds (post s)] s := by
    unfold pfReset
    rw [if_neg (by simp [hflr, hcore])]
  rw [Plan.run_congr hplan, pfResetFirst, pfResetRest]
  simp only [Plan.run_seq_cons, Plan.run_seq_nil]

/-- Every function enters its reset, and the cause is set. -/
def pfResetEnters (cause : Nat) (s : State) : Plan :=
  Plan.andThen (Plan.each (List.range 9) enterReset) (Plan.act (.svc { s.svc with resetCause := cause, initialising := s.svc.stage != 3 }))

theorem pfResetEnters_only (cause : Nat) (s : State) : Plan.Only [.funcs, .svc] (pfResetEnters cause s) :=
  Plan.only_andThen (Plan.only_each (fun fn => (enterReset_only fn).mono (by decide))) (Plan.only_act (by simp [Eff.field]))

theorem pfResetEnters_svc (cause : Nat) (s : State) :
    ((pfResetEnters cause s).run s).svc = { s.svc with resetCause := cause, initialising := s.svc.stage != 3 } := by
  rw [pfResetEnters, Plan.run_andThen, Plan.run_act]
  rfl

theorem pfResetEnters_inReset (cause : Nat) {s : State} (hs : s.Wf) {fn : Nat} (hfn : fn < 9) : InReset fn ((pfResetEnters cause s).run s) := by
  have hfunc := each_func_range (fun x => { x with flr := true, resetting := true, ready := false }) hs hfn
  have hin : InReset fn ((Plan.each (List.range 9) enterReset).run s) := ⟨congrArg Func.flr hfunc, congrArg Func.resetting hfunc, congrArg Func.ready hfunc⟩
  rw [pfResetEnters, Plan.run_andThen]
  exact Plan.Only.keepsInReset (F := [.svc]) (Plan.only_act (by simp [Eff.field])) (by decide) fn _ (Plan.run_wf hs _) hin

theorem mbxReset_keepsSvc (cause : Nat) (b : Bool) : Plan.Preserves (fun t => t.svc.resetCause = cause ∧ t.svc.initialising = b) mbxReset :=
  mbxReset_preserves (fun p hp t _ h => by rw [hp.svc_eq t (by decide)]; exact h) (fun _ _ h => h) (fun _ _ _ h => h) (fun _ _ _ _ h => h)

theorem mbxReset_keepsEmpty : Plan.Preserves (fun t => t.reserve.queue = []) mbxReset :=
  mbxReset_preserves (fun p hp t _ h => (congrArg Reserve.queue (hp.same t (f := .reserve) (by decide))).trans h) (fun _ _ h => h) (fun _ _ _ h => h)
    (fun _ _ t _ h => by show t.reserve.queue.filter _ = []; rw [h]; rfl)

theorem mbxReset_keepsInReset (fn : Nat) : Plan.Preserves (InReset fn) mbxReset :=
  mbxReset_preserves (fun p hp => hp.keepsInReset (by decide) fn) (fun _ _ h => h) (fun _ _ _ h => h) (fun _ _ _ _ h => h)

theorem mbxReset_keepsGone (id : Nat) : Plan.Preserves (Gone id) mbxReset :=
  mbxReset_preserves (fun p hp => hp.keepsGone (by decide) id) (fun _ _ h => h) (fun _ _ _ h => h) (fun _ _ _ _ h => h)

/-- What the reserve manager ran is abandoned. -/
def abandonAll : Plan := Plan.andThen abandonMigration abandonSpare

theorem abandonAll_only : Plan.Only [.gddr, .positions, .reserve] abandonAll :=
  Plan.only_andThen (abandonMigration_only.mono (by decide)) (abandonSpare_only.mono (by decide))

theorem abandonAll_tame {s : State} (h : s.reserve.queue = []) : Tame (abandonAll.run s) := by
  have hreserve : (abandonMigration.run s).reserve = s.reserve := abandonMigration_only.same s (f := .reserve) (by decide)
  rw [abandonAll, Plan.run_andThen]
  exact abandonSpare_tame (by rw [hreserve]; exact h)

theorem pfResetFirst_run (cause : Nat) (s : State) : (pfResetFirst cause s).run s = abandonAll.run (mbxReset.run ((pfResetEnters cause s).run s)) := by
  rw [pfResetFirst, pfResetEnters, abandonAll]
  simp only [Plan.run_seq_cons, Plan.run_seq_nil, Plan.run_andThen]

/-- Where the beginning of a reset of the PF leaves the device. -/
theorem pfResetFirst_leaves (cause : Nat) {s : State} (hs : s.Wf) :
    let u := (pfResetFirst cause s).run s
    u.Wf ∧ (∀ fn < 9, InReset fn u) ∧ (∀ id, Gone id s → Gone id u) ∧ (u.svc.resetCause = cause ∧ u.svc.initialising = (s.svc.stage != 3)) ∧ u.mbx.state = .idle ∧
      (s.mbx.state = .busy → s.mbx.cmd ≠ 0x12 → u.mbx = { result := 7 }) ∧ (s.reserve.queue = [] → Tame u) := by
  have honly := pfResetEnters_only cause s
  have hs1 := Plan.run_wf hs (pfResetEnters cause s)
  have hin1 := fun fn (hfn : fn < 9) => pfResetEnters_inReset cause hs hfn
  have hgone1 := fun id => honly.keepsGone (by decide) id s hs
  have hsvc1 := pfResetEnters_svc cause s
  have hmbx1 : ((pfResetEnters cause s).run s).mbx = s.mbx := honly.mbx_eq s (by decide)
  have hreserve1 : ((pfResetEnters cause s).run s).reserve = s.reserve := honly.same s (f := .reserve) (by decide)
  dsimp only
  rw [pfResetFirst_run]
  generalize (pfResetEnters cause s).run s = u1 at hs1 hin1 hgone1 hsvc1 hmbx1 hreserve1
  have hs2 := Plan.run_wf hs1 mbxReset
  obtain ⟨hidle, haborted⟩ := mbxReset_mbx u1
  have hin2 := fun fn (hfn : fn < 9) => mbxReset_keepsInReset fn u1 hs1 (hin1 fn hfn)
  have hgone2 := fun id hg => mbxReset_keepsGone id u1 hs1 (hgone1 id hg)
  have hsvc2 := mbxReset_keepsSvc cause (s.svc.stage != 3) u1 hs1 ⟨congrArg Svc.resetCause hsvc1, congrArg Svc.initialising hsvc1⟩
  have hqueue2 := fun hq : s.reserve.queue = [] => mbxReset_keepsEmpty u1 hs1 ((congrArg Reserve.queue hreserve1).trans hq)
  rw [hmbx1] at haborted
  generalize mbxReset.run u1 = u2 at hs2 hidle haborted hin2 hgone2 hsvc2 hqueue2
  have hmbx : (abandonAll.run u2).mbx = u2.mbx := abandonAll_only.mbx_eq u2 (by decide)
  have hsvc : (abandonAll.run u2).svc = u2.svc := abandonAll_only.svc_eq u2 (by decide)
  refine ⟨Plan.run_wf hs2 abandonAll, fun fn hfn => abandonAll_only.keepsInReset (by decide) fn u2 hs2 (hin2 fn hfn),
    fun id hg => abandonAll_only.keepsGone (by decide) id u2 hs2 (hgone2 id hg), ?_, ?_, ?_, fun hq => abandonAll_tame (hqueue2 hq)⟩
  · rw [hsvc]; exact hsvc2
  · rw [hmbx]; exact hidle
  · rw [hmbx]; exact haborted

theorem exec_flrPf {s : State} (hs : s.Wf) (hserves : s.svc.halted = false) (hflr : (s.func 0).flr = false) (hcore : s.pcie.coreFailed = false) :
    ∃ t, exec .flrPf s = .next t ∧ (∀ fn < 9, (t.func fn).flr = true ∧ (t.func fn).resetting = true ∧ (t.func fn).ready = false) ∧
      (∀ id, (t.job id).phase = .gone) ∧ t.svc.resetCause = 3 ∧ t.svc.initialising = (s.svc.stage != 3) ∧ (s.reserve.queue = [] → t.mbx.state = .idle) ∧
      (s.reserve.queue = [] → s.mbx.state = .busy → s.mbx.cmd ≠ 0x12 → t.mbx = { result := 7 }) := by
  obtain ⟨hu, hin, hgone, hsvc, hidle, haborted, htame⟩ := pfResetFirst_leaves 3 hs
  have hexec : exec .flrPf s = .next (flrPf.run s) := Plan.done_of_eq hserves rfl
  have hrun : flrPf.run s = (pfResetRest s s.jobIds (fun fn => (s.func fn).busMaster)).run ((pfResetFirst 3 s).run s) := pfReset_run 3 _ hflr hcore
  rw [hrun] at hexec
  generalize (pfResetFirst 3 s).run s = u at hu hin hgone hsvc hidle haborted htame hexec
  have hcores := pfResetRest_keeps (I := fun t => t.svc = u.svc ∧ t.pcie = u.pcie) s s.jobIds (fun fn => (s.func fn).busMaster) (fun fn => rollback_keepsCores u.svc u.pcie fn true)
    (fun p hp t _ h => ⟨(hp.svc_eq t (by decide)).trans h.1, (hp.pcie_eq t (by decide)).trans h.2⟩) u hu ⟨rfl, rfl⟩
  have hmbx : s.reserve.queue = [] → _ := fun hq => pfResetRest_mbx s s.jobIds (fun fn => (s.func fn).busMaster) hu (htame hq)
  refine ⟨_, hexec, fun fn hfn => ?_, fun id => ?_, ?_, ?_, fun hq => ?_, fun hq hbusy hcmd => ?_⟩
  · exact pfResetRest_keeps s _ _ (fun k => rollback_keepsInReset fn k true) (fun p hp => hp.keepsInReset (by decide) fn) u hu (hin fn hfn)
  · refine pfResetRest_gone s _ _ hu id ?_
    by_cases hid : id ∈ s.jobIds
    · exact .inl hid
    · exact .inr (hgone id (gone_of_notMem hid))
  · rw [hcores.1]; exact hsvc.1
  · rw [hcores.1]; exact hsvc.2
  · rw [hmbx hq]; exact hidle
  · rw [hmbx hq]; exact haborted hbusy hcmd

/-- Settles O21: the FLR of a VF, that of the PF, and the power state of a VF. -/
theorem functionResetsBegin : Obligations.FunctionResetsBegin := by
  unfold Obligations.FunctionResetsBegin
  refine ⟨fun vf s hs hserves h1 h8 hflr hpf hcore => exec_flrVf hs hserves h1 h8 hflr hpf hcore, fun s hs hserves hflr hcore => exec_flrPf hs hserves hflr hcore, ?_⟩
  intro vf d3 s hserves h1 h8 hflr
  have hplan : vfPowerStateWrite vf d3 s = Plan.act (.funcs vf { s.func vf with d3hot := d3 }) s :=
    if_neg (by simp [show vf ≠ 0 by omega, Nat.not_lt.mpr h8, hflr])
  exact Plan.done_of_eq hserves hplan

end Sys2Proof.Machine
end

section
/-! The contexts of a partition close (R193, R221, R234-R238, R249): what that leaves standing, for any property that accesses to memory leave standing. -/
namespace Sys2Proof.Machine

section
variable {I : State → Prop} (h : MemSafe I)
include h

/-! ## Accesses for a partition -/

theorem MemSafe.lateAccess (g : Nat) : Plan.Preserves I (Plan.andThen (raiseErr (pgPS g) 3 []) (bump pgPLT 0x118 1)) :=
  Plan.preserves_andThen (h.plain (raiseErr_only ..) (by decide)) (h.plain (bump_only ..) (by decide))

theorem MemSafe.partStore (p a : Nat) (bs : List Byte) : Plan.Preserves I (partStore p a bs) := by
  intro s hs hI
  rw [Plan.run_def]
  simp only [Sys2Proof.Machine.partStore]
  split
  · split
    · split
      · exact h.plain (bump_only ..) (by decide) s hs hI
      · exact h.plain (plateStore_only ..) (by decide) s hs hI
    · split
      · exact hI
      · split
        · exact h.plain (noteForeign_only _) (by decide) s hs hI
        · split
          · exact h.plain (poisonRead_only ..) (by decide) s hs hI
          · exact h.gddrStore _ _ _ s hs hI
    · exact hI
  · exact h.lateAccess _ s hs hI
  · exact h.plain (raiseErr_only ..) (by decide) s hs hI
  · exact hI

theorem MemSafe.gddrTouch (a n : Nat) : Plan.Preserves I (gddrTouch a n) := by
  intro s hs hI
  rw [Plan.run_def]
  simp only [Sys2Proof.Machine.gddrTouch]
  split
  · exact hI
  · refine Plan.preserves_each (I := I) (fun la u hu hIu => ?_) _ s hs hI
    rw [Plan.run_def]
    split
    · exact h.bringLine _ _ _ u hu hIu
    · exact hIu

theorem MemSafe.partRead (p a n : Nat) : Plan.Preserves I (partRead p a n) := by
  intro s hs hI
  rw [Plan.run_def]
  simp only [Sys2Proof.Machine.partRead]
  split
  · split
    · exact h.plain (poisonRead_only ..) (by decide) s hs hI
    · exact h.gddrTouch _ _ s hs hI
  · exact h.lateAccess _ s hs hI
  · exact h.plain (raiseErr_only ..) (by decide) s hs hI
  · exact hI

theorem MemSafe.partAccess (p : Nat) (reads : List (Nat × Nat)) (writes : List (Nat × List Byte)) {go : Plan} (hgo : Plan.Preserves I go) :
    Plan.Preserves I (partAccess p reads writes go) := by
  intro s hs hI
  rw [Plan.run_def]
  simp only [Sys2Proof.Machine.partAccess]
  split
  · exact hI
  · split
    · exact h.held _ _ s hs hI
    · exact Plan.preserves_seq_cons (h.charge _ _) (Plan.preserves_seq_cons (h.plain (requestAll_only ..) (by decide)) (Plan.preserves_seq_cons hgo Plan.preserves_seq_nil)) s hs hI

/-! ## Sets and groups -/

theorem MemSafe.semAdd (stroke part n : Nat) : Plan.Preserves I (semAdd stroke part n) := by
  intro s hs hI
  rw [Plan.run_def]
  simp only [Sys2Proof.Machine.semAdd]
  split
  · exact hI
  · split
    · exact h.plain (event_only _) (by decide) s hs hI
    · exact Plan.preserves_andThen (h.act (by simp [Eff.field, plainFields])) h.settle s hs hI

theorem MemSafe.releaseSet (n : Nat) (x : RegSet) (forced : Bool) : Plan.Preserves I (releaseSet n x forced) := by
  intro s hs hI
  rw [Plan.run_def]
  simp only [Sys2Proof.Machine.releaseSet]
  split
  · exact Plan.preserves_seq_cons (h.partRead _ _ _) (Plan.preserves_seq_cons (h.act (by simp [Eff.field, plainFields]))
      (Plan.preserves_seq_cons (h.plain (raiseErr_only ..) (by decide)) (Plan.preserves_seq_cons (Plan.preserves_each h.releaseRef _) Plan.preserves_seq_nil))) s hs hI
  · exact Plan.preserves_seq_cons (h.partRead _ _ _) (Plan.preserves_seq_cons (Plan.preserves_each (fun w => h.partStore _ _ _) _)
      (Plan.preserves_seq_cons (h.act (by simp [Eff.field, plainFields])) (Plan.preserves_seq_cons (h.semAdd _ _ _) Plan.preserves_seq_nil))) s hs hI

theorem MemSafe.emitSet (paid : Bool) (n : Nat) (x : RegSet) (forced : Bool) {next : Plan} (hnext : Plan.Preserves I next) : Plan.Preserves I (emitSet paid n x forced next) := by
  intro s hs hI
  have hrelease := Plan.preserves_andThen (h.releaseSet n x forced) hnext
  rw [Plan.run_def]
  simp only [Sys2Proof.Machine.emitSet]
  split
  · exact hrelease s hs hI
  · exact h.partAccess _ _ _ hrelease s hs hI

theorem MemSafe.emitReady (paid : Bool) (n : Nat) : ∀ fuel, Plan.Preserves I (emitReady paid n fuel)
  | 0 => Plan.preserves_skip
  | fuel + 1 => by
    intro s hs hI
    rw [Plan.run_def]
    simp only [Sys2Proof.Machine.emitReady]
    split
    · exact hI
    · split
      · exact h.emitSet paid n _ false (MemSafe.emitReady paid n fuel) s hs hI
      · exact hI

theorem MemSafe.placePicture (paid : Bool) (n i : Nat) (p : RegPic) (rest : List (Nat × RegPic)) : Plan.Preserves I (placePicture paid n i p rest) := by
  have hgroup : ∀ g, Plan.Preserves I (Plan.act (.regGroups n g)) := fun g => h.act (by simp [Eff.field, plainFields])
  have hlate : ∀ g, Plan.Preserves I (Plan.seq [Plan.act (.regGroups n g), raiseErr pgINT 1 [], Sys2Proof.Machine.releaseRef p.handle]) := fun g =>
    Plan.preserves_seq_cons (hgroup g) (Plan.preserves_seq_cons (h.plain (raiseErr_only ..) (by decide)) (Plan.preserves_seq_cons (h.releaseRef _) Plan.preserves_seq_nil))
  have hopens : ∀ f : State → RegGroup, Plan.Preserves I (fun s => [.regGroups n (f s)]) := fun f => h.frame _ ⟨fun _ => EffsIn.one (by simp [Eff.field, plainFields])⟩
  intro s hs hI
  rw [Plan.run_def]
  simp only [Sys2Proof.Machine.placePicture]
  split
  · exact hgroup _ s hs hI
  · split
    all_goals
      split
      · exact hlate _ s hs hI
      · split
        · split
          · exact hgroup _ s hs hI
          · exact h.emitSet _ _ _ _ (Plan.preserves_andThen (h.plain (raiseErr_only ..) (by decide)) (hopens _)) s hs hI
        · exact hgroup _ s hs hI

theorem MemSafe.arrive (paid : Bool) (n : Nat) : Plan.Preserves I (arrive paid n) := by
  refine Plan.preserves_seq_cons (h.emitReady _ _ _) (Plan.preserves_seq_cons (fun s hs hI => ?_) (Plan.preserves_seq_cons (h.emitReady _ _ _) Plan.preserves_seq_nil))
  rw [Plan.run_def]
  split
  · exact hI
  · exact h.placePicture _ _ _ _ _ s hs hI

theorem MemSafe.leaveGroup (c : Nat) : Plan.Preserves I (leaveGroup c) := by
  intro s hs hI
  rw [Plan.run_def]
  simp only [Sys2Proof.Machine.leaveGroup]
  split
  · exact hI
  · refine Plan.preserves_seq_cons (Plan.preserves_seq (fun p hp => ?_)) (Plan.preserves_seq_cons (h.frame _ ?_)
      (Plan.preserves_seq_cons (h.emitReady _ _ _) Plan.preserves_seq_nil)) s hs hI
    · obtain ⟨x, hx, rfl⟩ := List.mem_map.mp hp
      exact h.arrive _ _
    · exact ⟨fun _ => EffsIn.cons (by simp [Eff.field, plainFields]) (EffsIn.one (by simp [Eff.field, plainFields]))⟩

theorem MemSafe.dropGroup (n : Nat) : Plan.Preserves I (dropGroup n) := by
  have hfree : Plan.Preserves I (freeMembers n) := h.frame _ ⟨fun _ => (Plan.only_each (fun _ => ⟨fun _ => EffsIn.one (by simp [Eff.field, plainFields])⟩)).effs _⟩
  intro s hs hI
  rw [Plan.run_def]
  simp only [Sys2Proof.Machine.dropGroup]
  refine Plan.preserves_andThen (Plan.preserves_each h.releaseRef _) (fun u hu hIu => ?_) s hs hI
  rw [Plan.run_def]
  simp only [Sys2Proof.Machine.shutGroup]
  exact Plan.preserves_andThen hfree (h.act (by simp [Eff.field, plainFields])) u hu hIu

/-! ## Contexts -/

theorem MemSafe.closeStream (c : Nat) : Plan.Preserves I (closeStream c) := by
  intro s hs hI
  rw [Plan.run_def]
  simp only [Sys2Proof.Machine.closeStream]
  refine Plan.preserves_seq_cons (h.leaveGroup c) (Plan.preserves_seq_cons (h.act (by simp [Eff.field, plainFields])) (Plan.preserves_seq_cons (Plan.preserves_each (fun n => h.frame _ ?_) _)
    (Plan.preserves_seq_cons (Plan.preserves_each (fun _ => h.releaseRef _) _) (Plan.preserves_seq_cons (Plan.preserves_each h.releaseRef _)
      (Plan.preserves_seq_cons (h.act (by simp [Eff.field, plainFields])) Plan.preserves_seq_nil))))) s hs hI
  exact ⟨fun _ => EffsIn.one (by simp [Eff.field, plainFields])⟩

theorem MemSafe.closeIntake (c : Nat) : Plan.Preserves I (closeIntake c) := by
  intro s hs hI
  rw [Plan.run_def]
  simp only [Sys2Proof.Machine.closeIntake]
  exact Plan.preserves_andThen (h.act (by simp [Eff.field, plainFields])) (Plan.preserves_each h.releaseRef _) s hs hI

theorem MemSafe.closeTrack (c : Nat) : Plan.Preserves I (closeTrack c) := h.frame _ ⟨fun _ => EffsIn.one (by simp [Eff.field, plainFields])⟩

theorem MemSafe.closeContexts (p : Nat) : Plan.Preserves I (closeContexts p) := by
  intro s hs hI
  rw [Plan.run_def]
  simp only [Sys2Proof.Machine.closeContexts]
  refine Plan.preserves_seq_cons (Plan.preserves_each h.dropGroup _) (Plan.preserves_seq_cons (Plan.preserves_each h.closeTrack _)
    (Plan.preserves_seq_cons (Plan.preserves_each (fun k => h.frame _ ?_) _) (Plan.preserves_seq_cons (Plan.preserves_each h.closeStream _)
      (Plan.preserves_seq_cons (Plan.preserves_each h.closeIntake _) Plan.preserves_seq_nil)))) s hs hI
  exact ⟨fun _ => EffsIn.one (by simp [Eff.field, plainFields])⟩

/-! ## The partition of a function that resets -/

theorem MemSafe.burnishSegment (n : Nat) : Plan.Preserves I (burnishSegment n) :=
  h.frame _ ⟨fun _ => EffsIn.cons (by simp [Eff.field, plainFields]) (EffsIn.one (by simp [Eff.field, plainFields]))⟩

theorem MemSafe.burnishCluster (n : Nat) : Plan.Preserves I (burnishCluster n) :=
  h.frame _ ⟨fun _ => EffsIn.cons (by simp [Eff.field, plainFields]) (EffsIn.one (by simp [Eff.field, plainFields]))⟩

theorem MemSafe.resetSlices (p : Nat) : Plan.Preserves I (resetSlices p) := by
  intro s hs hI
  refine Plan.preserves_each (I := I) (fun n u hu hIu => ?_) (List.range 16) s hs hI
  rw [Plan.run_def]
  dsimp only
  split
  · refine Plan.preserves_andThen (h.act (by simp [Eff.field, plainFields])) (fun v hv hIv => ?_) u hu hIu
    rw [Plan.run_def]
    simp only [startRebuild]
    split
    · exact h.modSlice _ _ _ v hv hIv
    · exact hIv
  · exact hIu

/-- What a partition's reset leaves standing, given that its own settings are no part of it. -/
theorem MemSafe.resetPartition (hreset : ∀ p (w : State → Nat), Plan.Preserves I (fun s => [.parts p ((s.part p).reset (w s))])) (p : Nat) : Plan.Preserves I (resetPartition p) := by
  intro s hs hI
  rw [Plan.run_def]
  simp only [Sys2Proof.Machine.resetPartition]
  refine Plan.preserves_seq_cons (h.closeContexts p) (Plan.preserves_seq_cons (Plan.preserves_each (fun n => ?_) _) (Plan.preserves_seq_cons (Plan.preserves_each h.burnishCluster _)
    (Plan.preserves_seq_cons (h.resetSlices p) (Plan.preserves_seq_cons (h.act (by simp [Eff.field, plainFields])) (Plan.preserves_seq_cons (hreset p _) Plan.preserves_seq_nil))))) s hs hI
  refine Plan.preserves_seq_cons (h.burnishSegment n) (Plan.preserves_seq_cons (h.act (by simp [Eff.field, plainFields])) (Plan.preserves_seq_cons (h.frame _ ?_) Plan.preserves_seq_nil))
  exact ⟨fun _ => EffsIn.one (by simp [Eff.field, plainFields])⟩

theorem MemSafe.thaw (fn : Nat) : Plan.Preserves I (thaw fn) := by
  intro s hs hI
  rw [Plan.run_def]
  simp only [Sys2Proof.Machine.thaw]
  split
  · exact Plan.preserves_andThen (h.act (by simp [Eff.field, plainFields])) (h.plain appendStaged_only (by decide)) s hs hI
  · exact hI

end

end Sys2Proof.Machine
end

section
/-! Resets of functions end: a VF, the PF, and the initialisation of the units (R25, R31). -/
namespace Sys2Proof.Machine

/-! ## A VF -/

/-- The reset of the partition of a function that has one. -/
def resetOf (part : Option Nat) : Plan := match part with | none => Plan.skip | some p => resetPartition p

/-- What the reset of a VF does to the units: its freeze of the recorder ends, and its partition is reset. -/
def vfResetUnits (vf : Nat) (part : Option Nat) : Plan := Plan.andThen (thaw vf) (resetOf part)

theorem MemSafe.vfResetUnits {I : State → Prop} (h : MemSafe I) (hreset : ∀ p (w : State → Nat), Plan.Preserves I (fun s => [.parts p ((s.part p).reset (w s))]))
    (vf : Nat) (part : Option Nat) : Plan.Preserves I (vfResetUnits vf part) := by
  refine Plan.preserves_andThen (h.thaw vf) ?_
  unfold resetOf
  split
  · exact Plan.preserves_skip
  · exact h.resetPartition hreset _

/-- A partition's reset leaves it where it lies. -/
theorem partReset_keepsLayout (L : Nat → Part) (p : Nat) (w : State → Nat) :
    Plan.Preserves (LaidOut L) (fun s => [.parts p ((s.part p).reset (w s))]) := fun _ hs h => laidOut_put hs h p _ rfl

/-- What neither a plain change nor one of the reserve or of a partition touches survives the reset of a VF's units. -/
theorem vfResetUnits_keeps {I : State → Prop} (h : ∀ p, Plan.Only ([.reserve, .parts] ++ plainFields) p → Plan.Preserves I p) (vf : Nat) (part : Option Nat) :
    Plan.Preserves I (vfResetUnits vf part) :=
  (MemSafe.of_only h).vfResetUnits (fun _ _ => h _ ⟨fun _ => EffsIn.one (by simp [Eff.field])⟩) vf part

theorem clearFunction_only (fn : Nat) : Plan.Only [.queues, .slots, .vecs, .evtSels, .regs, .polWaits, .modeChanges] (clearFunction fn) := by
  refine ⟨fun s e he => ?_⟩
  simp only [clearFunction, List.mem_cons, List.not_mem_nil, or_false] at he
  rcases he with rfl | rfl | rfl | rfl | rfl | rfl | rfl
  all_goals simp [Eff.field]

theorem clearFunction_queues (fn : Nat) (s : State) : ((clearFunction fn).run s).queues = Tab.clear s.queues (s.queueRange fn).1 (s.queueRange fn).2 := by
  simp only [Plan.run_def, clearFunction, State.applyAll_cons, State.applyAll_nil, State.apply_queues]

theorem clearFunction_slots (fn : Nat) (s : State) : ((clearFunction fn).run s).slots = Tab.clear s.slots (s.queueRange fn).1 (s.queueRange fn).2 := by
  simp only [Plan.run_def, clearFunction, State.applyAll_cons, State.applyAll_nil, State.apply_slots]

theorem clearFunction_regs (fn : Nat) (s : State) : ((clearFunction fn).run s).regs = Tab.clear s.regs (regKey fn 0 0) (2 ^ 20) := by
  simp only [Plan.run_def, clearFunction, State.applyAll_cons, State.applyAll_nil, State.apply_regs]

theorem clearFunction_queue (fn : Nat) (s : State) {q : Nat} (hq : q < (s.queueRange fn).2) :
    ((clearFunction fn).run s).queue ((s.queueRange fn).1 + q) = {} ∧ Tab.get {} ((clearFunction fn).run s).slots ((s.queueRange fn).1 + q) = {} := by
  unfold State.queue
  rw [clearFunction_queues, clearFunction_slots, Tab.get_clear, Tab.get_clear, if_pos (by omega), if_pos (by omega)]
  exact ⟨rfl, rfl⟩

theorem regKey_mem_function {fn pg off : Nat} (hpg : pg < 256) (hoff : off < 0x1000) : regKey fn 0 0 ≤ regKey fn pg off ∧ regKey fn pg off < regKey fn 0 0 + 2 ^ 20 := by
  unfold regKey
  omega

theorem clearFunction_reg (fn : Nat) (s : State) {pg off : Nat} (hpg : pg < 256) (hoff : off < 0x1000) : ((clearFunction fn).run s).reg fn pg off = 0 := by
  unfold State.reg
  rw [clearFunction_regs, Tab.get_clear, if_pos (regKey_mem_function hpg hoff)]
  rfl

/-- The last steps of the reset of a VF: it is in service again, its vector is sent, and the jobs are evaluated. -/
def vfResetLast (vf : Nat) : Plan :=
  Plan.seq [(fun s => [.funcs vf { fault := (s.func vf).fault, ready := !(s.func vf).fault && s.gddr.frozen == false && s.svc.initialising == false }]), sendVec vf 0, settle]

theorem vfResetLast_only (vf : Nat) : Plan.Only [.funcs, .vecs, .jobs, .parts] (vfResetLast vf) :=
  Plan.only_seq_cons ⟨fun _ => EffsIn.one (by simp [Eff.field])⟩ (Plan.only_seq_cons ((sendVec_only ..).mono (by decide)) (Plan.only_seq_cons (settle_only.mono (by decide)) Plan.only_seq_nil))

theorem vfResetLast_func {s : State} (hs : s.Wf) (vf fn : Nat) : ((vfResetLast vf).run s).func fn =
    if fn = vf then { fault := (s.func vf).fault, ready := !(s.func vf).fault && !s.gddr.frozen && !s.svc.initialising } else s.func fn := by
  have hput := func_put hs vf { fault := (s.func vf).fault, ready := !(s.func vf).fault && s.gddr.frozen == false && s.svc.initialising == false } fn
  rw [vfResetLast, Plan.run_seq_cons, Plan.run_seq_cons, Plan.run_seq_cons, Plan.run_seq_nil, settle_only.func_eq _ (by decide), (sendVec_only vf 0).func_eq _ (by decide)]
  refine Eq.trans hput ?_
  have hnot : ∀ b : Bool, (b == false) = !b := by decide
  rw [hnot, hnot]

theorem vfResetDone_run (vf : Nat) (s : State) :
    (vfResetDone vf).run s = (vfResetLast vf).run ((clearFunction vf).run ((vfResetUnits vf (s.partOf vf)).run s)) := by
  have hplan : vfResetDone vf s = Plan.seq [thaw vf, resetOf (s.partOf vf), clearFunction vf,
      (fun s => [.funcs vf { fault := (s.func vf).fault, ready := !(s.func vf).fault && s.gddr.frozen == false && s.svc.initialising == false }]), sendVec vf 0, settle] s := rfl
  rw [Plan.run_congr hplan, vfResetLast, vfResetUnits]
  simp only [Plan.run_seq_cons, Plan.run_seq_nil, Plan.run_andThen]

theorem exec_vfResetComplete {vf : Nat} {s : State} (hs : s.Wf) (hserves : s.svc.halted = false) (h1 : 1 ≤ vf) (h8 : vf ≤ 8) (hflr : (s.func vf).flr = true)
    (hpf : (s.func 0).flr = false) :
    ∃ t, exec (.functionResetComplete vf) s = .next t ∧
      t.func vf = { fault := (s.func vf).fault, ready := !(s.func vf).fault && !s.gddr.frozen && !s.svc.initialising } ∧ (∀ fn, fn ≠ vf → t.func fn = s.func fn) ∧
      (∀ q, q < (s.queueRange vf).2 → t.queue ((s.queueRange vf).1 + q) = {} ∧ Tab.get {} t.slots ((s.queueRange vf).1 + q) = {}) ∧
      (∀ pg off, pg < 256 → off < 0x1000 → t.reg vf pg off = 0) := by
  have hplan : functionResetComplete vf s = vfResetDone vf s := by
    unfold functionResetComplete
    rw [if_neg (by simp [Nat.not_lt.mpr h8, hflr]), if_neg (by omega), if_neg (by simp [hpf])]
  refine ⟨_, Plan.done_of_eq hserves hplan, ?_⟩
  have hs1 := Plan.run_wf hs (vfResetUnits vf (s.partOf vf))
  have hfunc : ∀ fn, ((vfResetUnits vf (s.partOf vf)).run s).func fn = s.func fn := fun fn =>
    vfResetUnits_keeps (I := fun t => t.func fn = s.func fn) (fun p hp => hp.keepsFunc (by decide) fn (fun x => x = s.func fn)) vf _ s hs rfl
  have hgddr : ((vfResetUnits vf (s.partOf vf)).run s).gddr = s.gddr :=
    vfResetUnits_keeps (I := fun t => t.gddr = s.gddr) (fun p hp t _ h => (hp.same t (f := .gddr) (by decide)).trans h) vf _ s hs rfl
  have hsvc : ((vfResetUnits vf (s.partOf vf)).run s).svc = s.svc :=
    vfResetUnits_keeps (I := fun t => t.svc = s.svc) (fun p hp t _ h => (hp.svc_eq t (by decide)).trans h) vf _ s hs rfl
  have hrange : ((vfResetUnits vf (s.partOf vf)).run s).queueRange vf = s.queueRange vf :=
    (((memSafe_layout _).vfResetUnits (partReset_keepsLayout _) vf (s.partOf vf) s hs (fun _ => rfl) : LaidOut (fun p => (s.part p).place) _).queueRange vf).2
  rw [vfResetDone_run]
  generalize (vfResetUnits vf (s.partOf vf)).run s = u at hs1 hfunc hgddr hsvc hrange
  have hs2 := Plan.run_wf hs1 (clearFunction vf)
  have hclear := clearFunction_only vf
  have hlast := vfResetLast_only vf
  have hgddr2 : ((clearFunction vf).run u).gddr = s.gddr := (hclear.same u (f := .gddr) (by decide)).trans hgddr
  have hsvc2 : ((clearFunction vf).run u).svc = s.svc := (hclear.svc_eq u (by decide)).trans hsvc
  have hfunc2 : ∀ fn, ((clearFunction vf).run u).func fn = s.func fn := fun fn => (hclear.func_eq u (by decide) fn).trans (hfunc fn)
  have hslots : ((vfResetLast vf).run ((clearFunction vf).run u)).slots = ((clearFunction vf).run u).slots := hlast.same _ (f := .slots) (by decide)
  refine ⟨?_, fun fn hne => ?_, fun q hq => ?_, fun pg off hpg hoff => ?_⟩
  · rw [vfResetLast_func hs2, if_pos rfl, hgddr2, hsvc2, hfunc2]
  · rw [vfResetLast_func hs2, if_neg hne, hfunc2]
  · rw [hlast.queue_eq _ (by decide), hslots, ← hrange]
    exact clearFunction_queue vf u (by rw [hrange]; exact hq)
  · rw [hlast.reg_eq _ (by decide)]
    exact clearFunction_reg vf u hpg hoff

/-! ## The PF -/

/-- What a reset of the PF does before its tables are cleared. -/
def pfResetContexts (freezes : List Nat) : Plan :=
  Plan.seq [Plan.each freezes thaw, Plan.each (List.range 8) closeContexts,
    (fun _ => [.streamsClear 0 allKeys, .intakesClear 0 allKeys, .regGroupsClear 0 allKeys, .outRingsClear 0 allKeys, .tracksClear 0 allKeys])]

theorem MemSafe.pfResetContexts {I : State → Prop} (h : MemSafe I) (freezes : List Nat) : Plan.Preserves I (pfResetContexts freezes) := by
  refine Plan.preserves_seq_cons (Plan.preserves_each h.thaw _) (Plan.preserves_seq_cons (Plan.preserves_each h.closeContexts _) (Plan.preserves_seq_cons (h.frame _ ?_) Plan.preserves_seq_nil))
  refine ⟨fun _ e he => ?_⟩
  simp only [List.mem_cons, List.not_mem_nil, or_false] at he
  rcases he with rfl | rfl | rfl | rfl | rfl
  all_goals simp [Eff.field, plainFields]

/-- The tables and records that a reset of the PF returns to their reset values (R31, R43, R266). -/
def pfResetTables : Plan := fun s =>
  [.queuesClear 0 allKeys, .slotsClear 0 allKeys, .vecsClear 0 allKeys, .evtSelsClear 0 allKeys, .semsClear 0 allKeys, .modeChangesClear 0 allKeys,
    .sessionsClear 0 allKeys, .groupsClear 0 allKeys, .vocabsClear 0 allKeys, .grammarsClear 0 allKeys, .maskTagsClear 0 allKeys, .basesClear 0 allKeys,
    .xfers [], .colls [], .retries [], .ruling { maxUs := s.ruling.maxUs },
    .pcie { s.pcie with vfEnable := false, schedFailed := false, aerPoisoned := false, aerEcrc := false, aerOther := false },
    .recorder { s.recorder with freezeLimit := 0x3E8 }]

theorem pfResetTables_clears (s : State) : let t := pfResetTables.run s
    t.queues = Tab.clear s.queues 0 allKeys ∧ t.slots = Tab.clear s.slots 0 allKeys ∧ t.sems = Tab.clear s.sems 0 allKeys ∧ t.pcie.vfEnable = false ∧
      t.ruling = { maxUs := s.ruling.maxUs } := by
  refine ⟨?_, ?_, ?_, ?_, ?_⟩
  · simp only [Plan.run_def, pfResetTables, State.applyAll_cons, State.applyAll_nil, State.apply_queues]
  · simp only [Plan.run_def, pfResetTables, State.applyAll_cons, State.applyAll_nil, State.apply_slots]
  · simp only [Plan.run_def, pfResetTables, State.applyAll_cons, State.applyAll_nil, State.apply_sems]
  · simp only [Plan.run_def, pfResetTables, State.applyAll_cons, State.applyAll_nil, State.apply_pcie]
  · simp only [Plan.run_def, pfResetTables, State.applyAll_cons, State.applyAll_nil, State.apply_ruling]

/-- The fields that a layout, its registers and the functions stand in. -/
def layoutFields : List Field := [.regs, .parts, .modeChanges, .clusters, .segs, .streams, .intakes, .regGroups, .funcs, .vecs]

theorem setOwner_only (kind n p : Nat) : Plan.Only layoutFields (setOwner kind n p) := by
  refine ⟨fun s => ?_⟩
  unfold setOwner
  split
  all_goals exact EffsIn.one (by simp [Eff.field, layoutFields])

theorem layoutUnits_only (l : List (List Byte)) : Plan.Only layoutFields (Plan.each (List.range 5) (fun k => Plan.each (List.range (moveUnits k)) (layoutUnit l k))) := by
  refine Plan.only_each (fun k => Plan.only_each (fun n => ⟨fun s => ?_⟩))
  simp only [layoutUnit]
  split
  · exact EffsIn.nil
  · exact (setOwner_only _ _ _).effs s

theorem restoreLayout_only : Plan.Only layoutFields restoreLayout := by
  refine ⟨fun s => ?_⟩
  simp only [restoreLayout]
  split
  · exact (Plan.only_seq_cons (Plan.only_each (fun _ => ⟨fun _ => EffsIn.one (by simp [Eff.field, layoutFields])⟩)) (Plan.only_seq_cons (layoutUnits_only _) Plan.only_seq_nil)).effs s
  · exact (Plan.only_seq_cons (Plan.only_each (fun _ => ⟨fun _ => EffsIn.one (by simp [Eff.field, layoutFields])⟩)) (Plan.only_seq_cons (layoutUnits_only _) Plan.only_seq_nil)).effs s

theorem applyReg_only (off v : Nat) : Plan.Only layoutFields (applyReg off v) := by
  have hset : ∀ page o w, Plan.Only layoutFields (setReg 0 page o w) := fun page o w => (setReg_only 0 page o w).mono (by decide)
  unfold applyReg
  split
  · exact Plan.only_each (fun _ => ⟨fun _ => EffsIn.one (by simp [Eff.field, layoutFields])⟩)
  · split
    · exact Plan.only_each (fun _ => ⟨fun _ => EffsIn.one (by simp [Eff.field, layoutFields])⟩)
    · repeat' (split; exact hset _ _ _)
      exact Plan.only_skip

theorem resetPfRegs_only : Plan.Only layoutFields resetPfRegs := by
  refine ⟨fun s => ?_⟩
  refine (Plan.only_seq_cons ⟨fun _ e he => ?_⟩ (Plan.only_seq_cons (Plan.only_each (fun _ => applyReg_only _ _)) Plan.only_seq_nil)).effs s
  simp only [List.cons_append, List.mem_cons, List.mem_append, List.mem_map] at he
  rcases he with rfl | ⟨x, -, rfl⟩ | ⟨x, -, rfl⟩
  all_goals simp [Eff.field, layoutFields]

/-- What a reset of the PF ends with: registers, layout, functions, and their vectors. -/
def pfResetFuncs : Plan := Plan.each (List.range 9) (fun fn => fun s => [.funcs fn {}, .modeChanges fn { timeout := s.profReg 0x2138 0x2710 % 2 ^ 24 }])

theorem pfResetFuncs_only : Plan.Only layoutFields pfResetFuncs :=
  Plan.only_each (fun _ => ⟨fun _ => EffsIn.cons (by simp [Eff.field, layoutFields]) (EffsIn.one (by simp [Eff.field, layoutFields]))⟩)

theorem pfResetFuncs_func {s : State} (hs : s.Wf) {fn : Nat} (hfn : fn < 9) : (pfResetFuncs.run s).func fn = {} := by
  have hstep : ∀ (k y : Nat) (u : State), u.Wf →
      (Plan.run (fun s => [.funcs k {}, .modeChanges k { timeout := s.profReg 0x2138 0x2710 % 2 ^ 24 }]) u).func y = if y = k then {} else u.func y :=
    fun k y u hu => func_put hu k {} y
  refine Plan.each_establishes (Q := fun _ _ => True) (P := fun fn t => t.func fn = {}) (fun _ _ _ _ h => h) (fun k u hu _ => ?_) (fun k y u hu hy => ?_) (List.range 9) s hs fn trivial
    (.inl (List.mem_range.mpr hfn))
  · rw [hstep k k u hu, if_pos rfl]
  · rw [hstep k y u hu]
    split
    · rfl
    · exact hy

def pfResetLayout : Plan :=
  Plan.seq [resetPfRegs, Plan.act (.partsClear 0 allKeys), Plan.act (.parts 0 Part.factory0),
    (fun s => Plan.each (List.range 8) (fun p => fun s => [.parts p { s.part p with waitLimit := s.profReg 0x2110 0x3E8 % 2 ^ 16 }]) s), restoreLayout]

theorem pfResetLayout_only : Plan.Only layoutFields pfResetLayout :=
  Plan.only_seq_cons resetPfRegs_only (Plan.only_seq_cons (Plan.only_act (by simp [Eff.field, layoutFields])) (Plan.only_seq_cons (Plan.only_act (by simp [Eff.field, layoutFields]))
    (Plan.only_seq_cons ⟨fun s => (Plan.only_each (fun _ => ⟨fun _ => EffsIn.one (by simp [Eff.field, layoutFields])⟩)).effs s⟩ (Plan.only_seq_cons restoreLayout_only Plan.only_seq_nil))))

theorem pfResetDone_run (s : State) :
    pfResetDone.run s = signalAll.run (pfResetFuncs.run (pfResetLayout.run (pfResetTables.run ((pfResetContexts (s.recorder.freezes.map (·.1))).run s)))) := by
  have hplan : pfResetDone s = Plan.seq [Plan.each (s.recorder.freezes.map (·.1)) thaw, Plan.each (List.range 8) closeContexts,
      (fun _ => [.streamsClear 0 allKeys, .intakesClear 0 allKeys, .regGroupsClear 0 allKeys, .outRingsClear 0 allKeys, .tracksClear 0 allKeys]), pfResetTables, resetPfRegs,
      Plan.act (.partsClear 0 allKeys), Plan.act (.parts 0 Part.factory0),
      (fun s => Plan.each (List.range 8) (fun p => fun s => [.parts p { s.part p with waitLimit := s.profReg 0x2110 0x3E8 % 2 ^ 16 }]) s), restoreLayout, pfResetFuncs, signalAll] s := rfl
  rw [Plan.run_congr hplan, pfResetLayout, pfResetContexts]
  simp only [Plan.run_seq_cons, Plan.run_seq_nil]

theorem exec_pfResetComplete {s : State} (hs : s.Wf) (hserves : s.svc.halted = false) (hflr : (s.func 0).flr = true) :
    ∃ t, exec (.functionResetComplete 0) s = .next t ∧ (∀ fn < 9, t.func fn = {}) ∧ (∀ q < 4096, t.queue q = {} ∧ Tab.get {} t.slots q = {} ∧ Tab.get {} t.sems q = {}) ∧
      t.pcie.vfEnable = false ∧ t.ruling = { maxUs := s.ruling.maxUs } := by
  have hplan : functionResetComplete 0 s = pfResetDone s := by
    unfold functionResetComplete
    rw [if_neg (by simp [hflr]), if_pos rfl]
  refine ⟨_, Plan.done_of_eq hserves hplan, ?_⟩
  have hs1 := Plan.run_wf hs (pfResetContexts (s.recorder.freezes.map (·.1)))
  have hruling : ((pfResetContexts (s.recorder.freezes.map (·.1))).run s).ruling = s.ruling :=
    (MemSafe.of_only (I := fun t => t.ruling = s.ruling) (fun p hp t _ h => (hp.same t (f := .ruling) (by decide)).trans h)).pfResetContexts _ s hs rfl
  rw [pfResetDone_run]
  generalize (pfResetContexts (s.recorder.freezes.map (·.1))).run s = u at hs1 hruling
  obtain ⟨hqueues, hslots, hsems, hpcie, hrul⟩ := pfResetTables_clears u
  have hs2 := Plan.run_wf hs1 pfResetTables
  generalize pfResetTables.run u = v at hs2 hqueues hslots hsems hpcie hrul
  have hs3 := Plan.run_wf hs2 pfResetLayout
  have hframe : v.SameBut layoutFields (signalAll.run (pfResetFuncs.run (pfResetLayout.run v))) :=
    (pfResetLayout_only.sameBut v).trans ((pfResetFuncs_only.sameBut _).trans ((signalAll_only.sameBut _).mono (by decide)))
  have hfunc : ∀ fn < 9, (signalAll.run (pfResetFuncs.run (pfResetLayout.run v))).func fn = {} := fun fn hfn => by
    rw [signalAll_only.func_eq _ (by decide), pfResetFuncs_func hs3 hfn]
  generalize signalAll.run (pfResetFuncs.run (pfResetLayout.run v)) = t at hframe hfunc
  have hclear : ∀ {α : Type} {d : α} (m : Tab α) (q : Nat), q < 4096 → Tab.get d (Tab.clear m 0 allKeys) q = d := fun m q hq => by
    rw [Tab.get_clear, if_pos (by unfold allKeys; omega)]
  refine ⟨hfunc, fun q hq => ⟨?_, ?_, ?_⟩, ?_, ?_⟩
  · have : t.queues = v.queues := hframe.2 .queues (by decide)
    rw [State.queue, this, hqueues, hclear _ _ hq]
  · have : t.slots = v.slots := hframe.2 .slots (by decide)
    rw [this, hslots, hclear _ _ hq]
  · have : t.sems = v.sems := hframe.2 .sems (by decide)
    rw [this, hsems, hclear _ _ hq]
  · have : t.pcie = v.pcie := hframe.2 .pcie (by decide)
    rw [this, hpcie]
  · have : t.ruling = v.ruling := hframe.2 .ruling (by decide)
    rw [this, hrul, hruling]

end Sys2Proof.Machine
end

section
/-! The initialisation of the units and the return of service after a reset of the PF (R31, R153, R333, R351). -/
namespace Sys2Proof.Machine

/-! ## The parts of the initialisation -/

theorem skipEntry_only (off : Nat) : Plan.Only [.svc, .regs, .vecs, .recorder] (skipEntry off) :=
  ⟨fun s => (Plan.only_seq_cons (Plan.only_act (by simp [Eff.field])) (Plan.only_seq_cons ((raiseErr_only ..).mono (by decide))
    (Plan.only_seq_cons ((event_only _).mono (by decide)) Plan.only_seq_nil))).effs s⟩

theorem startRebuild_only (pool part : Nat) : Plan.Only [.pools] (startRebuild pool part) := by
  refine ⟨fun s => ?_⟩
  simp only [startRebuild]
  split
  · exact EffsIn.one (by simp [Eff.field])
  · exact EffsIn.nil

theorem enablePool_only (n : Nat) : Plan.Only [.pools] (enablePool n) :=
  ⟨fun s => (Plan.only_andThen (Plan.only_act (by simp [Eff.field])) (Plan.only_each (fun p => startRebuild_only n p))).effs s⟩

theorem initCluster_only (n : Nat) : Plan.Only [.clusters, .regs] (initCluster n) :=
  ⟨fun s => (Plan.only_andThen (Plan.only_act (by simp [Eff.field])) ((setReg_only ..).mono (by decide))).effs s⟩

theorem initSegment_only (n : Nat) : Plan.Only [.segs] (initSegment n) := ⟨fun _ => EffsIn.one (by simp [Eff.field])⟩

section
variable {I : State → Prop} (h : MemSafe I)
include h

theorem MemSafe.writeBackAll (n : Nat) : Plan.Preserves I (writeBackAll n) := fun s hs hI => Plan.preserves_each (fun key => h.writeBack key) _ s hs hI

theorem MemSafe.buildList (pool part : Nat) : Plan.Preserves I (buildList pool part) := by
  intro s hs hI
  rw [Plan.run_def]
  simp only [Sys2Proof.Machine.buildList]
  refine Plan.preserves_andThen (Plan.preserves_seq (fun p hp => ?_)) (h.modSlice _ _ _) s hs hI
  obtain ⟨k, hk, rfl⟩ := List.mem_mapIdx.mp hp
  exact h.unitStore _ _ _

theorem MemSafe.rebuildDone (pool part : Nat) : Plan.Preserves I (rebuildDone pool part) := by
  intro s hs hI
  rw [Plan.run_def]
  simp only [Sys2Proof.Machine.rebuildDone]
  split
  · exact h.buildList pool part s hs hI
  · exact hI

theorem MemSafe.initPool (hskip : ∀ off, Plan.Preserves I (skipEntry off)) (e : Nat × Nat × List Byte) : Plan.Preserves I (initPool e) := by
  intro s hs hI
  have hset : ∀ off v, Plan.Preserves I (setReg 0 pgPOL off v) := fun off v => h.plain (setReg_only ..) (by decide)
  rw [Plan.run_def]
  simp only [Sys2Proof.Machine.initPool]
  split
  · refine Plan.preserves_andThen (h.act (by simp [Eff.field, plainFields])) (fun u hu hIu => ?_) s hs hI
    rw [Plan.run_def]
    split
    · exact hskip _ u hu hIu
    · exact Plan.preserves_andThen (h.plain (enablePool_only _) (by decide)) (Plan.preserves_each (h.rebuildDone _) _) u hu hIu
  · split
    · exact hskip _ s hs hI
    · exact Plan.preserves_andThen (hset _ _) (hset _ _) s hs hI
  · exact hI

end

/-- What the initialisation clears at once: modes, caches, plate and local memory, and the pools. -/
def initClear : Plan := fun s =>
  [.modeUnitsClear 0 allKeys, .linesClear 0 allKeys, .plruClear 0 allKeys, .claimsClear 0 allKeys, .retries [], .maskTagsClear 0 allKeys,
    .zero plateBase (32 * segSize), .badWordsClear 0 allKeys, .localMemClear 0 allKeys, .poolsClear 0 allKeys, .refsClear 0 allKeys, .polWaitsClear 0 allKeys] ++
    (if s.gddr.frozen then [] else [Eff.zero s.tableBase 0x8000000, .poisonedClear (s.tableBase / 64) 0x200000])

theorem initClear_only : Plan.Only ([.modeUnits, .retries, .maskTags, .polWaits] ++ plainFields) initClear := by
  refine ⟨fun s => EffsIn.append (fun e he => ?_) ?_⟩
  · simp only [List.mem_cons, List.not_mem_nil, or_false] at he
    rcases he with rfl | rfl | rfl | rfl | rfl | rfl | rfl | rfl | rfl | rfl | rfl | rfl
    all_goals simp [Eff.field, plainFields]
  · split
    · exact EffsIn.nil
    · exact EffsIn.cons (by simp [Eff.field, plainFields]) (EffsIn.one (by simp [Eff.field, plainFields]))

/-- The units after the initialisation: clusters, segments, and the pools that the profile lays out. -/
def initUnits (frozen : Bool) (entries : List (Nat × Nat × List Byte)) : Plan :=
  Plan.seq [Plan.each (List.range 16) initCluster, Plan.each (List.range 32) initSegment, Plan.when (!frozen) (Plan.each entries initPool)]

theorem unitInit_run (s : State) :
    unitInit.run s = (initUnits s.gddr.frozen s.svc.entries).run (initClear.run ((Plan.when (!s.gddr.frozen) (Plan.each s.cacheSegs writeBackAll)).run s)) := by
  have hplan : unitInit s = Plan.seq [Plan.when (!s.gddr.frozen) (Plan.each s.cacheSegs writeBackAll), initClear, Plan.each (List.range 16) initCluster,
      Plan.each (List.range 32) initSegment, Plan.when (!s.gddr.frozen) (Plan.each s.svc.entries initPool)] s := by
    unfold unitInit initClear
    rfl
  rw [Plan.run_congr hplan, initUnits, Plan.run_seq_cons, Plan.run_seq_cons, Plan.run_seq_cons, Plan.run_seq_cons, Plan.run_seq_cons, Plan.run_seq_nil]

theorem MemSafe.initUnits {I : State → Prop} (h : MemSafe I) (hskip : ∀ off, Plan.Preserves I (skipEntry off)) (frozen : Bool) (entries : List (Nat × Nat × List Byte)) :
    Plan.Preserves I (initUnits frozen entries) :=
  Plan.preserves_seq_cons (Plan.preserves_each (fun n => h.plain (initCluster_only n) (by decide)) _) (Plan.preserves_seq_cons (Plan.preserves_each (fun n => h.plain (initSegment_only n) (by decide)) _)
    (Plan.preserves_seq_cons (Plan.preserves_when (Plan.preserves_each (h.initPool hskip) _)) Plan.preserves_seq_nil))

theorem MemSafe.unitInit {I : State → Prop} (h : MemSafe I) (hskip : ∀ off, Plan.Preserves I (skipEntry off)) (hclear : Plan.Preserves I initClear) : Plan.Preserves I unitInit := by
  intro s hs hI
  rw [unitInit_run]
  have hs1 := Plan.run_wf hs (Plan.when (!s.gddr.frozen) (Plan.each s.cacheSegs Sys2Proof.Machine.writeBackAll))
  exact h.initUnits hskip _ _ _ (Plan.run_wf hs1 _) (hclear _ hs1 (Plan.preserves_when (Plan.preserves_each h.writeBackAll _) s hs hI))

/-- The initialisation skips entries of the profile, and leaves where service stands and the GDDR6 controllers (R351). -/
theorem unitInit_keepsService (n : Nat) (g : Gddr) : Plan.Preserves (fun s => s.svc.stage = n ∧ s.gddr = g) unitInit := by
  have hframe : ∀ {F : List Field}, Field.svc ∉ F → Field.gddr ∉ F → ∀ p, Plan.Only F p → Plan.Preserves (fun s => s.svc.stage = n ∧ s.gddr = g) p :=
    fun hv hg p hp s _ h => ⟨(congrArg Svc.stage (hp.svc_eq s hv)).trans h.1, (hp.same s (f := .gddr) hg).trans h.2⟩
  refine (MemSafe.of_only (hframe (by decide) (by decide))).unitInit (fun off s hs hI => ?_) (hframe (by decide) (by decide) _ initClear_only)
  rw [Plan.run_def]
  simp only [skipEntry]
  rw [← Plan.run_def, Plan.run_seq_cons]
  exact Plan.preserves_seq_cons (hframe (by decide) (by decide) _ (raiseErr_only ..)) (Plan.preserves_seq_cons (hframe (by decide) (by decide) _ (event_only _)) Plan.preserves_seq_nil)
    _ (Plan.run_wf hs _) hI

theorem unitInit_keepsTame : Plan.Preserves Tame unitInit :=
  memSafe_tame.unitInit (fun off => (skipEntry_only off).keepsTame (by decide)) (initClear_only.keepsTame (by decide))

/-! ## Every mode is 0 -/

/-- Every unit has the default mode, and no change takes it in (R31, R56). -/
def AllDefault (s : State) : Prop := ∀ pg < 256, s.modeUnit pg = {}

theorem Plan.Only.keepsDefault {F : List Field} {p : Plan} (h : Plan.Only F p) (hm : Field.modeUnits ∉ F) : Plan.Preserves AllDefault p := fun s _ hd pg hpg => by
  have hunits : (p.run s).modeUnits = s.modeUnits := h.same s hm
  unfold State.modeUnit
  rw [hunits]
  exact hd pg hpg

theorem initClear_modeUnits (s : State) : (initClear.run s).modeUnits = Tab.clear s.modeUnits 0 allKeys := by
  simp only [Plan.run_def, initClear]
  split
  · simp only [List.append_nil, State.applyAll_cons, State.applyAll_nil, State.apply_modeUnits]
  · simp only [List.cons_append, List.nil_append, State.applyAll_cons, State.applyAll_nil, State.apply_modeUnits]

theorem initClear_default (s : State) : AllDefault (initClear.run s) := fun pg hpg => by
  unfold State.modeUnit
  rw [initClear_modeUnits, Tab.get_clear, if_pos (by unfold allKeys; omega)]

theorem unitInit_default {s : State} (hs : s.Wf) : AllDefault (unitInit.run s) := by
  rw [unitInit_run]
  exact (MemSafe.of_only (fun _ hp => hp.keepsDefault (by decide))).initUnits (fun off => (skipEntry_only off).keepsDefault (by decide)) _ _ _
    (Plan.run_wf (Plan.run_wf hs _) _) (initClear_default _)

/-- No pending change takes in a unit of default mode. -/
theorem takenIn_above {s : State} (hs : s.Wf) (hd : AllDefault s) {fn page : Nat} (hmem : page ∈ s.takenIn fn) : 256 ≤ page := by
  obtain ⟨⟨k, m⟩, hfilter, rfl⟩ := List.mem_map.mp hmem
  obtain ⟨he, hpending⟩ := List.mem_filter.mp hfilter
  refine Nat.le_of_not_lt (fun hlt => ?_)
  have hget : s.modeUnit k = m := Tab.get_of_mem (Bool.and_eq_true_iff.mp hs.modeUnits).1 he
  have hzero : m = {} := hget.symm.trans (hd k hlt)
  rw [hzero] at hpending
  exact absurd hpending (by simp)

theorem rollbackCache_only (page : Nat) (m : ModeUnit) : Plan.Only [.lines, .plru, .maskTags] (match modePage page with
      | some (1, n) => Plan.when (m.applied && m.current != m.old) (coldCache n)
      | some (5, _) => Plan.when (m.applied && bit m.current 1 && !bit m.old 1) emptyMasks
      | _ => Plan.skip) := by
  split
  · exact Plan.only_when ⟨fun _ => EffsIn.cons (by simp [Eff.field]) (EffsIn.one (by simp [Eff.field]))⟩
  · exact Plan.only_when ⟨fun _ => EffsIn.map (fun _ => by simp [Eff.field])⟩
  · exact Plan.only_skip

theorem rollbackUnit_keepsDefault {page : Nat} (hpage : 256 ≤ page) : Plan.Preserves AllDefault (rollbackUnit page) := by
  intro s hs hd
  rw [Plan.run_def]
  simp only [rollbackUnit]
  refine Plan.preserves_andThen ((rollbackCache_only page _).keepsDefault (by decide)) (fun u hu hdu pg hpg => ?_) s hs hd
  exact (Tab.get_put hu.modeUnits ..).trans ((if_neg (by omega)).trans (hdu pg hpg))

theorem survives_default : Survives triggerFields AllDefault := Survives.of_only (fun _ hp => hp.keepsDefault (by decide))

theorem rollbackThen_keepsDefault (fn : Nat) (quiet : Bool) : Plan.Preserves AllDefault (rollbackThen settle fn quiet) := by
  intro s hs hd
  rw [Plan.run_def]
  simp only [rollbackThen]
  split
  · exact hd
  · refine Plan.preserves_seq_cons (Plan.preserves_seq (fun p hp => ?_)) (Plan.preserves_seq_cons (Plan.Only.keepsDefault (F := [.modeChanges]) ⟨fun _ => EffsIn.one (by simp [Eff.field])⟩ (by decide))
      (Plan.preserves_seq_cons ?_ (Plan.preserves_seq_cons (Plan.preserves_when ((sendVec_only ..).keepsDefault (by decide)))
        (Plan.preserves_seq_cons survives_default.settle Plan.preserves_seq_nil)))) s hs hd
    · obtain ⟨page, hpage, rfl⟩ := List.mem_map.mp hp
      exact rollbackUnit_keepsDefault (takenIn_above hs hd hpage)
    · split
      · intro u hu hdu
        rw [Plan.run_def]
        split
        · exact Plan.preserves_andThen (survives_default.mark _) (survives_default.kill _ _) u hu hdu
        · exact hdu
      · exact Plan.preserves_skip

/-! ## Service -/

theorem Survives.retirePosition {I : State → Prop} (h : Survives triggerFields I) (hroll : ∀ fn, Plan.Preserves I (Sys2Proof.Machine.rollbackThen Sys2Proof.Machine.settle fn false))
    (hrelease : ∀ id, Plan.Preserves I (releaseKilled id)) (hdown : ∀ fn, Plan.Preserves I (fun s => [.funcs fn { s.func fn with ready := false }])) (p cause : Nat) :
    Plan.Preserves I (retirePosition p cause) := by
  intro s hs hI
  rw [Plan.run_def]
  simp only [Sys2Proof.Machine.retirePosition]
  split
  · exact hI
  · split
    · exact h.freeze hroll hrelease hdown _ _ _ s hs hI
    · refine Plan.preserves_andThen (h.frame _ (startMigration_only _ _)) (h.frame _ ⟨fun u => ?_⟩) s hs hI
      split
      · exact EffsIn.one (by simp [Eff.field, triggerFields])
      · exact EffsIn.nil

/-- The controller's state once service is ready (R333, R346). -/
def Svc.served (v : Svc) : Svc :=
  { v with initialising := false, stage := if v.stage = 1 then 2 else v.stage, minSvn := if v.stage = 1 ∧ v.fwRaise then max v.minSvn v.svn else v.minSvn }

/-- What follows SERVICE_READY: a position that must retire again, and the next trigger. -/
def serviceTriggers (g : Gddr) : Plan :=
  Plan.seq [signalAll, Plan.when (g.again != 0) (Plan.andThen (fun s => [.gddr { s.gddr with again := 0 }]) (retirePosition (g.again - 1) 3)), nextTrigger]

theorem serviceReady_frozen {s : State} (h : s.gddr.frozen = true) : serviceReady.run s = { s with svc := { s.svc with initialising := false } } := by
  rw [Plan.run_def]
  unfold serviceReady
  rw [if_pos h]
  rfl

/-- SERVICE_READY and the functions in service. -/
def serviceUp (v : Svc) : Plan := Plan.seq [Plan.act (.svc v.served), Plan.each (List.range 9) (fun fn => fun s => [.funcs fn { s.func fn with ready := true }])]

theorem serviceReady_run {s : State} (h : s.gddr.frozen = false) : serviceReady.run s = (serviceTriggers s.gddr).run ((serviceUp s.svc).run s) := by
  have hplan : serviceReady s = Plan.seq [Plan.act (.svc s.svc.served), Plan.each (List.range 9) (fun fn => fun s => [.funcs fn { s.func fn with ready := true }]), signalAll,
      Plan.when (s.gddr.again != 0) (Plan.andThen (fun s => [.gddr { s.gddr with again := 0 }]) (retirePosition (s.gddr.again - 1) 3)), nextTrigger] s := by
    unfold serviceReady
    rw [if_neg (by rw [h]; exact Bool.false_ne_true)]
    rfl
  rw [Plan.run_congr hplan, serviceTriggers, serviceUp]
  simp only [Plan.run_seq_cons, Plan.run_seq_nil]

theorem serviceUp_only (v : Svc) : Plan.Only [.svc, .funcs] (serviceUp v) :=
  Plan.only_seq_cons (Plan.only_act (by simp [Eff.field])) (Plan.only_seq_cons ((each_func_only _ _).mono (by decide)) Plan.only_seq_nil)

theorem serviceUp_func {s : State} (hs : s.Wf) (v : Svc) {fn : Nat} (hfn : fn < 9) : ((serviceUp v).run s).func fn = { s.func fn with ready := true } := by
  rw [serviceUp, Plan.run_seq_cons, Plan.run_seq_cons, Plan.run_seq_nil]
  exact each_func_range (fun x => { x with ready := true }) (Plan.run_wf hs _) hfn

theorem serviceUp_svc (v : Svc) (s : State) : ((serviceUp v).run s).svc = v.served := by
  rw [serviceUp, Plan.run_seq_cons, Plan.run_seq_cons, Plan.run_seq_nil]
  exact (each_func_only _ _).svc_eq _ (by decide)

theorem Survives.serviceTriggers {I : State → Prop} (h : Survives triggerFields I) (hroll : ∀ fn, Plan.Preserves I (Sys2Proof.Machine.rollbackThen Sys2Proof.Machine.settle fn false))
    (hrelease : ∀ id, Plan.Preserves I (releaseKilled id)) (hdown : ∀ fn, Plan.Preserves I (fun s => [.funcs fn { s.func fn with ready := false }])) (g : Gddr) :
    Plan.Preserves I (serviceTriggers g) :=
  Plan.preserves_seq_cons (h.frame _ (signalAll_only.mono (by decide)))
    (Plan.preserves_seq_cons (Plan.preserves_when (Plan.preserves_andThen (h.frame _ ⟨fun _ => EffsIn.one (by simp [Eff.field, triggerFields])⟩) (h.retirePosition hroll hrelease hdown _ _)))
      (Plan.preserves_seq_cons (h.nextTrigger hroll hrelease hdown) Plan.preserves_seq_nil))

theorem serviceTriggers_keepsDefault (g : Gddr) : Plan.Preserves AllDefault (serviceTriggers g) :=
  survives_default.serviceTriggers (fun fn => rollbackThen_keepsDefault fn false) (fun id => (releaseKilled_only id).keepsDefault (by decide))
    (fun _ => Plan.Only.keepsDefault (F := [.funcs]) ⟨fun _ => EffsIn.one (by simp [Eff.field])⟩ (by decide)) g

theorem serviceTriggers_keepsSvc (v : Svc) (g : Gddr) : Plan.Preserves (fun s => s.svc = v) (serviceTriggers g) := by
  have hframe : ∀ {F : List Field}, Field.svc ∉ F → ∀ p, Plan.Only F p → Plan.Preserves (fun s => s.svc = v) p := fun hv p hp s _ h => (hp.svc_eq s hv).trans h
  have h : Survives (triggerFields ++ changeFields) (fun s => s.svc = v) := Survives.of_only (hframe (by decide))
  have hchange : Survives changeFields (fun s => s.svc = v) := h.mono (List.subset_append_right _ _)
  exact (h.mono (List.subset_append_left _ _)).serviceTriggers (fun fn => hchange.rollbackThen h.settle fn false) (fun id => hframe (by decide) _ (releaseKilled_only id))
    (fun _ => hframe (F := [.funcs]) (by decide) _ ⟨fun _ => EffsIn.one (by simp [Eff.field])⟩) g

/-- From a tame queue, and with no position to retire again, what follows SERVICE_READY leaves the functions in service. -/
theorem serviceTriggers_tame {s : State} (hs : s.Wf) {g : Gddr} (hagain : g.again = 0) (ht : Tame s) : s.SameBut [.reserve, .vecs] ((serviceTriggers g).run s) := by
  have hwhen : (Plan.when (g.again != 0) (Plan.andThen (fun s => [.gddr { s.gddr with again := 0 }]) (retirePosition (g.again - 1) 3))) = Plan.skip := by
    rw [hagain]
    rfl
  rw [serviceTriggers, hwhen, Plan.run_seq_cons, Plan.run_seq_cons, Plan.run_seq_cons, Plan.run_seq_nil]
  have ht1 : Tame (signalAll.run s) := signalAll_only.keepsTame (by decide) s hs ht
  exact ((signalAll_only.sameBut s).mono (by decide)).trans ((nextTrigger_tame ht1).2.mono (by decide))

theorem exec_pfUnitInitDone {s : State} (hs : s.Wf) (hserves : s.svc.halted = false) (hinit : s.svc.initialising = true) (hstage : s.svc.stage = 2) (hflr : (s.func 0).flr = false)
    (hd3 : (s.func 0).d3hot = false) (htest : s.selfTestPends = false) :
    ∃ t, exec .pfUnitInitDone s = .next t ∧ t.svc.initialising = false ∧ t.svc.stage = 2 ∧ (∀ pg < 256, t.mode pg = 0) ∧
      (s.gddr.frozen = false → s.gddr.again = 0 → s.reserve.queue = [] → ∀ fn < 9, (t.func fn).ready = true) := by
  have hplan : pfUnitInitDone s = Plan.andThen unitInit serviceReady s := by
    unfold pfUnitInitDone
    rw [if_pos (by simp [hinit, hstage, hflr, hd3, htest])]
  refine ⟨_, Plan.done_of_eq hserves hplan, ?_⟩
  have hs1 := Plan.run_wf hs unitInit
  obtain ⟨hstage1, hgddr⟩ := unitInit_keepsService 2 s.gddr s hs ⟨hstage, rfl⟩
  have hdefault := unitInit_default hs
  have htame : s.reserve.queue = [] → Tame (unitInit.run s) := fun hq => unitInit_keepsTame s hs ⟨by rw [hq]; exact fun _ h => absurd h List.not_mem_nil⟩
  have hmode : ∀ {t : State}, AllDefault t → ∀ pg < 256, t.mode pg = 0 := fun hd pg hpg => congrArg ModeUnit.current (hd pg hpg)
  rw [Plan.run_andThen]
  generalize unitInit.run s = u at hs1 hstage1 hgddr hdefault htame
  cases hfrozen : s.gddr.frozen with
  | true =>
    rw [serviceReady_frozen (by rw [hgddr]; exact hfrozen)]
    exact ⟨rfl, hstage1, hmode hdefault, fun h => absurd h (by decide)⟩
  | false =>
    rw [serviceReady_run (by rw [hgddr]; exact hfrozen)]
    have hs2 := Plan.run_wf hs1 (serviceUp u.svc)
    have hup := serviceUp_only u.svc
    have hsvc : ((serviceTriggers u.gddr).run ((serviceUp u.svc).run u)).svc = u.svc.served := serviceTriggers_keepsSvc _ _ _ hs2 (serviceUp_svc _ u)
    refine ⟨by rw [hsvc]; rfl, ?_, hmode (serviceTriggers_keepsDefault _ _ hs2 (hup.keepsDefault (by decide) u hs1 hdefault)), fun _ hagain hq fn hfn => ?_⟩
    · rw [hsvc, Svc.served, hstage1]
      rfl
    · have hframe := serviceTriggers_tame hs2 (g := u.gddr) (by rw [hgddr]; exact hagain) (hup.keepsTame (by decide) u hs1 (htame hq))
      have hfuncs : ((serviceTriggers u.gddr).run ((serviceUp u.svc).run u)).funcs = ((serviceUp u.svc).run u).funcs := hframe.2 .funcs (by decide)
      unfold State.func
      rw [hfuncs]
      exact congrArg Func.ready (serviceUp_func hs1 u.svc hfn)

/-- Settles O22: a reset of a VF or of the PF rests on what closing contexts leaves standing, the initialisation of the units on what survives memory accesses, and service on
the triggers that may begin then. -/
theorem functionResetsEnd : Obligations.FunctionResetsEnd := by
  unfold Obligations.FunctionResetsEnd
  exact ⟨fun _ _ hs hserves h1 h8 hflr hpf => exec_vfResetComplete hs hserves h1 h8 hflr hpf, fun _ hs hserves hflr => exec_pfResetComplete hs hserves hflr,
    fun _ hs hserves hinit hstage hflr hd3 htest => exec_pfUnitInitDone hs hserves hinit hstage hflr hd3 htest⟩

end Sys2Proof.Machine
end

section
/-! Job packets that complete without a run, and those that go on to the window (R19-R22, R28, R276). -/
namespace Sys2Proof.Machine

/-! ## What accesses to GDDR6 leave of the count of violations -/

/-- A plan leaves the count of violations of a function as it is (R32). -/
abbrev Plan.KeepsCount (fn : Nat) (p : Plan) : Prop := Plan.KeepsReg (regKey fn pgHIF 0x118) p

section
variable (fn : Nat)

theorem setReg_keepsCount (k page v : Nat) {off : Nat} (h : off % 0x1000 ≠ 0x118) : Plan.KeepsCount fn (setReg k page off v) :=
  setReg_keepsReg (by unfold regKey pgHIF; omega) v

theorem bump_keepsCount (page n : Nat) {off : Nat} (h : off % 0x1000 ≠ 0x118) : Plan.KeepsCount fn (bump page off n) := fun s => setReg_keepsCount fn 0 page _ h s

theorem bumpField_keepsCount (page hi lo n : Nat) {off : Nat} (h : off % 0x1000 ≠ 0x118) : Plan.KeepsCount fn (bumpField page off hi lo n) := fun s =>
  setReg_keepsCount fn 0 page _ h s

/-- The counters of a segment stand on no page of a host interface. -/
theorem bumpSegment_keepsCount {seg : Nat} (hseg : seg < 32) (off n : Nat) (hoff : off < 0x1000) : Plan.KeepsCount fn (bumpWrap (pgPS seg) off n) := fun s =>
  setReg_keepsReg (k := regKey fn pgHIF 0x118) (by unfold regKey pgHIF pgPS; omega) _ s

theorem raiseErr_keepsCount (page b : Nat) (cap : List Nat) (m : Nat) : Plan.KeepsCount fn (raiseErr page b cap m) :=
  raiseErr_keepsReg (fun _ _ _ => by unfold regKey pgHIF; omega) b cap m

theorem event_keepsCount (a : EvArgs) : Plan.KeepsCount fn (event a) := event_keepsReg (notEvt_hif fn 0x118 (by decide)) a

theorem poisonRead_keepsCount (w : MemWho) (a : Nat) : Plan.KeepsCount fn (poisonRead w a) := by
  intro s hs
  rw [Plan.run_def]
  simp only [poisonRead]
  exact Plan.keeps_andThen (P := fun s => Tab.get (0 : Word) s.regs (regKey fn pgHIF 0x118)) (bumpField_keepsCount fn _ _ _ _ (by decide)) (raiseErr_keepsCount fn _ _ _ _) s hs

theorem noteForeign_keepsCount (page : Nat) : Plan.KeepsCount fn (noteForeign page) := by
  unfold noteForeign
  split
  · exact Plan.keeps_andThen (bump_keepsCount fn _ _ (by decide)) (raiseErr_keepsCount fn _ _ _ _)
  · exact raiseErr_keepsCount fn _ _ _ _

theorem memRequests_keepsCount (src : MemSrc) (write : Bool) (a n : Nat) : Plan.KeepsCount fn (memRequests src write a n) := (memRequests_only ..).keepsReg (by decide) _

theorem noteMetric_keepsCount (kind metric n : Nat) {p : Plan} (hp : Plan.KeepsCount fn p) : Plan.KeepsCount fn (noteMetric kind metric n p) := by
  intro s hs
  rw [Plan.run_def]
  simp only [noteMetric]
  split
  · rfl
  · split
    · rfl
    · split
      · exact Plan.keeps_andThen (P := fun s => Tab.get (0 : Word) s.regs (regKey fn pgHIF 0x118)) (Plan.Only.keepsReg (F := [.reserve]) (Plan.only_act (by simp [Eff.field])) (by decide) _) hp s hs
      · rfl

theorem lineDetect_keepsCount (source k stroke part : Nat) (charged : Bool) (x : Nat × Nat × Bool) : Plan.KeepsCount fn (lineDetect source k stroke part charged x) := by
  intro s hs
  rw [Plan.run_def]
  simp only [lineDetect, plateDetect]
  refine Plan.keeps_seq_cons (P := fun s => Tab.get (0 : Word) s.regs (regKey fn pgHIF 0x118)) ?_ (Plan.keeps_seq_cons (bump_keepsCount fn _ _ (by decide))
    (Plan.keeps_seq_cons (raiseErr_keepsCount fn _ _ _ _) (Plan.keeps_seq_cons (event_keepsCount fn _)
      (Plan.keeps_seq_cons (noteMetric_keepsCount fn _ _ _ ((queueSegment_reserve _).keepsReg (by decide) _)) Plan.keeps_seq_nil)))) s hs
  split
  · exact bumpField_keepsCount fn _ _ _ _ (by decide)
  · exact bumpField_keepsCount fn _ _ _ _ (by decide)

theorem goodWords_badWords (key o n : Nat) : Plan.Only [.badWords] (goodWords key o n) := by
  refine ⟨fun s => ?_⟩
  simp only [goodWords]
  split
  · exact EffsIn.nil
  · exact EffsIn.one (by simp [Eff.field])

theorem writeBack_keepsCount (key : Nat) : Plan.KeepsCount fn (writeBack key) := by
  intro s hs
  rw [Plan.run_def]
  simp only [writeBack]
  split
  · refine Plan.keeps_seq_cons (P := fun s => Tab.get (0 : Word) s.regs (regKey fn pgHIF 0x118)) (Plan.keeps_each (fun x => lineDetect_keepsCount fn _ _ _ _ _ x))
      (Plan.keeps_seq_cons ((debitLine_parts _).keepsReg (by decide) _) (Plan.keeps_seq_cons (memRequests_keepsCount fn _ _ _ _)
        (Plan.keeps_seq_cons (Plan.Only.keepsReg (F := [.mem, .poisoned, .lines]) ?_ (by decide) _) Plan.keeps_seq_nil))) s hs
    exact ⟨fun _ => EffsIn.cons (by simp [Eff.field]) (EffsIn.cons (by simp [Eff.field]) (EffsIn.cons (by simp [Eff.field]) (EffsIn.one (by simp [Eff.field]))))⟩
  · rfl

theorem bringLine_keepsCount {seg : Nat} (hseg : seg < 32) (a : Nat) (whole : Bool) : Plan.KeepsCount fn (bringLine seg a whole) := by
  intro s hs
  have htouch : ∀ k v, Plan.KeepsCount fn (Plan.act (.plru k v)) := fun k v => Plan.Only.keepsReg (F := [.plru]) (Plan.only_act (by simp [Eff.field])) (by decide) _
  rw [Plan.run_def]
  simp only [bringLine]
  split
  · exact Plan.keeps_andThen (P := fun s => Tab.get (0 : Word) s.regs (regKey fn pgHIF 0x118)) (bumpSegment_keepsCount fn hseg _ _ (by decide)) (htouch _ _) s hs
  · exact Plan.keeps_seq_cons (P := fun s => Tab.get (0 : Word) s.regs (regKey fn pgHIF 0x118)) (bumpSegment_keepsCount fn hseg _ _ (by decide)) (Plan.keeps_seq_cons (writeBack_keepsCount fn _)
      (Plan.keeps_seq_cons (Plan.keeps_when (Plan.keeps_andThen ((debitLine_parts _).keepsReg (by decide) _) (memRequests_keepsCount fn _ _ _ _)))
        (Plan.keeps_seq_cons ((goodWords_badWords ..).keepsReg (by decide) _)
          (Plan.keeps_seq_cons (Plan.Only.keepsReg (F := [.lines]) ⟨fun _ => EffsIn.one (by simp [Eff.field])⟩ (by decide) _)
            (Plan.keeps_seq_cons (htouch _ _) Plan.keeps_seq_nil))))) s hs

theorem writeLine_keepsCount {seg : Nat} (hseg : seg < 32) (a job : Nat) (bs : List Byte) : Plan.KeepsCount fn (writeLine seg a job bs) := by
  simp only [writeLine]
  refine Plan.keeps_andThen (bringLine_keepsCount fn hseg _ _) (fun s hs => ?_)
  rw [Plan.run_def]
  split
  · rfl
  · exact Plan.keeps_seq_cons (P := fun s => Tab.get (0 : Word) s.regs (regKey fn pgHIF 0x118)) (Plan.keeps_when (writeBack_keepsCount fn _))
      (Plan.keeps_seq_cons ((goodWords_badWords ..).keepsReg (by decide) _)
        (Plan.keeps_seq_cons (Plan.Only.keepsReg (F := [.lines]) ⟨fun _ => EffsIn.one (by simp [Eff.field])⟩ (by decide) _) Plan.keeps_seq_nil)) s hs

/-- The segment that serves an address is one of the 32 (R144). -/
theorem cacheOf_lt {s : State} {a n : Nat} (h : s.cacheOf a = some n) : n < 32 := by
  obtain ⟨e, hfilter, rfl⟩ := List.mem_map.mp (List.mem_of_find?_eq_some h)
  have hrange := (List.mem_filter.mp hfilter).2
  simp only [Bool.and_eq_true, decide_eq_true_eq] at hrange
  obtain ⟨⟨-, hlast⟩, -⟩ := hrange
  unfold pgPS at hlast ⊢
  omega

theorem gddrStore_keepsCount (job a : Nat) (bs : List Byte) : Plan.KeepsCount fn (gddrStore job a bs) := by
  intro s hs
  rw [Plan.run_def]
  simp only [gddrStore]
  split
  · rfl
  · refine Plan.keeps_each (P := fun s => Tab.get (0 : Word) s.regs (regKey fn pgHIF 0x118)) (fun p u hu => ?_) s hs
    rw [Plan.run_def]
    split
    next n hn => exact writeLine_keepsCount fn (cacheOf_lt hn) _ _ _ u hu
    next hnone =>
      refine Plan.Only.keepsReg (F := [.mem, .poisoned]) (p := fun _ => _ :: List.filterMap (fun q : Nat × List Byte => if q.2.length = 64 then some (.poisoned (q.1 / 64) false) else none) _)
        ⟨fun _ => EffsIn.cons ?_ (EffsIn.filterMap (fun q e hmem => ?_))⟩ (by decide) _ u hu
      · simp [Eff.field]
      · split at hmem
        · obtain rfl := Option.some.inj hmem
          simp [Eff.field]
        · exact absurd hmem (by simp)

theorem unitStore_keepsCount (mine a : Nat) (bs : List Byte) : Plan.KeepsCount fn (unitStore mine a bs) := by
  intro s hs
  rw [Plan.run_def]
  simp only [unitStore]
  split
  · rfl
  · split
    · split
      · exact Plan.keeps_andThen (P := fun s => Tab.get (0 : Word) s.regs (regKey fn pgHIF 0x118)) (memRequests_keepsCount fn _ _ _ _) (gddrStore_keepsCount fn _ _ _) s hs
      · exact noteForeign_keepsCount fn _ s hs
    · refine Plan.keeps_andThen (P := fun s => Tab.get (0 : Word) s.regs (regKey fn pgHIF 0x118)) (memRequests_keepsCount fn _ _ _ _) ?_ s hs
      split
      · exact poisonRead_keepsCount fn _ _
      · exact gddrStore_keepsCount fn _ _ _

theorem slowdownEntry_keepsCount (id status : Nat) : Plan.KeepsCount fn (slowdownEntry id status) := by
  have hdrop : ∀ k x, Plan.KeepsCount fn (Plan.andThen (Plan.act (.parts k x)) (raiseErr pgPAR 3 [])) := fun k x =>
    Plan.keeps_andThen (Plan.Only.keepsReg (F := [.parts]) (Plan.only_act (by simp [Eff.field])) (by decide) _) (raiseErr_keepsCount fn _ _ _ _)
  intro s hs
  rw [Plan.run_def]
  simp only [slowdownEntry]
  split
  · rfl
  · split
    · exact Plan.keeps_andThen (P := fun s => Tab.get (0 : Word) s.regs (regKey fn pgHIF 0x118)) (poisonRead_keepsCount fn _ _) (hdrop _ _) s hs
    · split
      · exact hdrop _ _ s hs
      · exact Plan.keeps_andThen (P := fun s => Tab.get (0 : Word) s.regs (regKey fn pgHIF 0x118)) (unitStore_keepsCount fn _ _ _) (unitStore_keepsCount fn _ _ _) s hs

end

/-! ## A job that is not run -/

/-- The completion entry of a job that is not run (R21, R22). -/
def State.plainEntry (s : State) (j : Job) (status : Nat) : Cqe := { status := status, queue := s.queueLocal j.queue, tag := j.tag, ptr := 0, irqNow := j.irqNow }

/-- How a job that is not run ends: its completion is posted, and it is gone (R18, R21). -/
def rejectEnd (id : Nat) (j : Job) (c : Cqe) : Plan := Plan.seq [Plan.when (!j.silent) (postCqe j.queue c), Plan.act (.jobs id {}), drainedQueue j.queue, settle]

theorem rejectJob_run (id status : Nat) (s : State) :
    (rejectJob id status).run s = (rejectEnd id (s.job id) (s.plainEntry (s.job id) status)).run ((slowdownEntry id status).run s) := by
  have hplan : rejectJob id status s = Plan.seq [slowdownEntry id status, Plan.when (!(s.job id).silent) (postCqe (s.job id).queue (s.plainEntry (s.job id) status)),
      Plan.act (.jobs id {}), drainedQueue (s.job id).queue, settle] s := rfl
  rw [Plan.run_congr hplan, rejectEnd, Plan.run_seq_cons]

theorem queueLocal_congr {s t : State} (h : s.parts = t.parts) (q : Nat) : s.queueLocal q = t.queueLocal q := by
  unfold State.queueLocal State.queuePart State.part
  rw [h]

/-- A packet that is turned away is rejected after its violation. -/
theorem turnAway_run (id : Nat) (r : Nat × Option Nat) (s : State) :
    (turnAway id r).run s = (rejectEnd id (s.job id) (s.plainEntry (s.job id) r.1)).run (s.beforeCompletion id r.1 r.2) := by
  obtain ⟨status, viol⟩ := r
  have hplan : turnAway id (status, viol) s =
      Plan.andThen (match viol with | some v => violation (s.job id).fn v (s.queueLocal (s.job id).queue) | none => Plan.skip) (rejectJob id status) s := rfl
  rw [Plan.run_congr hplan, Plan.run_andThen]
  cases viol with
  | none => exact rejectJob_run id status s
  | some v =>
    have hviol := violation_only (s.job id).fn v (s.queueLocal (s.job id).queue)
    rw [rejectJob_run, hviol.job_eq s (by decide)]
    unfold State.plainEntry
    rw [queueLocal_congr (hviol.parts_eq s (by decide))]
    rfl

theorem postCqe_room {s : State} {q : Nat} (hfull : (s.queue q).cqFull = false) (hheld : (s.queue q).held = []) (c : Cqe) : (postCqe q c).run s = (writeCqe q c).run s := by
  refine Plan.run_congr ?_
  unfold postCqe
  rw [if_neg (by simp [hfull, hheld])]

theorem rejectEnd_only (id : Nat) (j : Job) (c : Cqe) : Plan.Only ([.jobs, .parts] ++ postFields) (rejectEnd id j c) :=
  Plan.only_seq_cons (Plan.only_when ((postCqe_only ..).mono (by decide))) (Plan.only_seq_cons (Plan.only_act (by simp [Eff.field]))
    (Plan.only_seq_cons ((drainedQueue_only _).mono (by decide)) (Plan.only_seq_cons (settle_only.mono (by decide)) Plan.only_seq_nil)))

/-- With room in the completion queue the entry is written at CQ_TAIL, and the job is gone. -/
theorem rejectEnd_completes {s : State} (hs : s.Wf) (id : Nat) {j : Job} (c : Cqe) (hloud : j.silent = false) (hfull : (s.queue j.queue).cqFull = false)
    (hheld : (s.queue j.queue).held = []) :
    ((rejectEnd id j c).run s).mem = Tab.putList 0 s.mem ((s.queue j.queue).cqeAddr (s.queue j.queue).cqTail) (c.bytes (s.queue j.queue).phase) ∧
      (((rejectEnd id j c).run s).job id).phase = .gone := by
  have hs1 := Plan.run_wf hs (writeCqe j.queue c)
  have hmem := writeCqe_mem s j.queue c
  rw [rejectEnd, Plan.run_seq_cons, Plan.run_seq_cons, Plan.run_seq_cons, Plan.run_seq_cons, Plan.run_seq_nil, Plan.run_when, hloud, Bool.not_false, if_pos rfl, postCqe_room hfull hheld, Plan.run_act]
  generalize (writeCqe j.queue c).run s = u at hs1 hmem
  have hs2 := hs1.apply (.jobs id {})
  have hfate := fate_put_same hs1 id {}
  have hmem2 : (u.apply (.jobs id {})).mem = u.mem := State.apply_mem_same _ _ (by simp [Eff.field])
  generalize u.apply (.jobs id {}) = v at hs2 hfate hmem2
  have hdrain := (drainedQueue_only j.queue).keepsFate (by decide) id v hs2
  refine ⟨?_, congrArg Prod.fst ((settle_keepsFate id _ (Plan.run_wf hs2 _)).trans (hdrain.trans hfate))⟩
  rw [settle_only.mem_eq _ (by decide), (drainedQueue_only _).mem_eq _ (by decide), hmem2]
  exact hmem

/-- What the state before the completion keeps of the job, its queue and the count of violations. -/
theorem beforeCompletion_keeps {s : State} (hs : s.Wf) (id status : Nat) (viol : Option Nat) :
    (s.beforeCompletion id status viol).Wf ∧ s.SameBut gddrFields (s.beforeCompletion id status viol) ∧
      (∀ v, viol = some v → (s.beforeCompletion id status viol).reg (s.job id).fn pgHIF 0x118 = satAdd 0xFFFFFFFF (s.reg (s.job id).fn pgHIF 0x118) 1) := by
  have hslow := slowdownEntry_only id status
  unfold State.beforeCompletion
  cases viol with
  | none => exact ⟨Plan.run_wf hs _, hslow.sameBut s, fun _ h => absurd h (by simp)⟩
  | some v =>
    have hs1 := Plan.run_wf hs (violation (s.job id).fn v (s.queueLocal (s.job id).queue))
    refine ⟨Plan.run_wf hs1 _, (((violation_only ..).sameBut s).mono (by decide)).trans (hslow.sameBut _), fun _ _ => ?_⟩
    exact ((slowdownEntry_keepsCount (s.job id).fn id status).reg hs1).trans (violation_count hs ..)

/-- A packet that is turned away, or whose time has come, completes with its status. -/
theorem rejectEnd_beforeCompletion {s : State} (hs : s.Wf) (id status : Nat) (viol : Option Nat) (hloud : (s.job id).silent = false)
    (hfull : (s.queue (s.job id).queue).cqFull = false) (hheld : (s.queue (s.job id).queue).held = []) (t : State)
    (ht : t = (rejectEnd id (s.job id) (s.plainEntry (s.job id) status)).run (s.beforeCompletion id status viol)) :
    t.mem = Tab.putList 0 (s.beforeCompletion id status viol).mem (hostBase + (s.queue (s.job id).queue).cqBase + (s.queue (s.job id).queue).cqTail * 16)
        ((s.plainEntry (s.job id) status).bytes (s.queue (s.job id).queue).phase) ∧
      (t.job id).phase = .gone ∧ (∀ v, viol = some v → t.reg (s.job id).fn pgHIF 0x118 = satAdd 0xFFFFFFFF (s.reg (s.job id).fn pgHIF 0x118) 1) ∧
      s.SameBut ([.queues, .jobs] ++ gddrFields) t := by
  obtain ⟨hu, hframe, hcount⟩ := beforeCompletion_keeps hs id status viol
  generalize s.beforeCompletion id status viol = u at hu hframe hcount ht
  have hqueue : u.queue (s.job id).queue = s.queue (s.job id).queue := by
    have : u.queues = s.queues := hframe.2 .queues (by decide)
    unfold State.queue
    rw [this]
  have hend := rejectEnd_only id (s.job id) (s.plainEntry (s.job id) status)
  obtain ⟨hmem, hgone⟩ := rejectEnd_completes hu id (s.plainEntry (s.job id) status) hloud (by rw [hqueue]; exact hfull) (by rw [hqueue]; exact hheld)
  subst ht
  refine ⟨?_, hgone, fun v hv => ?_, (hframe.mono (by decide)).trans ((hend.sameBut u).mono (by decide))⟩
  · rw [hmem, hqueue]
    rfl
  · rw [hend.reg_eq u (by decide)]
    exact hcount v hv

/-! ## The three kinds of packets -/

theorem jobRun_refused {s : State} {id : Nat} {r : Nat × Option Nat} (hphase : (s.job id).phase = .fetched) (hlives : (s.job id).killed = none) (h2 : (s.job id).kind ≠ 2)
    (h3 : (s.job id).kind ≠ 3) (hr : s.refusal (s.job id) = some r) : jobRun id s = turnAway id r s := by
  unfold jobRun
  rw [if_neg (by simp [hphase, hlives, h2, h3]), hr]

theorem jobRun_taken {s : State} {id : Nat} (hphase : (s.job id).phase = .fetched) (hlives : (s.job id).killed = none) (h2 : (s.job id).kind ≠ 2)
    (h3 : (s.job id).kind ≠ 3) (hr : s.refusal (s.job id) = none) :
    jobRun id s = .jobs id { s.job id with phase := .entering, slot := if (s.job id).resultMode == 2 then some (s.slotNamed (s.job id)) else none } ::
      (if (s.job id).resultMode == 2 then [.slots (s.slotNamed (s.job id)) { Tab.get {} s.slots (s.slotNamed (s.job id)) with state := .reserved }] else []) := by
  unfold jobRun
  rw [if_neg (by simp [hphase, hlives, h2, h3]), hr]

theorem runPlain_rejected {s : State} {id kind : Nat} (due : Bool) (hphase : (s.job id).phase = .fetched) (hlives : (s.job id).killed = none) (hkind : (s.job id).kind = kind)
    (hmode : (s.job id).resultMode = 3) : runPlain id kind due s = turnAway id (0x20, some 0x08) s := by
  unfold runPlain
  rw [if_neg (by simp [hphase, hlives, hkind]), if_pos hmode]

theorem runPlain_due {s : State} {id kind : Nat} {due : Bool} (hphase : (s.job id).phase = .fetched) (hlives : (s.job id).killed = none) (hkind : (s.job id).kind = kind)
    (hmode : (s.job id).resultMode ≠ 3) (hdue : due = true) : runPlain id kind due s = rejectJob id (if (s.job id).notReady then 0x60 else 0x00) s := by
  unfold runPlain
  rw [if_neg (by simp [hphase, hlives, hkind]), if_neg hmode, if_pos hdue]

/-- Settles O8: a packet that nothing turns away enters; any other leaves by the one ending of a job that is not run. -/
theorem jobPackets : Obligations.JobPackets := by
  unfold Obligations.JobPackets
  refine ⟨fun id s hserves hphase hlives h2 h3 hr => ⟨fun hmode => ?_, fun hmode => ?_⟩, fun id s hs hserves hphase hlives hloud hfull hheld => ?_⟩
  · have hplan := jobRun_taken hphase hlives h2 h3 hr
    rw [beq_eq_false_iff_ne.mpr hmode] at hplan
    exact Plan.done_of_eq (q := fun _ => _) hserves hplan
  · have hplan := jobRun_taken hphase hlives h2 h3 hr
    rw [hmode] at hplan
    exact Plan.done_of_eq (q := fun _ => _) hserves hplan
  · have hend := fun status viol => rejectEnd_beforeCompletion hs id status viol hloud hfull hheld _ rfl
    refine ⟨fun h2 h3 r hr => ⟨_, Plan.done_of_eq hserves (jobRun_refused hphase hlives h2 h3 hr), ?_⟩,
      fun hkind hmode => ⟨_, Plan.done_of_eq hserves (runPlain_rejected _ hphase hlives hkind hmode), ?_⟩,
      fun hkind hmode hdue => ⟨_, Plan.done_of_eq hserves (runPlain_due hphase hlives hkind hmode hdue), ?_⟩,
      fun hkind hmode => ⟨_, Plan.done_of_eq hserves (runPlain_rejected _ hphase hlives hkind hmode), ?_⟩,
      fun hkind hmode hdue => ⟨_, Plan.done_of_eq hserves (runPlain_due hphase hlives hkind hmode (by simpa using hdue)), ?_⟩⟩
    · rw [turnAway_run]; exact hend r.1 r.2
    · rw [turnAway_run]; exact hend 0x20 (some 0x08)
    · rw [rejectJob_run]; exact hend _ none
    · rw [turnAway_run]; exact hend 0x20 (some 0x08)
    · rw [rejectJob_run]; exact hend _ none

end Sys2Proof.Machine
end

section
/-! Strokes are placed in their order (R45-R48): what later placements leave of a stroke that runs. -/
namespace Sys2Proof.Machine

/-! ## A stroke through the evaluations of its job -/

theorem Stroke.core_eq {t : Stroke} (h : t.state ≠ .ready) : t.core = t := if_neg h

/-- A stroke that neither waits nor is READY shows through its core. -/
theorem Stroke.eq_of_core {t x : Stroke} (h : t.core = x) (hx : x.state ≠ .waiting) : t = x := by
  unfold Stroke.core at h
  split at h
  · exact absurd (congrArg Stroke.state h).symm hx
  · exact h

theorem Stroke.finished_core (t : Stroke) : t.core.finished = t.finished := by
  unfold Stroke.core
  split
  next h => simp [Stroke.finished, h]
  · rfl

theorem strokes_core (j : Job) (i : Nat) : ((j.strokes.map Stroke.core)[i]?).getD {} = (j.stroke i).core := by
  unfold Job.stroke
  rw [List.getElem?_map]
  cases j.strokes[i]? with
  | none => rfl
  | some t => rfl

/-- Jobs whose strokes have the same cores agree on every stroke that neither waits nor is READY. -/
theorem stroke_of_cores {j k : Job} (h : j.strokes.map Stroke.core = k.strokes.map Stroke.core) {i : Nat} (hw : (k.stroke i).state ≠ .waiting) (hr : (k.stroke i).state ≠ .ready) :
    j.stroke i = k.stroke i := by
  refine Stroke.eq_of_core ?_ hw
  rw [← strokes_core, h, strokes_core, Stroke.core_eq hr]

theorem finished_of_cores {j k : Job} (h : j.strokes.map Stroke.core = k.strokes.map Stroke.core) : j.strokes.all Stroke.finished = k.strokes.all Stroke.finished := by
  have hall : ∀ l : List Stroke, l.all Stroke.finished = (l.map Stroke.core).all Stroke.finished := fun l => by
    rw [List.all_map]
    congr 1
    exact funext (fun t => (Stroke.finished_core t).symm)
  rw [hall, hall k.strokes, h]

/-- A stroke of a job one of whose strokes is changed. -/
theorem stroke_modify (j : Job) (n i : Nat) (f : Stroke → Stroke) (c : Nat) :
    Job.stroke { j with strokes := j.strokes.modify n f, changed := c } i = if n = i ∧ i < j.strokes.length then f (j.stroke i) else j.stroke i := by
  unfold Job.stroke
  rw [List.getElem?_modify]
  by_cases hlen : i < j.strokes.length
  · rw [List.getElem?_eq_getElem hlen]
    by_cases hn : n = i
    · simp [hn, hlen]
    · simp [hn]
  · rw [List.getElem?_eq_none (Nat.le_of_not_lt hlen)]
    simp [hlen]

/-- A stroke in a state other than WAITING stands in its job. -/
theorem stroke_lt {j : Job} {i : Nat} (h : (j.stroke i).state ≠ .waiting) : i < j.strokes.length := by
  refine Nat.lt_of_not_le (fun hle => h ?_)
  unfold Job.stroke
  rw [List.getElem?_eq_none hle]
  rfl

/-! ## A placed stroke -/

/-- A stroke runs on a unit since a tick. -/
def Placed (id i : Nat) (pl : Place) (tick : Nat) (s : State) : Prop :=
  ((s.job id).stroke i).state = .running ∧ ((s.job id).stroke i).place = some pl ∧ ((s.job id).stroke i).startTick = tick

theorem placed_congr {id i : Nat} {pl : Place} {tick : Nat} {s t : State} (h : (t.job id).stroke i = (s.job id).stroke i) (hs : Placed id i pl tick s) : Placed id i pl tick t := by
  unfold Placed
  rw [h]
  exact hs

theorem Plan.KeepsCore.keepsPlaced {id : Nat} {p : Plan} (h : Plan.KeepsCore id p) (i : Nat) (pl : Place) (tick : Nat) : Plan.Preserves (Placed id i pl tick) p := by
  intro s hs hp
  refine placed_congr (stroke_of_cores (congrArg Job.strokes (h s hs)) ?_ ?_) hp
  · rw [hp.1]; simp
  · rw [hp.1]; simp

theorem Plan.Only.keepsPlaced {F : List Field} {p : Plan} (h : Plan.Only F p) (hj : Field.jobs ∉ F) (id i : Nat) (pl : Place) (tick : Nat) :
    Plan.Preserves (Placed id i pl tick) p := (h.keepsCore hj id).keepsPlaced i pl tick

theorem modStroke_job {s : State} (hs : s.Wf) (id k n : Nat) (f : Stroke → Stroke) :
    ((modStroke k n f).run s).job id = if id = k then { s.job k with strokes := (s.job k).strokes.modify n f, changed := s.ticks } else s.job id := job_put hs ..

/-- A change of another stroke. -/
theorem modStroke_keepsPlaced {id i k n : Nat} (h : ¬ (k = id ∧ n = i)) (f : Stroke → Stroke) (pl : Place) (tick : Nat) : Plan.Preserves (Placed id i pl tick) (modStroke k n f) := by
  intro s hs hp
  refine placed_congr ?_ hp
  rw [modStroke_job hs]
  split
  next hk => rw [stroke_modify, if_neg (fun hn => h ⟨hk.symm, hn.1⟩), hk]
  · rfl

/-- The start of a pre-emption leaves where every stroke runs. -/
theorem startPreempt_keepsPlaced (id i k n : Nat) (for_ : Option (Nat × Nat)) (after : Nat) (pl : Place) (tick : Nat) :
    Plan.Preserves (Placed id i pl tick) (startPreempt k n for_ after) := by
  intro s hs hp
  rw [Plan.run_def]
  simp only [startPreempt]
  split
  · exact hp
  next frame hframe =>
    split
    · have hs1 := hs.apply (.parts (s.job k).part { s.part (s.job k).part with framesUsed := (s.part (s.job k).part).framesUsed ++ [(frame, k)] })
      have hjob := job_put hs1 k
        { s.job k with strokes := (s.job k).strokes.modify n (fun t => { t with preempting := true, preemptFor := for_, frame := some frame, afterChange := after }) } id
      unfold Placed
      rw [State.applyAll_cons, State.applyAll_cons, State.applyAll_nil, hjob]
      split
      next hid =>
        have hstroke := stroke_modify (s.job k) n i (fun t => { t with preempting := true, preemptFor := for_, frame := some frame, afterChange := after }) (s.job k).changed
        rw [hstroke]
        subst hid
        split
        · exact hp
        · exact hp
      · exact hp
    · exact hp

theorem tryPreempt_keepsPlaced (id i k n : Nat) (pl : Place) (tick : Nat) : Plan.Preserves (Placed id i pl tick) (tryPreempt k n) := by
  intro s hs hp
  rw [Plan.run_def]
  simp only [tryPreempt]
  split
  · split
    · exact startPreempt_keepsPlaced id i _ _ _ _ pl tick s hs hp
    · exact hp
  · exact hp

/-! ## The placement of a stroke -/

/-- A stroke placed on a unit, as it begins to run there (R45, R49, R93). -/
def placedStroke (s : State) (id i : Nat) (pl : Place) (t : Stroke) : Stroke :=
  let u : Stroke := { t with place := some pl, structs := [] }
  let back := decide (((s.job id).stroke i).state = .preempted)
  { u with state := .running, begun := false, ran := false, frame := none, afterChange := 0, started := s.starts, startTick := s.ticks, resumed := back,
           descCrc := if back then u.descCrc else structsCrc s (s.job id) u, structs := structsRead s (s.job id) u,
           loaded := match back, u.frame with | true, some k => Stroke.savedBytes s (s.job id) u k | _, _ => [] }

theorem placedStroke_runs (s : State) (id i : Nat) (pl : Place) (t : Stroke) :
    (placedStroke s id i pl t).state = .running ∧ (placedStroke s id i pl t).place = some pl ∧ (placedStroke s id i pl t).startTick = s.ticks := ⟨rfl, rfl, rfl⟩

/-- What the placement of a stroke takes: its mutexes, its save frame, and the unit (R39, R43, R49). -/
def takeSteps (id i : Nat) (pl : Place) (s : State) : List Plan :=
  let j := s.job id
  let t := j.stroke i
  let p := s.part j.part
  let back := decide (t.state = .preempted)
  let frames := p.framesUsed.filter (fun f => some f.1 != t.frame)
  [ Plan.when (!back) (Plan.each (t.waits.filter (fun w => w.kind = .mutex)) (fun w => fun s =>
      [.sems ((s.part j.part).semFirst + w.id) { s.semOf j.part w.id with holder := id + 1 }])),
    Plan.when (back && frames != p.framesUsed) (Plan.act (.parts j.part { p with framesUsed := frames })),
    takeUnit { job := id, idx := i } pl]

def takeFor (id i : Nat) (pl : Place) (s : State) : Plan := Plan.seq (takeSteps id i pl s)

theorem takeUnit_only (r : StrokeRef) (pl : Place) : Plan.Only [.clusters] (takeUnit r pl) := by
  refine ⟨fun s => ?_⟩
  have hcluster : ∀ n c, EffsIn [.clusters] [Eff.clusters n c] := fun _ _ => EffsIn.one (by simp [Eff.field])
  unfold takeUnit
  split
  · exact hcluster _ _
  · exact hcluster _ _
  · exact hcluster _ _
  · exact hcluster _ _
  · exact hcluster _ _
  · exact EffsIn.nil

theorem takeFor_only (id i : Nat) (pl : Place) (s : State) : Plan.Only [.sems, .parts, .clusters] (takeFor id i pl s) :=
  Plan.only_seq_cons (Plan.only_when (Plan.only_each (fun _ => ⟨fun _ => EffsIn.one (by simp [Eff.field])⟩)))
    (Plan.only_seq_cons (Plan.only_when (Plan.only_act (by simp [Eff.field]))) (Plan.only_seq_cons ((takeUnit_only ..).mono (by decide)) Plan.only_seq_nil))

theorem placeStroke_run (id i : Nat) (pl : Place) (s : State) :
    (placeStroke id i pl).run s = settle.run (Plan.run (Plan.act (.starts (s.starts + 1))) ((modStroke id i (placedStroke s id i pl)).run ((takeFor id i pl s).run s))) := by
  have hplan : placeStroke id i pl s = Plan.seq (takeSteps id i pl s ++ [modStroke id i (placedStroke s id i pl), Plan.act (.starts (s.starts + 1)), settle]) s := rfl
  rw [Plan.run_congr hplan, Plan.run_seq_append, Plan.run_seq_cons, Plan.run_seq_cons, Plan.run_seq_cons, Plan.run_seq_nil, takeFor]

theorem placeStroke_only (id i : Nat) (pl : Place) : Plan.Only [.jobs, .parts, .sems, .clusters, .starts] (placeStroke id i pl) := by
  refine ⟨fun s => ?_⟩
  simp only [placeStroke]
  exact (Plan.only_seq_cons (Plan.only_when (Plan.only_each (fun _ => ⟨fun _ => EffsIn.one (by simp [Eff.field])⟩)))
    (Plan.only_seq_cons (Plan.only_when (Plan.only_act (by simp [Eff.field]))) (Plan.only_seq_cons ((takeUnit_only ..).mono (by decide))
      (Plan.only_seq_cons ((modStroke_only ..).mono (by decide)) (Plan.only_seq_cons (Plan.only_act (by simp [Eff.field])) (Plan.only_seq_cons (settle_only.mono (by decide)) Plan.only_seq_nil)))))).effs s

/-- What follows the change of the stroke in its placement. -/
theorem placeEnd_keepsPlaced (id i : Nat) (pl : Place) (tick n : Nat) {s : State} (hs : s.Wf) (h : Placed id i pl tick s) :
    Placed id i pl tick (settle.run (Plan.run (Plan.act (.starts n)) s)) :=
  (settle_keepsCore id).keepsPlaced i pl tick _ (Plan.run_wf hs _) (Plan.Only.keepsPlaced (F := [.starts]) (Plan.only_act (by simp [Eff.field])) (by decide) id i pl tick s hs h)

/-- A stroke that stands in its job is placed. -/
theorem placeStroke_places {s : State} (hs : s.Wf) {id i : Nat} (pl : Place) (hi : i < (s.job id).strokes.length) : Placed id i pl s.ticks ((placeStroke id i pl).run s) := by
  have htake := takeFor_only id i pl s
  have hs1 := Plan.run_wf hs (takeFor id i pl s)
  have hjob := htake.job_eq s (by decide) id
  rw [placeStroke_run]
  generalize (takeFor id i pl s).run s = u at hs1 hjob
  refine placeEnd_keepsPlaced id i pl s.ticks _ (Plan.run_wf hs1 _) ?_
  have hmod := modStroke_job hs1 id id i (placedStroke s id i pl)
  rw [if_pos rfl] at hmod
  unfold Placed
  rw [hmod, stroke_modify, if_pos ⟨rfl, by rw [hjob]; exact hi⟩]
  exact placedStroke_runs s id i pl _

/-- The placement of another stroke leaves a placed one. -/
theorem placeStroke_keepsPlaced {id i k n : Nat} (h : ¬ (k = id ∧ n = i)) (pl' pl : Place) (tick : Nat) : Plan.Preserves (Placed id i pl tick) (placeStroke k n pl') := by
  intro s hs hp
  have hp1 := (takeFor_only k n pl' s).keepsPlaced (by decide) id i pl tick s hs hp
  have hs1 := Plan.run_wf hs (takeFor k n pl' s)
  rw [placeStroke_run]
  generalize (takeFor k n pl' s).run s = u at hs1 hp1
  exact placeEnd_keepsPlaced id i pl tick _ (Plan.run_wf hs1 _) (modStroke_keepsPlaced h _ pl tick u hs1 hp1)

/-! ## The turns -/

theorem wantsUnit_ne_running {s : State} {t : Stroke} (h : s.wantsUnit t = true) : t.state ≠ .running ∧ t.state ≠ .waiting := by
  unfold State.wantsUnit at h
  constructor
  · intro ht; simp [ht] at h
  · intro ht; simp [ht] at h

theorem startPreempt_only (id i : Nat) (for_ : Option (Nat × Nat)) (after : Nat) : Plan.Only [.jobs, .parts] (startPreempt id i for_ after) := by
  refine ⟨fun s => ?_⟩
  simp only [startPreempt]
  split
  · exact EffsIn.nil
  · split
    · exact EffsIn.cons (by simp [Eff.field]) (EffsIn.one (by simp [Eff.field]))
    · exact EffsIn.nil

theorem tryPreempt_only (id i : Nat) : Plan.Only [.jobs, .parts] (tryPreempt id i) := by
  refine ⟨fun s => ?_⟩
  simp only [tryPreempt]
  split
  · split
    · exact (startPreempt_only ..).effs s
    · exact EffsIn.nil
  · exact EffsIn.nil

/-- The effects of a stroke's turn, as a plan. -/
def turnPlan (c : Candidate) (blocked : List Place) : Plan := fun s => (placeTurn c blocked s).1

theorem turnPlan_only (c : Candidate) (blocked : List Place) : Plan.Only [.jobs, .parts, .sems, .clusters, .starts] (turnPlan c blocked) := by
  refine ⟨fun s => ?_⟩
  simp only [turnPlan, placeTurn]
  split
  · exact EffsIn.nil
  · split
    · exact (placeStroke_only ..).effs s
    · exact ((tryPreempt_only ..).mono (by decide)).effs s

/-- A later turn leaves a stroke that runs where it runs: a stroke is not placed twice. -/
theorem turnPlan_keepsPlaced (c : Candidate) (blocked : List Place) (id i : Nat) (pl : Place) (tick : Nat) : Plan.Preserves (Placed id i pl tick) (turnPlan c blocked) := by
  intro s hs hp
  rw [Plan.run_def]
  simp only [turnPlan, placeTurn]
  split
  · exact hp
  next hwants =>
    have hne : ¬ (c.job = id ∧ c.idx = i) := fun ⟨hid, hi⟩ => (wantsUnit_ne_running (by simpa using hwants)).1 (by rw [hid, hi]; exact hp.1)
    split
    · exact placeStroke_keepsPlaced hne _ pl tick s hs hp
    · exact tryPreempt_keepsPlaced id i _ _ pl tick s hs hp

theorem placeAll_cons_run (c : Candidate) (cs : List Candidate) (blocked : List Place) (s : State) :
    (placeAll (c :: cs) blocked).run s = (placeAll cs (placeTurn c blocked s).2).run ((turnPlan c blocked).run s) := by
  simp only [Plan.run_def, placeAll, turnPlan, State.applyAll_append]

theorem placeAll_only : ∀ (cs : List Candidate) (blocked : List Place), Plan.Only [.jobs, .parts, .sems, .clusters, .starts] (placeAll cs blocked)
  | [], _ => Plan.only_skip
  | c :: cs, blocked => ⟨fun s => EffsIn.append ((turnPlan_only c blocked).effs s) ((placeAll_only cs _).effs _)⟩

theorem placeAll_keepsPlaced (id i : Nat) (pl : Place) (tick : Nat) : ∀ (cs : List Candidate) (blocked : List Place), Plan.Preserves (Placed id i pl tick) (placeAll cs blocked)
  | [], _ => Plan.preserves_skip
  | c :: cs, blocked => fun s hs hp => by
    rw [placeAll_cons_run]
    exact placeAll_keepsPlaced id i pl tick cs _ _ (Plan.run_wf hs _) (turnPlan_keepsPlaced c blocked id i pl tick s hs hp)

/-! ## Who waits -/

theorem mem_insertCandidate (c d : Candidate) : ∀ l : List Candidate, d ∈ insertCandidate c l → d = c ∨ d ∈ l
  | [], h => .inl (List.mem_singleton.mp h)
  | x :: xs, h => by
    unfold insertCandidate at h
    split at h
    · exact List.mem_cons.mp h
    · rcases List.mem_cons.mp h with h | h
      · exact .inr (h ▸ List.mem_cons_self)
      · exact (mem_insertCandidate c d xs h).imp id (List.mem_cons_of_mem x)

theorem mem_inserted (d : Candidate) : ∀ (cs l : List Candidate), d ∈ cs.foldl (fun l c => insertCandidate c l) l → d ∈ cs ∨ d ∈ l
  | [], _, h => .inr h
  | c :: cs, l, h => by
    rcases mem_inserted d cs _ h with h | h
    · exact .inl (List.mem_cons_of_mem c h)
    · rcases mem_insertCandidate c d l h with h | h
      · exact .inl (h ▸ List.mem_cons_self)
      · exact .inr h

/-- A candidate waits for a unit. -/
theorem candidate_wants {s : State} (hs : s.Wf) {c : Candidate} (h : c ∈ s.candidates) : s.wantsUnit ((s.job c.job).stroke c.idx) = true := by
  rcases mem_inserted c _ _ h with h | h
  · obtain ⟨e, he, hc⟩ := List.mem_flatMap.mp h
    obtain ⟨x, hx, rfl⟩ := List.mem_map.mp hc
    obtain ⟨hmem, hwants⟩ := List.mem_filter.mp hx
    obtain ⟨n, hn, rfl⟩ := List.mem_mapIdx.mp hmem
    have hjob : s.job e.1 = e.2 := Tab.get_of_mem (Bool.and_eq_true_iff.mp hs.jobs).1 (List.mem_filter.mp he).1
    have hstroke : (s.job e.1).stroke n = e.2.strokes[n] := by
      rw [hjob]
      unfold Job.stroke
      rw [List.getElem?_eq_getElem hn]
      rfl
    exact (congrArg s.wantsUnit hstroke).trans hwants
  · exact absurd h List.not_mem_nil

/-- The first candidate is placed on the first free unit that suits it, and runs there. -/
theorem exec_strokePlace {s : State} (hs : s.Wf) (hserves : s.svc.halted = false) (hsched : s.pcie.schedFailed = false) {c : Candidate} {cs : List Candidate} {pl : Place}
    (hcand : s.candidates = c :: cs) (hfree : (suitable s c.job c.idx).find? (fun x => s.isFree (s.job c.job).part x) = some pl) :
    ∃ t, exec .strokePlace s = .next t ∧ ((t.job c.job).stroke c.idx).state = .running ∧ ((t.job c.job).stroke c.idx).place = some pl ∧
      ((t.job c.job).stroke c.idx).startTick = s.ticks ∧ s.SameBut [.jobs, .parts, .sems, .clusters, .starts] t := by
  have hwants := candidate_wants hs (c := c) (by rw [hcand]; exact List.mem_cons_self)
  have hplan : strokePlace s = placeAll (c :: cs) [] s := by
    unfold strokePlace
    rw [if_neg (by simp [hsched]), hcand]
  have hturn : turnPlan c [] s = placeStroke c.job c.idx pl s := by
    have hfind : (suitable s c.job c.idx).find? (fun x => s.isFree (s.job c.job).part x && !([] : List Place).any (fun b => b.conflicts x)) = some pl := by
      simpa using hfree
    simp only [turnPlan, placeTurn, hwants, Bool.not_true, Bool.false_eq_true, if_false]
    rw [hfind]
  refine ⟨_, Plan.done_of_eq hserves hplan, ?_⟩
  have hframe := (placeAll_only (c :: cs) []).sameBut s
  have hplaced : Placed c.job c.idx pl s.ticks ((placeAll (c :: cs) []).run s) := by
    rw [placeAll_cons_run, Plan.run_congr hturn]
    exact placeAll_keepsPlaced _ _ _ _ cs _ _ (Plan.run_wf hs _) (placeStroke_places hs pl (stroke_lt (wantsUnit_ne_running hwants).2))
  exact ⟨hplaced.1, hplaced.2.1, hplaced.2.2, hframe⟩

end Sys2Proof.Machine
end

section
/-! A stroke that has run is DONE, and its job ends with its last stroke (R28, R40). -/
namespace Sys2Proof.Machine

/-! ## What the end of a stroke leaves of its job -/

/-- A job but for what signals, times and evaluations change of it. -/
def Job.shape (j : Job) : Job := { j.core with tokens := [], active := 0, stall := 0, timed := 0 }

/-- A plan leaves a job's shape as it is. -/
abbrev Plan.KeepsShape (id : Nat) (p : Plan) : Prop := Plan.Keeps (fun s => (s.job id).shape) p

theorem Plan.KeepsCore.keepsShape {id : Nat} {p : Plan} (h : Plan.KeepsCore id p) : Plan.KeepsShape id p := fun s hs => by
  have := h s hs
  dsimp only at this ⊢
  unfold Job.shape
  rw [this]

theorem Plan.Only.keepsShape {F : List Field} {p : Plan} (h : Plan.Only F p) (hj : Field.jobs ∉ F) (id : Nat) : Plan.KeepsShape id p := (h.keepsCore hj id).keepsShape

theorem dropInherit_keepsShape (id h : Nat) : Plan.KeepsShape id (dropInherit h) := by
  intro s hs
  rw [Plan.run_def]
  simp only [dropInherit]
  split
  · rfl
  · exact job_put_congr Job.shape hs id h _ rfl

theorem schedEvent_only (j : Job) (code stroke sem : Nat) : Plan.Only reportFields (schedEvent j code stroke sem) := event_only _

theorem applySignal_keepsShape (id k i : Nat) (g : Signal) : Plan.KeepsShape id (applySignal k i g) := by
  have hevent : ∀ j code stroke sem, Plan.KeepsShape id (schedEvent j code stroke sem) := fun j code stroke sem => (schedEvent_only j code stroke sem).keepsShape (by decide) id
  intro s hs
  rw [Plan.run_def]
  simp only [applySignal]
  split
  · rfl
  · exact job_put_congr Job.shape hs id k _ rfl
  · split
    · exact hevent _ _ _ _ s hs
    · split
      · exact hevent _ _ _ _ s hs
      · exact Plan.keeps_andThen (P := fun s => (s.job id).shape) (Plan.Only.keepsShape (F := [.sems]) (Plan.only_act (by simp [Eff.field])) (by decide) id) (dropInherit_keepsShape id k) s hs
  · split
    · exact hevent _ _ _ _ s hs
    · rfl

theorem applySignal_only (k i : Nat) (g : Signal) : Plan.Only ([.jobs, .sems] ++ reportFields) (applySignal k i g) := by
  refine ⟨fun s => ?_⟩
  have hevent : ∀ j code stroke sem, EffsIn ([.jobs, .sems] ++ reportFields) (schedEvent j code stroke sem s) := fun j code stroke sem => ((schedEvent_only j code stroke sem).mono (by decide)).effs s
  simp only [applySignal]
  split
  · exact EffsIn.nil
  · exact EffsIn.one (by simp [Eff.field])
  · split
    · exact hevent _ _ _ _
    · split
      · exact hevent _ _ _ _
      · exact (Plan.only_andThen (Plan.only_act (by simp [Eff.field])) ((dropInherit_only k).mono (by decide))).effs s
  · split
    · exact hevent _ _ _ _
    · exact EffsIn.one (by simp [Eff.field])

theorem modJob_keepsShape (id k : Nat) {f : Job → Job} (hf : ∀ j, (f j).shape = j.shape) : Plan.KeepsShape id (modJob k f) := fun _ hs => job_put_congr Job.shape hs id k _ (hf _)

/-! ## The steps before the job is looked at -/

/-- A stroke that is DONE, without place and frame (R40). -/
def Stroke.ended (t : Stroke) : Stroke := { t with state := .done, place := none, preempting := false, preemptFor := none, frame := none }

/-- A stroke leaves its frame and its unit. -/
def leaveSteps (id i : Nat) (s : State) : List Plan :=
  let j := s.job id
  let t := j.stroke i
  let p := s.part j.part
  let frames := p.framesUsed.filter (fun f => some f.1 != t.frame)
  [ Plan.when (t.frame.isSome && frames != p.framesUsed) (Plan.act (.parts j.part { p with framesUsed := frames })),
    (match t.place with | some pl => leaveUnit id i pl | none => Plan.skip) ]

/-- Its signals and its times, once it is DONE. -/
def signalSteps (id i active stall : Nat) (t : Stroke) : List Plan :=
  [ Plan.each t.signals (applySignal id i),
    Plan.when (timedClass t.cls) (modJob id (fun j => { j with active := j.active + active, stall := j.stall + stall, timed := j.timed + 1 })), settle ]

/-- The state in which the job of a stroke that has run is looked at. -/
def State.afterStroke (s : State) (id i active stall : Nat) : State :=
  (Plan.seq (signalSteps id i active stall ((s.job id).stroke i))).run ((modStroke id i Stroke.ended).run ((Plan.seq (leaveSteps id i s)).run s))

theorem strokeComplete_run {s : State} {id i active stall : Nat} {ans : HostAnswer} (hphase : (s.job id).phase = .running) (hlives : (s.job id).killed = none)
    (hstate : ((s.job id).stroke i).state = .running) (hran : ((s.job id).stroke i).ran = true) :
    (strokeComplete id i active stall ans).run s = (checkJobDone id ans).run (s.afterStroke id i active stall) := by
  have hplan : strokeComplete id i active stall ans s =
      Plan.seq (leaveSteps id i s ++ [modStroke id i Stroke.ended] ++ signalSteps id i active stall ((s.job id).stroke i) ++ [checkJobDone id ans]) s := by
    unfold strokeComplete
    rw [if_pos ⟨hphase, by rw [hlives]; rfl, hstate, hran⟩]
    rfl
  rw [Plan.run_congr hplan]
  simp only [Plan.run_seq_append, Plan.run_seq_cons, Plan.run_seq_nil, State.afterStroke]

theorem leaveSteps_only (id i : Nat) (s : State) : Plan.Only [.parts, .clusters] (Plan.seq (leaveSteps id i s)) := by
  refine Plan.only_seq_cons (Plan.only_when (Plan.only_act (by simp [Eff.field]))) (Plan.only_seq_cons ?_ Plan.only_seq_nil)
  split
  · exact (leaveUnit_only ..).mono (by decide)
  · exact Plan.only_skip

theorem signalSteps_only (id i active stall : Nat) (t : Stroke) : Plan.Only ([.jobs, .parts, .sems] ++ reportFields) (Plan.seq (signalSteps id i active stall t)) :=
  Plan.only_seq_cons (Plan.only_each (fun g => (applySignal_only id i g).mono (by decide))) (Plan.only_seq_cons (Plan.only_when ((modJob_only ..).mono (by decide)))
    (Plan.only_seq_cons (settle_only.mono (by decide)) Plan.only_seq_nil))

theorem signalSteps_keepsShape (id i active stall : Nat) (t : Stroke) (k : Nat) : Plan.KeepsShape k (Plan.seq (signalSteps id i active stall t)) :=
  Plan.keeps_seq_cons (Plan.keeps_each (applySignal_keepsShape k id i)) (Plan.keeps_seq_cons (Plan.keeps_when (modJob_keepsShape k id (fun _ => rfl)))
    (Plan.keeps_seq_cons (settle_keepsCore k).keepsShape Plan.keeps_seq_nil))

/-- The fields that the end of a stroke changes before its job is looked at. -/
def strokeFields : List Field := [.jobs, .parts, .sems, .clusters] ++ reportFields

theorem afterStroke_frame (s : State) (id i active stall : Nat) : s.SameBut strokeFields (s.afterStroke id i active stall) :=
  (((leaveSteps_only id i s).sameBut s).mono (by decide)).trans
    ((((modStroke_only id i _).sameBut _).mono (by decide)).trans (((signalSteps_only id i active stall _).sameBut _).mono (by decide)))

theorem afterStroke_wf {s : State} (hs : s.Wf) (id i active stall : Nat) : (s.afterStroke id i active stall).Wf := Plan.run_wf (Plan.run_wf (Plan.run_wf hs _) _) _

/-- The job in which the stroke is DONE, seen through its shape. -/
theorem afterStroke_shape {s : State} (hs : s.Wf) (id i active stall : Nat) :
    ((s.afterStroke id i active stall).job id).shape = Job.shape { s.job id with strokes := (s.job id).strokes.modify i Stroke.ended } := by
  have hjob := (leaveSteps_only id i s).job_eq s (by decide) id
  have hs1 := Plan.run_wf hs (Plan.seq (leaveSteps id i s))
  unfold State.afterStroke
  generalize (Plan.seq (leaveSteps id i s)).run s = u at hjob hs1
  refine (signalSteps_keepsShape id i active stall _ id _ (Plan.run_wf hs1 _)).trans ?_
  dsimp only
  rw [modStroke_job hs1, if_pos rfl, hjob]
  rfl

/-- No end of a stroke moves a partition. -/
theorem afterStroke_layout {s : State} (hs : s.Wf) (id i active stall : Nat) : LaidOut (fun p => (s.part p).place) (s.afterStroke id i active stall) := by
  have hfirst : ∀ (b : Bool) (f : List (Nat × Nat)), LaidOut (fun p => (s.part p).place) ((Plan.when b (Plan.act (.parts (s.job id).part { s.part (s.job id).part with framesUsed := f }))).run s) := fun b f => by
    rw [Plan.run_when]
    split
    · exact laidOut_put hs (fun _ => rfl) _ _ rfl
    · exact fun _ => rfl
  have hunit : ∀ place : Option Place, Plan.Preserves (LaidOut (fun p => (s.part p).place)) (match place with | some pl => leaveUnit id i pl | none => Plan.skip) := fun place => by
    split
    · exact (leaveUnit_only ..).keepsLayout (by decide) _
    · exact Plan.preserves_skip
  have hs1 := Plan.run_wf hs (Plan.seq (leaveSteps id i s))
  have hleave : LaidOut (fun p => (s.part p).place) ((Plan.seq (leaveSteps id i s)).run s) := by
    unfold leaveSteps
    rw [Plan.run_seq_cons, Plan.run_seq_cons, Plan.run_seq_nil]
    exact hunit _ _ (Plan.run_wf hs _) (hfirst _ _)
  unfold State.afterStroke
  refine Plan.preserves_seq_cons (Plan.preserves_each (fun g => (applySignal_only id i g).keepsLayout (by decide) _) _) (Plan.preserves_seq_cons
    (Plan.preserves_when ((modJob_only ..).keepsLayout (by decide) _)) (Plan.preserves_seq_cons (settle_keepsLayout _) Plan.preserves_seq_nil)) _ (Plan.run_wf hs1 _) ?_
  exact (modStroke_only id i _).keepsLayout (by decide) _ _ hs1 hleave

/-! ## The job after the stroke -/

theorem shape_strokes {j k : Job} (h : j.shape = k.shape) : j.strokes.map Stroke.core = k.strokes.map Stroke.core := congrArg Job.strokes h

/-- What the shape of a job says of it. -/
theorem shape_fields {j k : Job} (h : j.shape = k.shape) :
    j.phase = k.phase ∧ j.killed = k.killed ∧ j.part = k.part ∧ j.slot = k.slot ∧ j.resultAddr = k.resultAddr ∧ j.status = k.status := by
  refine ⟨?_, ?_, ?_, ?_, ?_, ?_⟩
  · show j.shape.phase = k.shape.phase
    rw [h]
  · show j.shape.killed = k.shape.killed
    rw [h]
  · show j.shape.part = k.shape.part
    rw [h]
  · show j.shape.slot = k.shape.slot
    rw [h]
  · show j.shape.resultAddr = k.shape.resultAddr
    rw [h]
  · show j.shape.status = k.shape.status
    rw [h]

/-- Whether every stroke of a job has ended, once one of them is DONE. -/
theorem all_finished_modify (l : List Stroke) (i : Nat) :
    (l.modify i Stroke.ended).all Stroke.finished = true ↔ ∀ k, k < l.length → k ≠ i → ((l[k]?).getD {}).finished = true := by
  rw [List.all_eq_true]
  constructor
  · intro h k hk hne
    have hget : (l.modify i Stroke.ended)[k]? = some l[k] := by
      rw [List.getElem?_modify, List.getElem?_eq_getElem hk, Option.map_eq_map, Option.map_some, if_neg (Ne.symm hne)]
    rw [List.getElem?_eq_getElem hk]
    exact h _ (List.mem_of_getElem? hget)
  · intro h t ht
    obtain ⟨k, hk, rfl⟩ := List.mem_iff_getElem.mp ht
    rw [List.length_modify] at hk
    rw [List.getElem_modify]
    split
    · rfl
    next hne =>
      have := h k hk (Ne.symm hne)
      rwa [List.getElem?_eq_getElem hk] at this

theorem afterStroke_finished {s : State} (hs : s.Wf) (id i active stall : Nat) :
    ((s.afterStroke id i active stall).job id).strokes.all Stroke.finished = true ↔ ∀ k, k < (s.job id).strokes.length → k ≠ i → ((s.job id).stroke k).finished = true := by
  rw [finished_of_cores (shape_strokes (afterStroke_shape hs id i active stall))]
  exact all_finished_modify (s.job id).strokes i

theorem afterStroke_stroke {s : State} (hs : s.Wf) {id i : Nat} (active stall : Nat) (hi : i < (s.job id).strokes.length) :
    ((s.afterStroke id i active stall).job id).stroke i = ((s.job id).stroke i).ended := by
  have hmod := stroke_modify (s.job id) i i Stroke.ended (s.job id).changed
  rw [if_pos ⟨rfl, hi⟩] at hmod
  have hcores := shape_strokes (afterStroke_shape hs id i active stall)
  have hdone : (((s.job id).stroke i).ended).state = .done := rfl
  have hkeep := stroke_of_cores (k := { s.job id with strokes := (s.job id).strokes.modify i Stroke.ended, changed := (s.job id).changed }) hcores (i := i)
    (by rw [hmod, hdone]; simp) (by rw [hmod, hdone]; simp)
  exact hkeep.trans hmod

theorem checkJobDone_stays {s : State} {id : Nat} (ans : HostAnswer) (h : (s.job id).strokes.all Stroke.finished = false) : (checkJobDone id ans).run s = s := by
  rw [Plan.run_def]
  unfold checkJobDone
  rw [if_neg (by simp [h])]
  rfl

theorem checkJobDone_ends {s : State} {id : Nat} (ans : HostAnswer) (hphase : (s.job id).phase = .running) (hlives : (s.job id).killed = none)
    (h : (s.job id).strokes.all Stroke.finished = true) : checkJobDone id ans s = if (s.job id).slot = none then finishJob id [] s else payloadRead id ans s := by
  unfold checkJobDone
  rw [if_pos (by simp [h, hphase, hlives])]
  cases (s.job id).slot with
  | none => rfl
  | some g => rfl

/-! ## The payload of a SLOT-mode job -/

theorem cacheSegs_congr {s t : State} (h : t.modeUnits = s.modeUnits) : t.cacheSegs = s.cacheSegs := by
  unfold State.cacheSegs
  rw [h]

theorem seg_congr {s t : State} (h : t.segs = s.segs) : t.seg = s.seg := by
  funext k
  unfold State.seg
  rw [h]

/-- How an access is answered rests on the segments, their modes, the unit that moves, and where the GDDR6 of its partition lies. -/
theorem judge_congr {F : List Field} {s t : State} (h : s.SameBut F t) (hsegs : Field.segs ∉ F) (hmodes : Field.modeUnits ∉ F) (hmove : Field.unitMove ∉ F)
    (hl : LaidOut (fun p => (s.part p).place) t) (p a n : Nat) : t.judge p false a n = s.judge p false a n := by
  have hseg : t.seg = s.seg := seg_congr (h.2 .segs hsegs)
  have hunits : t.modeUnits = s.modeUnits := h.2 .modeUnits hmodes
  have hmoves : t.unitMove = s.unitMove := h.2 .unitMove hmove
  have hmode : t.mode = s.mode := funext (fun k => by unfold State.mode; rw [hunits])
  have hcaches := cacheSegs_congr hunits
  have hcache : t.cacheOf = s.cacheOf := funext (fun x => by simp only [State.cacheOf, hcaches, hseg])
  have hservers : t.servers = s.servers := funext (fun x => funext (fun k => by simp only [State.servers, hcaches, hcache]))
  have hretries : t.segRetries = s.segRetries := funext (fun k => by simp only [State.segRetries, hseg, hunits, hmoves])
  have hserves : t.segServes = s.segServes := funext (fun x => funext (fun k => by simp only [State.segServes, hseg, hunits, hmode]))
  simp only [State.judge, hl.inPartGddr, hservers, hretries, hserves, hseg, Bool.false_and]

theorem plain_congr {F : List Field} {s t : State} (h : s.SameBut F t) (hmodes : Field.modeUnits ∉ F) (hpoison : Field.poisoned ∉ F) (hlines : Field.lines ∉ F)
    (hbad : Field.badWords ∉ F) (hgddr : Field.gddr ∉ F) (hp : s.Plain) : t.Plain where
  noCache := (cacheSegs_congr (h.2 .modeUnits hmodes)).trans hp.noCache
  noPoison := (h.2 .poisoned hpoison : t.poisoned = s.poisoned).trans hp.noPoison
  noLines := (h.2 .lines hlines : t.lines = s.lines).trans hp.noLines
  noBad := (h.2 .badWords hbad : t.badWords = s.badWords).trans hp.noBad
  answers := (congrArg Gddr.frozen (h.2 .gddr hgddr : t.gddr = s.gddr)).trans hp.answers

/-- The contents of a range in plain memory. -/
theorem bytesAt_congr {F : List Field} {s t : State} (h : s.SameBut F t) (hp : s.Plain) (ht : t.Plain) (hmem : Field.mem ∉ F) (hloc : Field.localMem ∉ F) (hsegs : Field.segs ∉ F) (a n : Nat) :
    t.bytesAt a n = s.bytesAt a n := by
  have hm : t.mem = s.mem := h.2 .mem hmem
  have hl : t.localMem = s.localMem := h.2 .localMem hloc
  have hseg : t.seg = s.seg := seg_congr (h.2 .segs hsegs)
  unfold State.bytesAt State.plateByte
  rw [hp.noCache, ht.noCache, hm, hl, hseg]
  rfl

/-- In plain memory the payload is read, and the job ends with it. -/
theorem payloadRead_plain {s : State} (hp : s.Plain) {id : Nat} (hjudge : s.judge (s.job id).part false (s.job id).resultAddr 48 = .ok) :
    (payloadRead id .ok).run s = (finishJob id (s.bytesAt (s.job id).resultAddr 48)).run ((memRequests { cls := 6 } false (s.job id).resultAddr 48).run s) := by
  have hb : s.badWordIn (s.job id).resultAddr 48 = none := by simp [State.badWordIn, hp.noBad]
  have hm : s.meetsPoison (s.job id).resultAddr 48 = false := by simp [State.meetsPoison, hp.noPoison, hp.noLines]
  have hplan : payloadRead id .ok s = Plan.andThen (Plan.andThen (memRequests { cls := 6 } false (s.job id).resultAddr 48) (gddrTouch (s.job id).resultAddr 48))
      (finishJob id (s.bytesAt (s.job id).resultAddr 48)) s := by
    unfold payloadRead
    simp only [hjudge, ne_eq, not_true_eq_false, if_false, hb, cachedRead, badCached_plain hp, hm, Bool.false_eq_true]
  rw [Plan.run_congr hplan, Plan.run_andThen, Plan.run_andThen]
  have hcaches : ((memRequests { cls := 6 } false (s.job id).resultAddr 48).run s).cacheSegs = [] :=
    (plain_congr ((memRequests_only ..).sameBut s) (by decide) (by decide) (by decide) (by decide) (by decide) hp).noCache
  have htouch : (gddrTouch (s.job id).resultAddr 48).run ((memRequests { cls := 6 } false (s.job id).resultAddr 48).run s) =
      (memRequests { cls := 6 } false (s.job id).resultAddr 48).run s := by
    rw [Plan.run_def]
    simp [gddrTouch, hcaches]
  rw [htouch]

theorem Plan.Only.slots_eq {F : List Field} {p : Plan} (h : Plan.Only F p) (s : State) (hf : Field.slots ∉ F) : (p.run s).slots = s.slots := h.same s hf

/-- The end of a job fills its slot with the payload. -/
theorem finishJob_fills {s : State} (hs : s.Wf) {id g : Nat} (payload : List Byte) (hslot : (s.job id).slot = some g) (hstatus : (s.job id).status ≤ 0x0F) :
    Tab.get {} ((finishJob id payload).run s).slots g = (Tab.get {} s.slots g).fill payload := by
  have hviol : ∀ r : Option (Nat × Option Nat), Plan.Only reportFields (match r with | some (_, some v) => violation (s.job id).fn v (s.queueLocal (s.job id).queue) | _ => Plan.skip) := fun r => by
    split
    · exact violation_only ..
    · exact Plan.only_skip
  have hact : (State.apply ((endParts id payload s).run s) (.jobs id {})).slots = ((endParts id payload s).run s).slots := State.apply_slots_same _ _ (by simp [Eff.field])
  rw [finishJob_run, settle_only.slots_eq _ (by decide), (drainedQueue_only _).slots_eq _ (by decide), hact, endParts, endSteps, hslot]
  rw [Plan.run_seq_cons, Plan.run_seq_cons, Plan.run_seq_cons, Plan.run_seq_cons, Plan.run_seq_cons, Plan.run_seq_cons, Plan.run_seq_cons, Plan.run_seq_nil]
  rw [(Plan.only_when (postCqe_only ..)).slots_eq _ (by decide), (freeFrames_side id).slots_eq _ (by decide), (releaseClaims_claims id).slots_eq _ (by decide),
    (slowdownEntry_only ..).slots_eq _ (by decide)]
  have hs1 := Plan.run_wf hs (match s.lateRefusal (s.job id) with | some (_, some v) => violation (s.job id).fn v (s.queueLocal (s.job id).queue) | _ => Plan.skip)
  have hslots := (hviol (s.lateRefusal (s.job id))).slots_eq s (by decide)
  generalize Plan.run (match s.lateRefusal (s.job id) with | some (_, some v) => violation (s.job id).fn v (s.queueLocal (s.job id).queue) | _ => Plan.skip) s = u at hs1 hslots ⊢
  have hs2 := Plan.run_wf hs1 (freeMutexes id)
  have hslots2 := ((freeMutexes_side id).slots_eq u (by decide)).trans hslots
  generalize (freeMutexes id).run u = v at hs2 hslots2 ⊢
  have hput : Tab.get {} (Tab.put {} v.slots g ((Tab.get {} v.slots g).fill payload)) g = (Tab.get {} s.slots g).fill payload := by
    rw [Tab.get_put hs2.slots, if_pos rfl, hslots2]
  rw [← hput, Plan.run_def]
  dsimp only
  rw [if_neg (Nat.not_lt.mpr hstatus)]
  rfl

/-! ## The clauses -/

section
variable {s : State} (hs : s.Wf) (hserves : s.svc.halted = false) {id i active stall : Nat} (hphase : (s.job id).phase = .running) (hlives : (s.job id).killed = none)
  (hstate : ((s.job id).stroke i).state = .running) (hran : ((s.job id).stroke i).ran = true)
include hs hserves hphase hlives hstate hran

omit hs in
theorem exec_strokeComplete (ans : HostAnswer) : exec (.strokeComplete id i active stall ans) s = .next ((checkJobDone id ans).run (s.afterStroke id i active stall)) := by
  rw [← strokeComplete_run hphase hlives hstate hran]
  exact Plan.done_eq _ _ hserves

theorem exec_strokeComplete_others {ans : HostAnswer} (hother : ∃ k, k < (s.job id).strokes.length ∧ k ≠ i ∧ ((s.job id).stroke k).finished = false) :
    ∃ t, exec (.strokeComplete id i active stall ans) s = .next t ∧ ((t.job id).stroke i).state = .done ∧ ((t.job id).stroke i).place = none ∧
      (t.job id).phase = .running ∧ s.SameBut killFields t := by
  refine ⟨_, exec_strokeComplete hserves hphase hlives hstate hran ans, ?_⟩
  have hopen : ((s.afterStroke id i active stall).job id).strokes.all Stroke.finished = false := by
    obtain ⟨k, hk, hne, hfin⟩ := hother
    refine Bool.eq_false_iff.mpr (fun h => ?_)
    have := (afterStroke_finished hs id i active stall).mp h k hk hne
    rw [hfin] at this
    exact Bool.false_ne_true this
  rw [checkJobDone_stays ans hopen, afterStroke_stroke hs active stall (stroke_lt (by rw [hstate]; simp))]
  obtain ⟨hp, -⟩ := shape_fields (afterStroke_shape hs id i active stall)
  exact ⟨rfl, rfl, hp.trans hphase, (afterStroke_frame s id i active stall).mono (by decide)⟩

omit hserves hstate hran in
/-- With its last stroke a job ends: at once, or by reading its payload. -/
theorem afterStroke_ends (hlast : ∀ k, k < (s.job id).strokes.length → k ≠ i → ((s.job id).stroke k).finished = true) (ans : HostAnswer) :
    checkJobDone id ans (s.afterStroke id i active stall) =
      if (s.job id).slot = none then finishJob id [] (s.afterStroke id i active stall) else payloadRead id ans (s.afterStroke id i active stall) := by
  obtain ⟨hp, hk, -, hslot, -⟩ := shape_fields (afterStroke_shape hs id i active stall)
  rw [checkJobDone_ends ans (hp.trans hphase) (hk.trans hlives) ((afterStroke_finished hs id i active stall).mpr hlast), hslot]

theorem exec_strokeComplete_last {ans : HostAnswer} (hlast : ∀ k, k < (s.job id).strokes.length → k ≠ i → ((s.job id).stroke k).finished = true) (hslot : (s.job id).slot = none) :
    ∃ t, exec (.strokeComplete id i active stall ans) s = .next t ∧ (t.job id).phase = .gone ∧ s.SameBut finishFields t := by
  refine ⟨_, exec_strokeComplete hserves hphase hlives hstate hran ans, ?_⟩
  have hends := afterStroke_ends hs hphase hlives (active := active) (stall := stall) hlast ans
  rw [if_pos hslot] at hends
  rw [Plan.run_congr hends]
  exact ⟨finishJob_gone (afterStroke_wf hs id i active stall) id [], ((afterStroke_frame s id i active stall).mono (by decide)).trans ((finishJob_only id []).sameBut _)⟩

theorem exec_strokeComplete_slot {g : Nat} (hlast : ∀ k, k < (s.job id).strokes.length → k ≠ i → ((s.job id).stroke k).finished = true) (hslot : (s.job id).slot = some g) (hp : s.Plain)
    (hjudge : s.judge (s.job id).part false (s.job id).resultAddr 48 = .ok) (hstatus : (s.job id).status ≤ 0x0F) :
    ∃ t, exec (.strokeComplete id i active stall .ok) s = .next t ∧ (t.job id).phase = .gone ∧
      Tab.get {} t.slots g = (Tab.get {} s.slots g).fill (s.bytesAt (s.job id).resultAddr 48) ∧ s.SameBut finishFields t := by
  refine ⟨_, exec_strokeComplete hserves hphase hlives hstate hran .ok, ?_⟩
  have hends := afterStroke_ends hs hphase hlives (active := active) (stall := stall) hlast .ok
  rw [if_neg (by rw [hslot]; simp)] at hends
  obtain ⟨-, -, hpart, hslot1, haddr, hstatus1⟩ := shape_fields (afterStroke_shape hs id i active stall)
  dsimp only at hpart hslot1 haddr
  have hs1 := afterStroke_wf hs id i active stall
  have hframe := afterStroke_frame s id i active stall
  have hlayout := afterStroke_layout hs id i active stall
  rw [Plan.run_congr hends]
  generalize s.afterStroke id i active stall = u at hpart hslot1 haddr hstatus1 hs1 hframe hlayout
  have hplain : u.Plain := plain_congr hframe (by decide) (by decide) (by decide) (by decide) (by decide) hp
  have hread := payloadRead_plain hplain (id := id) (by rw [hpart, haddr, judge_congr hframe (by decide) (by decide) (by decide) hlayout]; exact hjudge)
  have hrequests := memRequests_only { cls := 6 } false (u.job id).resultAddr 48
  have hslots : u.slots = s.slots := hframe.2 .slots (by decide)
  have hbytes := bytesAt_congr hframe hp hplain (by decide) (by decide) (by decide) (s.job id).resultAddr 48
  rw [hread, haddr, hbytes]
  rw [haddr] at hrequests
  have hs2 := Plan.run_wf hs1 (memRequests { cls := 6 } false (s.job id).resultAddr 48)
  have hjob := hrequests.job_eq u (by decide) id
  have hslots2 := (hrequests.slots_eq u (by decide)).trans hslots
  have hframe2 := hrequests.sameBut u
  generalize (memRequests { cls := 6 } false (s.job id).resultAddr 48).run u = v at hs2 hjob hslots2 hframe2
  refine ⟨finishJob_gone hs2 id _, ?_, (hframe.mono (by decide)).trans ((hframe2.mono (by decide)).trans ((finishJob_only id _).sameBut v))⟩
  rw [finishJob_fills hs2 _ (by rw [hjob]; exact hslot1.trans hslot) (by rw [hjob, hstatus1]; exact hstatus), hslots2]

end

end Sys2Proof.Machine
end

section
/-! A stroke is saved at a boundary, on a cluster of the device (R49, R93, R137). -/
namespace Sys2Proof.Machine

/-! ## What a stretch of a stroke does besides its reads and writes -/

/-- A plan counts on the page of a cluster: it changes that page, the cluster, vectors and the passes of a job. -/
structure Plan.CountsOn (id n : Nat) (p : Plan) : Prop where
  only : Plan.Only [.regs, .vecs, .clusters, .jobs] p
  regs : ∀ page off, page < 0x100 → off < 0x1000 → page ≠ pgBC n → Plan.KeepsReg (regKey 0 page off) p
  job : Plan.Keeps (fun s => ((s.job id).killed, (s.job id).strokes.map Stroke.frame)) p

section
variable {id n : Nat}

theorem countsOn_skip : Plan.CountsOn id n Plan.skip := ⟨Plan.only_skip, fun _ _ _ _ _ => Plan.keeps_skip, Plan.keeps_skip⟩

theorem countsOn_andThen {p q : Plan} (hp : Plan.CountsOn id n p) (hq : Plan.CountsOn id n q) : Plan.CountsOn id n (Plan.andThen p q) :=
  ⟨Plan.only_andThen hp.only hq.only, fun page off h1 h2 h3 => Plan.keeps_andThen (hp.regs page off h1 h2 h3) (hq.regs page off h1 h2 h3), Plan.keeps_andThen hp.job hq.job⟩

theorem countsOn_seq : ∀ {ps : List Plan}, (∀ p ∈ ps, Plan.CountsOn id n p) → Plan.CountsOn id n (Plan.seq ps)
  | [], _ => countsOn_skip
  | p :: _, h => countsOn_andThen (h p List.mem_cons_self) (countsOn_seq (fun q hq => h q (List.mem_cons_of_mem p hq)))

theorem countsOn_when {b : Bool} {p : Plan} (hp : Plan.CountsOn id n p) : Plan.CountsOn id n (Plan.when b p) :=
  ⟨Plan.only_when hp.only, fun page off h1 h2 h3 => Plan.keeps_when (hp.regs page off h1 h2 h3), Plan.keeps_when hp.job⟩

theorem countsOn_of {p : Plan} (h : ∀ s, ∃ q : Plan, q.CountsOn id n ∧ p s = q s) : Plan.CountsOn id n p where
  only := ⟨fun s => by
    obtain ⟨q, hq, he⟩ := h s
    rw [he]
    exact hq.only.effs s⟩
  regs page off h1 h2 h3 := fun s hs => by
    obtain ⟨q, hq, he⟩ := h s
    rw [Plan.run_congr he]
    exact hq.regs page off h1 h2 h3 s hs
  job := fun s hs => by
    obtain ⟨q, hq, he⟩ := h s
    rw [Plan.run_congr he]
    exact hq.job s hs

/-- A plan that touches none of the registers and jobs. -/
theorem countsOn_cluster {p : Plan} (hp : Plan.Only [.clusters] p) : Plan.CountsOn id n p :=
  ⟨hp.mono (by decide), fun _ _ _ _ _ => hp.keepsReg (by decide) _, fun s _ => congrArg (fun j : Job => (j.killed, j.strokes.map Stroke.frame)) (hp.job_eq s (by decide) id)⟩

theorem countsOn_setReg {off : Nat} (hoff : off < 0x1000) (v : State → Nat) : Plan.CountsOn id n (fun s => setReg 0 (pgBC n) off (v s) s) where
  only := ⟨fun s => ((setReg_only ..).mono (by decide)).effs s⟩
  regs page o hpage ho hne := fun s => setReg_keepsReg (k := regKey 0 page o) (by unfold regKey pgBC at *; omega) _ s
  job := fun _ _ => rfl

theorem countsOn_raiseErr (b : Nat) (cap : List Nat) (m : Nat) : Plan.CountsOn id n (raiseErr (pgBC n) b cap m) where
  only := (raiseErr_only ..).mono (by decide)
  regs page o hpage ho hne := raiseErr_keepsReg (fun fn off hoff => by unfold regKey pgBC at *; omega) b cap m
  job := fun s _ => congrArg (fun j : Job => (j.killed, j.strokes.map Stroke.frame)) ((raiseErr_only ..).job_eq s (by decide) id)

theorem countsOn_issuePass (right : Bool) (ncol wAt aAt gated : Nat) (x : PassIn) (next : Option Stationary) :
    Plan.CountsOn id n (issuePass n right ncol wAt aAt gated x next) := by
  have hsteps : ∀ a b c d : Nat, ∀ cl : Cluster, Plan.CountsOn id n (Plan.seq [bumpWrap (pgBC n) 0x10C a, bumpWrap (pgBC n) 0x110 b, bumpWrap (pgBC n) 0x114 c, bumpWrap (pgBC n) 0x118 d,
      Plan.act (.clusters n cl)]) := fun a b c d cl => countsOn_seq (fun p hp => by
    simp only [List.mem_cons, List.not_mem_nil, or_false] at hp
    rcases hp with rfl | rfl | rfl | rfl | rfl
    · exact countsOn_setReg (by decide) _
    · exact countsOn_setReg (by decide) _
    · exact countsOn_setReg (by decide) _
    · exact countsOn_setReg (by decide) _
    · exact countsOn_cluster (Plan.only_act (by simp [Eff.field])))
  exact countsOn_of (fun s => ⟨_, hsteps _ _ _ _ _, rfl⟩)

theorem countsOn_issueAll (right : Bool) (x : Mm) (pr : Product) : ∀ (gs : List PassGeom) (now : Nat), Plan.CountsOn id n (issueAll n right x pr now gs)
  | [], _ => countsOn_skip
  | _ :: gs, _ => countsOn_andThen (countsOn_issuePass ..) (countsOn_issueAll right x pr gs 0)

theorem countsOn_mmCounters (o : MmOut) : Plan.CountsOn id n (mmCounters n o) := countsOn_seq (fun p hp => by
  simp only [List.mem_cons, List.not_mem_nil, or_false] at hp
  rcases hp with rfl | rfl | rfl | rfl
  · exact countsOn_setReg (by decide) _
  · exact countsOn_when (countsOn_raiseErr ..)
  · exact countsOn_setReg (by decide) _
  · exact countsOn_setReg (by decide) _)

theorem countsOn_attnCounters (units empty trunc : Nat) (o : TensorOut) : Plan.CountsOn id n (attnCounters n units empty trunc o) := countsOn_seq (fun p hp => by
  simp only [List.mem_cons, List.not_mem_nil, or_false] at hp
  rcases hp with rfl | rfl | rfl | rfl | rfl
  all_goals exact countsOn_setReg (by decide) _)

theorem countsOn_countPasses (i c : Nat) : Plan.CountsOn id n (countPasses id i c) where
  only := (modJob_only ..).mono (by decide)
  regs _ _ _ _ _ := (modJob_only ..).keepsReg (by decide) _
  job := fun s hs => by
    have hjob : ((countPasses id i c).run s).job id = { s.job id with strokes := (s.job id).strokes.modify i (fun t => { t with passes := c }) } := job_put_same hs id _
    dsimp only
    rw [hjob]
    refine Prod.ext rfl (List.ext_getElem? (fun k => ?_))
    dsimp only
    rw [List.getElem?_map, List.getElem?_map, List.getElem?_modify]
    cases (s.job id).strokes[k]? with
    | none => rfl
    | some t =>
      simp only [Option.map_eq_map, Option.map_some]
      split
      · rfl
      · rfl

end

/-! ## What a stroke comes to at its boundary -/

/-- What a stroke under pre-emption comes to (R93, R137): `i` tiles in, from free values `f` and `g`. -/
def saveOut (id i now tiles f g : Nat) (s : State) (j : Job) (t : Stroke) : SaveOut := if t.cls = 1 then mmSave id i now tiles f g s j t else attnSave tiles g s j t

/-- What it does besides its reads and writes counts on its own cluster. -/
theorem saveOut_counts {id i now tiles f g : Nat} {s : State} {j : Job} {t : Stroke} {pl : Place} (hplace : t.place = some pl)
    (hpass : (saveOut id i now tiles f g s j t).out.check = none) : Plan.CountsOn id pl.cluster (saveOut id i now tiles f g s j t).out.more := by
  unfold saveOut at hpass ⊢
  split
  next hcls =>
    rw [if_pos hcls] at hpass
    unfold mmSave at hpass ⊢
    dsimp only at hpass ⊢
    rw [hplace] at hpass ⊢
    split at hpass
    · exact absurd hpass (by simp)
    next hcheck =>
      simp only [Option.getD_some]
      exact countsOn_seq (fun p hp => by
        simp only [List.mem_cons, List.not_mem_nil, or_false] at hp
        rcases hp with rfl | rfl | rfl
        · exact countsOn_issueAll ..
        · exact countsOn_mmCounters _
        · exact countsOn_countPasses ..)
  next hcls =>
    have hat : ((attnOf s j t).t.place.map Place.cluster).getD 0 = pl.cluster := by
      show (t.place.map Place.cluster).getD 0 = pl.cluster
      rw [hplace]
      rfl
    unfold attnSave
    dsimp only
    unfold Attn.runTo
    split
    · exact countsOn_skip
    · split
      · unfold Attn.fwdTo
        dsimp only
        rw [hat]
        exact countsOn_attnCounters ..
      · unfold Attn.bwdTo
        dsimp only
        rw [hat]
        exact countsOn_attnCounters ..
      · exact countsOn_skip

/-! ## The save frame -/

/-- Which area of a unit a write would enter rests on their bases and what uses them. -/
theorem foreign_congr {s t : State} (hbases : t.bases = s.bases) (hsessions : t.sessions = s.sessions) (hpools : t.pools = s.pools) (hcfg : t.reg 0 pgLET 0x114 = s.reg 0 pgLET 0x114)
    (hlo : t.reg 0 pgPOL 0x100 = s.reg 0 pgPOL 0x100) (hhi : t.reg 0 pgPOL 0x104 = s.reg 0 pgPOL 0x104) (stops : Bool) (a n : Nat) : t.foreign stops a n = s.foreign stops a n := by
  have hbase : ∀ page off, t.base page off = s.base page off := fun page off => by
    unfold State.base
    rw [hbases]
  have hlet : t.letForeign stops a n = s.letForeign stops a n := by simp only [State.letForeign, hbase, hsessions, hcfg]
  have hpol : t.polForeign a n = s.polForeign a n := by simp only [State.polForeign, State.refBase, hpools, hlo, hhi]
  unfold State.foreign
  rw [hlet, hpol]

/-- In plain memory, and outside the areas of the units, a save frame is written. -/
theorem saveFrame_plain {s : State} (hp : s.Plain) (id i : Nat) {a : Nat} (seq acc : List Byte) (hfree : s.foreign false a 0x101000 = none) :
    (saveFrame id i a seq acc).run s = { s with mem := s.framed a seq acc } := by
  rw [Plan.run_def]
  unfold saveFrame State.framed
  by_cases hregion : regionOf a 0x101000 = .gddr
  · rw [if_neg (by simp [hregion, hp.answers]), hfree]
    dsimp only
    rw [if_neg (by simp [partialOnPoison_plain hp]), if_pos hregion, ← Plan.run_def, Plan.run_andThen]
    have hfirst : (gddrStore 0 a seq).run s = { s with mem := Tab.putList 0 s.mem a seq } := by
      rw [Plan.run_def, gddrStore_plain hp]
      rfl
    have hp1 : State.Plain { s with mem := Tab.putList 0 s.mem a seq } := ⟨hp.noCache, hp.noPoison, hp.noLines, hp.noBad, hp.answers⟩
    rw [hfirst, Plan.run_def, gddrStore_plain hp1]
    rfl
  · rw [if_pos (by simp [hregion]), if_neg hregion]
    rfl

/-! ## The saved stroke -/

/-- A stroke that has been saved (R49). -/
def savedStroke (pl : Place) (q : SaveOut) (t : Stroke) : Stroke :=
  { t with state := .preempted, place := none, preempting := false, preemptFor := none, tilesDone := q.done, begun := false, savedSplit := pl.isHalf, savedSlots := q.slots, accOrder := q.order }

/-- A saved stroke leaves its unit, counted in its partition. -/
def saveEnd (id i part : Nat) (pl : Place) (q : SaveOut) : Plan :=
  Plan.seq [leaveUnit id i pl, modStroke id i (savedStroke pl q), (fun s => [.parts part { s.part part with preempts := satAdd 0xFFFFFFFF (s.part part).preempts 1 }]), settle]

theorem saveEnd_only (id i part : Nat) (pl : Place) (q : SaveOut) : Plan.Only [.clusters, .jobs, .parts] (saveEnd id i part pl q) :=
  Plan.only_seq_cons ((leaveUnit_only ..).mono (by decide)) (Plan.only_seq_cons ((modStroke_only ..).mono (by decide))
    (Plan.only_seq_cons ⟨fun _ => EffsIn.one (by simp [Eff.field])⟩ (Plan.only_seq_cons (settle_only.mono (by decide)) Plan.only_seq_nil)))

theorem saveEnd_stroke {s : State} (hs : s.Wf) {id i : Nat} (part : Nat) (pl : Place) (q : SaveOut) (hi : i < (s.job id).strokes.length) :
    (((saveEnd id i part pl q).run s).job id).stroke i = savedStroke pl q ((s.job id).stroke i) := by
  have hleave := (leaveUnit_only id i pl).job_eq s (by decide) id
  have hs1 := Plan.run_wf hs (leaveUnit id i pl)
  rw [saveEnd, Plan.run_seq_cons, Plan.run_seq_cons, Plan.run_seq_cons, Plan.run_seq_cons, Plan.run_seq_nil]
  generalize (leaveUnit id i pl).run s = u at hleave hs1
  have hs2 := Plan.run_wf hs1 (modStroke id i (savedStroke pl q))
  have hmod := modStroke_job hs1 id id i (savedStroke pl q)
  rw [if_pos rfl, hleave] at hmod
  have hstroke := stroke_modify (s.job id) i i (savedStroke pl q) u.ticks
  rw [if_pos ⟨rfl, hi⟩, ← hmod] at hstroke
  generalize (modStroke id i (savedStroke pl q)).run u = v at hs2 hstroke
  have hcount : Plan.Only [.parts] (fun s => [.parts part { s.part part with preempts := satAdd 0xFFFFFFFF (s.part part).preempts 1 }]) := ⟨fun _ => EffsIn.one (by simp [Eff.field])⟩
  have hpart := hcount.job_eq v (by decide) id
  have hs3 := Plan.run_wf hs2 (fun s => [.parts part { s.part part with preempts := satAdd 0xFFFFFFFF (s.part part).preempts 1 }])
  generalize Plan.run (fun s => [.parts part { s.part part with preempts := satAdd 0xFFFFFFFF (s.part part).preempts 1 }]) v = w at hpart hs3
  have hstate : ((w.job id).stroke i).state = .preempted := by
    rw [hpart, hstroke]
    rfl
  rw [stroke_of_cores (congrArg Job.strokes (settle_keepsCore id w hs3)) (by rw [hstate]; simp) (by rw [hstate]; simp), hpart, hstroke]

theorem saveEnd_preempts {s : State} (hs : s.Wf) (id i part : Nat) (pl : Place) (q : SaveOut) :
    (((saveEnd id i part pl q).run s).part part).preempts = satAdd 0xFFFFFFFF (s.part part).preempts 1 := by
  have hleave : ((leaveUnit id i pl).run s).part part = s.part part := congrArg (fun t => Tab.get ({} : Part) t part) ((leaveUnit_only ..).parts_eq s (by decide))
  have hs1 := Plan.run_wf hs (leaveUnit id i pl)
  rw [saveEnd, Plan.run_seq_cons, Plan.run_seq_cons, Plan.run_seq_cons, Plan.run_seq_cons, Plan.run_seq_nil]
  generalize (leaveUnit id i pl).run s = u at hleave hs1
  have hmod : ((modStroke id i (savedStroke pl q)).run u).part part = u.part part := congrArg (fun t => Tab.get ({} : Part) t part) ((modStroke_only ..).parts_eq u (by decide))
  have hs2 := Plan.run_wf hs1 (modStroke id i (savedStroke pl q))
  generalize (modStroke id i (savedStroke pl q)).run u = v at hmod hs2
  have hput := part_put hs2 part { v.part part with preempts := satAdd 0xFFFFFFFF (v.part part).preempts 1 } part
  rw [if_pos rfl] at hput
  refine (settle_keepsPart (π := Part.preempts) part (fun _ _ => rfl) _ (Plan.run_wf hs2 _)).trans ((congrArg Part.preempts hput).trans ?_)
  rw [hmod, hleave]

/-! ## The pre-emption -/

theorem withFree_run (f : Nat → Plan) (s : State) : (withFree f).run s = (f (Config.freeValue s.fresh)).run { s with fresh := s.fresh + 1 } := by
  rw [Plan.run_def]
  unfold withFree
  rw [← Plan.run_def, Plan.run_andThen]
  rfl

/-- A stroke that runs under pre-emption, its operation not yet carried out. -/
def State.saving (id i : Nat) (s : State) : Bool := let j := s.job id; let t := j.stroke i; j.phase = .running && j.killed.isNone && t.state = .running && t.preempting && !t.ran

/-- How a pre-emption ends: the frame, and where that did not kill the job the saved stroke. -/
def saveLast (id i a part : Nat) (pl : Place) (q : SaveOut) : Plan :=
  Plan.seq [saveFrame id i a (q.seq ++ leBytes 1 q.slots) q.acc, Plan.look (fun s1 => Plan.when ((s1.job id).killed.isNone) (saveEnd id i part pl q))]

/-- A pre-emption from its free values on. -/
def saveFrom (id i tiles now k : Nat) (pl : Place) (j : Job) (t : Stroke) (f g : Nat) : Plan := fun u =>
  carryOut id i (saveOut id i now tiles f g u j t).out (State.saving id i) (saveLast id i ((u.part j.part).saveBase + k * 0x101000) j.part pl (saveOut id i now tiles f g u j t)) u

theorem saveFrom_run (id i tiles now k : Nat) (pl : Place) (j : Job) (t : Stroke) (f g : Nat) (u : State) :
    (saveFrom id i tiles now k pl j t f g).run u =
      (carryOut id i (saveOut id i now tiles f g u j t).out (State.saving id i) (saveLast id i ((u.part j.part).saveBase + k * 0x101000) j.part pl (saveOut id i now tiles f g u j t))).run u := by
  refine Plan.run_congr ?_
  unfold saveFrom
  rfl

section
variable {s : State} {id i k : Nat} {pl : Place} (tiles now : Nat) (hphase : (s.job id).phase = .running) (hlives : (s.job id).killed = none)
  (hstate : ((s.job id).stroke i).state = .running) (hpre : ((s.job id).stroke i).preempting = true) (hran : ((s.job id).stroke i).ran = false)
  (hframe : ((s.job id).stroke i).frame = some k) (hplace : ((s.job id).stroke i).place = some pl) (hretry : s.hasRetry id i = false)
include hphase hlives hstate hpre hran hframe hplace hretry

theorem preemptSave_run : (preemptSave id i tiles now).run s =
    (saveFrom id i tiles now k pl (s.job id) ((s.job id).stroke i) (Config.freeValue s.fresh) (Config.freeValue (s.fresh + 1))).run { s with fresh := s.fresh + 2 } := by
  have hsaving : s.saving id i = true := by simp [State.saving, hphase, hlives, hstate, hpre, hran]
  have hplan : preemptSave id i tiles now s = withFree (fun f => withFree (saveFrom id i tiles now k pl (s.job id) ((s.job id).stroke i) f)) s := by
    have hon : (s.saving id i && !s.hasRetry id i) = true := by rw [hsaving, hretry]; rfl
    unfold State.saving at hon
    unfold preemptSave saveFrom saveOut saveLast saveEnd savedStroke State.saving
    simp only [hframe, hplace]
    rw [if_pos hon]
  rw [Plan.run_congr hplan, withFree_run, withFree_run]

end

/-! ## What stands before the frame is written -/

theorem storeAll_wf (id : Nat) : ∀ (ws : List (Nat × List Byte)) {s : State}, s.Wf → (s.storeAll id ws).Wf
  | [], _, h => h
  | w :: ws, _, h => storeAll_wf id ws (storeFor_wf h id w)

/-- An operation that has begun and whose writes are visible differs in contents of memory, claims, requests and free values. -/
theorem begun_over (s : State) (id i : Nat) (o : OpOut) : ∃ m c ch l f, (s.began id i o).storeAll id o.writes = s.over m c ch l f := by
  have hbegan := began_eq s id i o
  have hstore := storeAll_eq id o.writes (s.began id i o)
  generalize s.began id i o = u at hbegan hstore ⊢
  rw [hstore, hbegan]
  exact ⟨_, _, _, _, _, rfl⟩

theorem over_frame (s : State) (m : Tab Byte) (c : Tab Nat) (ch : Tab Channel) (l : Tab Byte) (f : Nat) : s.SameBut [.mem, .claims, .channels, .localMem, .fresh] (s.over m c ch l f) := by
  refine ⟨rfl, fun x hx => ?_⟩
  cases x
  case mem | claims | channels | localMem | fresh => exact absurd (by decide) hx
  all_goals rfl

theorem mem_frame (s : State) (m : Tab Byte) : s.SameBut [.mem] { s with mem := m } := by
  refine ⟨rfl, fun x hx => ?_⟩
  cases x
  case mem => exact absurd (by decide) hx
  all_goals rfl

/-- The state in which a stroke that is saved writes its frame. -/
structure Savable (s : State) (id i k a : Nat) (w : State) : Prop where
  wf : w.Wf
  plain : w.Plain
  free : w.foreign false a 0x101000 = none
  lives : (w.job id).killed = none
  stands : i < (w.job id).strokes.length
  frame : ((w.job id).stroke i).frame = some k
  parts : w.parts = s.parts
  same : s.SameBut [.fresh, .mem, .claims, .channels, .localMem, .regs, .vecs, .clusters, .jobs] w

theorem stroke_frame (j : Job) (i : Nat) : (j.stroke i).frame = ((j.strokes.map Stroke.frame)[i]?).getD none := by
  unfold Job.stroke
  rw [List.getElem?_map]
  cases j.strokes[i]? with
  | none => rfl
  | some t => rfl

/-- What a stretch of a stroke does leaves it savable, on a cluster whose page is not the lettering engine's. -/
theorem savable_of_counts {s : State} (hs : s.Wf) {id i k a n f : Nat} {o : OpOut} (hadmits : State.Admits { s with fresh := f } id i o) (hcounts : o.more.CountsOn id n) (hn : pgLET ≠ pgBC n)
    (hlives : (s.job id).killed = none) (hi : i < (s.job id).strokes.length) (hframe : ((s.job id).stroke i).frame = some k) (hfree : s.foreign false a 0x101000 = none) :
    Savable s id i k a (o.more.run ((State.began { s with fresh := f } id i o).storeAll id o.writes)) := by
  have hs1 : State.Wf { s with fresh := f } := Plan.run_wf hs (Plan.act (.fresh f))
  have hs2 := storeAll_wf id o.writes (began_wf hs1 id i o)
  obtain ⟨m, c, ch, l, g, hover⟩ := begun_over { s with fresh := f } id i o
  have hover2 : (State.began { s with fresh := f } id i o).storeAll id o.writes = s.over m c ch l g := hover
  have hplain : (s.over m c ch l g).Plain := ⟨hadmits.plain.noCache, hadmits.plain.noPoison, hadmits.plain.noLines, hadmits.plain.noBad, hadmits.plain.answers⟩
  rw [hover2] at hs2 ⊢
  have hbefore := over_frame s m c ch l g
  have hforeign := foreign_over s m c ch l g false a 0x101000
  have hjob : (s.over m c ch l g).job id = s.job id := rfl
  have hparts : (s.over m c ch l g).parts = s.parts := rfl
  generalize s.over m c ch l g = u at hs2 hplain hbefore hforeign hjob hparts
  have hafter := hcounts.only.sameBut u
  have hpol : pgPOL ≠ pgBC n := by unfold pgPOL pgBC; omega
  have hpair := hcounts.job u hs2
  dsimp only at hpair
  rw [hjob] at hpair
  have hkilled := congrArg Prod.fst hpair
  have hframes := congrArg Prod.snd hpair
  dsimp only at hkilled hframes
  exact
    { wf := Plan.run_wf hs2 _
      plain := plain_congr hafter (by decide) (by decide) (by decide) (by decide) (by decide) hplain
      free := (foreign_congr (hafter.2 .bases (by decide)) (hafter.2 .sessions (by decide)) (hafter.2 .pools (by decide)) ((hcounts.regs _ _ (by decide) (by decide) hn).reg hs2)
        ((hcounts.regs _ _ (by decide) (by decide) hpol).reg hs2) ((hcounts.regs _ _ (by decide) (by decide) hpol).reg hs2) ..).trans (hforeign.trans hfree)
      lives := hkilled.trans hlives
      stands := by
        have hlen := congrArg List.length hframes
        rw [List.length_map, List.length_map] at hlen
        rw [hlen]
        exact hi
      frame := by rw [stroke_frame, hframes, ← stroke_frame, hframe]
      parts := ((hcounts.only.parts_eq u (by decide))).trans hparts
      same := (hbefore.mono (by decide)).trans (hafter.mono (by decide)) }

/-- What a pre-emption whose frame has been written leaves, whatever memory then holds. -/
theorem saveEnd_saves {s w : State} {id i k a : Nat} (h : Savable s id i k a w) {m : Tab Byte} (hv : State.Wf { w with mem := m }) (part : Nat) (pl : Place) (q : SaveOut) {t : State}
    (ht : t = (saveEnd id i part pl q).run { w with mem := m }) :
    ((t.job id).stroke i).state = .preempted ∧ ((t.job id).stroke i).place = none ∧ ((t.job id).stroke i).tilesDone = q.done ∧ ((t.job id).stroke i).frame = some k ∧
      t.mem = m ∧ (t.part part).preempts = satAdd 0xFFFFFFFF (s.part part).preempts 1 ∧ s.SameBut ([.fresh, .jobs, .clusters, .localMem, .claims] ++ gddrFields) t := by
  have hstroke := saveEnd_stroke hv (id := id) (i := i) part pl q h.stands
  have hpreempts := saveEnd_preempts hv id i part pl q
  have hend := saveEnd_only id i part pl q
  have hpart : w.part part = s.part part := congrArg (fun t => Tab.get ({} : Part) t part) h.parts
  subst ht
  rw [hstroke]
  refine ⟨rfl, rfl, rfl, h.frame, hend.mem_eq _ (by decide), ?_, (h.same.mono (by decide)).trans (((mem_frame w m).mono (by decide)).trans ((hend.sameBut _).mono (by decide)))⟩
  rw [hpreempts]
  exact congrArg (fun x : Part => satAdd 0xFFFFFFFF x.preempts 1) hpart

theorem saveLast_run {s w : State} {id i k a : Nat} (h : Savable s id i k a w) (part : Nat) (pl : Place) (q : SaveOut) {m : Tab Byte}
    (hsave : (saveFrame id i a (q.seq ++ leBytes 1 q.slots) q.acc).run w = { w with mem := m }) : (saveLast id i a part pl q).run w = (saveEnd id i part pl q).run { w with mem := m } := by
  have hlives : (State.job { w with mem := m } id).killed = none := h.lives
  rw [saveLast, Plan.run_seq_cons, hsave, Plan.run_seq_cons, Plan.run_seq_nil, Plan.run_look, Plan.run_when, hlives, Option.isNone_none, if_pos rfl]

/-- A stroke that nothing hinders is saved at its boundary, on every cluster whose page is not the lettering engine's: on each of the device's sixteen. -/
theorem exec_preemptSave {s : State} (hs : s.Wf) (hserves : s.svc.halted = false) {id i k : Nat} {pl : Place} (tiles now : Nat) (hphase : (s.job id).phase = .running)
    (hlives : (s.job id).killed = none) (hstate : ((s.job id).stroke i).state = .running) (hpre : ((s.job id).stroke i).preempting = true) (hran : ((s.job id).stroke i).ran = false)
    (hframe : ((s.job id).stroke i).frame = some k) (hplace : ((s.job id).stroke i).place = some pl) (hretry : s.hasRetry id i = false) (hcluster : pgLET ≠ pgBC pl.cluster)
    {q : SaveOut} (hq : saveOut id i now tiles (Config.freeValue s.fresh) (Config.freeValue (s.fresh + 1)) { s with fresh := s.fresh + 2 } (s.job id) ((s.job id).stroke i) = q) {a : Nat}
    (ha : (s.part (s.job id).part).saveBase + k * 0x101000 = a) (hadmits : State.Admits { s with fresh := s.fresh + 2 } id i q.out) (hfree : s.foreign false a 0x101000 = none) :
    ∃ t, exec (.preemptSave id i tiles now) s = .next t ∧ ((t.job id).stroke i).state = .preempted ∧ ((t.job id).stroke i).place = none ∧ ((t.job id).stroke i).tilesDone = q.done ∧
      ((t.job id).stroke i).frame = some k ∧
      t.mem = (q.out.more.run ((State.began { s with fresh := s.fresh + 2 } id i q.out).storeAll id q.out.writes)).framed a (q.seq ++ leBytes 1 q.slots) q.acc ∧
      (t.part (s.job id).part).preempts = satAdd 0xFFFFFFFF (s.part (s.job id).part).preempts 1 ∧ s.SameBut ([.fresh, .jobs, .clusters, .localMem, .claims] ++ gddrFields) t := by
  have hcounts : q.out.more.CountsOn id pl.cluster := by
    have hpasses := hadmits.passes
    rw [← hq] at hpasses ⊢
    exact saveOut_counts hplace hpasses
  have hsavable := savable_of_counts hs hadmits hcounts hcluster hlives (stroke_lt (by rw [hstate]; simp)) hframe hfree
  have hon : ∀ v : State, v.jobs = s.jobs → State.saving id i v = true := fun v hv => by
    have hjob : v.job id = s.job id := congrArg (fun t => Tab.get ({} : Job) t id) hv
    simp [State.saving, hjob, hphase, hlives, hstate, hpre, hran]
  have hrun := preemptSave_run tiles now hphase hlives hstate hpre hran hframe hplace hretry
  have hbase : ((State.part { s with fresh := s.fresh + 2 } (s.job id).part).saveBase + k * 0x101000) = a := ha
  have hs1 : State.Wf { s with fresh := s.fresh + 2 } := Plan.run_wf hs (Plan.act (.fresh (s.fresh + 2)))
  rw [saveFrom_run, hq, hbase, carryOut_admitted (saveLast id i a (s.job id).part pl q) hs1 hphase hlives hadmits hon] at hrun
  have hsave := saveFrame_plain hsavable.plain id i (q.seq ++ leBytes 1 q.slots) q.acc hsavable.free
  have hv := Plan.run_wf hsavable.wf (saveFrame id i a (q.seq ++ leBytes 1 q.slots) q.acc)
  rw [hsave] at hv
  exact ⟨_, Plan.done_eq _ _ hserves, saveEnd_saves hsavable hv (s.job id).part pl q (hrun.trans (saveLast_run hsavable (s.job id).part pl q hsave))⟩

end Sys2Proof.Machine
end

section
/-! A pre-emption whose save frame is dropped: the boundary of a matrix stroke that stands on no cluster of the device (R49, R93, R171). -/
namespace Sys2Proof.Machine

/-- The descriptor of a matrix of one element in GDDR6: where it lies, its format and the size of an element. -/
def oneByOne (addr fmt size : Nat) : List Byte :=
  leBytes 8 addr ++ zeros 8 ++ [BitVec.ofNat 8 fmt, 0, 2, 0] ++ (leBytes 4 1 ++ leBytes 4 1 ++ zeros 8) ++ (leBytes 8 size ++ leBytes 8 size ++ leBytes 6 size) ++ zeros 6

/-- The device with a product of two elements under pre-emption on cluster 128. The page of that cluster would be the lettering engine's, and the count of its stall cycles the size of the
mask cache: 256 stall cycles give the mask cache one segment of 256 KiB from address 0 on, where the save frame begins. -/
def strayState : State := { State.reset with
  svc := { stage := 2 }
  gddr := { trained := true }
  jobs := [(1, { phase := .running, count := 1, chunks := 1,
                 strokes := [{ cls := 1, op := 1, opnds := [0x1000, 0x2000, 0x3000, 0], state := .running, place := some (.whole 128), preempting := true, frame := some 0 }] })]
  regs := [(regKey 0 pgLET 0x114, 8)]
  clusters := [(128, { issueL := 1 })]
  mem := [(0x1000, oneByOne 0x100000 5 2), (0x2000, oneByOne 0x200000 5 2), (0x3000, oneByOne 0x300000 7 4)].foldl (fun t e => Tab.putList 0 t e.1 e.2) [] }

theorem strayState_wf : strayState.Wf := State.wf_of_wfB (by decide +kernel)

/-- Its pass makes the frame part of the mask cache: the frame is dropped, the job killed, and the stroke is not PREEMPTED. -/
theorem strayState_stays : ((((preemptSave 1 0 1 0).run strayState).job 1).stroke 0).state = .running := by decide +kernel

/-- Refutes O25, by its clause on pre-emption, which speaks of every place: on cluster 128, beyond the device's sixteen, the counters of a pass are registers of the lettering engine, and
make the frame part of the mask cache. On every other cluster that clause holds (`exec_preemptSave`), and the clauses on placement and completion hold as they stand (`exec_strokePlace`,
`exec_strokeComplete_others`, `exec_strokeComplete_last`, `exec_strokeComplete_slot`). -/
theorem not_strokesPlacedAndEnded : ¬ Obligations.StrokesPlacedAndEnded := by
  unfold Obligations.StrokesPlacedAndEnded
  rintro ⟨-, -, hpreempt⟩
  have hserves : strayState.svc.halted = false := by decide +kernel
  obtain ⟨t, hexec, hstate, -⟩ := hpreempt 1 0 1 0 0 (.whole 128) strayState strayState_wf hserves (by decide +kernel) (by decide +kernel) (by decide +kernel) (by decide +kernel)
    (by decide +kernel) (by decide +kernel) (by decide +kernel) (by decide +kernel)
    (State.admits_of (by decide +kernel)) (by decide +kernel)
  have hrun : exec (.preemptSave 1 0 1 0) strayState = .next ((preemptSave 1 0 1 0).run strayState) := Plan.done_eq _ _ hserves
  rw [hrun] at hexec
  injection hexec with ht
  rw [← ht, strayState_stays] at hstate
  exact absurd hstate (by decide)

end Sys2Proof.Machine
end

section
/-! The operations of the scheduler and SCH_SEM_CTRL (R38, R42, R43, R51, R52). -/
namespace Sys2Proof.Machine

/-! ## A page's register write that is let through -/

/-- A write to a page that is gated leaves, in a device that is open to the function, what any plan with the same effects leaves. -/
theorem exec_pageGate {p q : Plan} {s : State} {fn : Nat} (h : s.Open fn) (hpq : p s = q s) : Plan.done (pageGate fn p) s = .next (q.run s) :=
  Plan.done_hostGate h.serves h.answers ((if_neg h.notRecovery).trans hpq)

/-! ## An operation carried out -/

/-- An operation that has begun and whose writes are visible meets the job as it was. -/
theorem begun_job (s : State) (id i : Nat) (o : OpOut) (k : Nat) : ((s.began id i o).storeAll id o.writes).job k = s.job k := by
  obtain ⟨m, c, ch, l, f, hover⟩ := begun_over s id i o
  rw [hover]
  rfl

theorem begun_wf {s : State} (hs : s.Wf) (id i : Nat) (o : OpOut) : ((s.began id i o).storeAll id o.writes).Wf := storeAll_wf id _ (began_wf hs id i o)

/-- The mark on a stroke whose operation has been carried out leaves every other stroke of the job as it is. -/
theorem marked_stroke_other {s : State} (hs : s.Wf) (stays : Bool) {id i n : Nat} (h : n ≠ i) : ((s.marked stays id i).job id).stroke n = (s.job id).stroke n := by
  rw [← marked_eq, modStroke_job hs, if_pos rfl, stroke_modify, if_neg (fun hn => h hn.1.symm)]

/-- An operation that neither reads nor writes begins with its working space alone. -/
theorem began_frame_empty (s : State) (id i : Nat) {o : OpOut} (hreads : o.reads = []) (hwrites : o.writes = []) (halso : o.also = []) :
    s.SameBut [.localMem, .fresh] (s.began id i o) := by
  have hrequest : ∀ (src : MemSrc) (u : State), (requestAll src [] []).run u = u := fun _ _ => rfl
  rw [began_run, hreads, hwrites, halso, List.append_nil, hrequest]
  cases ((s.job id).stroke i).place with
  | none => exact Plan.only_skip.sameBut s
  | some pl => exact (Plan.only_when (workSpace_only pl _)).sameBut s

/-! ## sch.bucket -/

/-- Whether stroke `n` lies in the range of an entry other than entry `k` of a bucket table (R52). -/
def inOtherRange (buckets : List (Nat × Nat × Nat)) (k n : Nat) : Bool :=
  ((buckets.mapIdx (fun m b => (m, b))).filter (fun x => x.1 != k)).any (fun x => decide (x.2.2.1 ≤ n) && decide (n < x.2.2.1 + x.2.2.2))

theorem inOtherRange_of_entry {buckets : List (Nat × Nat × Nat)} {k n m : Nat} {b : Nat × Nat × Nat} (hm : m ≠ k) (hb : buckets[m]? = some b) (hlo : b.2.1 ≤ n)
    (hhi : n < b.2.1 + b.2.2) : inOtherRange buckets k n = true := by
  have hmem : (m, b) ∈ buckets.mapIdx (fun m b => (m, b)) := List.mem_iff_getElem?.mpr ⟨m, by rw [List.getElem?_mapIdx, hb]; rfl⟩
  refine List.any_eq_true.mpr ⟨(m, b), List.mem_filter.mpr ⟨hmem, by simpa using hm⟩, ?_⟩
  simp [hlo, hhi]

/-- The job of a sch.bucket stroke once the ranges of the entries other than `k` are skipped (R52). -/
def Job.skipOthers (j : Job) (buckets : List (Nat × Nat × Nat)) (k now : Nat) : Job :=
  { j with strokes := j.strokes.mapIdx (fun n t => if inOtherRange buckets k n then { t with state := .skipped } else t), changed := now }

theorem bucketOp_more {id i k : Nat} {s : State} {j : Job} {t : Stroke} (hfit : t.buckets.findIdx? (fun b => decide (s.numAt (t.opnds.getD 0 0) 4 ≤ b.1)) = some k) (u : State) :
    (bucketOp id i s j t).more.run u = u.apply (.jobs id ((u.job id).skipOthers t.buckets k s.ticks)) := by
  simp only [bucketOp, hfit]
  rfl

theorem skipOthers_stroke (j : Job) {buckets : List (Nat × Nat × Nat)} {k n : Nat} (now : Nat) (hn : n < j.strokes.length) (h : inOtherRange buckets k n = true) :
    ((j.skipOthers buckets k now).stroke n).state = .skipped := by
  simp [Job.stroke, Job.skipOthers, List.getElem?_mapIdx, List.getElem?_eq_getElem hn, h]

/-- A stroke in a range that does not fit the actual size is SKIPPED once sch.bucket has been carried out (R52). -/
theorem carried_bucketOp_skips {s : State} (hs : s.Wf) {id i k n : Nat}
    (hfit : ((s.job id).stroke i).buckets.findIdx? (fun b => decide (s.numAt (((s.job id).stroke i).opnds.getD 0 0) 4 ≤ b.1)) = some k) (hi : n ≠ i)
    (hn : n < (s.job id).strokes.length) (hother : inOtherRange ((s.job id).stroke i).buckets k n = true) :
    (((s.carried false id i (bucketOp id i s (s.job id) ((s.job id).stroke i))).job id).stroke n).state = .skipped := by
  have hu := begun_wf hs id i (bucketOp id i s (s.job id) ((s.job id).stroke i))
  have hjob := begun_job s id i (bucketOp id i s (s.job id) ((s.job id).stroke i)) id
  unfold State.carried
  rw [marked_stroke_other (Plan.run_wf hu _) _ hi, bucketOp_more hfit, job_put_same hu, hjob]
  exact skipOthers_stroke _ _ hn hother

/-! ## sch.semset -/

/-- A semaphore of a partition after an entry of the table is written. -/
theorem semOf_put_same {s : State} (hs : s.Wf) (p n : Nat) (m : Sem) : (s.apply (.sems ((s.part p).semFirst + n) m)).semOf p n = m :=
  (Tab.get_put hs.sems ..).trans (if_pos rfl)

/-- Evaluating the jobs leaves every semaphore as it is, and where a partition's begin. -/
theorem settle_semOf {s : State} (hs : s.Wf) (p n : Nat) : (settle.run s).semOf p n = s.semOf p n := by
  have hsems : (settle.run s).sems = s.sems := settle_only.same s (f := .sems) (by decide)
  have hfirst : ((settle.run s).part p).semFirst = (s.part p).semFirst := settle_keepsPart (π := Part.semFirst) p (fun _ _ => rfl) s hs
  unfold State.semOf
  rw [hsems, hfirst]

/-- What sch.semset does to a counter (R43). -/
def setCounter (p n v : Nat) : Plan := fun s => Plan.andThen (Plan.act (.sems ((s.part p).semFirst + n) { s.semOf p n with value := v })) settle s

theorem setCounter_only (p n v : Nat) : Plan.Only [.sems, .jobs, .parts] (setCounter p n v) :=
  ⟨fun s => (Plan.only_andThen (Plan.only_act (by simp [Eff.field])) (settle_only.mono (by decide))).effs s⟩

theorem setCounter_semOf {s : State} (hs : s.Wf) (p n v : Nat) : ((setCounter p n v).run s).semOf p n = { s.semOf p n with value := v } := by
  rw [Plan.run_def, setCounter, ← Plan.run_def, Plan.run_andThen, settle_semOf (Plan.run_wf hs _), Plan.run_act, semOf_put_same hs]

/-- sch.semset on a counter of a state that differs from the one it looked at in local memory and free values. -/
theorem semsetOp_more {i : Nat} {s u : State} {j : Job} {t : Stroke} (hcounter : (s.semOf j.part (fld t.param 27 16)).mutex = false) (hparts : u.parts = s.parts) (hsems : u.sems = s.sems) :
    (semsetOp i s j t).more.run u = (setCounter j.part (fld t.param 27 16) (fld t.param 15 0)).run u := by
  refine Plan.run_congr ?_
  have hpart : u.part j.part = s.part j.part := congrArg (fun x => Tab.get ({} : Part) x j.part) hparts
  have hsem : u.semOf j.part (fld t.param 27 16) = s.semOf j.part (fld t.param 27 16) := by
    unfold State.semOf
    rw [hpart, hsems]
  simp only [semsetOp, hcounter, Bool.false_eq_true, if_false, setCounter, hpart, hsem]

/-- sch.semset sets a counter to PARAM[15:0], and changes nothing but semaphores, jobs and what the evaluation of jobs and the working space change (R43). -/
theorem carried_semsetOp {s : State} (hs : s.Wf) {id i : Nat} (hcounter : (s.semOf (s.job id).part (fld ((s.job id).stroke i).param 27 16)).mutex = false) :
    (s.carried false id i (semsetOp i s (s.job id) ((s.job id).stroke i))).semOf (s.job id).part (fld ((s.job id).stroke i).param 27 16) =
        { s.semOf (s.job id).part (fld ((s.job id).stroke i).param 27 16) with value := fld ((s.job id).stroke i).param 15 0 } ∧
      s.SameBut [.sems, .jobs, .parts, .localMem, .fresh] (s.carried false id i (semsetOp i s (s.job id) ((s.job id).stroke i))) := by
  have hbegan := began_frame_empty s id i (o := semsetOp i s (s.job id) ((s.job id).stroke i)) rfl rfl rfl
  have hu := began_wf hs id i (semsetOp i s (s.job id) ((s.job id).stroke i))
  have hparts : (s.began id i (semsetOp i s (s.job id) ((s.job id).stroke i))).parts = s.parts := hbegan.2 .parts (by decide)
  have hsems : (s.began id i (semsetOp i s (s.job id) ((s.job id).stroke i))).sems = s.sems := hbegan.2 .sems (by decide)
  have hrun : s.carried false id i (semsetOp i s (s.job id) ((s.job id).stroke i)) =
      ((semsetOp i s (s.job id) ((s.job id).stroke i)).more.run (s.began id i (semsetOp i s (s.job id) ((s.job id).stroke i)))).marked false id i := rfl
  rw [hrun, semsetOp_more hcounter hparts hsems, ← marked_eq]
  generalize s.began id i (semsetOp i s (s.job id) ((s.job id).stroke i)) = u at hbegan hu hparts hsems
  have hset := setCounter_only (s.job id).part (fld ((s.job id).stroke i).param 27 16) (fld ((s.job id).stroke i).param 15 0)
  have hsem : u.semOf (s.job id).part (fld ((s.job id).stroke i).param 27 16) = s.semOf (s.job id).part (fld ((s.job id).stroke i).param 27 16) := by
    unfold State.semOf State.part
    rw [hparts, hsems]
  refine ⟨?_, (hbegan.mono (by decide)).trans (((hset.sameBut u).mono (by decide)).trans (((modStroke_only id i _).sameBut _).mono (by decide)))⟩
  show State.semOf (Plan.run _ u) _ _ = _
  rw [setCounter_semOf hu, hsem]

/-- Settles O27: each operation that nothing hinders is carried out, and what it then leaves is said by its own lemma. -/
theorem schedulerStrokes : Obligations.SchedulerStrokes := by
  unfold Obligations.SchedulerStrokes
  refine fun id i s => ⟨fun h => ⟨runOp_done h, fun k n hfit hi hn ⟨m, b, hm, hb, hlo, hhi⟩ => ?_⟩, fun h => runOp_done h, fun h hcounter => ?_⟩
  · exact carried_bucketOp_skips h.wf hfit hi hn (inOtherRange_of_entry hm hb hlo hhi)
  · exact ⟨_, runOp_done h, carried_semsetOp h.wf hcounter⟩

/-! ## SCH_SEM_CTRL -/

/-- The semaphore that a write of SCH_SEM_CTRL which is not ignored leaves (R42, R43). -/
def Sem.controlled (m : Sem) (v : Nat) : Sem := if bit v 31 then { mutex := true, value := 0, holder := m.holder } else { mutex := false, value := fld v 15 0, holder := 0 }

theorem schSemCtrlWrite_taken {fn v p : Nat} {s : State} (hpart : s.partOf fn = some p) (hsel : s.reg fn pgSCH 0x120 < (s.part p).semCount)
    (hfree : bit v 31 = (s.semOf p (s.reg fn pgSCH 0x120)).mutex ∨ (s.semOf p (s.reg fn pgSCH 0x120)).holder = 0 ∧ s.semHasWaiter p (s.reg fn pgSCH 0x120) = false) :
    schSemCtrlWrite fn v s =
      Plan.andThen (Plan.act (.sems ((s.part p).semFirst + s.reg fn pgSCH 0x120) ((s.semOf p (s.reg fn pgSCH 0x120)).controlled v))) settle s := by
  have hmode : (if bit v 31 != (s.semOf p (s.reg fn pgSCH 0x120)).mutex && ((s.semOf p (s.reg fn pgSCH 0x120)).holder != 0 || s.semHasWaiter p (s.reg fn pgSCH 0x120))
      then (s.semOf p (s.reg fn pgSCH 0x120)).mutex else bit v 31) = bit v 31 := by
    rcases hfree with hsame | ⟨hholder, hwaiter⟩
    · simp [hsame]
    · simp [hholder, hwaiter]
  simp only [schSemCtrlWrite, hpart, if_neg (Nat.not_le.mpr hsel), hmode, Sem.controlled]

/-- Settles O28: a write that is not ignored sets the semaphore, and the jobs are evaluated again. -/
theorem semaphoreControl : Obligations.SemaphoreControl := by
  unfold Obligations.SemaphoreControl
  intro fn v p s _ hopen hpart hsel n k hfree
  refine ⟨_, exec_pageGate hopen (schSemCtrlWrite_taken hpart hsel hfree), ?_, ?_⟩
  · rw [Plan.run_andThen]
    exact settle_only.same _ (f := .sems) (by decide)
  · exact (Plan.only_andThen (Plan.only_act (by simp [Eff.field])) (settle_only.mono (by decide))).sameBut s

end Sys2Proof.Machine
end

section
/-! Rules of the mode change: the units and the change as its operations leave them, and what the end of a change leaves standing (R54, R55). -/
namespace Sys2Proof.Machine

/-! ## Units and changes by number -/

theorem modeUnit_put {s : State} (hs : s.Wf) (k : Nat) (m : ModeUnit) (p : Nat) : (s.apply (.modeUnits k m)).modeUnit p = if p = k then m else s.modeUnit p :=
  Tab.get_put hs.modeUnits ..

theorem change_put {s : State} (hs : s.Wf) (k : Nat) (c : ModeChange) (fn : Nat) : (s.apply (.modeChanges k c)).change fn = if fn = k then c else s.change fn :=
  Tab.get_put hs.modeChanges ..

section
variable {F : List Field} {p : Plan} (h : Plan.Only F p) (s : State)
include h

theorem Plan.Only.modeUnit_eq (hf : Field.modeUnits ∉ F) (page : Nat) : (p.run s).modeUnit page = s.modeUnit page :=
  congrArg (fun t => Tab.get ({} : ModeUnit) t page) (h.same s hf : (p.run s).modeUnits = s.modeUnits)

theorem Plan.Only.change_eq (hf : Field.modeChanges ∉ F) (fn : Nat) : (p.run s).change fn = s.change fn :=
  congrArg (fun t => Tab.get ({} : ModeChange) t fn) (h.same s hf : (p.run s).modeChanges = s.modeChanges)

end

/-- A plan that changes one unit by `f` and no other unit. -/
def ChangesUnit (f : ModeUnit → ModeUnit) (page : Nat) (p : Plan) : Prop :=
  ∀ s, s.Wf → ∀ k, (p.run s).modeUnit k = if k = page then f (s.modeUnit page) else s.modeUnit k

/-- Each of several units is changed once. -/
theorem each_modeUnit {f : ModeUnit → ModeUnit} {p : Nat → Plan} (hp : ∀ page, ChangesUnit f page (p page)) : ∀ (pages : List Nat), pages.Nodup → ∀ {s : State}, s.Wf → ∀ k,
    ((Plan.each pages p).run s).modeUnit k = if k ∈ pages then f (s.modeUnit k) else s.modeUnit k
  | [], _, _, _, _ => rfl
  | page :: pages, hnd, s, hs, k => by
    obtain ⟨hpage, hnd⟩ := List.nodup_cons.mp hnd
    rw [Plan.run_each_cons, each_modeUnit hp pages hnd (Plan.run_wf hs _) k, hp page s hs k]
    by_cases h : k = page
    · rw [h, if_neg hpage, if_pos rfl, if_pos List.mem_cons_self]
    · rw [if_neg h]
      simp only [List.mem_cons, h, false_or]

theorem changesUnit_write (f : ModeUnit → ModeUnit) (page : Nat) : ChangesUnit f page (fun s => [.modeUnits page (f (s.modeUnit page))]) := fun _ hs k => modeUnit_put hs page _ k

/-! ## The units that a change takes in -/

/-- The keys that a canonical table lists are all different. -/
theorem Tab.keys_nodup {α : Type} : ∀ {b : Nat} {t : Tab α}, Tab.above b t = true → (t.map (·.1)).Nodup
  | _, [], _ => List.nodup_nil
  | b, x :: t, h => by
    simp only [Tab.above, Bool.and_eq_true] at h
    refine List.nodup_cons.mpr ⟨fun hmem => ?_, Tab.keys_nodup h.2⟩
    obtain ⟨e, he, hkey⟩ := List.mem_map.mp hmem
    have hle : x.1 + 1 ≤ e.1 := Tab.above_mem h.2 he
    exact absurd (hkey ▸ hle) (Nat.not_succ_le_self _)

theorem modeUnits_above {s : State} (hs : s.Wf) : Tab.above 0 s.modeUnits = true := (Bool.and_eq_true_iff.mp hs.modeUnits).1

/-- The pages of a selection of units are all different. -/
theorem pages_nodup {s : State} (hs : s.Wf) (q : Nat × ModeUnit → Bool) : ((s.modeUnits.filter q).map (·.1)).Nodup := Tab.keys_nodup (Tab.above_filter q (modeUnits_above hs))

/-- A change of a function takes in the units that show it as pending. -/
theorem mem_takenIn {s : State} (hs : s.Wf) {fn page : Nat} : page ∈ s.takenIn fn ↔ (s.modeUnit page).pending = fn + 1 := by
  constructor
  · intro hmem
    obtain ⟨⟨k, m⟩, hfilter, rfl⟩ := List.mem_map.mp hmem
    obtain ⟨he, hpending⟩ := List.mem_filter.mp hfilter
    have hunit : s.modeUnit k = m := Tab.get_of_mem (modeUnits_above hs) he
    rw [hunit]
    exact beq_iff_eq.mp hpending
  · intro hpending
    have hlisted : page ∈ s.modeUnits.map (·.1) := by
      by_contra hmem
      have hdefault : s.modeUnit page = {} := Tab.get_of_notMem hmem
      rw [hdefault] at hpending
      exact absurd hpending (by simp)
    obtain ⟨⟨k, m⟩, he, rfl⟩ := List.mem_map.mp hlisted
    have hunit : s.modeUnit k = m := Tab.get_of_mem (modeUnits_above hs) he
    rw [hunit] at hpending
    exact List.mem_map.mpr ⟨(k, m), List.mem_filter.mpr ⟨he, beq_iff_eq.mpr hpending⟩, rfl⟩

/-! ## The rollback -/

/-- A unit that a rollback returns to its old mode (R55). -/
def ModeUnit.reverted (m : ModeUnit) : ModeUnit := { m with armed := false, applied := false, rolledBack := true, pending := 0, current := if m.applied then m.old else m.current }

/-- The tags and the mask cache of a unit as a rollback leaves them (R147, R181). -/
def revertCaches (page : Nat) (m : ModeUnit) : Plan :=
  match modePage page with
  | some (1, n) => Plan.when (m.applied && m.current != m.old) (coldCache n)
  | some (5, _) => Plan.when (m.applied && bit m.current 1 && !bit m.old 1) emptyMasks
  | _ => Plan.skip

theorem revertCaches_only (page : Nat) (m : ModeUnit) : Plan.Only [.lines, .plru, .maskTags] (revertCaches page m) := rollbackCache_only page m

theorem rollbackUnit_eq (page : Nat) (s : State) :
    rollbackUnit page s = Plan.andThen (revertCaches page (s.modeUnit page)) (Plan.act (.modeUnits page (s.modeUnit page).reverted)) s := rfl

theorem rollbackUnit_changesUnit (page : Nat) : ChangesUnit ModeUnit.reverted page (rollbackUnit page) := by
  intro s hs k
  rw [Plan.run_congr (rollbackUnit_eq page s), Plan.run_andThen, Plan.run_act, modeUnit_put (Plan.run_wf hs _), (revertCaches_only page _).modeUnit_eq s (by decide)]

/-- The change of a function that a rollback ends (R55). -/
def ModeChange.reverted (c : ModeChange) : ModeChange := { c with state := .rolledBack, result := 0x40, byStroke := none }

/-- The first part of a rollback: the units return, and the change shows it. -/
def rollbackUnits (fn : Nat) : Plan := fun s => Plan.andThen (Plan.each (s.takenIn fn) rollbackUnit) (fun s => [.modeChanges fn (s.change fn).reverted]) s

/-- What follows in a rollback: the job of the committing stroke is killed, and vector 0 (R55). -/
def rollbackRest (after : Plan) (fn : Nat) (quiet : Bool) (c : ModeChange) : Plan :=
  Plan.seq [
    (match c.byStroke with
     | some (id, _) => fun s => if (s.job id).phase = .running ∧ (s.job id).killed.isNone then
         Plan.andThen (modJob id (fun j => { j with rollback := true })) (killJob id 0x40) s else []
     | none => Plan.skip),
    Plan.when (!quiet) (sendVec fn 0), after]

theorem rollbackThen_run {s : State} {fn : Nat} (h : (s.change fn).state = .pending) (after : Plan) (quiet : Bool) :
    (rollbackThen after fn quiet).run s = (rollbackRest after fn quiet (s.change fn)).run ((rollbackUnits fn).run s) := by
  have hplan : rollbackThen after fn quiet s =
      Plan.seq ([Plan.each (s.takenIn fn) rollbackUnit, (fun s => [.modeChanges fn (s.change fn).reverted])] ++ [
        (match (s.change fn).byStroke with
         | some (id, _) => fun s => if (s.job id).phase = .running ∧ (s.job id).killed.isNone then
             Plan.andThen (modJob id (fun j => { j with rollback := true })) (killJob id 0x40) s else []
         | none => Plan.skip),
        Plan.when (!quiet) (sendVec fn 0), after]) s := by
    unfold rollbackThen
    exact if_neg (fun hne => hne h)
  have hunits : rollbackUnits fn s = Plan.seq [Plan.each (s.takenIn fn) rollbackUnit, (fun s => [.modeChanges fn (s.change fn).reverted])] s := by
    simp only [rollbackUnits, Plan.seq, Plan.andThen, Plan.skip, List.append_nil]
  rw [Plan.run_congr hplan, Plan.run_seq_append, Plan.run_congr hunits]
  rfl

theorem rollbackThen_stays {s : State} {fn : Nat} (h : (s.change fn).state ≠ .pending) (after : Plan) (quiet : Bool) : (rollbackThen after fn quiet).run s = s := by
  have hplan : rollbackThen after fn quiet s = [] := by
    unfold rollbackThen
    exact if_pos h
  rw [Plan.run_def, hplan, State.applyAll_nil]

theorem rollbackUnits_modeUnit {s : State} (hs : s.Wf) (fn k : Nat) :
    ((rollbackUnits fn).run s).modeUnit k = if k ∈ s.takenIn fn then (s.modeUnit k).reverted else s.modeUnit k := by
  have hwrite : Plan.Only [.modeChanges] (fun s => [.modeChanges fn (s.change fn).reverted]) := ⟨fun _ => EffsIn.one (by simp [Eff.field])⟩
  rw [Plan.run_def, rollbackUnits, ← Plan.run_def, Plan.run_andThen, hwrite.modeUnit_eq _ (by decide)]
  exact each_modeUnit rollbackUnit_changesUnit _ (pages_nodup hs _) hs k

theorem rollbackUnit_units (page : Nat) : Plan.Only [.modeUnits, .lines, .plru, .maskTags] (rollbackUnit page) :=
  ⟨fun s => (Plan.only_andThen ((revertCaches_only page (s.modeUnit page)).mono (by decide)) (Plan.only_act (by simp [Eff.field]))).effs s⟩

theorem rollbackUnits_change {s : State} (hs : s.Wf) (fn k : Nat) : ((rollbackUnits fn).run s).change k = if k = fn then (s.change fn).reverted else s.change k := by
  have heach : Plan.Only [.modeUnits, .lines, .plru, .maskTags] (Plan.each (s.takenIn fn) rollbackUnit) := Plan.only_each rollbackUnit_units
  have hput := change_put (Plan.run_wf hs (Plan.each (s.takenIn fn) rollbackUnit)) fn (((Plan.each (s.takenIn fn) rollbackUnit).run s).change fn).reverted k
  rw [Plan.run_def, rollbackUnits, ← Plan.run_def, Plan.run_andThen]
  refine Eq.trans hput ?_
  rw [heach.change_eq s (by decide), heach.change_eq s (by decide)]

theorem rollbackRest_preserves {I : State → Prop} (h : Survives [.vecs] I) {after : Plan} (hafter : Plan.Preserves I after) (fn : Nat) (quiet : Bool) (c : ModeChange) :
    Plan.Preserves I (rollbackRest after fn quiet c) := by
  unfold rollbackRest
  refine Plan.preserves_seq_cons ?_ (Plan.preserves_seq_cons (Plan.preserves_when (h.frame _ (sendVec_only ..))) (Plan.preserves_seq_cons hafter Plan.preserves_seq_nil))
  split
  · intro u hu hI
    rw [Plan.run_def]
    split
    · exact Plan.preserves_andThen (h.mark _) (h.kill _ _) u hu hI
    · exact hI
  · exact Plan.preserves_skip

/-! ## What the end of a change leaves standing -/

/-- A change that is not pending, and a unit that no pending change takes in, stand as they are while other changes are rolled back (R55, R306, R373). -/
theorem changeEnds_preserves {I : State → Prop} (hframe : ∀ p, Plan.Only (.funcs :: triggerFields ++ releaseFields) p → Plan.Preserves I p)
    (hroll : ∀ fn s, s.Wf → (s.change fn).state = .pending → I s → I ((rollbackUnits fn).run s)) : Plan.Preserves I changeEnds := by
  have hsurvives : Survives triggerFields I := Survives.of_only (fun p hp => hframe p (hp.mono (List.subset_cons_self _ _)))
  have hback : ∀ fn, Plan.Preserves I (rollbackThen settle fn false) := fun fn s hs hI => by
    by_cases hpending : (s.change fn).state = .pending
    · rw [rollbackThen_run hpending]
      exact rollbackRest_preserves (hsurvives.mono (by decide)) hsurvives.settle _ _ _ _ (Plan.run_wf hs _) (hroll fn s hs hpending hI)
    · rw [rollbackThen_stays hpending]
      exact hI
  refine Plan.preserves_andThen hsurvives.settle (hsurvives.nextTrigger hback (fun id => hframe _ ((releaseKilled_only id).mono (by decide))) (fun fn => hframe _ ⟨fun _ => ?_⟩))
  exact EffsIn.one (by simp [Eff.field])

theorem changeEnds_keepsChange {fn : Nat} {c : ModeChange} (hc : c.state ≠ .pending) : Plan.Preserves (fun s => s.change fn = c) changeEnds := by
  refine changeEnds_preserves (fun p hp s _ hI => (hp.change_eq s (by decide) fn).trans hI) (fun k s hs hpending hI => ?_)
  have hne : fn ≠ k := fun h => hc (by rw [← hI, h]; exact hpending)
  rw [rollbackUnits_change hs, if_neg hne]
  exact hI

theorem changeEnds_keepsUnit {page : Nat} {m : ModeUnit} (hm : m.pending = 0) : Plan.Preserves (fun s => s.modeUnit page = m) changeEnds := by
  refine changeEnds_preserves (fun p hp s _ hI => (hp.modeUnit_eq s (by decide) page).trans hI) (fun k s hs _ hI => ?_)
  have hfree : page ∉ s.takenIn k := fun h => by
    have hpending := (mem_takenIn hs).mp h
    rw [hI, hm] at hpending
    omega
  rw [rollbackUnits_modeUnit hs, if_neg hfree]
  exact hI

/-! ## The commit ends -/

/-- A unit whose change is committed (R55). -/
def ModeUnit.committed (m : ModeUnit) : ModeUnit := { m with armed := false, pending := 0 }

/-- The change of a function once it is committed (R55). -/
def ModeChange.committed (c : ModeChange) : ModeChange := { c with state := .committed, result := 0, byStroke := none }

/-- The first part of the end of a commit: its units are let go, and the change shows it. -/
def commitUnits (fn : Nat) : Plan := fun s =>
  Plan.andThen (Plan.each (s.takenIn fn) (fun p => fun s => [.modeUnits p (s.modeUnit p).committed])) (fun s => [.modeChanges fn (s.change fn).committed]) s

/-- What follows in the end of a commit: the committing stroke has run, and vector 0. -/
def commitRest (fn : Nat) (c : ModeChange) : Plan := Plan.andThen (match c.byStroke with | some (id, i) => endOp id i | none => Plan.skip) (sendVec fn 0)

theorem commitEnds_run (fn : Nat) (s : State) : (commitEnds fn).run s = changeEnds.run ((commitRest fn (s.change fn)).run ((commitUnits fn).run s)) := by
  have hplan : commitEnds fn s = Plan.seq ([Plan.each (s.takenIn fn) (fun p => fun s => [.modeUnits p (s.modeUnit p).committed]),
      (fun s => [.modeChanges fn (s.change fn).committed])] ++ [(match (s.change fn).byStroke with | some (id, i) => endOp id i | none => Plan.skip), sendVec fn 0, changeEnds]) s := rfl
  have hunits : commitUnits fn s = Plan.seq [Plan.each (s.takenIn fn) (fun p => fun s => [.modeUnits p (s.modeUnit p).committed]),
      (fun s => [.modeChanges fn (s.change fn).committed])] s := by
    simp only [commitUnits, Plan.seq, Plan.andThen, Plan.skip, List.append_nil]
  rw [Plan.run_congr hplan, Plan.run_seq_append, Plan.run_congr hunits, commitRest, Plan.run_andThen, Plan.run_seq_cons, Plan.run_seq_cons, Plan.run_seq_cons, Plan.run_seq_nil]

theorem endOp_only (id i : Nat) : Plan.Only [.jobs] (endOp id i) := by
  refine ⟨fun s => ?_⟩
  unfold endOp
  split
  · exact EffsIn.nil
  · exact (modStroke_only id i _).effs s

theorem commitRest_only (fn : Nat) (c : ModeChange) : Plan.Only [.jobs, .vecs] (commitRest fn c) := by
  refine Plan.only_andThen ?_ ((sendVec_only ..).mono (by decide))
  split
  · exact (endOp_only _ _).mono (by decide)
  · exact Plan.only_skip

/-- The end of a commit leaves the function's change COMMITTED (R55). -/
theorem commitEnds_change {s : State} (hs : s.Wf) (fn : Nat) : ((commitEnds fn).run s).change fn = (s.change fn).committed := by
  have heach : Plan.Only [.modeUnits] (Plan.each (s.takenIn fn) (fun p => fun s => [.modeUnits p (s.modeUnit p).committed])) :=
    Plan.only_each (fun _ => ⟨fun _ => EffsIn.one (by simp [Eff.field])⟩)
  have hunits : ((commitUnits fn).run s).change fn = (s.change fn).committed := by
    rw [Plan.run_def, commitUnits, ← Plan.run_def, Plan.run_andThen]
    refine (change_put (Plan.run_wf hs _) fn _ fn).trans ?_
    rw [if_pos rfl, heach.change_eq s (by decide)]
  rw [commitEnds_run]
  exact changeEnds_keepsChange (by simp [ModeChange.committed]) _ (Plan.run_wf (Plan.run_wf hs _) _) (((commitRest_only fn _).change_eq _ (by decide) fn).trans hunits)

/-- The end of a commit lets go of every unit that it took in (R55). -/
theorem commitEnds_unit {s : State} (hs : s.Wf) {fn page : Nat} (hpage : page ∈ s.takenIn fn) : ((commitEnds fn).run s).modeUnit page = (s.modeUnit page).committed := by
  have hwrite : Plan.Only [.modeChanges] (fun s => [.modeChanges fn (s.change fn).committed]) := ⟨fun _ => EffsIn.one (by simp [Eff.field])⟩
  have hunits : ((commitUnits fn).run s).modeUnit page = (s.modeUnit page).committed := by
    rw [Plan.run_def, commitUnits, ← Plan.run_def, Plan.run_andThen, hwrite.modeUnit_eq _ (by decide)]
    exact (each_modeUnit (changesUnit_write ModeUnit.committed) _ (pages_nodup hs _) hs page).trans (if_pos hpage)
  rw [commitEnds_run]
  exact changeEnds_keepsUnit (by rfl) _ (Plan.run_wf (Plan.run_wf hs _) _) (((commitRest_only fn _).modeUnit_eq _ (by decide) page).trans hunits)

end Sys2Proof.Machine
end

section
/-! A mode change begins: MODE_STAGE, SCH_MODE_COMMIT and sch.mode (R54). -/
namespace Sys2Proof.Machine

/-! ## MODE_STAGE -/

theorem modeStageWrite_taken {fn page v kind n : Nat} {s : State} (hpage : modePage page = some (kind, n)) (hshows : s.shows fn page = true) (hlegal : modeLegal kind (fld v 15 0) = true)
    (hfree : (s.modeUnit page).armed = false ∨ (s.modeUnit page).owner = fn) (hpending : (s.modeUnit page).pending = 0) (hthere : kind < 5 → s.withdrawn kind n = false)
    (hmoving : kind < 2 → s.moving kind n = false) (hmigrating : kind = 3 → s.gddr.migrating = false) :
    modeStageWrite fn page v s = [.modeUnits page { s.modeUnit page with armed := bit v 31, owner := fn, newMode := fld v 15 0 }] := by
  have howner : ((s.modeUnit page).armed && (s.modeUnit page).owner != fn) = false := by
    rcases hfree with h | h <;> simp [h]
  have hwithdrawn : (decide (kind < 5) && s.withdrawn kind n) = false := by
    by_cases h : kind < 5
    · simp [hthere h]
    · simp [h]
  have hmove : (decide (kind < 2) && s.moving kind n) = false := by
    by_cases h : kind < 2
    · simp [hmoving h]
    · simp [h]
  have hmigrate : (kind == 3 && s.gddr.migrating && s.gddr.source == n) = false := by
    by_cases h : kind = 3
    · simp [hmigrating h]
    · simp [h]
  simp only [modeStageWrite, hpage, hshows, howner, hpending, hwithdrawn, hmove, hmigrate, hlegal, bne_self_eq_false, Bool.not_true, Bool.or_false, Bool.false_eq_true, if_false]

/-- A unit that another function has armed keeps its own (R54). -/
theorem modeStageWrite_held {fn page : Nat} {s : State} (v : Nat) (harmed : (s.modeUnit page).armed = true) (howner : (s.modeUnit page).owner ≠ fn) : modeStageWrite fn page v s = [] := by
  unfold modeStageWrite
  split
  · rfl
  · exact if_pos (by simp [harmed, howner])

/-! ## The commit -/

/-- The pages that a function has armed and no change has taken in (R54). -/
def State.armedBy (s : State) (fn : Nat) : List Nat := (s.modeUnits.filter (fun e => e.2.armed && e.2.owner == fn && e.2.pending == 0)).map (·.1)

/-- The change of a function as it begins, with its number of units (R54). -/
def ModeChange.begun (c : ModeChange) (units now : Nat) (by_ : Option (Nat × Nat)) : ModeChange :=
  { c with state := .pending, result := 0, armed := units, applied := 0, start := now, byStroke := by_ }

/-- A unit as the change of a function takes it in (R54). -/
def ModeUnit.taken (fn : Nat) (m : ModeUnit) : ModeUnit := { m with applied := false, rolledBack := false, pending := fn + 1, old := m.current }

/-- The change of a function begins and takes its units in. -/
def takeUnits (fn : Nat) (by_ : Option (Nat × Nat)) (pages : List Nat) : Plan :=
  Plan.andThen (fun s => [.modeChanges fn ((s.change fn).begun pages.length s.ticks by_)]) (Plan.each pages (fun p => fun s => [.modeUnits p ((s.modeUnit p).taken fn)]))

/-- The clusters that a change takes in pre-empt what they run (R55). -/
def preemptUnits (fn : Nat) (pages : List Nat) : Plan := Plan.each pages (fun p => match modePage p with | some (0, n) => preemptCluster n (fn + 1) | _ => Plan.skip)

theorem commitChange_run (fn : Nat) (by_ : Option (Nat × Nat)) (s : State) : (commitChange fn by_).run s =
    (Plan.when (s.armedBy fn).isEmpty (commitEnds fn)).run ((preemptUnits fn (s.armedBy fn)).run ((takeUnits fn by_ (s.armedBy fn)).run s)) := by
  have hplan : commitChange fn by_ s = Plan.seq ([(fun u => [.modeChanges fn ((u.change fn).begun (s.armedBy fn).length u.ticks by_)]),
      Plan.each (s.armedBy fn) (fun p => fun s => [.modeUnits p ((s.modeUnit p).taken fn)])] ++
      [preemptUnits fn (s.armedBy fn), Plan.when (s.armedBy fn).isEmpty (commitEnds fn)]) s := rfl
  rw [Plan.run_congr hplan, Plan.run_seq_append, takeUnits, Plan.run_andThen, Plan.run_seq_cons, Plan.run_seq_cons, Plan.run_seq_nil, Plan.run_seq_cons, Plan.run_seq_cons, Plan.run_seq_nil]

theorem preemptCluster_only (n after : Nat) : Plan.Only [.jobs, .parts] (preemptCluster n after) := by
  refine ⟨fun s => ?_⟩
  unfold preemptCluster
  exact (Plan.only_each (fun r : StrokeRef => startPreempt_only r.job r.idx none after)).effs s

theorem preemptUnits_only (fn : Nat) (pages : List Nat) : Plan.Only [.jobs, .parts] (preemptUnits fn pages) := by
  refine Plan.only_each (fun p => ?_)
  split
  · exact preemptCluster_only _ _
  · exact Plan.only_skip

theorem takeUnits_only (fn : Nat) (by_ : Option (Nat × Nat)) (pages : List Nat) : Plan.Only [.modeChanges, .modeUnits] (takeUnits fn by_ pages) :=
  Plan.only_andThen ⟨fun _ => EffsIn.one (by simp [Eff.field])⟩ (Plan.only_each (fun _ => ⟨fun _ => EffsIn.one (by simp [Eff.field])⟩))

/-- The change shows its number of units and the tick at which it began (R54). -/
theorem takeUnits_change {s : State} (hs : s.Wf) (fn : Nat) (by_ : Option (Nat × Nat)) (pages : List Nat) :
    ((takeUnits fn by_ pages).run s).change fn = (s.change fn).begun pages.length s.ticks by_ := by
  have heach : Plan.Only [.modeUnits] (Plan.each pages (fun p => fun s => [.modeUnits p ((s.modeUnit p).taken fn)])) := Plan.only_each (fun _ => ⟨fun _ => EffsIn.one (by simp [Eff.field])⟩)
  rw [takeUnits, Plan.run_andThen, heach.change_eq _ (by decide)]
  exact (change_put hs fn _ fn).trans (if_pos rfl)

/-- Each of the units is taken in (R54). -/
theorem takeUnits_unit {s : State} (hs : s.Wf) (fn : Nat) (by_ : Option (Nat × Nat)) {pages : List Nat} (hnd : pages.Nodup) {page : Nat} (hpage : page ∈ pages) :
    ((takeUnits fn by_ pages).run s).modeUnit page = (s.modeUnit page).taken fn := by
  have hwrite : Plan.Only [.modeChanges] (fun s => [.modeChanges fn ((s.change fn).begun pages.length s.ticks by_)]) := ⟨fun _ => EffsIn.one (by simp [Eff.field])⟩
  rw [takeUnits, Plan.run_andThen, each_modeUnit (changesUnit_write (ModeUnit.taken fn)) _ hnd (Plan.run_wf hs _), if_pos hpage, hwrite.modeUnit_eq s (by decide)]

theorem commitChange_takes {s : State} {fn : Nat} (by_ : Option (Nat × Nat)) (h : s.armedBy fn ≠ []) :
    (commitChange fn by_).run s = (preemptUnits fn (s.armedBy fn)).run ((takeUnits fn by_ (s.armedBy fn)).run s) := by
  rw [commitChange_run, Plan.run_when, if_neg (by simpa using h)]

/-- A commit with units leaves a pending change that has taken them in, and starts pre-emptions (R54, R55). -/
theorem commitChange_pending {s : State} (hs : s.Wf) {fn : Nat} (by_ : Option (Nat × Nat)) (h : s.armedBy fn ≠ []) :
    ((commitChange fn by_).run s).change fn = (s.change fn).begun (s.armedBy fn).length s.ticks by_ ∧
      (∀ p ∈ s.armedBy fn, ((commitChange fn by_).run s).modeUnit p = (s.modeUnit p).taken fn) ∧
      s.SameBut [.modeChanges, .modeUnits, .jobs, .parts] ((commitChange fn by_).run s) := by
  have hpre := preemptUnits_only fn (s.armedBy fn)
  rw [commitChange_takes by_ h]
  refine ⟨?_, fun p hp => ?_, (((takeUnits_only ..).sameBut s).mono (by decide)).trans ((hpre.sameBut _).mono (by decide))⟩
  · rw [hpre.change_eq _ (by decide), takeUnits_change hs]
  · rw [hpre.modeUnit_eq _ (by decide)]
    exact takeUnits_unit hs fn by_ (pages_nodup hs _) hp

/-- A commit without units ends at once (R54). -/
theorem commitChange_empty {s : State} (hs : s.Wf) {fn : Nat} (by_ : Option (Nat × Nat)) (h : s.armedBy fn = []) :
    (((commitChange fn by_).run s).change fn).state = .committed ∧ (((commitChange fn by_).run s).change fn).result = 0 := by
  have hrun := commitChange_run fn by_ s
  rw [h, Plan.run_when, if_pos List.isEmpty_nil] at hrun
  rw [hrun, commitEnds_change (Plan.run_wf (Plan.run_wf hs _) _)]
  exact ⟨rfl, rfl⟩

theorem schModeCommit_commits {fn v : Nat} {s : State} (hv : bit v 0 = true) (hidle : (s.change fn).state ≠ .pending) : schModeCommit fn v s = commitChange fn none s := by
  simp [schModeCommit, hv, hidle]

theorem schModeCommit_refused {fn v : Nat} {s : State} (hv : bit v 0 = true) (hpending : (s.change fn).state = .pending) :
    schModeCommit fn v s = [.modeChanges fn { s.change fn with refused := true }] := by
  simp [schModeCommit, hv, hpending]

/-! ## sch.mode -/

/-- The start of a pre-emption leaves whether a stroke's operation has begun. -/
theorem startPreempt_keepsBegun (id i k n : Nat) (for_ : Option (Nat × Nat)) (after : Nat) : Plan.Keeps (fun s => ((s.job id).stroke i).begun) (startPreempt k n for_ after) := by
  intro s hs
  rw [Plan.run_def]
  simp only [startPreempt]
  split
  · rfl
  next frame hframe =>
    split
    · have hs1 := hs.apply (.parts (s.job k).part { s.part (s.job k).part with framesUsed := (s.part (s.job k).part).framesUsed ++ [(frame, k)] })
      refine job_put_congr (fun j => (j.stroke i).begun) hs1 id k _ ?_
      have hstroke := stroke_modify (s.job k) n i (fun t => { t with preempting := true, preemptFor := for_, frame := some frame, afterChange := after }) (s.job k).changed
      refine (congrArg Stroke.begun hstroke).trans ?_
      split <;> rfl
    · rfl

theorem preemptCluster_keepsBegun (id i n after : Nat) : Plan.Keeps (fun s => ((s.job id).stroke i).begun) (preemptCluster n after) := by
  intro s hs
  rw [Plan.run_def]
  unfold preemptCluster
  exact Plan.keeps_each (P := fun s => ((s.job id).stroke i).begun) (fun r : StrokeRef => startPreempt_keepsBegun id i r.job r.idx none after) s hs

theorem preemptUnits_keepsBegun (id i fn : Nat) (pages : List Nat) : Plan.Keeps (fun s => ((s.job id).stroke i).begun) (preemptUnits fn pages) := by
  refine Plan.keeps_each (fun p => ?_)
  split
  · exact preemptCluster_keepsBegun id i _ _
  · exact Plan.keeps_skip

theorem runnable_lt {s : State} {id i cls op : Nat} (h : s.runnable id i cls op = true) : i < (s.job id).strokes.length := by
  refine stroke_lt ?_
  simp only [State.runnable, Bool.and_eq_true, decide_eq_true_eq] at h
  obtain ⟨⟨⟨⟨⟨⟨-, hstate⟩, -⟩, -⟩, -⟩, -⟩, -⟩ := h
  rw [hstate]
  simp

theorem schMode_commits {id i : Nat} {s : State} (hrun : s.runnable id i 0x0F 0x02 = true) (hidle : (s.change (s.job id).fn).state ≠ .pending) :
    schMode id i s = Plan.andThen (modStroke id i (fun t => { t with begun := true })) (commitChange (s.job id).fn (some (id, i))) s := by
  simp [schMode, hrun, hidle]

/-- sch.mode begins, and commits what its function has armed (R54). -/
theorem exec_schMode {s : State} (hs : s.Wf) (hserves : s.svc.halted = false) {id i : Nat} (hrun : s.runnable id i 0x0F 0x02 = true) (hidle : (s.change (s.job id).fn).state ≠ .pending)
    (harmed : s.armedBy (s.job id).fn ≠ []) :
    ∃ t, exec (.schMode id i) s = .next t ∧ (t.change (s.job id).fn).state = .pending ∧ (t.change (s.job id).fn).byStroke = some (id, i) ∧
      ((t.job id).stroke i).begun = true ∧ s.SameBut [.modeChanges, .modeUnits, .jobs, .parts] t := by
  have hmark := modStroke_only id i (fun t => { t with begun := true })
  have hbegun : ((((modStroke id i (fun t => { t with begun := true })).run s).job id).stroke i).begun = true := by
    rw [modStroke_job hs, if_pos rfl, stroke_modify, if_pos ⟨rfl, runnable_lt hrun⟩]
  have hu := Plan.run_wf hs (modStroke id i (fun t => { t with begun := true }))
  refine ⟨_, Plan.done_of_eq hserves (schMode_commits hrun hidle), ?_⟩
  rw [Plan.run_andThen]
  have hframe := hmark.sameBut s
  have hpages : ((modStroke id i (fun t => { t with begun := true })).run s).armedBy (s.job id).fn = s.armedBy (s.job id).fn := by
    unfold State.armedBy
    rw [hmark.modeUnits_eq s (by decide)]
  generalize (modStroke id i (fun t => { t with begun := true })).run s = u at hbegun hu hframe hpages
  rw [← hpages] at harmed
  obtain ⟨hchange, -, hsame⟩ := commitChange_pending hu (some (id, i)) harmed
  refine ⟨by rw [hchange]; rfl, by rw [hchange]; rfl, ?_, (hframe.mono (by decide)).trans hsame⟩
  rw [commitChange_takes _ harmed]
  refine Eq.trans (preemptUnits_keepsBegun id i _ _ _ (Plan.run_wf hu _)) ?_
  dsimp only
  rw [(takeUnits_only ..).job_eq u (by decide)]
  exact hbegun

/-- Settles O29, command by command. -/
theorem modeChangesBegin : Obligations.ModeChangesBegin := by
  unfold Obligations.ModeChangesBegin
  refine ⟨?taken, ?held, ?commit, ?refused, ?stroke⟩
  case taken =>
    intro fn page v kind n s hopen hpage hshows hlegal hfree hpending hthere hmoving hmigrating
    exact exec_pageGate (q := fun _ => _) hopen (modeStageWrite_taken hpage hshows hlegal hfree hpending hthere hmoving hmigrating)
  case held =>
    intro fn page v s hopen harmed howner
    exact exec_pageGate (q := Plan.skip) hopen (modeStageWrite_held v harmed howner)
  case commit =>
    intro fn v s hs hopen hv hidle
    refine ⟨_, exec_pageGate hopen (schModeCommit_commits hv hidle), fun h => ?_, commitChange_empty hs none⟩
    exact commitChange_pending hs none h
  case refused =>
    intro fn v s hopen hv hpending
    exact exec_pageGate (q := fun _ => _) hopen (schModeCommit_refused hv hpending)
  case stroke =>
    intro id i s hs hserves hrun hidle hany
    refine exec_schMode hs hserves hrun hidle (fun hnone => ?_)
    obtain ⟨e, he, hq⟩ := List.any_eq_true.mp hany
    have hmem : e.1 ∈ s.armedBy (s.job id).fn := List.mem_map.mpr ⟨e, List.mem_filter.mpr ⟨he, hq⟩, rfl⟩
    rw [hnone] at hmem
    exact absurd hmem List.not_mem_nil

end Sys2Proof.Machine
end

section
/-! A mode change ends: its units apply the mode they took, or the timeout rolls it back (R55, R145, R147). -/
namespace Sys2Proof.Machine

/-! ## A unit applies its mode -/

theorem writeBackAll_only (n : Nat) : Plan.Only gddrFields (writeBackAll n) := ⟨fun s => (Plan.only_each writeBack_only).effs s⟩

/-- What a unit does as a mode comes into force touches memory, the cache lines and the mask cache (R147, R190). -/
theorem enterMode_only (kind n old new : Nat) : Plan.Only (.maskTags :: gddrFields) (enterMode kind n old new) := by
  have hcold : Plan.Only (.maskTags :: gddrFields) (coldCache n) :=
    ⟨fun _ => EffsIn.cons (by simp [Eff.field, gddrFields]) (EffsIn.one (by simp [Eff.field, gddrFields]))⟩
  have hburnish : Plan.Only (.maskTags :: gddrFields) (burnishSegment n) :=
    ⟨fun _ => EffsIn.cons (by simp [Eff.field, gddrFields]) (EffsIn.one (by simp [Eff.field, gddrFields]))⟩
  unfold enterMode
  split
  · split
    · exact Plan.only_skip
    · split
      · exact hcold
      · exact Plan.only_seq_cons ((writeBackAll_only n).mono (by decide)) (Plan.only_seq_cons hcold (Plan.only_seq_cons hburnish Plan.only_seq_nil))
  · exact Plan.only_when ⟨fun _ => EffsIn.map (fun _ => by simp [Eff.field])⟩
  · exact Plan.only_skip

/-- A unit whose new mode is in force (R55). -/
def ModeUnit.inForce (mode : Nat) (m : ModeUnit) : ModeUnit := { m with current := mode, applied := true }

/-- A change one more of whose units has applied its mode (R55). -/
def ModeChange.counted (c : ModeChange) : ModeChange := { c with applied := c.applied + 1 }

/-- A unit takes its mode, and the change of a function counts it. -/
def applyUnit (page kind n fn old new : Nat) : Plan :=
  Plan.seq [enterMode kind n old new, (fun s => [.modeUnits page ((s.modeUnit page).inForce new)]), (fun s => [.modeChanges fn (s.change fn).counted])]

/-- The change is committed with the last of its units. -/
def commitLast (fn : Nat) : Plan := Plan.look (fun s => Plan.when ((s.takenIn fn).all (fun p => (s.modeUnit p).applied)) (commitEnds fn))

section
variable {s : State} {page kind n : Nat}

/-- Cache mode that a segment without a partition, or with a window outside its partition's GDDR6, does not apply (R145). -/
def State.windowBars (s : State) (page kind n : Nat) : Prop :=
  kind = 1 ∧ (s.modeUnit page).newMode = 1 ∧ (s.modeUnit page).old ≠ 1 ∧ ((s.seg n).owner = 0 ∨ !s.windowOk n ((s.seg n).owner - 1))

variable (hpage : modePage page = some (kind, n)) (hpending : (s.modeUnit page).pending ≠ 0) (happlied : (s.modeUnit page).applied = false) (hsafe : s.safePoint kind n = true)
include hpage hpending happlied hsafe

theorem modeUnitApply_barred (h : s.windowBars page kind n) : modeUnitApply page s = (raiseErr (pgPS n) 5 []) s := by
  unfold modeUnitApply
  simp only [hpage]
  rw [if_neg (by simp [hpending, happlied, hsafe])]
  exact if_pos h

theorem modeUnitApply_applies (h : ¬ s.windowBars page kind n) : (modeUnitApply page).run s =
    (commitLast ((s.modeUnit page).pending - 1)).run
      ((applyUnit page kind n ((s.modeUnit page).pending - 1) (s.modeUnit page).current (s.modeUnit page).newMode).run s) := by
  have hplan : modeUnitApply page s = Plan.seq ([enterMode kind n (s.modeUnit page).current (s.modeUnit page).newMode,
      (fun u => [.modeUnits page ((u.modeUnit page).inForce (s.modeUnit page).newMode)]), (fun u => [.modeChanges ((s.modeUnit page).pending - 1) (u.change ((s.modeUnit page).pending - 1)).counted])] ++
      [commitLast ((s.modeUnit page).pending - 1)]) s := by
    unfold modeUnitApply
    simp only [hpage]
    rw [if_neg (by simp [hpending, happlied, hsafe])]
    exact if_neg h
  rw [Plan.run_congr hplan, Plan.run_seq_append, Plan.run_seq_cons _ [], Plan.run_seq_nil, applyUnit]

end

theorem applyUnit_modeUnit {s : State} (hs : s.Wf) (page kind n fn old new k : Nat) :
    ((applyUnit page kind n fn old new).run s).modeUnit k = if k = page then (s.modeUnit page).inForce new else s.modeUnit k := by
  have hcount : Plan.Only [.modeChanges] (fun s => [.modeChanges fn (s.change fn).counted]) := ⟨fun _ => EffsIn.one (by simp [Eff.field])⟩
  have henter := enterMode_only kind n old new
  rw [applyUnit, Plan.run_seq_cons, Plan.run_seq_cons, Plan.run_seq_cons, Plan.run_seq_nil, hcount.modeUnit_eq _ (by decide),
    changesUnit_write (ModeUnit.inForce new) page _ (Plan.run_wf hs _), henter.modeUnit_eq s (by decide), henter.modeUnit_eq s (by decide)]

theorem applyUnit_change {s : State} (hs : s.Wf) (page kind n fn old new : Nat) : ((applyUnit page kind n fn old new).run s).change fn = (s.change fn).counted := by
  have hunit : Plan.Only [.modeUnits] (fun s => [.modeUnits page ((s.modeUnit page).inForce new)]) := ⟨fun _ => EffsIn.one (by simp [Eff.field])⟩
  rw [applyUnit, Plan.run_seq_cons, Plan.run_seq_cons, Plan.run_seq_cons, Plan.run_seq_nil]
  refine (change_put (Plan.run_wf (Plan.run_wf hs _) _) fn _ fn).trans ?_
  rw [if_pos rfl, hunit.change_eq _ (by decide), (enterMode_only ..).change_eq s (by decide)]

/-- A unit of the change that has applied its mode keeps it when the change is committed with it (R55). -/
theorem commitLast_unit {s : State} (hs : s.Wf) {fn page : Nat} (hpage : page ∈ s.takenIn fn) :
    (((commitLast fn).run s).modeUnit page).current = (s.modeUnit page).current ∧ (((commitLast fn).run s).modeUnit page).applied = (s.modeUnit page).applied := by
  rw [commitLast, Plan.run_look, Plan.run_when]
  split
  · rw [commitEnds_unit hs hpage]
    exact ⟨rfl, rfl⟩
  · exact ⟨rfl, rfl⟩

theorem commitLast_change {s : State} (hs : s.Wf) (fn : Nat) : (((commitLast fn).run s).change fn).applied = (s.change fn).applied ∧
    ((∀ p ∈ s.takenIn fn, (s.modeUnit p).applied = true) → (((commitLast fn).run s).change fn).state = .committed) := by
  rw [commitLast, Plan.run_look, Plan.run_when]
  split
  · rw [commitEnds_change hs]
    exact ⟨rfl, fun _ => rfl⟩
  next hall => exact ⟨rfl, fun h => absurd (List.all_eq_true.mpr h) hall⟩

/-- A unit at its safe point applies its mode, and the change is COMMITTED with the last of its units (R55). -/
theorem exec_modeUnitApply {s : State} (hs : s.Wf) (hserves : s.svc.halted = false) {page kind n : Nat} (hpage : modePage page = some (kind, n)) (hpending : (s.modeUnit page).pending ≠ 0)
    (happlied : (s.modeUnit page).applied = false) (hsafe : s.safePoint kind n = true) (hopen : ¬ s.windowBars page kind n) :
    ∃ t, exec (.modeUnitApply page) s = .next t ∧ t.mode page = (s.modeUnit page).newMode ∧ (t.modeUnit page).applied = true ∧
      (t.change ((s.modeUnit page).pending - 1)).applied = (s.change ((s.modeUnit page).pending - 1)).applied + 1 ∧
      ((∀ p ∈ s.takenIn ((s.modeUnit page).pending - 1), p ≠ page → (s.modeUnit p).applied = true) → (t.change ((s.modeUnit page).pending - 1)).state = .committed) := by
  refine ⟨_, Plan.done_eq _ _ hserves, ?_⟩
  rw [modeUnitApply_applies hpage hpending happlied hsafe hopen]
  have hfn : (s.modeUnit page).pending = (s.modeUnit page).pending - 1 + 1 := by omega
  generalize (s.modeUnit page).pending - 1 = fn at hfn
  have hunit := applyUnit_modeUnit hs page kind n fn (s.modeUnit page).current (s.modeUnit page).newMode
  have hchange := applyUnit_change hs page kind n fn (s.modeUnit page).current (s.modeUnit page).newMode
  have hu := Plan.run_wf hs (applyUnit page kind n fn (s.modeUnit page).current (s.modeUnit page).newMode)
  generalize (applyUnit page kind n fn (s.modeUnit page).current (s.modeUnit page).newMode).run s = u at hunit hchange hu
  have hself : u.modeUnit page = (s.modeUnit page).inForce (s.modeUnit page).newMode := (hunit page).trans (if_pos rfl)
  obtain ⟨hcurrent, hdone⟩ := commitLast_unit hu (fn := fn) (page := page) ((mem_takenIn hu).mpr (by rw [hself]; exact hfn))
  obtain ⟨hcount, hcommit⟩ := commitLast_change hu fn
  refine ⟨hcurrent.trans (by rw [hself]; rfl), hdone.trans (by rw [hself]; rfl), hcount.trans (by rw [hchange]; rfl), fun hothers => hcommit (fun p hp => ?_)⟩
  by_cases h : p = page
  · rw [h, hself]; rfl
  · have hsame : u.modeUnit p = s.modeUnit p := (hunit p).trans (if_neg h)
    have htaken := (mem_takenIn hu).mp hp
    rw [hsame] at htaken ⊢
    exact hothers p ((mem_takenIn hs).mpr htaken) h

/-! ## The timeout -/

/-- A rollback leaves the change ROLLED_BACK, and every unit that it took in with its old mode (R55). -/
theorem rollback_reverts {s : State} (hs : s.Wf) {fn : Nat} (hpending : (s.change fn).state = .pending) (quiet : Bool) :
    ((rollback fn quiet).run s).change fn = (s.change fn).reverted ∧ ∀ p ∈ s.takenIn fn, ((rollback fn quiet).run s).modeUnit p = (s.modeUnit p).reverted := by
  have hu := Plan.run_wf hs (rollbackUnits fn)
  rw [rollback, rollbackThen_run hpending]
  constructor
  · have hsurvives : Survives [.vecs] (fun t => t.change fn = (s.change fn).reverted) := Survives.of_only (fun p hp t _ hI => (hp.change_eq t (by decide) fn).trans hI)
    refine rollbackRest_preserves hsurvives (changeEnds_keepsChange (by simp [ModeChange.reverted])) _ _ _ _ hu ?_
    exact (rollbackUnits_change hs fn fn).trans (if_pos rfl)
  · intro page hpage
    have hsurvives : Survives [.vecs] (fun t => t.modeUnit page = (s.modeUnit page).reverted) := Survives.of_only (fun p hp t _ hI => (hp.modeUnit_eq t (by decide) page).trans hI)
    refine rollbackRest_preserves hsurvives (changeEnds_keepsUnit rfl) _ _ _ _ hu ?_
    exact (rollbackUnits_modeUnit hs fn page).trans (if_pos hpage)

theorem modeTimeoutExpiry_expires {s : State} {fn : Nat} (hpending : (s.change fn).state = .pending) (hdue : (s.change fn).start + (s.change fn).timeout ≤ s.ticks) :
    modeTimeoutExpiry fn s = rollback fn false s := by
  unfold modeTimeoutExpiry
  exact if_pos ⟨hpending, hdue⟩

/-- Settles O30: the two outcomes of a unit at its safe point, and the rollback at the timeout. -/
theorem modeChangesEnd : Obligations.ModeChangesEnd := by
  unfold Obligations.ModeChangesEnd
  refine ⟨fun page kind n s hs hserves hpage hpending happlied hsafe => ⟨fun hwindow => ?applies, fun hkind hnew hold hwindow => ?barred⟩, fun fn s hs hserves hpending hdue => ?timeout⟩
  case applies =>
    refine exec_modeUnitApply hs hserves hpage hpending happlied hsafe ?_
    rintro ⟨hkind, hnew, hold, hbar⟩
    obtain ⟨howner, hok⟩ := hwindow hkind hnew hold
    exact hbar.elim howner (by simp [hok])
  case barred =>
    have hbars : s.windowBars page kind n := ⟨hkind, hnew, hold, hwindow.imp_right (by simp)⟩
    refine ⟨_, Plan.done_of_eq hserves (modeUnitApply_barred hpage hpending happlied hsafe hbars), ?_, (raiseErr_only ..).sameBut s⟩
    exact (raiseErr_only ..).modeUnits_eq s (by decide)
  case timeout =>
    obtain ⟨hchange, hunits⟩ := rollback_reverts hs hpending false
    refine ⟨_, Plan.done_of_eq hserves (modeTimeoutExpiry_expires hpending hdue), ?_, ?_, hunits⟩
    · rw [hchange]; rfl
    · rw [hchange]; rfl

end Sys2Proof.Machine
end

section
/-! Admission (R34-R36): a job that waits, a job that every read and every check lets run, and a job whose stroke table cannot be read. -/
namespace Sys2Proof.Machine

/-! ## The strokes of a job evaluated once -/

theorem evalStroke_congr {s u : State} (hparts : u.parts = s.parts) (hsems : u.sems = s.sems) : evalStroke u = evalStroke s := by
  have hpart : u.part = s.part := funext (fun p => congrArg (fun t => Tab.get ({} : Part) t p) hparts)
  have hsem : u.semOf = s.semOf := funext (fun p => funext (fun n => by
    unfold State.semOf
    rw [hpart, hsems]))
  have hwait : waitOk u = waitOk s := funext (fun id => funext (fun j => funext (fun w => by
    unfold waitOk
    rw [hsem])))
  have hready : isReady u = isReady s := funext (fun id => funext (fun j => funext (fun i => funext (fun t => by
    unfold isReady readyButMutex
    rw [hwait]))))
  funext id j i t
  unfold evalStroke
  rw [hready]

/-- What a job's strokes are once they have been evaluated. -/
def State.evaluated (s : State) (id : Nat) : List Stroke := (s.job id).strokes.mapIdx (fun i t => evalStroke s id (s.job id) i t)

theorem evalJob_strokes {s : State} (hs : s.Wf) {id : Nat} (hphase : (s.job id).phase = .running) (hlives : (s.job id).killed = none) :
    (((evalJob id).run s).job id).strokes = s.evaluated id := by
  rw [Plan.run_def]
  unfold evalJob
  dsimp only
  rw [if_pos (by simp [hphase, hlives])]
  split
  next hsame => exact hsame.symm
  · exact congrArg Job.strokes (job_put_same hs id _)

theorem evalJob_other {s : State} (hs : s.Wf) {id k : Nat} (h : id ≠ k) : ((evalJob k).run s).job id = s.job id := by
  rw [Plan.run_def]
  unfold evalJob
  dsimp only
  split
  · split
    · rfl
    · exact job_put_other hs _ h
  · rfl

theorem each_evalJob_other {id : Nat} : ∀ (ks : List Nat) {s : State}, s.Wf → id ∉ ks → ((Plan.each ks evalJob).run s).job id = s.job id
  | [], _, _, _ => rfl
  | k :: ks, s, hs, h => by
    obtain ⟨hne, hrest⟩ := not_or.mp (fun hm => h (List.mem_cons.mpr hm))
    rw [Plan.run_each_cons, each_evalJob_other ks (Plan.run_wf hs _) hrest, evalJob_other hs hne]

/-- A round over jobs that are all different evaluates each of them once, as it was before. -/
theorem each_evalJob_strokes {id : Nat} : ∀ (ks : List Nat) {s : State}, s.Wf → ks.Nodup → id ∈ ks → (s.job id).phase = .running → (s.job id).killed = none →
    (((Plan.each ks evalJob).run s).job id).strokes = s.evaluated id
  | [], _, _, _, h, _, _ => absurd h List.not_mem_nil
  | k :: ks, s, hs, hnd, h, hphase, hlives => by
    obtain ⟨hk, hnd'⟩ := List.nodup_cons.mp hnd
    have hs1 := Plan.run_wf hs (evalJob k)
    rw [Plan.run_each_cons]
    by_cases hid : id = k
    · subst hid
      rw [each_evalJob_other ks hs1 hk, evalJob_strokes hs hphase hlives]
    · have hjob := evalJob_other hs hid
      have heval : evalStroke ((evalJob k).run s) = evalStroke s :=
        evalStroke_congr ((evalJob_only k).parts_eq s (by decide)) ((evalJob_only k).same s (f := .sems) (by decide))
      rw [each_evalJob_strokes ks hs1 hnd' ((List.mem_cons.mp h).resolve_left hid) (by rw [hjob, hphase]) (by rw [hjob, hlives])]
      unfold State.evaluated
      rw [hjob, heval]

theorem raiseHolder_keepsStrokes (id : Nat) : ∀ (fuel p h : Nat), Plan.Keeps (fun s => (s.job id).strokes) (raiseHolder fuel p h)
  | 0, _, _ => Plan.keeps_skip
  | fuel + 1, p, h => by
    intro s hs
    rw [Plan.run_def]
    unfold raiseHolder
    dsimp only
    split
    · rw [← Plan.run_def, Plan.run_seq_cons]
      have hcount : Plan.Only [.parts] (Plan.when (decide ((s.job h).eff < p)) (Plan.act
          (.parts (s.job h).part { s.part (s.job h).part with inherits := satAdd 0xFFFFFFFF (s.part (s.job h).part).inherits 1 }))) :=
        Plan.only_when (Plan.only_act (by simp [Eff.field]))
      have hrest := Plan.keeps_seq_cons (P := fun s => (s.job id).strokes) (fun v _ => congrArg Job.strokes (hcount.job_eq v (by decide) id))
        (Plan.keeps_seq_cons (Plan.keeps_look (fun v => Plan.keeps_each (xs := jobBlockers v h) (fun k => raiseHolder_keepsStrokes id fuel p k))) Plan.keeps_seq_nil)
      exact (hrest _ (Plan.run_wf hs _)).trans (job_put_congr Job.strokes hs id h _ rfl)
    · rfl

theorem inherit_keepsStrokes (id : Nat) : Plan.Keeps (fun s => (s.job id).strokes) inherit := by
  intro s hs
  rw [Plan.run_def]
  unfold inherit
  refine Plan.keeps_each (P := fun s => (s.job id).strokes) (fun k s hs => ?_) s hs
  rw [Plan.run_def]
  dsimp only
  split
  · exact Plan.keeps_each (P := fun s => (s.job id).strokes) (fun h => raiseHolder_keepsStrokes id _ _ h) s hs
  · rfl

/-- The numbers of the jobs are all different. -/
theorem jobIds_nodup {s : State} (hs : s.Wf) : s.jobIds.Nodup := Tab.keys_nodup (Bool.and_eq_true_iff.mp hs.jobs).1

/-- Evaluating the jobs evaluates the strokes of a job that runs once (R39). -/
theorem settle_strokes {s : State} (hs : s.Wf) {id : Nat} (hphase : (s.job id).phase = .running) (hlives : (s.job id).killed = none) :
    ((settle.run s).job id).strokes = s.evaluated id := by
  have hlisted : id ∈ s.jobIds := by
    by_contra hnot
    exact absurd (hphase.symm.trans (gone_of_notMem hnot)) (by decide)
  have hplan : settle s = Plan.andThen (Plan.each s.jobIds evalJob) inherit s := rfl
  rw [Plan.run_congr hplan, Plan.run_andThen]
  exact (inherit_keepsStrokes id _ (Plan.run_wf hs _)).trans (each_evalJob_strokes _ hs (jobIds_nodup hs) hlisted hphase hlives)

/-! ## The reads of admission -/

/-- A read of admission that succeeds in plain memory changes nothing. -/
theorem admitRead_plain {s : State} (hp : s.Plain) (id : Nat) (ans : HostAnswer) {r : AdmitRead} (hjudge : r.table = true ∨ s.judge (s.job id).part true r.addr r.len = .ok)
    (hhost : ans = .ok ∨ regionOf r.addr r.len ≠ .host) : admitRead id ans r s = [] := by
  have hok : (if r.table then Access.ok else s.judge (s.job id).part true r.addr r.len) = .ok := by
    split
    · rfl
    next h => exact hjudge.resolve_left h
  have hbad : s.badWordIn r.addr r.len = none := by simp [State.badWordIn, hp.noBad]
  unfold admitRead
  dsimp only
  rw [hok]
  split
  · rfl
  · dsimp only
    rw [if_neg (fun h => hhost.elim h.2 (fun hr => hr h.1)), hbad]
    dsimp only
    rw [meetsPoison_plain hp, if_neg Bool.false_ne_true, gddrTouch_noCache hp.noCache]

/-- Plans that change nothing change nothing in a row. -/
theorem Plan.each_nothing {α : Type} {f : α → Plan} {s : State} : ∀ {xs : List α}, (∀ x ∈ xs, f x s = []) → Plan.each xs f s = []
  | [], _ => rfl
  | x :: xs, h => by
    have hx := h x List.mem_cons_self
    have hrest := Plan.each_nothing (fun y hy => h y (List.mem_cons_of_mem x hy))
    show f x s ++ Plan.each xs f (s.applyAll (f x s)) = []
    rw [hx]
    exact hrest

/-! ## The outcomes -/

/-- A job that must wait, for room or for an earlier one, changes nothing. -/
theorem exec_jobAdmit_waits {s : State} (hserves : s.svc.halted = false) {id : Nat} (ans : HostAnswer)
    (hwaits : (s.job id).phase ≠ .entering ∨ s.waitsBehind id = true ∨ ((s.job id).ordered = true ∧ s.earlierDone id = false) ∨
      (s.part (s.job id).part).window < s.chunksOf (s.job id).part + (s.job id).chunksNeeded ∨ 1024 < s.chunksAll + (s.job id).chunksNeeded) :
    exec (.jobAdmit id ans) s = .next s := by
  have hplan : jobAdmit id ans s = [] := by
    unfold jobAdmit
    refine if_pos ?_
    simp only [Bool.or_eq_true, Bool.and_eq_true, Bool.not_eq_true', decide_eq_true_eq]
    tauto
  exact Plan.done_of_eq (q := Plan.skip) hserves hplan

/-- A job that may be admitted: none stands before it, and its chunks find room (R34). -/
structure State.MayAdmit (s : State) (id : Nat) : Prop where
  entering : (s.job id).phase = .entering
  lives : (s.job id).killed = none
  first : s.waitsBehind id = false
  inOrder : (s.job id).ordered = false ∨ s.earlierDone id = true
  room : s.chunksOf (s.job id).part + (s.job id).chunksNeeded ≤ (s.part (s.job id).part).window
  roomInAll : s.chunksAll + (s.job id).chunksNeeded ≤ 1024

/-- The strokes of a job as its table gives them, each with its 64 bytes. -/
def State.strokesOf (s : State) (id : Nat) : List (List Byte × Stroke) := readStrokes s (s.job id) (s.bytesAt (s.job id).argsAddr (s.job id).argsLen)

/-- Every read of the admission of a job succeeds, that of its stroke table too (R35). -/
def State.ReadsWell (s : State) (id : Nat) (ans : HostAnswer) : Prop := ∀ r ∈ admitReads s (s.job id) (s.strokesOf id),
  (r.table = true ∨ s.judge (s.job id).part true r.addr r.len = .ok) ∧ (ans = .ok ∨ regionOf r.addr r.len ≠ .host)

/-- A job whose argument block has been read. -/
def State.withArgs (s : State) (id : Nat) : Job := { s.job id with args := s.bytesAt (s.job id).argsAddr (s.job id).argsLen }

/-- A stroke of the job fails a check (R36). -/
def State.failsCheck (s : State) (id : Nat) : Bool :=
  ((s.strokesOf id).mapIdx (fun i x => badStroke s (s.withArgs id) ((s.strokesOf id).map (·.2)) i x.1 x.2)).any (fun b => b)

/-- The job once it is admitted, before its strokes are evaluated. -/
def State.admitted (s : State) (id : Nat) : Job :=
  { s.withArgs id with phase := .running, strokes := (s.strokesOf id).map (·.2), chunks := (s.job id).chunksNeeded, changed := s.ticks, entry := s.entries }

/-- What admission does to a job that every read and every check lets run. -/
def admitRun (id : Nat) : Plan := fun s => Plan.andThen (fun u => [.jobs id (s.admitted id), .entries (u.entries + 1)]) settle s

theorem jobAdmit_run {s : State} (hp : s.Plain) {id : Nat} {ans : HostAnswer} (h : s.MayAdmit id) (hreads : s.ReadsWell id ans) (hgood : s.failsCheck id = false) :
    jobAdmit id ans s = admitRun id s := by
  have hnothing : Plan.each (admitReads s (s.job id) (s.strokesOf id)) (admitRead id ans) s = [] :=
    Plan.each_nothing (fun r hr => admitRead_plain hp id ans (hreads r hr).1 (hreads r hr).2)
  unfold jobAdmit
  dsimp only
  rw [if_neg ?may]
  case may =>
    simp only [Bool.or_eq_true, Bool.and_eq_true, Bool.not_eq_true', decide_eq_true_eq, h.lives, h.first, Option.isSome_none, Bool.false_eq_true, or_false,
      not_or, not_and, Nat.not_lt]
    refine ⟨⟨⟨fun hn => hn h.entering, fun ho => ?_⟩, h.room⟩, h.roomInAll⟩
    rw [h.inOrder.resolve_left (by simp [ho])]
    decide
  rw [if_neg ?noRetry]
  case noRetry =>
    intro hany
    obtain ⟨r, hr, hretry⟩ := List.any_eq_true.mp hany
    rcases (hreads r hr).1 with htable | hok
    · simp [htable] at hretry
    · simp [hok] at hretry
  change Plan.andThen (Plan.each (admitReads s (s.job id) (s.strokesOf id)) (admitRead id ans)) _ s = _
  unfold Plan.andThen
  rw [hnothing]
  change (if (s.job id).phase ≠ .entering || (s.job id).killed.isSome then Plan.skip else if s.failsCheck id then rejectStroke id else _) s = _
  rw [if_neg (by simp [h.entering, h.lives]), hgood, if_neg Bool.false_ne_true]
  rfl

/-- A job that every read and every check lets run takes its window chunks, and runs with the strokes it read, evaluated once. -/
theorem exec_jobAdmit_runs {s : State} (hs : s.Wf) (hserves : s.svc.halted = false) (hp : s.Plain) {id : Nat} {ans : HostAnswer} (h : s.MayAdmit id) (hreads : s.ReadsWell id ans)
    (hgood : s.failsCheck id = false) :
    ∃ t, exec (.jobAdmit id ans) s = .next t ∧ (t.job id).phase = .running ∧
      (t.job id).strokes = (s.admitted id).strokes.mapIdx (fun i x => evalStroke s id (s.admitted id) i x) ∧ (t.job id).args = (s.withArgs id).args ∧
      (t.job id).chunks = (s.job id).chunksNeeded ∧ (t.job id).entry = s.entries ∧ t.entries = s.entries + 1 ∧ s.SameBut [.jobs, .parts, .entries] t := by
  have htake : Plan.Only [.jobs, .entries] (fun u => [.jobs id (s.admitted id), .entries (u.entries + 1)]) := ⟨fun _ => by simp [EffsIn, Eff.field]⟩
  have hu := Plan.run_wf hs (fun u => [.jobs id (s.admitted id), .entries (u.entries + 1)])
  have hjob : ((Plan.run (fun u => [.jobs id (s.admitted id), .entries (u.entries + 1)]) s).job id) = s.admitted id := job_put_same hs id _
  have hentries : (Plan.run (fun u => [.jobs id (s.admitted id), .entries (u.entries + 1)]) s).entries = s.entries + 1 := rfl
  have heval := evalStroke_congr (htake.parts_eq s (by decide)) (htake.same s (f := .sems) (by decide))
  have hsame := htake.sameBut s
  have hplan : (admitRun id).run s = settle.run (Plan.run (fun u => [.jobs id (s.admitted id), .entries (u.entries + 1)]) s) := Plan.run_andThen ..
  generalize Plan.run (fun u => [.jobs id (s.admitted id), .entries (u.entries + 1)]) s = u at hu hjob hentries heval hsame hplan
  have hphase : (u.job id).phase = .running := by rw [hjob]; rfl
  have hlives : (u.job id).killed = none := by rw [hjob]; exact h.lives
  have hcore := (settle_keepsCore id u hu).trans (congrArg Job.core hjob)
  have hstrokes := settle_strokes hu hphase hlives
  rw [State.evaluated, hjob, heval] at hstrokes
  refine ⟨_, Plan.done_of_eq hserves (jobAdmit_run hp h hreads hgood), ?_⟩
  rw [hplan]
  exact ⟨congrArg Job.phase hcore, hstrokes, (congrArg Job.args hcore :), congrArg Job.chunks hcore, congrArg Job.entry hcore,
    (settle_only.same u (f := .entries) (by decide)).trans hentries, (hsame.mono (by decide)).trans ((settle_only.sameBut u).mono (by decide))⟩

/-! ## A stroke table that cannot be read -/

/-- A device whose MEM_CAPACITY names a capacity that puts the stroke tables, which lie at its end, at the first address of host memory, with a job of one `sch.nop` stroke that waits for admission. -/
def lostTable : State := { State.reset with
  svc := { stage := 2 }
  gddr := { trained := true }
  regs := Tab.put 0 State.reset.regs (regKey 0 pgMEM 0x108) 0x8000080
  mem := [(hostBase, 0x0F), (hostBase + 1, 0x03)]
  jobs := [(1, { phase := .entering, count := 1 })] }

theorem lostTable_wf : lostTable.Wf := State.wf_of_wfB (by decide +kernel)

theorem lostTable_plain : lostTable.Plain := State.plain_of (by decide +kernel)

/-- The host does not answer the read of the job's stroke, and the job leaves the device. -/
theorem lostTable_gone : (((jobAdmit 1 .failed).run lostTable).job 1).phase = .gone := by decide +kernel

/-- Refutes O24, by its clause on the job whose strokes all pass: it asks nothing of the read of the stroke table, which fails where a capacity has put the table into host memory and the host
does not answer. Once that read succeeds with the others, the job runs as the clause says (`exec_jobAdmit_runs`); the clause on the job that must wait holds as it stands
(`exec_jobAdmit_waits`). -/
theorem not_jobAdmission : ¬ Obligations.JobAdmission := by
  unfold Obligations.JobAdmission
  rintro ⟨hadmit, -⟩
  have hserves : lostTable.svc.halted = false := by decide +kernel
  obtain ⟨hruns, -⟩ := hadmit 1 .failed lostTable lostTable_wf hserves lostTable_plain (by decide +kernel) (by decide +kernel) (by decide +kernel) (.inl (by decide +kernel))
    (by decide +kernel) (by decide +kernel) (by decide +kernel)
  obtain ⟨t, hexec, hphase, -⟩ := hruns (by decide +kernel)
  have hrun : exec (.jobAdmit 1 .failed) lostTable = .next ((jobAdmit 1 .failed).run lostTable) := Plan.done_eq _ _ hserves
  rw [hrun] at hexec
  injection hexec with ht
  rw [← ht, lostTable_gone] at hphase
  exact absurd hphase (by decide)

end Sys2Proof.Machine
end

section
/-! The operations of the data units: each command carries its operation out (R57, R79, R91, R106, R110-R115, R128, R131, R134, R158). -/
namespace Sys2Proof.Machine

/-- The command of an operation answers what carrying the operation out answers. -/
def UnitOp.Runs (x : UnitOp) (id i : Nat) (s : State) : Prop := exec (x.cmd id i) s = Plan.done (runOp x.cls x.op id i x.out) s

/-- The command of a hatch operation answers what carrying it out answers. -/
def HatchRuns (id i : Nat) (s : State) (x : (Nat → Nat → Instr) × Nat × (HatchIn → HatchOut)) : Prop := exec (x.1 id i) s = Plan.done (hatchRun x.2.1 id i x.2.2) s

section
variable (id i : Nat) (s : State)

theorem arrayOps_run (now accRow : Nat) : ∀ x ∈ arrayOps id i now accRow, x.Runs id i s := by
  intro x hx
  fin_cases hx <;> rfl

/-- Every command of the hatch unit carries its own operation out. -/
theorem hatchCommands_run : ∀ x ∈ hatchElementwiseOps ++ hatchRowOps ++ hatchOtherOps, HatchRuns id i s x := by
  intro x hx
  fin_cases hx <;> rfl

theorem hatchOps_run : ∀ x ∈ hatchOps, x.Runs id i s := by
  intro x hx
  obtain ⟨y, hy, rfl⟩ := List.mem_map.mp hx
  exact hatchCommands_run id i s y hy

/-- With no failed host read move.linear is the operation alone (R158). -/
theorem moveLinear_ok : moveLinear id i .ok s = runOp 0x04 0x02 id i linearOp s := by
  unfold moveLinear
  exact if_neg (fun h => h.1 rfl)

theorem moveOps_run : ∀ x ∈ moveOps, x.Runs id i s := by
  simp only [moveOps, List.forall_mem_cons]
  have hlinear : execMoveLinear id i .ok s = Plan.done (runOp 0x04 0x02 id i linearOp) s := by
    unfold execMoveLinear Plan.done
    rw [Plan.run_congr (moveLinear_ok id i s)]
  exact ⟨rfl, hlinear, rfl, rfl, List.forall_mem_nil _⟩

/-- Every operation of the array, the attention path, the hatch unit and the move engine is carried out by its command. -/
theorem unitOps_run (now accRow : Nat) : ∀ x ∈ arrayOps id i now accRow ++ hatchOps ++ moveOps, x.Runs id i s := by
  intro x hx
  rcases List.mem_append.mp hx with hx | hx
  · rcases List.mem_append.mp hx with hx | hx
    · exact arrayOps_run id i s now accRow x hx
    · exact hatchOps_run id i s x hx
  · exact moveOps_run id i s x hx

end

/-- Settles O33: each command runs its operation, and an operation that nothing hinders is carried out whole. -/
theorem unitStrokes : Obligations.UnitStrokes := by
  unfold Obligations.UnitStrokes
  exact fun id i now accRow s x hx h => (unitOps_run id i s now accRow x hx).trans (runOp_done h)

end Sys2Proof.Machine
end

section
/-! What an operation of the array, the attention path, the hatch unit or the move engine does besides its reads and writes, and what it leaves as it was (R57, R79, R106, R128, R158). -/
namespace Sys2Proof.Machine

/-! ## Besides reads and writes -/

/-- The fields that an operation may change besides what its reads and writes do. -/
def moreFields : List Field := [.regs, .vecs, .clusters, .localMem, .jobs]

/-- A plan touches those fields alone, and of the jobs the one of its stroke alone. -/
structure Plan.WithinJob (id : Nat) (p : Plan) : Prop where
  only : Plan.Only moreFields p
  others : ∀ k, k ≠ id → Plan.Keeps (fun s => s.job k) p

section
variable {id : Nat}

theorem Plan.Only.withinJob {F : List Field} {p : Plan} (h : Plan.Only F p) (hF : F ⊆ moreFields) (hjobs : Field.jobs ∉ F) : Plan.WithinJob id p :=
  ⟨h.mono hF, fun k _ s _ => h.job_eq s hjobs k⟩

theorem withinJob_skip : Plan.WithinJob id Plan.skip := ⟨Plan.only_skip, fun _ _ => Plan.keeps_skip⟩

theorem Plan.WithinJob.andThen {p q : Plan} (hp : Plan.WithinJob id p) (hq : Plan.WithinJob id q) : Plan.WithinJob id (Plan.andThen p q) :=
  ⟨Plan.only_andThen hp.only hq.only, fun k hk => Plan.keeps_andThen (hp.others k hk) (hq.others k hk)⟩

theorem Plan.WithinJob.when {p : Plan} (b : Bool) (hp : Plan.WithinJob id p) : Plan.WithinJob id (Plan.when b p) :=
  ⟨Plan.only_when hp.only, fun k hk => Plan.keeps_when (hp.others k hk)⟩

theorem withinJob_seq {ps : List Plan} (h : ∀ p ∈ ps, Plan.WithinJob id p) : Plan.WithinJob id (Plan.seq ps) :=
  ⟨Plan.only_seq (fun p hp => (h p hp).only), fun k hk => Plan.keeps_seq (fun p hp => (h p hp).others k hk)⟩

theorem withinJob_ite {c : Prop} [Decidable c] {x y : OpOut} (hx : Plan.WithinJob id x.more) (hy : Plan.WithinJob id y.more) :
    Plan.WithinJob id (if c then x else y).more := by
  split
  · exact hx
  · exact hy

theorem modJob_withinJob (f : Job → Job) : Plan.WithinJob id (modJob id f) :=
  ⟨(modJob_only id f).mono (by decide), fun _ hk _ hs => job_put_other hs _ hk⟩

theorem bump_withinJob (page off n : Nat) : Plan.WithinJob id (bump page off n) := (bump_only ..).withinJob (by decide) (by decide)

theorem bumpWrap_withinJob (page off n : Nat) : Plan.WithinJob id (bumpWrap page off n) := (bumpWrap_only ..).withinJob (by decide) (by decide)

theorem issuePass_only (n : Nat) (right : Bool) (ncol wAt aAt gated : Nat) (x : PassIn) (next : Option Stationary) :
    Plan.Only [.regs, .clusters] (issuePass n right ncol wAt aAt gated x next) := by
  refine ⟨fun s => (Plan.only_seq (fun p hp => ?_)).effs s⟩
  simp only [List.mem_cons, List.not_mem_nil, or_false] at hp
  rcases hp with rfl | rfl | rfl | rfl | rfl
  · exact (bumpWrap_only ..).mono (by decide)
  · exact (bumpWrap_only ..).mono (by decide)
  · exact (bumpWrap_only ..).mono (by decide)
  · exact (bumpWrap_only ..).mono (by decide)
  · exact Plan.only_act (by simp [Eff.field])

theorem issueAll_withinJob (n : Nat) (right : Bool) (x : Mm) (pr : Product) : ∀ (gs : List PassGeom) (now : Nat), Plan.WithinJob id (issueAll n right x pr now gs)
  | [], _ => withinJob_skip
  | _ :: gs, _ => ((issuePass_only ..).withinJob (by decide) (by decide)).andThen (issueAll_withinJob n right x pr gs 0)

theorem mmCounters_withinJob (n : Nat) (o : MmOut) : Plan.WithinJob id (mmCounters n o) := withinJob_seq (fun p hp => by
  simp only [List.mem_cons, List.not_mem_nil, or_false] at hp
  rcases hp with rfl | rfl | rfl | rfl
  · exact bump_withinJob ..
  · exact ((raiseErr_only ..).withinJob (by decide) (by decide)).when _
  · exact bump_withinJob ..
  · exact bump_withinJob ..)

theorem noteDemotion_withinJob (n : Nat) (demoted : Bool) : Plan.WithinJob id (noteDemotion id n demoted) :=
  ((modJob_withinJob _).andThen (bump_withinJob ..)).when demoted

theorem noteSeqTile_withinJob (n : Nat) (t : Stroke) (w : Nat) : Plan.WithinJob id (noteSeqTile n t w) := by
  unfold noteSeqTile
  split
  · exact withinJob_skip
  · exact (setReg_only ..).withinJob (by decide) (by decide)

theorem attnCounters_withinJob (n units empty trunc : Nat) (o : TensorOut) : Plan.WithinJob id (attnCounters n units empty trunc o) := withinJob_seq (fun p hp => by
  simp only [List.mem_cons, List.not_mem_nil, or_false] at hp
  rcases hp with rfl | rfl | rfl | rfl | rfl
  · exact bumpWrap_withinJob ..
  · exact bump_withinJob ..
  · exact bump_withinJob ..
  · exact bump_withinJob ..
  · exact bump_withinJob ..)

/-- The words that a pass leaves in the accumulator store change local memory alone. -/
theorem accWrites_effs (n : Nat) (right : Bool) (r0 : Nat) (p : MmPlan) (pr : Product) (x : Mm) (t : Stroke) (g : PassGeom) :
    EffsIn [.localMem] (accWrites n right r0 p pr x t g) := by
  intro e he
  obtain ⟨i, -, he⟩ := List.mem_flatMap.mp he
  obtain ⟨c, -, rfl⟩ := List.mem_map.mp he
  exact List.mem_singleton_self _

/-! ## The operations -/

/-- An mm stroke counts its passes, its saturations and its demotion. -/
theorem mmRun_withinJob (i now : Nat) (s : State) (j : Job) (t : Stroke) {last : Mm → MmPlan → Product → Plan} (hlast : ∀ x p pr, Plan.WithinJob id (last x p pr)) :
    Plan.WithinJob id (mmRun id i now s j t last).more := by
  unfold mmRun
  split
  · exact withinJob_skip
  refine withinJob_seq (fun p hp => ?_)
  simp only [List.mem_cons, List.not_mem_nil, or_false] at hp
  rcases hp with rfl | rfl | rfl | rfl | rfl
  · exact issueAll_withinJob ..
  · exact mmCounters_withinJob ..
  · exact ((noteDemotion_withinJob ..).andThen (noteSeqTile_withinJob ..)).when _
  · exact modJob_withinJob _
  · exact hlast ..

theorem passOp_withinJob (i now accRow : Nat) (s : State) (j : Job) (t : Stroke) : Plan.WithinJob id (passOp id i now accRow s j t).more := by
  refine mmRun_withinJob i now s j t (fun x p pr => Plan.Only.withinJob (F := [.localMem]) ⟨fun u e he => ?_⟩ (by decide) (by decide))
  obtain ⟨g, -, hg⟩ := List.mem_flatMap.mp he
  exact accWrites_effs _ _ _ _ _ _ _ _ e hg

theorem fwdOp_withinJob (s : State) (j : Job) (t : Stroke) : Plan.WithinJob id (fwdOp s j t).more := by
  unfold fwdOp
  dsimp only
  split
  · exact withinJob_skip
  · exact attnCounters_withinJob ..

theorem bwdOp_withinJob (s : State) (j : Job) (t : Stroke) : Plan.WithinJob id (bwdOp s j t).more := by
  unfold bwdOp
  dsimp only
  split
  · exact withinJob_skip
  · exact attnCounters_withinJob ..

theorem kvwriteOp_withinJob (s : State) (j : Job) (t : Stroke) : Plan.WithinJob id (kvwriteOp s j t).more := by
  unfold kvwriteOp
  dsimp only
  split
  · exact withinJob_skip
  · exact attnCounters_withinJob ..

/-- A hatch operation counts saturated, NaN and ignored elements, itself and its cycles. -/
theorem hatchOp_withinJob (op : Nat) (f : HatchIn → HatchOut) (s : State) (j : Job) (t : Stroke) : Plan.WithinJob id (hatchOp op f s j t).more := by
  refine withinJob_ite withinJob_skip (withinJob_seq (fun p hp => ?_))
  simp only [List.mem_cons, List.not_mem_nil, or_false] at hp
  rcases hp with rfl | rfl | rfl | rfl | rfl
  · exact bump_withinJob ..
  · exact bump_withinJob ..
  · exact bump_withinJob ..
  · exact bumpWrap_withinJob ..
  · exact bumpWrap_withinJob ..

theorem copyOp_withinJob (s : State) (j : Job) (t : Stroke) : Plan.WithinJob id (copyOp s j t).more :=
  withinJob_ite withinJob_skip withinJob_skip

theorem linearOp_withinJob (s : State) (j : Job) (t : Stroke) : Plan.WithinJob id (linearOp s j t).more :=
  withinJob_ite withinJob_skip (withinJob_ite withinJob_skip withinJob_skip)

theorem fillOp_withinJob (s : State) (j : Job) (t : Stroke) : Plan.WithinJob id (fillOp s j t).more :=
  withinJob_ite withinJob_skip (withinJob_ite withinJob_skip withinJob_skip)

theorem requantOp_withinJob (s : State) (j : Job) (t : Stroke) : Plan.WithinJob id (requantOp s j t).more := by
  refine withinJob_ite withinJob_skip (withinJob_seq (fun p hp => ?_))
  simp only [List.mem_cons, List.not_mem_nil, or_false] at hp
  rcases hp with rfl | rfl
  · exact bump_withinJob ..
  · exact bump_withinJob ..

theorem unitOps_withinJob (i now accRow : Nat) (s : State) (j : Job) (t : Stroke) :
    ∀ x ∈ arrayOps id i now accRow ++ hatchOps ++ moveOps, Plan.WithinJob id (x.out s j t).more := by
  have harray : ∀ x ∈ arrayOps id i now accRow, Plan.WithinJob id (x.out s j t).more := by
    simp only [arrayOps, List.forall_mem_cons]
    exact ⟨mmRun_withinJob i now s j t (fun _ _ _ => withinJob_skip), mmRun_withinJob i now s j t (fun _ _ _ => withinJob_skip), passOp_withinJob ..,
      fwdOp_withinJob .., bwdOp_withinJob .., kvwriteOp_withinJob .., List.forall_mem_nil _⟩
  have hhatch : ∀ x ∈ hatchOps, Plan.WithinJob id (x.out s j t).more := by
    intro x hx
    obtain ⟨y, -, rfl⟩ := List.mem_map.mp hx
    exact hatchOp_withinJob ..
  have hmove : ∀ x ∈ moveOps, Plan.WithinJob id (x.out s j t).more := by
    simp only [moveOps, List.forall_mem_cons]
    exact ⟨copyOp_withinJob .., linearOp_withinJob .., fillOp_withinJob .., requantOp_withinJob .., List.forall_mem_nil _⟩
  intro x hx
  rcases List.mem_append.mp hx with hx | hx
  · rcases List.mem_append.mp hx with hx | hx
    · exact harray x hx
    · exact hhatch x hx
  · exact hmove x hx

end

/-! ## What is left as it was -/

/-- A write made visible leaves every byte outside its range. -/
theorem storeFor_outside {s : State} (hs : s.Wf) (id : Nat) (w : Nat × List Byte) {a : Nat} (ha : a < w.1 ∨ w.1 + w.2.length ≤ a) :
    Tab.get 0 (s.storeFor id w).mem a = Tab.get 0 s.mem a := by
  unfold State.storeFor
  split
  · rfl
  · exact (Tab.get_putList w.2 w.1 hs.mem a).trans (if_neg (by omega))

theorem storeAll_outside (id : Nat) {a : Nat} : ∀ (ws : List (Nat × List Byte)) {s : State}, s.Wf → (∀ w ∈ ws, a < w.1 ∨ w.1 + w.2.length ≤ a) →
    Tab.get 0 (s.storeAll id ws).mem a = Tab.get 0 s.mem a
  | [], _, _, _ => rfl
  | w :: ws, s, hs, h => by
    rw [State.storeAll, storeAll_outside id ws (storeFor_wf hs id w) (fun v hv => h v (List.mem_cons_of_mem _ hv)), storeFor_outside hs id w (h w List.mem_cons_self)]

section
variable {s : State} {id i : Nat} {o : OpOut} (hs : s.Wf) (hmore : Plan.WithinJob id o.more)
include hs hmore

theorem carried_mem {a : Nat} (ha : ∀ w ∈ o.writes, a < w.1 ∨ w.1 + w.2.length ≤ a) : Tab.get 0 (s.carried false id i o).mem a = Tab.get 0 s.mem a := by
  have hbegan : (s.began id i o).mem = s.mem := by rw [began_eq]
  have hkeep := hmore.only.mem_eq ((s.began id i o).storeAll id o.writes) (by decide)
  show Tab.get 0 (o.more.run ((s.began id i o).storeAll id o.writes)).mem a = _
  rw [hkeep, storeAll_outside id o.writes (began_wf hs id i o) ha, hbegan]

theorem carried_job_other {k : Nat} (hk : k ≠ id) : (s.carried false id i o).job k = s.job k := by
  have hbegun := begun_wf hs id i o
  have hothers := hmore.others k hk _ hbegun
  rw [State.carried, ← marked_eq, modStroke_job (Plan.run_wf hbegun _), if_neg hk]
  exact hothers.trans (begun_job s id i o k)

omit hs in
theorem carried_frame : s.SameBut [.mem, .claims, .regs, .vecs, .jobs, .clusters, .channels, .localMem, .fresh] (s.carried false id i o) := by
  obtain ⟨m, c, ch, l, f, hover⟩ := begun_over s id i o
  have hbegun := over_frame s m c ch l f
  rw [← hover] at hbegun
  rw [State.carried, ← marked_eq]
  exact (hbegun.mono (by decide)).trans (((hmore.only.sameBut _).mono (by decide)).trans (((modStroke_only ..).sameBut _).mono (by decide)))

end

/-- Settles O36: an operation that nothing hinders stores its writes, and what it does besides stays within its cluster and its own job. -/
theorem operationFrame : Obligations.OperationFrame := by
  unfold Obligations.OperationFrame
  intro id i now accRow s x hx h
  have hmore := unitOps_withinJob (id := id) i now accRow s (s.job id) ((s.job id).stroke i) x hx
  exact ⟨_, (unitOps_run id i s now accRow x hx).trans (runOp_done h), fun a ha => carried_mem h.wf hmore ha, fun k hk => carried_job_other h.wf hmore hk, carried_frame hmore⟩

end Sys2Proof.Machine
end

section
/-! Registers that the end of a job and a spare-in leave alone: those of the cluster pages, whatever memory, units and reports do for them (R53, R306, R371, R399). -/
namespace Sys2Proof.Machine

/-! ## Plans that write no register of a cluster page -/

/-- A register lies off the cluster pages, which are 0x10 to 0x1F of the PF (R399). -/
def offPages (k : Nat) : Prop := k < 0x10000 ∨ 0x20000 ≤ k

/-- An effect writes no register of a cluster page. -/
def Eff.OffClusters (e : Eff) : Prop := e.field = .regs → ∃ k v, e = .regs k v ∧ offPages k

/-- A plan writes no register of a cluster page, whatever the state. -/
structure Plan.OffClusters (p : Plan) : Prop where
  effs : ∀ s, ∀ e ∈ p s, e.OffClusters

theorem offClusters_nil : ∀ e ∈ ([] : List Eff), e.OffClusters := fun _ h => nomatch h

theorem EffsIn.offClusters {F : List Field} {es : List Eff} (h : EffsIn F es) (hF : Field.regs ∉ F) : ∀ e ∈ es, e.OffClusters := fun e he hr => absurd (hr ▸ h e he) hF

theorem Plan.Only.offClusters {F : List Field} {p : Plan} (h : Plan.Only F p) (hF : Field.regs ∉ F) : Plan.OffClusters p := ⟨fun s => (h.effs s).offClusters hF⟩

section
variable {p q : Plan}

theorem offClusters_skip : Plan.OffClusters Plan.skip := ⟨fun _ => offClusters_nil⟩

theorem offClusters_act {e : Eff} (h : e.field ≠ .regs) : Plan.OffClusters (Plan.act e) := ⟨fun _ _ hx hr => absurd (List.mem_singleton.mp hx ▸ hr) h⟩

theorem offClusters_andThen (hp : Plan.OffClusters p) (hq : Plan.OffClusters q) : Plan.OffClusters (Plan.andThen p q) :=
  ⟨fun s e he => (List.mem_append.mp he).elim (hp.effs s e) (hq.effs _ e)⟩

theorem offClusters_when {b : Bool} (hp : Plan.OffClusters p) : Plan.OffClusters (Plan.when b p) := ⟨fun s => by
  cases b with
  | false => exact offClusters_nil
  | true => exact hp.effs s⟩

theorem offClusters_look {f : State → Plan} (h : ∀ s, Plan.OffClusters (f s)) : Plan.OffClusters (Plan.look f) := ⟨fun s => (h s).effs s⟩

theorem offClusters_seq_nil : Plan.OffClusters (Plan.seq []) := offClusters_skip

theorem offClusters_seq_cons {ps : List Plan} (hp : Plan.OffClusters p) (hps : Plan.OffClusters (Plan.seq ps)) : Plan.OffClusters (Plan.seq (p :: ps)) := offClusters_andThen hp hps

theorem offClusters_seq : ∀ {ps : List Plan}, (∀ p ∈ ps, Plan.OffClusters p) → Plan.OffClusters (Plan.seq ps)
  | [], _ => offClusters_skip
  | p :: _, h => offClusters_andThen (h p List.mem_cons_self) (offClusters_seq (fun q hq => h q (List.mem_cons_of_mem p hq)))

theorem offClusters_each_mem {α : Type} {xs : List α} {f : α → Plan} (h : ∀ x ∈ xs, Plan.OffClusters (f x)) : Plan.OffClusters (Plan.each xs f) :=
  offClusters_seq (fun p hp => by
    obtain ⟨x, hx, rfl⟩ := List.mem_map.mp hp
    exact h x hx)

theorem offClusters_each {α : Type} {xs : List α} {f : α → Plan} (h : ∀ x, Plan.OffClusters (f x)) : Plan.OffClusters (Plan.each xs f) := offClusters_each_mem (fun x _ => h x)

/-- Such a plan leaves every register of a cluster page as it is. -/
theorem Plan.OffClusters.keepsReg (h : Plan.OffClusters p) {k : Nat} (hk : ¬ offPages k) : Plan.KeepsReg k p := by
  have hlist : ∀ (es : List Eff), (∀ e ∈ es, e.OffClusters) → ∀ s : State, s.Wf → Tab.get (0 : Word) (s.applyAll es).regs k = Tab.get 0 s.regs k := by
    intro es
    induction es with
    | nil => exact fun _ _ _ => rfl
    | cons e es ih =>
      intro hes s hs
      have hone : Tab.get (0 : Word) (s.apply e).regs k = Tab.get 0 s.regs k := by
        by_cases hf : e.field = .regs
        · obtain ⟨k', v, rfl, hk'⟩ := hes e List.mem_cons_self hf
          exact (Tab.get_put hs.regs ..).trans (if_neg (fun heq => hk (by rw [heq]; exact hk')))
        · exact congrArg (fun t => Tab.get (0 : Word) t k) (State.apply_same s e .regs hf)
      rw [State.applyAll_cons]
      exact (ih (fun x hx => hes x (List.mem_cons_of_mem e hx)) _ (hs.apply e)).trans hone
  exact fun s hs => hlist (p s) (h.effs s) s hs

end

/-! ## Registers and reports -/

/-- A page off the clusters. -/
def offPage (page : Nat) : Prop := page < 0x10 ∨ 0x20 ≤ page

theorem offPages_regKey {page off : Nat} (fn : Nat) (hp : offPage page) (ho : page < 0x10 → off < 0x1000) : offPages (regKey fn page off) := by
  unfold offPages regKey
  unfold offPage at hp
  omega

theorem offPage_of_le {page : Nat} (h : 0x20 ≤ page) : offPage page := .inr h

theorem offPage_segment (n : Nat) : offPage (pgPS n) := .inr (by unfold pgPS; omega)

theorem offPage_position (n : Nat) : offPage (pgM n) := .inr (by unfold pgM; omega)

theorem setReg_off {page off : Nat} (fn : Nat) (hp : offPage page) (ho : page < 0x10 → off < 0x1000) (v : Nat) : Plan.OffClusters (setReg fn page off v) :=
  ⟨fun _ _ he _ => ⟨_, _, List.mem_singleton.mp he, offPages_regKey fn hp ho⟩⟩

section
variable {page off : Nat} (hp : offPage page) (ho : page < 0x10 → off < 0x1000)
include hp ho

theorem bump_off (n : Nat) : Plan.OffClusters (bump page off n) := ⟨fun s => (setReg_off 0 hp ho _).effs s⟩

theorem bumpWrap_off (n : Nat) : Plan.OffClusters (bumpWrap page off n) := ⟨fun s => (setReg_off 0 hp ho _).effs s⟩

theorem bumpField_off (hi lo n : Nat) : Plan.OffClusters (bumpField page off hi lo n) := ⟨fun s => (setReg_off 0 hp ho _).effs s⟩

end

theorem sendVec_off (fn v : Nat) : Plan.OffClusters (sendVec fn v) := (sendVec_only fn v).offClusters (by decide)

theorem raiseInt_off {page : Nat} (hp : offPage page) (b fn : Nat) : Plan.OffClusters (raiseInt page b fn) := by
  refine ⟨fun s => ?_⟩
  simp only [raiseInt]
  split
  · split
    · exact offClusters_nil
    · exact (offClusters_andThen (setReg_off fn hp (fun _ => by decide) _) (offClusters_when (sendVec_off ..))).effs s
  · exact offClusters_nil

theorem raiseErr_off {page : Nat} (hp : offPage page) (b : Nat) (cap : List Nat) (m : Nat) : Plan.OffClusters (raiseErr page b cap m) := by
  have hkeep : ∀ c : Bool, Plan.OffClusters (Plan.when c (Plan.each (List.zip (List.range 4) cap) (fun ic => setReg 0 page (0x028 + 4 * ic.1) ic.2))) := fun c =>
    offClusters_when (offClusters_each_mem (fun ic hic => setReg_off 0 hp (fun _ => by
      have hlt := List.mem_range.mp (List.of_mem_zip hic).1
      omega) _))
  refine ⟨fun s => ?_⟩
  simp only [raiseErr]
  split
  · exact (hkeep _).effs s
  · exact (offClusters_seq_cons (hkeep _) (offClusters_seq_cons (setReg_off 0 hp (fun _ => by decide) _)
      (offClusters_seq_cons (offClusters_each (fun fn => raiseInt_off hp b fn)) offClusters_seq_nil))).effs s

theorem setRecorder_off (x : Recorder × Nat) : Plan.OffClusters (setRecorder x) :=
  offClusters_andThen (offClusters_act (by simp [Eff.field])) (offClusters_when (raiseErr_off (.inl (by decide)) ..))

theorem commitOldest_off : Plan.OffClusters commitOldest := by
  refine ⟨fun s => ?_⟩
  simp only [commitOldest]
  split
  · exact offClusters_nil
  · exact (setRecorder_off _).effs s

theorem recorder_off (r : State → Recorder) : Plan.OffClusters (fun s => [.recorder (r s)]) := Plan.Only.offClusters (F := [.recorder]) ⟨fun _ => EffsIn.one (by simp [Eff.field])⟩ (by decide)

theorem openRecord_off (e : Event) : Plan.OffClusters (openRecord e) := ⟨fun s => (offClusters_andThen (offClusters_when commitOldest_off) (recorder_off _)).effs s⟩

theorem event_off (a : EvArgs) : Plan.OffClusters (event a) := by
  refine ⟨fun s => ?_⟩
  simp only [event]
  split
  · exact offClusters_nil
  · split
    · exact (setRecorder_off _).effs s
    · split
      · split
        · exact (recorder_off (fun _ => _)).effs s
        · split
          · exact (recorder_off (fun _ => _)).effs s
          · exact (offClusters_andThen (offClusters_act (by simp [Eff.field])) (raiseErr_off (.inl (by decide)) ..)).effs s
      · split
        · exact (recorder_off (fun _ => _)).effs s
        · exact (openRecord_off _).effs s

theorem violation_off (fn code queue : Nat) : Plan.OffClusters (violation fn code queue) :=
  ⟨fun s => (offClusters_seq_cons (setReg_off fn (.inl (by decide)) (fun _ => by decide) _) (offClusters_seq_cons (setReg_off fn (.inl (by decide)) (fun _ => by decide) _)
    (offClusters_seq_cons (event_off _) offClusters_seq_nil))).effs s⟩

theorem ledgerWrite_off (kind action logical physFrom physTo cause page : Nat) : Plan.OffClusters (ledgerWrite kind action logical physFrom physTo cause page) := by
  have hraise : ∀ b, Plan.OffClusters (raiseErr pgRSV b []) := fun b => raiseErr_off (.inl (by decide)) b [] _
  refine ⟨fun s => (offClusters_seq_cons ?_ (offClusters_seq_cons (offClusters_when (hraise 0)) (offClusters_seq_cons (offClusters_when (hraise 1))
    (offClusters_seq_cons (event_off _) offClusters_seq_nil)))).effs s⟩
  split
  · exact hraise 3
  · exact offClusters_act (by simp [Eff.field])

/-! ## Memory -/

theorem noteMetric_off (kind metric n : Nat) {p : Plan} (hp : Plan.OffClusters p) : Plan.OffClusters (noteMetric kind metric n p) := by
  refine ⟨fun s => ?_⟩
  simp only [noteMetric]
  split
  · exact offClusters_nil
  · split
    · exact offClusters_nil
    · split
      · exact (offClusters_andThen (offClusters_act (by simp [Eff.field])) hp).effs s
      · exact (offClusters_act (e := .reserve _) (by simp [Eff.field])).effs s

theorem plateDetect_off (seg off source fn stroke part : Nat) (charged tagPar : Bool) (gaddr : Nat) :
    Plan.OffClusters (plateDetect seg off source fn stroke part charged tagPar gaddr) := by
  refine offClusters_seq_cons ?_ (offClusters_seq_cons (bump_off (.inr (by decide)) (fun _ => by decide) 1) (offClusters_seq_cons (raiseErr_off (offPage_segment seg) ..)
    (offClusters_seq_cons (event_off _) (offClusters_seq_cons (noteMetric_off _ _ _ ((queueSegment_reserve seg).offClusters (by decide))) offClusters_seq_nil))))
  split
  · exact bumpField_off (offPage_segment seg) (fun _ => by decide) 31 16 1
  · exact bumpField_off (offPage_segment seg) (fun _ => by decide) 15 0 1

theorem lineDetect_off (source fn stroke part : Nat) (charged : Bool) (x : Nat × Nat × Bool) : Plan.OffClusters (lineDetect source fn stroke part charged x) :=
  ⟨fun s => (plateDetect_off ..).effs s⟩

theorem debitLine_off (seg : Nat) : Plan.OffClusters (debitLine seg) := (debitLine_parts seg).offClusters (by decide)

theorem memRequests_off (src : MemSrc) (write : Bool) (a n : Nat) : Plan.OffClusters (memRequests src write a n) := (memRequests_only src write a n).offClusters (by decide)

theorem writeBack_off (key : Nat) : Plan.OffClusters (writeBack key) := by
  refine ⟨fun s => ?_⟩
  simp only [writeBack]
  split
  · refine (offClusters_seq_cons (offClusters_each (fun x => lineDetect_off ..)) (offClusters_seq_cons (debitLine_off _) (offClusters_seq_cons (memRequests_off ..)
      (offClusters_seq_cons (Plan.Only.offClusters (F := [.mem, .poisoned, .lines]) ⟨fun _ => ?_⟩ (by decide)) offClusters_seq_nil)))).effs s
    exact EffsIn.cons (by simp [Eff.field]) (EffsIn.cons (by simp [Eff.field]) (EffsIn.cons (by simp [Eff.field]) (EffsIn.one (by simp [Eff.field]))))
  · exact offClusters_nil

theorem goodWords_off (key o n : Nat) : Plan.OffClusters (goodWords key o n) := by
  refine Plan.Only.offClusters (F := [.badWords]) ⟨fun s => ?_⟩ (by decide)
  simp only [goodWords]
  split
  · exact EffsIn.nil
  · exact EffsIn.one (by simp [Eff.field])

theorem lines_off (k : Nat) (l : State → Line) : Plan.OffClusters (fun s => [.lines k (l s)]) := Plan.Only.offClusters (F := [.lines]) ⟨fun _ => EffsIn.one (by simp [Eff.field])⟩ (by decide)

theorem bringLine_off (seg a : Nat) (whole : Bool) : Plan.OffClusters (bringLine seg a whole) := by
  have htouch : ∀ k v, Plan.OffClusters (Plan.act (.plru k v)) := fun k v => offClusters_act (by simp [Eff.field])
  refine ⟨fun s => ?_⟩
  simp only [bringLine]
  split
  · exact (offClusters_andThen (bumpWrap_off (offPage_segment seg) (fun _ => by decide) 1) (htouch _ _)).effs s
  · exact (offClusters_seq_cons (bumpWrap_off (offPage_segment seg) (fun _ => by decide) 1) (offClusters_seq_cons (writeBack_off _)
      (offClusters_seq_cons (offClusters_when (offClusters_andThen (debitLine_off _) (memRequests_off ..))) (offClusters_seq_cons (goodWords_off ..)
        (offClusters_seq_cons (lines_off _ _) (offClusters_seq_cons (htouch _ _) offClusters_seq_nil)))))).effs s

theorem writeLine_off (seg a job : Nat) (bs : List Byte) : Plan.OffClusters (writeLine seg a job bs) := by
  unfold writeLine
  refine offClusters_andThen (bringLine_off ..) ⟨fun s => ?_⟩
  split
  · exact offClusters_nil
  · exact (offClusters_seq_cons (offClusters_when (writeBack_off _)) (offClusters_seq_cons (goodWords_off ..) (offClusters_seq_cons (lines_off _ _) offClusters_seq_nil))).effs s

theorem gddrStore_off (job a : Nat) (bs : List Byte) : Plan.OffClusters (gddrStore job a bs) := by
  refine ⟨fun s => ?_⟩
  simp only [gddrStore]
  split
  · exact (offClusters_act (e := .store a bs) (by simp [Eff.field])).effs s
  · refine (offClusters_each (fun p => ⟨fun u => ?_⟩)).effs s
    split
    · exact (writeLine_off ..).effs u
    · refine EffsIn.offClusters (F := [.mem, .poisoned]) (EffsIn.cons (by simp [Eff.field]) (EffsIn.filterMap (fun q e he => ?_))) (by decide)
      split at he
      · obtain rfl := Option.some.inj he
        simp [Eff.field]
      · exact absurd he (by simp)

theorem ownStore_off (a : Nat) (bs : List Byte) : Plan.OffClusters (ownStore a bs) := by
  refine ⟨fun s => ?_⟩
  simp only [ownStore]
  split
  · exact offClusters_nil
  · exact (offClusters_andThen (memRequests_off ..) (gddrStore_off ..)).effs s

theorem poisonRead_off (w : MemWho) (a : Nat) : Plan.OffClusters (poisonRead w a) :=
  ⟨fun s => (offClusters_andThen (bumpField_off (offPage_position _) (fun _ => by decide) 31 16 1) (raiseErr_off (offPage_position _) ..)).effs s⟩

theorem noteForeign_off (page : Nat) : Plan.OffClusters (noteForeign page) := by
  unfold noteForeign
  split
  · exact offClusters_andThen (bump_off (.inr (by decide)) (fun h => absurd h (by decide)) 1) (raiseErr_off (.inr (by decide)) ..)
  · exact raiseErr_off (.inl (by decide)) ..

theorem unitStore_off (mine a : Nat) (bs : List Byte) : Plan.OffClusters (unitStore mine a bs) := by
  refine ⟨fun s => ?_⟩
  simp only [unitStore]
  split
  · exact offClusters_nil
  · split
    · split
      · exact (offClusters_andThen (memRequests_off ..) (gddrStore_off ..)).effs s
      · exact (noteForeign_off _).effs s
    · refine (offClusters_andThen (memRequests_off ..) ?_).effs s
      split
      · exact poisonRead_off ..
      · exact gddrStore_off ..

/-! ## Buffers and sessions -/

theorem modSlice_off (pool part : Nat) (f : PolSlice → PolSlice) : Plan.OffClusters (modSlice pool part f) :=
  Plan.Only.offClusters (F := [.pools]) ⟨fun _ => EffsIn.one (by simp [Eff.field])⟩ (by decide)

theorem pushFree_off (pool i : Nat) : Plan.OffClusters (pushFree pool i) := by
  refine ⟨fun s => ?_⟩
  simp only [pushFree]
  split
  · exact offClusters_nil
  · split
    · exact offClusters_nil
    · exact (offClusters_andThen (unitStore_off ..) (modSlice_off ..)).effs s

theorem releaseRef_off (h : Nat) : Plan.OffClusters (releaseRef h) := by
  have hset : ∀ pool i n, Plan.OffClusters (setRef pool i n) := fun pool i n => Plan.Only.offClusters (F := [.refs]) ⟨fun _ => EffsIn.one (by simp [Eff.field])⟩ (by decide)
  refine ⟨fun s => ?_⟩
  simp only [releaseRef]
  split
  · exact offClusters_nil
  · split
    · exact (offClusters_andThen (modSlice_off ..) (event_off _)).effs s
    · exact (offClusters_andThen (hset ..) (offClusters_when (pushFree_off ..))).effs s

theorem freeEntry_off (s : State) (n : Nat) : Plan.OffClusters (freeEntry s n) := offClusters_andThen (ownStore_off ..) (ownStore_off ..)

theorem writeEntry_off (c n w : Nat) : Plan.OffClusters (writeEntry c n w) := ⟨fun s => (offClusters_andThen (ownStore_off ..) (ownStore_off ..)).effs s⟩

theorem writeWaiting_off (g : Nat) : Plan.OffClusters (writeWaiting g) := by
  refine ⟨fun s => (offClusters_seq (fun p hp => ?_)).effs s⟩
  obtain ⟨k, hk, rfl⟩ := List.mem_mapIdx.mp hp
  exact offClusters_andThen (writeEntry_off ..) (writeEntry_off ..)

theorem setSession_off (n g : Nat) (x : State → Session) (y : State → Group) : Plan.OffClusters (fun s => [.sessions n (x s), .groups g (y s)]) :=
  Plan.Only.offClusters (F := [.sessions, .groups]) ⟨fun _ => EffsIn.cons (by simp [Eff.field]) (EffsIn.one (by simp [Eff.field]))⟩ (by decide)

theorem dropWaiting_off (id : Nat) : Plan.OffClusters (dropWaiting id) :=
  ⟨fun s => (offClusters_each (fun n => ⟨fun u => (offClusters_andThen (setSession_off n _ (fun _ => _) (fun _ => _))
    (offClusters_andThen (freeEntry_off ..) (writeWaiting_off _))).effs u⟩)).effs s⟩

/-! ## The kill of a job -/

theorem mediaEnds_off (l : List (Nat × Nat)) : Plan.OffClusters (mediaEnds l) := by
  refine offClusters_each (fun r => ⟨fun s => ?_⟩)
  dsimp only
  split
  · exact offClusters_nil
  · exact ((modStroke_only ..).offClusters (by decide)).effs s

theorem resync_off (c : Nat) : Plan.OffClusters (resync c) := by
  refine ⟨fun s => ?_⟩
  simp only [resync]
  split
  · exact offClusters_nil
  · exact (offClusters_seq_cons (offClusters_act (by simp [Eff.field])) (offClusters_seq_cons (offClusters_act (by simp [Eff.field]))
      (offClusters_seq_cons (offClusters_each (fun _ => releaseRef_off _)) (offClusters_seq_cons (mediaEnds_off _) offClusters_seq_nil)))).effs s

theorem abandonMedia_off (id : Nat) : Plan.OffClusters (abandonMedia id) := by
  refine ⟨fun s => ?_⟩
  simp only [abandonMedia]
  split
  · exact offClusters_nil
  · exact (offClusters_seq_cons (offClusters_act (by simp [Eff.field])) (offClusters_seq_cons
      (offClusters_each (fun _ => Plan.Only.offClusters (F := [.cores]) ⟨fun _ => EffsIn.one (by simp [Eff.field])⟩ (by decide)))
      (offClusters_seq_cons (offClusters_each resync_off) (offClusters_seq_cons (offClusters_each (fun _ => releaseRef_off _)) offClusters_seq_nil)))).effs s

theorem abandonIntake_off (id : Nat) : Plan.OffClusters (abandonIntake id) :=
  ⟨fun s => (offClusters_each (fun _ => ⟨fun u => (offClusters_andThen (offClusters_act (by simp [Eff.field])) (offClusters_each releaseRef_off)).effs u⟩)).effs s⟩

theorem freeMutexes_off (id : Nat) : Plan.OffClusters (freeMutexes id) :=
  ⟨fun s => (offClusters_each (fun _ => ⟨fun u => (offClusters_andThen (offClusters_act (by simp [Eff.field])) (event_off _)).effs u⟩)).effs s⟩

theorem freeFrames_off (id : Nat) : Plan.OffClusters (freeFrames id) := (freeFrames_parts id).offClusters (by decide)

theorem burnishClaims_off (id : Nat) : Plan.OffClusters (burnishClaims id) := by
  refine ⟨fun s => (offClusters_each (fun b => ⟨fun u => ?_⟩)).effs s⟩
  dsimp only
  split
  · exact offClusters_nil
  · exact (offClusters_act (e := .segs _ _) (by simp [Eff.field])).effs u

theorem dropLines_off (id : Nat) : Plan.OffClusters (dropLines id) :=
  Plan.Only.offClusters (F := [.lines]) ⟨fun _ => EffsIn.map (fun _ => by simp [Eff.field])⟩ (by decide)

theorem burnishLocal_off (pl : Place) : Plan.OffClusters (burnishLocal pl) := by
  have hcluster : ∀ n c, EffsIn [.clusters, .localMem] [Eff.clusters n c] := fun _ _ => EffsIn.one (by simp [Eff.field])
  refine Plan.Only.offClusters (F := [.clusters, .localMem]) ⟨fun s => EffsIn.append ?_ (EffsIn.map (fun _ => by simp [Eff.field]))⟩ (by decide)
  split
  · exact hcluster _ _
  · exact hcluster _ _
  · exact hcluster _ _
  · exact hcluster _ _
  · exact hcluster _ _
  · exact EffsIn.nil

theorem settle_off : Plan.OffClusters settle := settle_only.offClusters (by decide)

theorem setJob_off (id : Nat) (j : Job) : Plan.OffClusters (setJob id j) := (setJob_only id j).offClusters (by decide)

theorem killParts_off (id : Nat) (strokes : List Stroke) : Plan.OffClusters (killParts id strokes) :=
  offClusters_seq_cons (freeMutexes_off id) (offClusters_seq_cons (freeFrames_off id) (offClusters_seq_cons (burnishClaims_off id)
    (offClusters_seq_cons (dropLines_off id) (offClusters_seq_cons (dropWaiting_off id) (offClusters_seq_cons (abandonMedia_off id)
      (offClusters_seq_cons (abandonIntake_off id) (offClusters_seq_cons (offClusters_each burnishLocal_off) (offClusters_seq_cons settle_off offClusters_seq_nil))))))))

theorem killJob_off (id status : Nat) : Plan.OffClusters (killJob id status) := by
  refine ⟨fun s => ?_⟩
  rw [killJob_eq]
  split
  · exact offClusters_nil
  · split
    · split
      · exact (setJob_off id _).effs s
      · exact offClusters_nil
    · exact (offClusters_andThen (setJob_off ..) (killParts_off id _)).effs s

/-! ## The end of a job -/

theorem slowdownEntry_off (id status : Nat) : Plan.OffClusters (slowdownEntry id status) := by
  have hdrop : ∀ n x, Plan.OffClusters (Plan.andThen (Plan.act (.parts n x)) (raiseErr pgPAR 3 [])) := fun n x =>
    offClusters_andThen (offClusters_act (by simp [Eff.field])) (raiseErr_off (.inl (by decide)) ..)
  refine ⟨fun s => ?_⟩
  simp only [slowdownEntry]
  split
  · exact offClusters_nil
  · split
    · exact (offClusters_andThen (poisonRead_off ..) (hdrop _ _)).effs s
    · split
      · exact (hdrop _ _).effs s
      · exact (offClusters_andThen (unitStore_off ..) (unitStore_off ..)).effs s

theorem endSteps_off (id : Nat) (payload : List Byte) (s : State) : ∀ p ∈ endSteps id payload s, Plan.OffClusters p := by
  simp only [endSteps, List.forall_mem_cons]
  refine ⟨?_, freeMutexes_off id, ?_, slowdownEntry_off id _, (releaseClaims_claims id).offClusters (by decide), freeFrames_off id,
    offClusters_when ((postCqe_only ..).offClusters (by decide)), List.forall_mem_nil _⟩
  · split
    · exact violation_off ..
    · exact offClusters_skip
  · split
    · exact offClusters_skip
    · exact Plan.Only.offClusters (F := [.slots]) ⟨fun _ => EffsIn.one (by simp [Eff.field])⟩ (by decide)

theorem finishJob_off (id : Nat) (payload : List Byte) : Plan.OffClusters (finishJob id payload) := by
  have hsteps : ∀ s, ∀ p ∈ endSteps id payload s ++ [Plan.act (.jobs id {}), drainedQueue (s.job id).queue, settle], Plan.OffClusters p := by
    intro s
    simp only [List.forall_mem_append, List.forall_mem_cons]
    exact ⟨endSteps_off id payload s, offClusters_act (by simp [Eff.field]), (drainedQueue_only _).offClusters (by decide), settle_off, List.forall_mem_nil _⟩
  exact ⟨fun s => (offClusters_seq (hsteps s)).effs s⟩

theorem dropHeld_off (id : Nat) : Plan.OffClusters (dropHeld id) := by
  refine ⟨fun s => (offClusters_seq_cons (offClusters_each (fun n => ⟨fun u => ?_⟩)) (offClusters_seq_cons ⟨fun u => ?_⟩ (offClusters_seq_cons ⟨fun u => ?_⟩ offClusters_seq_nil))).effs s⟩
  · exact (offClusters_andThen (setSession_off n _ (fun _ => _) (fun _ => _)) (freeEntry_off ..)).effs u
  · split
    · exact (offClusters_act (e := .xfers _) (by simp [Eff.field])).effs u
    · exact offClusters_nil
  · split
    · exact (offClusters_act (e := .colls _) (by simp [Eff.field])).effs u
    · exact offClusters_nil

theorem releaseSteps_off (id : Nat) (strokes : List Stroke) : ∀ p ∈ releaseSteps id strokes, Plan.OffClusters p := by
  simp only [releaseSteps, List.forall_mem_cons]
  refine ⟨offClusters_seq (fun p hp => ?_), ⟨fun s => ?_⟩, dropHeld_off id, List.forall_mem_nil _⟩
  · obtain ⟨n, hn, rfl⟩ := List.mem_mapIdx.mp hp
    split
    · exact (leaveUnit_only ..).offClusters (by decide)
    · exact offClusters_skip
  · split
    · exact (offClusters_act (e := .retries _) (by simp [Eff.field])).effs s
    · exact offClusters_nil

theorem releaseKilled_off (id : Nat) : Plan.OffClusters (releaseKilled id) := by
  refine ⟨fun s => ?_⟩
  by_cases h : (s.job id).phase = .gone ∨ (s.job id).killed = none
  · have hplan : releaseKilled id s = [] := if_pos (by simpa using h)
    rw [hplan]
    exact offClusters_nil
  · have hplan : releaseKilled id s = Plan.seq (releaseSteps id (s.job id).strokes ++ [finishJob id []]) s := if_neg (by simpa using h)
    rw [hplan]
    refine (offClusters_seq ?_).effs s
    simp only [List.forall_mem_append, List.forall_mem_cons]
    exact ⟨releaseSteps_off id _, finishJob_off id [], List.forall_mem_nil _⟩

/-! ## A spare-in that is triggered -/

theorem discardAll_off : Plan.OffClusters discardAll := ⟨fun s => (offClusters_andThen (offClusters_each (fun id => killJob_off id _)) (offClusters_each releaseKilled_off)).effs s⟩

theorem rollbackThen_off {after : Plan} (hafter : Plan.OffClusters after) (fn : Nat) (quiet : Bool) : Plan.OffClusters (rollbackThen after fn quiet) := by
  refine ⟨fun s => ?_⟩
  simp only [rollbackThen]
  split
  · exact offClusters_nil
  · refine (offClusters_seq_cons (offClusters_each (fun page => (rollbackUnit_only page).offClusters (by decide))) (offClusters_seq_cons
      (Plan.Only.offClusters (F := [.modeChanges]) ⟨fun _ => EffsIn.one (by simp [Eff.field])⟩ (by decide))
      (offClusters_seq_cons ?_ (offClusters_seq_cons (offClusters_when (sendVec_off ..)) (offClusters_seq_cons hafter offClusters_seq_nil))))).effs s
    split
    · refine ⟨fun u => ?_⟩
      split
      · exact (offClusters_andThen ((modJob_only ..).offClusters (by decide)) (killJob_off ..)).effs u
      · exact offClusters_nil
    · exact offClusters_skip

theorem gddr_off (g : State → Gddr) : Plan.OffClusters (fun s => [.gddr (g s)]) := Plan.Only.offClusters (F := [.gddr]) ⟨fun _ => EffsIn.one (by simp [Eff.field])⟩ (by decide)

theorem freezeSteps_off (cause p ledgerCause phys : Nat) (s : State) : ∀ x ∈ freezeSteps cause p ledgerCause phys s, Plan.OffClusters x := by
  simp only [freezeSteps, List.forall_mem_cons]
  refine ⟨gddr_off _, gddr_off _, ?_, discardAll_off, offClusters_look (fun u => ?_), ?_, signalAll_only.offClusters (by decide), ledgerWrite_off .., ?_, ?_, List.forall_mem_nil _⟩
  · exact Plan.Only.offClusters (F := [.channels]) ⟨fun _ => EffsIn.map (fun _ => by simp [Eff.field])⟩ (by decide)
  · split
    · exact offClusters_skip
    · exact rollbackThen_off settle_off ..
  · exact (each_func_only (fun fn s => { s.func fn with ready := false }) _).offClusters (by decide)
  · exact offClusters_when ((mbxEnd_only ..).offClusters (by decide))
  · exact Plan.Only.offClusters (F := [.reserve]) ⟨fun _ => EffsIn.one (by simp [Eff.field])⟩ (by decide)

theorem freeze_off (cause p ledgerCause : Nat) : Plan.OffClusters (freeze cause p ledgerCause) :=
  ⟨fun s => (offClusters_seq (freezeSteps_off cause p ledgerCause (s.physOf 3 p) s)).effs s⟩

theorem nextTrigger_off : Plan.OffClusters nextTrigger := by
  have hreserve : ∀ r, Plan.OffClusters (Plan.act (.reserve r)) := fun r => offClusters_act (by simp [Eff.field])
  have hstart : ∀ p b, Plan.OffClusters (startMigration p b) := fun p b =>
    Plan.Only.offClusters (F := [.gddr, .positions]) ⟨fun _ => EffsIn.cons (by simp [Eff.field]) (EffsIn.one (by simp [Eff.field]))⟩ (by decide)
  refine ⟨fun s => ?_⟩
  simp only [nextTrigger]
  split
  next t ts hrun hqueue =>
    split
    · exact offClusters_nil
    · split
      · exact (offClusters_andThen (hreserve _) (offClusters_when ((mbxEnd_only ..).offClusters (by decide)))).effs s
      · split
        · exact offClusters_nil
        · split
          · split
            · exact (offClusters_andThen (hreserve _) (hstart ..)).effs s
            · exact (offClusters_andThen (hreserve _) (freeze_off ..)).effs s
          · exact (hreserve _).effs s
  · exact offClusters_nil

/-- An event of a metric leaves the registers of every cluster page as they are, whatever it triggers. -/
theorem countMetric_off (kind metric n : Nat) : Plan.OffClusters (countMetric kind metric n) := by
  refine noteMetric_off _ _ _ ⟨fun s => ?_⟩
  simp only [queueTrigger]
  split
  · exact offClusters_nil
  · exact (offClusters_andThen (offClusters_act (by simp [Eff.field])) nextTrigger_off).effs s

end Sys2Proof.Machine
end

section
/-! Parity detections in a cluster: what is counted and captured, and whose jobs end (R71-R74, R403, R404). -/
namespace Sys2Proof.Machine

/-! ## Registers after a write of the same page -/

section
variable {s : State} (hs : s.Wf)
include hs

theorem setReg_other (fn page : Nat) {off off' : Nat} (h : off' ≠ off) (v : Nat) : ((setReg fn page off v).run s).reg fn page off' = s.reg fn page off' :=
  (setReg_keepsReg (by unfold regKey; omega) v).reg hs

theorem bumpField_value (page off hi lo n : Nat) : ((bumpField page off hi lo n).run s).reg 0 page off =
    (s.reg 0 page off - fld (s.reg 0 page off) hi lo * 2 ^ lo + satAdd (2 ^ (hi + 1 - lo) - 1) (fld (s.reg 0 page off) hi lo) n * 2 ^ lo) % 2 ^ 32 := setReg_value hs 0 page off _

theorem bumpField_other (page : Nat) {off off' : Nat} (h : off' ≠ off) (hi lo n : Nat) : ((bumpField page off hi lo n).run s).reg 0 page off' = s.reg 0 page off' :=
  setReg_other hs 0 page h _

end

theorem satAdd_le (m a b : Nat) : satAdd m a b ≤ m := by
  unfold satAdd
  split
  · omega
  · exact Nat.le_refl m

/-- A word whose field counts on saturating stays a word. -/
theorem satField_lt {w hi lo : Nat} (hw : w < 2 ^ 32) (hlo : lo ≤ hi) (hhi : hi < 32) (n : Nat) :
    w - fld w hi lo * 2 ^ lo + satAdd (2 ^ (hi + 1 - lo) - 1) (fld w hi lo) n * 2 ^ lo < 2 ^ 32 := by
  have hsplit : 2 ^ lo * 2 ^ (hi + 1 - lo) * 2 ^ (31 - hi) = 2 ^ 32 := by
    rw [← Nat.pow_add, ← Nat.pow_add]
    congr 1
    omega
  have hfield := satAdd_le (2 ^ (hi + 1 - lo) - 1) (fld w hi lo) n
  have hq : 0 < 2 ^ (hi + 1 - lo) := Nat.two_pow_pos _
  unfold fld at *
  have hp : 0 < 2 ^ lo := Nat.two_pow_pos _
  generalize 2 ^ lo = p at *
  generalize 2 ^ (hi + 1 - lo) = q at *
  have htop : w / p / q < 2 ^ (31 - hi) := by
    rw [Nat.div_div_eq_div_mul]
    exact Nat.div_lt_of_lt_mul (by rw [hsplit]; exact hw)
  have hlow := Nat.div_add_mod w p
  have hmid : p * (w / p) = p * q * (w / p / q) + w / p % q * p := by
    calc p * (w / p) = p * (q * (w / p / q) + w / p % q) := by rw [Nat.div_add_mod]
      _ = p * q * (w / p / q) + w / p % q * p := by ring
  have hbound : p * q * (w / p / q) + p * q ≤ 2 ^ 32 := by
    rw [← Nat.mul_succ, ← hsplit]
    exact Nat.mul_le_mul_left _ htop
  have hsat : satAdd (q - 1) (w / p % q) n * p ≤ p * q - p := (Nat.mul_le_mul_right p hfield).trans_eq (by rw [Nat.sub_one_mul, Nat.mul_comm])
  have hrest := Nat.mod_lt w hp
  have hwide := Nat.le_mul_of_pos_right p hq
  omega

/-! ## Error flags and captures -/

/-- The four capture words of a page, written. -/
def capturePlan (page : Nat) (cap : List Nat) : Plan := Plan.each (List.zip (List.range 4) cap) (fun ic => setReg 0 page (0x028 + 4 * ic.1) ic.2)

theorem raiseInt_keepsOthers {k page : Nat} (h : ∀ fn, k ≠ regKey fn page 0x020) (b fn : Nat) : Plan.KeepsReg k (raiseInt page b fn) := by
  intro s hs
  have hset : ∀ c : Bool, Plan.KeepsReg k (Plan.andThen (setReg fn page 0x020 1) (Plan.when c (sendVec fn 0))) := fun c =>
    Plan.keeps_andThen (setReg_keepsReg (h fn) _) (Plan.keeps_when ((sendVec_only fn 0).keepsReg (by simp) k))
  unfold raiseInt
  rw [Plan.run_def]
  split
  · split
    · rfl
    · exact hset _ s hs
  · rfl

theorem capturePlan_keepsReg {k page : Nat} (h : ∀ i < 4, k ≠ regKey 0 page (0x028 + 4 * i)) (c : Bool) (cap : List Nat) : Plan.KeepsReg k (Plan.when c (capturePlan page cap)) := by
  refine Plan.keeps_when (Plan.keeps_seq (fun p hp => ?_))
  obtain ⟨ic, hic, rfl⟩ := List.mem_map.mp hp
  exact setReg_keepsReg (h _ (List.mem_range.mp (List.of_mem_zip hic).1)) _

theorem raiseErr_eq (page b : Nat) (cap : List Nat) (m : Nat) (s : State) : raiseErr page b cap m s =
    if bit (s.reg 0 page 0x018) b then Plan.when (decide (Nat.land (s.reg 0 page 0x018) m = 0) && !cap.isEmpty) (capturePlan page cap) s
    else Plan.seq [Plan.when (decide (Nat.land (s.reg 0 page 0x018) m = 0) && !cap.isEmpty) (capturePlan page cap), setReg 0 page 0x018 (s.reg 0 page 0x018 + 2 ^ b),
      Plan.each (List.range 9) (raiseInt page b)] s := rfl

theorem bit_add_pow {w b : Nat} (hb : b < 8) (h : bit w b = false) : bit ((w + 2 ^ b) % 2 ^ 32) b = true := by
  simp only [bit, beq_iff_eq, beq_eq_false_iff_ne, ne_eq] at *
  interval_cases b <;> omega

theorem bit_of_land {w b : Nat} (hb : b < 8) (h : Nat.land w 0xFF = 0) : bit w b = false := by
  have hmod : w % 2 ^ 8 = 0 := (Nat.and_two_pow_sub_one_eq_mod w 8).symm.trans h
  simp only [bit, beq_eq_false_iff_ne, ne_eq]
  interval_cases b <;> omega

section
variable {s : State} (hs : s.Wf) (page : Nat)
include hs

/-- An error flag that is raised reads 1, whether or not it did before (R398). -/
theorem raiseErr_sets {b : Nat} (hb : b < 8) (cap : List Nat) (m : Nat) : bit (((raiseErr page b cap m).run s).reg 0 page 0x018) b = true := by
  have hcap : ∀ c, ((Plan.when c (capturePlan page cap)).run s).reg 0 page 0x018 = s.reg 0 page 0x018 := fun c =>
    (capturePlan_keepsReg (fun i _ => by unfold regKey; omega) c cap).reg hs
  have hint : Plan.KeepsReg (regKey 0 page 0x018) (Plan.each (List.range 9) (raiseInt page b)) :=
    Plan.keeps_each (fun fn => raiseInt_keepsOthers (fun fn => by unfold regKey; omega) b fn)
  by_cases h : bit (s.reg 0 page 0x018) b = true
  · rw [Plan.run_congr ((raiseErr_eq page b cap m s).trans (if_pos h)), hcap, h]
  · have hflag : ∀ {u : State}, u.Wf → ((setReg 0 page 0x018 (s.reg 0 page 0x018 + 2 ^ b)).run u).reg 0 page 0x018 = (s.reg 0 page 0x018 + 2 ^ b) % 2 ^ 32 :=
      fun hu => setReg_value hu 0 page 0x018 _
    rw [Plan.run_congr ((raiseErr_eq page b cap m s).trans (if_neg h)), Plan.run_seq_cons, Plan.run_seq_cons, Plan.run_seq_cons, Plan.run_seq_nil,
      hint.reg (Plan.run_wf (Plan.run_wf hs _) _), hflag (Plan.run_wf hs _)]
    exact bit_add_pow hb (by simpa using h)

theorem capturePlan_values (c0 c1 c2 c3 : Nat) :
    ((capturePlan page [c0, c1, c2, c3]).run s).reg 0 page 0x028 = c0 % 2 ^ 32 ∧ ((capturePlan page [c0, c1, c2, c3]).run s).reg 0 page 0x02C = c1 % 2 ^ 32 := by
  have hsteps : capturePlan page [c0, c1, c2, c3] = Plan.seq [setReg 0 page 0x028 c0, setReg 0 page 0x02C c1, setReg 0 page 0x030 c2, setReg 0 page 0x034 c3] := rfl
  have h1 := Plan.run_wf hs (setReg 0 page 0x028 c0)
  have h2 := Plan.run_wf h1 (setReg 0 page 0x02C c1)
  have h3 := Plan.run_wf h2 (setReg 0 page 0x030 c2)
  rw [hsteps, Plan.run_seq_cons, Plan.run_seq_cons, Plan.run_seq_cons, Plan.run_seq_cons, Plan.run_seq_nil]
  constructor
  · rw [setReg_other h3 _ _ (by decide), setReg_other h2 _ _ (by decide), setReg_other h1 _ _ (by decide), setReg_value hs]
  · rw [setReg_other h3 _ _ (by decide), setReg_other h2 _ _ (by decide), setReg_value h1]

/-- The first error of those that a mask holds is captured (R398, R404). -/
theorem raiseErr_captures {b m : Nat} (hb : bit (s.reg 0 page 0x018) b = false) (hm : Nat.land (s.reg 0 page 0x018) m = 0) (c0 c1 c2 c3 : Nat) :
    ((raiseErr page b [c0, c1, c2, c3] m).run s).reg 0 page 0x028 = c0 % 2 ^ 32 ∧ ((raiseErr page b [c0, c1, c2, c3] m).run s).reg 0 page 0x02C = c1 % 2 ^ 32 := by
  have hcond : (decide (Nat.land (s.reg 0 page 0x018) m = 0) && !([c0, c1, c2, c3] : List Nat).isEmpty) = true := by
    rw [decide_eq_true hm]
    rfl
  have hint : ∀ off, off ≠ 0x020 → off < 0x1000 → Plan.KeepsReg (regKey 0 page off) (Plan.each (List.range 9) (raiseInt page b)) := fun off h hlt =>
    Plan.keeps_each (fun fn => raiseInt_keepsOthers (fun fn => by unfold regKey; omega) b fn)
  obtain ⟨h0, h1⟩ := capturePlan_values hs page c0 c1 c2 c3
  have hw1 := Plan.run_wf hs (capturePlan page [c0, c1, c2, c3])
  have hw2 := Plan.run_wf hw1 (setReg 0 page 0x018 (s.reg 0 page 0x018 + 2 ^ b))
  rw [Plan.run_congr ((raiseErr_eq page b _ m s).trans (if_neg (by simp [hb]))), Plan.run_seq_cons, Plan.run_seq_cons, Plan.run_seq_cons, Plan.run_seq_nil, hcond, Plan.run_when, if_pos rfl]
  constructor
  · rw [(hint _ (by decide) (by decide)).reg hw2, setReg_other hw1 _ _ (by decide), h0]
  · rw [(hint _ (by decide) (by decide)).reg hw2, setReg_other hw1 _ _ (by decide), h1]

/-- An error flag leaves the registers of its page from 0x100 on as they are (R398). -/
theorem raiseErr_block {off : Nat} (h : 0x100 ≤ off) (hlt : off < 0x1000) (b : Nat) (cap : List Nat) (m : Nat) :
    ((raiseErr page b cap m).run s).reg 0 page off = s.reg 0 page off :=
  (raiseErr_keepsReg (fun fn o ho => by unfold regKey; omega) b cap m).reg hs

end

/-! ## One detection -/

/-- The capture words of a detection charged first to a stroke (R71, R404). -/
def hitCapture (s : State) (n : Nat) (right injected : Bool) (h : ParityHit) (r : StrokeRef) : List Nat :=
  [bitAt injected 31 + clusterHalf h.path right (s.splitMode n) * 2 ^ 29 + (s.job r.job).fn * 2 ^ 25 + (s.job r.job).tableIndex r.idx, h.pass % 2 ^ 32,
    (if h.path = 1 ∨ h.path = 2 then h.row % 128 else 0) * 2 ^ 16 + h.column % 128, if h.path = 3 then h.accRow % 2048 else 0]

/-- The counter of a path counts one more detection (R71). -/
def hitCount (n path : Nat) : Plan :=
  if path = 3 then bumpField (pgBC n) 0x120 29 20 1 else if path = 1 || path = 2 then bumpField (pgBC n) 0x120 19 10 1 else bumpField (pgBC n) 0x120 9 0 1

/-- The records of a detection, one for each stroke that it is charged to (R71). -/
def hitRecords (n : Nat) (who : List StrokeRef) (cap : List Nat) : Plan := Plan.each who (fun r => fun s =>
  let j := s.job r.job
  event { cls := 3, code := 1, stroke := j.tableIndex r.idx, part := j.part, charged := true, fn := j.fn, page := pgBC n, detail := (cap.map (leBytes 4)).flatten } s)

theorem noteHit_eq {s : State} {n : Nat} {right : Bool} {h : ParityHit} {r : StrokeRef} {rest : List StrokeRef}
    (hwho : faultedStrokes (s.cluster n) h.path right (s.splitMode n) = r :: rest) (injected : Bool) : noteHit n right injected h s =
    Plan.seq [Plan.when (!injected && h.path != 5) (hitCount n h.path),
      Plan.when injected (fun s => setReg 0 (pgBC n) 0x128 (fld (s.reg 0 (pgBC n) 0x128) 5 1 * 2 + 256) s),
      raiseErr (pgBC n) (clusterErrBit h.path right h.column (s.splitMode n)) (hitCapture s n right injected h r) 0xFF,
      hitRecords n (r :: rest) (hitCapture s n right injected h r), Plan.when (!injected && h.path != 5) (countMetric 0 1 n)] s := by
  simp only [noteHit, hwho]
  rfl

theorem clusterErrBit_lt (path : Nat) (right : Bool) (column : Nat) (split : Bool) : clusterErrBit path right column split < 8 := by
  have hpick : ∀ (c : Bool) {x y : Nat}, x < 8 → y < 8 → (if c then x else y) < 8 := fun c _ _ hx hy => by cases c <;> assumption
  unfold clusterErrBit
  dsimp only
  split
  · exact hpick _ (by decide) (by decide)
  · exact hpick _ (by decide) (by decide)
  · exact hpick _ (by decide) (by decide)
  · exact hpick _ (by decide) (by decide)
  · decide
  · decide

/-- A register of a cluster page. -/
theorem clusterReg_on {n off : Nat} (hn : n < 16) (hoff : off < 0x1000) : ¬ offPages (regKey 0 (pgBC n) off) := by
  unfold offPages regKey pgBC
  omega

theorem hitRecords_off (n : Nat) (who : List StrokeRef) (cap : List Nat) : Plan.OffClusters (hitRecords n who cap) := offClusters_each (fun _ => ⟨fun s => (event_off _).effs s⟩)

theorem hitRecords_only (n : Nat) (who : List StrokeRef) (cap : List Nat) : Plan.Only reportFields (hitRecords n who cap) := Plan.only_each (fun _ => ⟨fun s => (event_only _).effs s⟩)

/-- The count of the detections of a cluster once one more is counted, by its path (R71). -/
def hitWord (path w : Nat) : Nat :=
  if path = 3 then w - fld w 29 20 * 2 ^ 20 + satAdd 0x3FF (fld w 29 20) 1 * 2 ^ 20
  else if path = 1 ∨ path = 2 then w - fld w 19 10 * 2 ^ 10 + satAdd 0x3FF (fld w 19 10) 1 * 2 ^ 10
  else w - fld w 9 0 + satAdd 0x3FF (fld w 9 0) 1

section
variable {s : State} (hs : s.Wf) (n path : Nat)
include hs

theorem hitCount_value : ((hitCount n path).run s).reg 0 (pgBC n) 0x120 = hitWord path (s.reg 0 (pgBC n) 0x120) := by
  have hw := reg_lt s 0 (pgBC n) 0x120
  unfold hitCount hitWord
  by_cases h3 : path = 3
  · rw [if_pos h3, if_pos h3, bumpField_value hs]
    exact Nat.mod_eq_of_lt (satField_lt hw (by decide) (by decide) 1)
  by_cases h12 : path = 1 ∨ path = 2
  · rw [if_neg h3, if_neg h3, if_pos (by simpa using h12), if_pos h12, bumpField_value hs]
    exact Nat.mod_eq_of_lt (satField_lt hw (by decide) (by decide) 1)
  · rw [if_neg h3, if_neg h3, if_neg (by simpa using h12), if_neg h12, bumpField_value hs, Nat.mod_eq_of_lt (satField_lt hw (by decide) (by decide) 1), Nat.pow_zero,
      Nat.mul_one, Nat.mul_one]
    rfl

theorem hitCount_other {off : Nat} (h : off ≠ 0x120) : ((hitCount n path).run s).reg 0 (pgBC n) off = s.reg 0 (pgBC n) off := by
  unfold hitCount
  split
  · exact bumpField_other hs _ h ..
  · split
    · exact bumpField_other hs _ h ..
    · exact bumpField_other hs _ h ..

end

section
variable {s : State} {n : Nat} {right : Bool} {h : ParityHit} {r : StrokeRef} {rest : List StrokeRef} (hs : s.Wf) (hn : n < 16)
  (hwho : faultedStrokes (s.cluster n) h.path right (s.splitMode n) = r :: rest)
include hs hn hwho

/-- After a detection of its own a cluster's page is what the count and the error flag leave. -/
theorem noteHit_real_reg {off : Nat} (hoff : off < 0x1000) : ((noteHit n right false h).run s).reg 0 (pgBC n) off =
    ((raiseErr (pgBC n) (clusterErrBit h.path right h.column (s.splitMode n)) (hitCapture s n right false h r) 0xFF).run
      ((Plan.when (h.path != 5) (hitCount n h.path)).run s)).reg 0 (pgBC n) off := by
  have hrest : Plan.OffClusters (Plan.seq [hitRecords n (r :: rest) (hitCapture s n right false h r), Plan.when (!false && h.path != 5) (countMetric 0 1 n)]) :=
    offClusters_seq_cons (hitRecords_off ..) (offClusters_seq_cons (offClusters_when (countMetric_off ..)) offClusters_seq_nil)
  rw [Plan.run_congr (noteHit_eq hwho false), Plan.run_seq_cons, Plan.run_seq_cons, Plan.run_seq_cons]
  exact (hrest.keepsReg (clusterReg_on hn hoff)).reg (Plan.run_wf (Plan.run_wf (Plan.run_wf hs _) _) _)

/-- A detection is counted by its path, flagged and, as the first, captured (R71, R404). -/
theorem noteHit_real :
    ((noteHit n right false h).run s).reg 0 (pgBC n) 0x120 = (if h.path = 5 then s.reg 0 (pgBC n) 0x120 else hitWord h.path (s.reg 0 (pgBC n) 0x120)) ∧
    bit (((noteHit n right false h).run s).reg 0 (pgBC n) 0x018) (clusterErrBit h.path right h.column (s.splitMode n)) = true ∧
    (Nat.land (s.reg 0 (pgBC n) 0x018) 0xFF = 0 →
      ((noteHit n right false h).run s).reg 0 (pgBC n) 0x028 =
        (clusterHalf h.path right (s.splitMode n) * 2 ^ 29 + (s.job r.job).fn * 2 ^ 25 + (s.job r.job).tableIndex r.idx) % 2 ^ 32 ∧
      ((noteHit n right false h).run s).reg 0 (pgBC n) 0x02C = h.pass % 2 ^ 32) := by
  have hflag := clusterErrBit_lt h.path right h.column (s.splitMode n)
  have hs1 := Plan.run_wf hs (Plan.when (h.path != 5) (hitCount n h.path))
  have hother : ∀ off, off ≠ 0x120 → ((Plan.when (h.path != 5) (hitCount n h.path)).run s).reg 0 (pgBC n) off = s.reg 0 (pgBC n) off := by
    intro off hoff
    rw [Plan.run_when]
    split
    · exact hitCount_other hs n h.path hoff
    · rfl
  refine ⟨?_, ?_, fun hfirst => ?_⟩
  · rw [noteHit_real_reg hs hn hwho (by decide), raiseErr_block hs1 _ (by decide) (by decide), Plan.run_when]
    by_cases h5 : h.path = 5
    · rw [if_pos h5, if_neg (by simp [h5])]
    · rw [if_neg h5, if_pos (by simp [h5]), hitCount_value hs]
  · rw [noteHit_real_reg hs hn hwho (by decide)]
    exact raiseErr_sets hs1 _ hflag _ _
  · have hclear : bit (s.reg 0 (pgBC n) 0x018) (clusterErrBit h.path right h.column (s.splitMode n)) = false := bit_of_land hflag hfirst
    have hcap := raiseErr_captures hs1 (pgBC n) (hother 0x018 (by decide) ▸ hclear) (hother 0x018 (by decide) ▸ hfirst)
    rw [noteHit_real_reg hs hn hwho (by decide), noteHit_real_reg hs hn hwho (by decide)]
    have hword : bitAt false 31 + clusterHalf h.path right (s.splitMode n) * 2 ^ 29 = clusterHalf h.path right (s.splitMode n) * 2 ^ 29 := Nat.zero_add _
    refine ⟨(hcap ..).1.trans ?_, (hcap ..).2.trans (Nat.mod_mod _ _)⟩
    rw [hword]

omit hs hn in
theorem noteHit_injected_run : (noteHit n right true h).run s = (hitRecords n (r :: rest) (hitCapture s n right true h r)).run
    ((raiseErr (pgBC n) (clusterErrBit h.path right h.column (s.splitMode n)) (hitCapture s n right true h r) 0xFF).run
      ((setReg 0 (pgBC n) 0x128 (fld (s.reg 0 (pgBC n) 0x128) 5 1 * 2 + 256)).run s)) := by
  have hcount : (!true && h.path != 5) = false := rfl
  rw [Plan.run_congr (noteHit_eq hwho true), hcount]
  simp only [Plan.run_seq_cons, Plan.run_seq_nil, Plan.run_when, if_true, Bool.false_eq_true, if_false]
  rfl

/-- A detection of an injected fault disarms the injection and marks it fired; it does not count (R74). -/
theorem noteHit_injected : ((noteHit n right true h).run s).reg 0 (pgBC n) 0x128 = fld (s.reg 0 (pgBC n) 0x128) 5 1 * 2 + 256 ∧
    ((noteHit n right true h).run s).reg 0 (pgBC n) 0x120 = s.reg 0 (pgBC n) 0x120 := by
  have hrecords := fun off (hoff : off < 0x1000) => (hitRecords_off n (r :: rest) (hitCapture s n right true h r)).keepsReg (clusterReg_on hn hoff)
  have hs1 := Plan.run_wf hs (setReg 0 (pgBC n) 0x128 (fld (s.reg 0 (pgBC n) 0x128) 5 1 * 2 + 256))
  have hlt : fld (s.reg 0 (pgBC n) 0x128) 5 1 * 2 + 256 < 2 ^ 32 := by
    unfold fld
    omega
  rw [noteHit_injected_run hwho]
  constructor
  · rw [(hrecords _ (by decide)).reg (Plan.run_wf hs1 _), raiseErr_block hs1 _ (by decide) (by decide), setReg_value hs, Nat.mod_eq_of_lt hlt]
  · rw [(hrecords _ (by decide)).reg (Plan.run_wf hs1 _), raiseErr_block hs1 _ (by decide) (by decide), setReg_other hs _ _ (by decide)]

omit hs hn in
/-- A detection of an injected fault leaves every job as it is: it triggers no spare-in. -/
theorem noteHit_injected_job (id : Nat) : ((noteHit n right true h).run s).job id = s.job id := by
  rw [noteHit_injected_run hwho, (hitRecords_only ..).job_eq _ (by decide), (raiseErr_only ..).job_eq _ (by decide), (setReg_only ..).job_eq _ (by decide)]

end

/-! ## The jobs that are charged -/

/-- A job that is killed, or has ended. -/
def Dead (id : Nat) (s : State) : Prop := (s.job id).killed ≠ none ∨ (s.job id).phase = .gone

theorem killJob_dead {s : State} (hs : s.Wf) (id status : Nat) : Dead id ((killJob id status).run s) := by
  by_cases hg : (s.job id).phase = .gone
  · exact .inr ((killJob_phase hs id id status).trans hg)
  · refine .inl ((congrArg Prod.snd (killJob_fate hs id status)).trans_ne ?_)
    dsimp only
    rw [if_neg hg]
    split
    · exact Option.some_ne_none _
    · exact Option.some_ne_none _

theorem killJob_keepsDead (id k status : Nat) : Plan.Preserves (Dead id) (killJob k status) := by
  intro s hs hd
  by_cases h : id = k
  · exact h ▸ killJob_dead hs id status
  · have hfate := killJob_keepsFate h status s hs
    exact hd.imp (fun hk => (congrArg Prod.snd hfate).trans_ne hk) (fun hg => (congrArg Prod.fst hfate).trans hg)

/-- After a fault the job of every stroke charged is killed, or has ended. -/
theorem killEach_dead (who : List StrokeRef) (status : Nat) {s : State} (hs : s.Wf) {r : StrokeRef} (hr : r ∈ who) :
    Dead r.job ((Plan.each who (fun r => killJob r.job status)).run s) :=
  Plan.each_establishes (Q := fun _ _ => True) (P := fun r s => Dead r.job s) (fun _ _ _ _ h => h) (fun r _ hs _ => killJob_dead hs r.job status)
    (fun x y s hs h => killJob_keepsDead y.job x.job status s hs h) who s hs r trivial (.inl hr)

/-- A job that has not ended, and is not killed but for the parity fault. -/
def Faultable (id : Nat) (s : State) : Prop := (s.job id).phase ≠ .gone ∧ ((s.job id).killed = none ∨ (s.job id).killed = some 0x31)

theorem killJob_fault {s : State} (hs : s.Wf) (id : Nat) (h : Faultable id s) : (((killJob id 0x31).run s).job id).killed = some 0x31 := by
  have hfate := congrArg Prod.snd (killJob_fate hs id 0x31)
  rw [State.fate, if_neg h.1] at hfate
  refine hfate.trans ?_
  rcases h.2 with hk | hk
  · rw [hk]
  · rw [hk]
    rfl

theorem killJob_keepsFaultable (id k : Nat) : Plan.Preserves (Faultable id) (killJob k 0x31) := by
  intro s hs h
  refine ⟨(killJob_phase hs id k 0x31).trans_ne h.1, ?_⟩
  by_cases hk : id = k
  · exact .inr (hk ▸ killJob_fault hs id h)
  · have hkeep : (((killJob k 0x31).run s).job id).killed = (s.job id).killed := congrArg Prod.snd (killJob_keepsFate hk 0x31 s hs)
    rw [hkeep]
    exact h.2

/-- A job killed with the parity fault stays killed with it, whatever else the fault ends. -/
theorem killJob_keepsFault (id k : Nat) : Plan.Preserves (fun s => (s.job id).killed = some 0x31) (killJob k 0x31) := by
  intro s hs h
  by_cases hk : id = k
  · subst hk
    refine (congrArg Prod.snd (killJob_fate hs id 0x31)).trans ?_
    dsimp only
    split
    · exact h
    · rw [h]
      rfl
  · exact (congrArg Prod.snd (killJob_keepsFate hk 0x31 s hs)).trans h

theorem killEach_fault (who : List StrokeRef) {s : State} (hs : s.Wf) {r : StrokeRef} (hr : r ∈ who) (h : Faultable r.job s) :
    (((Plan.each who (fun r => killJob r.job 0x31)).run s).job r.job).killed = some 0x31 :=
  Plan.each_establishes (Q := fun r s => Faultable r.job s) (P := fun r s => (s.job r.job).killed = some 0x31)
    (fun x y s hs h => killJob_keepsFaultable y.job x.job s hs h) (fun r _ hs h => killJob_fault hs r.job h)
    (fun x y s hs h => killJob_keepsFault y.job x.job s hs h) who s hs r h (.inl hr)

/-! ## CLUSTER_PARITY_DETECT -/

/-- The strokes that the detections of a cycle are charged to. -/
def State.charged (s : State) (n : Nat) (right : Bool) (hits : List ParityHit) : List StrokeRef :=
  hits.flatMap (fun h => faultedStrokes (s.cluster n) h.path right (s.splitMode n))

theorem parityDetect_run (n : Nat) (right injected : Bool) (hits : List ParityHit) (s : State) : (parityDetect n right injected hits).run s =
    (Plan.each (s.charged n right hits) (fun r => killJob r.job 0x31)).run ((Plan.each (sortHits hits) (noteHit n right injected)).run s) := by
  have hplan : parityDetect n right injected hits s =
      Plan.seq [Plan.each (sortHits hits) (noteHit n right injected), Plan.each (s.charged n right hits) (fun r => killJob r.job 0x31)] s := rfl
  rw [Plan.run_congr hplan, Plan.run_seq_cons, Plan.run_seq_cons, Plan.run_seq_nil]

theorem parityDetect_single_run (n : Nat) (right injected : Bool) (h : ParityHit) (s : State) : (parityDetect n right injected [h]).run s =
    (Plan.each (s.charged n right [h]) (fun r => killJob r.job 0x31)).run ((noteHit n right injected h).run s) := by
  have hsort : sortHits [h] = [h] := rfl
  rw [parityDetect_run, hsort, Plan.run_each_cons, Plan.run_each_nil]

section
variable {s : State} {n : Nat} {right : Bool} (hs : s.Wf) (hn : n < 16)
include hs hn

/-- The kills of a fault leave the page of a cluster as it is. -/
theorem parityDetect_single_reg (injected : Bool) (h : ParityHit) {off : Nat} (hoff : off < 0x1000) :
    ((parityDetect n right injected [h]).run s).reg 0 (pgBC n) off = ((noteHit n right injected h).run s).reg 0 (pgBC n) off := by
  have hkills : Plan.OffClusters (Plan.each (s.charged n right [h]) (fun r => killJob r.job 0x31)) := offClusters_each (fun r => killJob_off r.job 0x31)
  rw [parityDetect_single_run]
  exact (hkills.keepsReg (clusterReg_on hn hoff)).reg (Plan.run_wf hs _)

omit hs in
/-- Detections that are charged to strokes whose passes have reached them are all taken. -/
theorem clusterParityDetect_real {hits : List ParityHit} (hne : hits ≠ [])
    (hall : ∀ h ∈ hits, h.path ≤ 5 ∧ ∃ r rest, faultedStrokes (s.cluster n) h.path right (s.splitMode n) = r :: rest ∧ ((s.job r.job).stroke r.idx).reached h = true) :
    clusterParityDetect n right false hits s = parityDetect n right false hits s := by
  unfold clusterParityDetect
  dsimp only
  have hfilter : ∀ p : ParityHit → Bool, (∀ h ∈ hits, p h = true) → hits.filter p = hits := fun p hp => List.filter_eq_self.mpr hp
  rw [hfilter _ (fun h hh => by
    obtain ⟨hpath, r, rest, hwho, hreached⟩ := hall h hh
    simp [hpath, hwho, hreached])]
  have hempty : hits.isEmpty = false := by simpa using hne
  simp [hempty, Nat.not_le.mpr hn]

omit hs in
/-- An injected fault at a check that BC_INJECT is armed for is taken (R74). -/
theorem clusterParityDetect_injected {h : ParityHit} {r : StrokeRef} {rest : List StrokeRef} (hpath : h.path ≤ 5)
    (hwho : faultedStrokes (s.cluster n) h.path right (s.splitMode n) = r :: rest) (hreached : ((s.job r.job).stroke r.idx).reached h = true)
    (harmed : s.armed n h.path right = true) : clusterParityDetect n right true [h] s = parityDetect n right true [h] s := by
  unfold clusterParityDetect
  simp [hpath, hwho, hreached, harmed, Nat.not_le.mpr hn]

end

end Sys2Proof.Machine
end

section
/-! A pass of the matrix array by itself: the array and its counters, and the words of the accumulator store (R57, R64-R68, R70). -/
namespace Sys2Proof.Machine

/-! ## Words of the accumulator store -/

/-- Where word `col` of accumulator row `row` of a cluster lies: the right half's words in one piece behind the left half's (R15, R70). -/
theorem accKey_eq (n : Nat) {row col : Nat} (hrow : row < 2048) (hcol : col < 128) :
    accKey n row col = n * 0x400000 + 0x300000 + (if col < 64 then 0 else 0x80000) + row * 256 + col % 64 * 4 := by
  have hkey : accKey n row col = localKey (localBase + (n * 0x400000 + 0x300000 + row * 512 + col * 4)) := by
    unfold accKey
    simp only [Nat.add_assoc]
  rw [hkey, localKey_eq]
  unfold localOffset
  split_ifs <;> omega

/-- Two words of a cluster's accumulator store are one or lie apart. -/
theorem accKey_apart (n : Nat) {row col row' col' : Nat} (hrow : row < 2048) (hcol : col < 128) (hrow' : row' < 2048) (hcol' : col' < 128) (h : row ≠ row' ∨ col ≠ col') :
    accKey n row col + 4 ≤ accKey n row' col' ∨ accKey n row' col' + 4 ≤ accKey n row col := by
  rw [accKey_eq n hrow hcol, accKey_eq n hrow' hcol']
  split_ifs <;> omega

/-- Bytes written to local memory among writes that agree with them or lie apart are read back. -/
theorem localStores_read {k : Nat} {bs : List Byte} : ∀ (es : List Eff) {s : State}, s.Wf →
    (∀ e ∈ es, ∃ k' bs', e = .localStore k' bs' ∧ ((k' = k ∧ bs' = bs) ∨ k + bs.length ≤ k' ∨ k' + bs'.length ≤ k)) →
    .localStore k bs ∈ es ∨ Tab.getList 0 s.localMem k bs.length = bs → Tab.getList 0 (s.applyAll es).localMem k bs.length = bs
  | [], _, _, _, h => h.resolve_left List.not_mem_nil
  | e :: es, s, hs, hall, h => by
    rw [State.applyAll_cons]
    refine localStores_read es (hs.apply e) (fun x hx => hall x (List.mem_cons_of_mem e hx)) ?_
    obtain ⟨k', bs', rfl, hk⟩ := hall e List.mem_cons_self
    rcases hk with ⟨rfl, rfl⟩ | hk
    · exact .inr (Tab.getList_putList bs' k' hs.localMem)
    · rcases h with h | h
      · rcases List.mem_cons.mp h with heq | h
        · obtain ⟨rfl, rfl⟩ := Eff.localStore.inj heq
          exact .inr (Tab.getList_putList bs k hs.localMem)
        · exact .inl h
      · exact .inr ((getList_putList_disjoint hs.localMem bs' hk).trans h)

/-- The word that a pass leaves for its row `i` and column `c` (R57, R59). -/
def accWord (p : MmPlan) (pr : Product) (x : Mm) (t : Stroke) (g : PassGeom) (i c : Nat) : List Byte :=
  leBytes 4 (pr.word (mmPartial p pr t g.b (x.batch g.b) (g.m0 + i) (g.n0 + c) (g.k0 + g.k)).1)

/-- The words that a pass leaves in the accumulator store are read back there (R57). -/
theorem accWrites_read {s : State} (hs : s.Wf) (n : Nat) {right : Bool} {r0 : Nat} (p : MmPlan) (pr : Product) (x : Mm) (t : Stroke) {g : PassGeom} (hm : r0 + g.m ≤ 2048)
    (hn : g.n + (if right then 64 else 0) ≤ 128) {i c : Nat} (hi : i < g.m) (hc : c < g.n) :
    Tab.getList 0 (s.applyAll (accWrites n right r0 p pr x t g)).localMem (accKey n (r0 + i) (c + if right then 64 else 0)) 4 = accWord p pr x t g i c := by
  have hlen : ∀ i c, (accWord p pr x t g i c).length = 4 := fun _ _ => leBytes_length 4 _
  have hread := localStores_read (k := accKey n (r0 + i) (c + if right then 64 else 0)) (bs := accWord p pr x t g i c) (accWrites n right r0 p pr x t g) hs ?all (.inl ?mem)
  case mem => exact List.mem_flatMap.mpr ⟨i, List.mem_range.mpr hi, List.mem_map.mpr ⟨c, List.mem_range.mpr hc, rfl⟩⟩
  case all =>
    intro e he
    obtain ⟨i', hi', he⟩ := List.mem_flatMap.mp he
    obtain ⟨c', hc', rfl⟩ := List.mem_map.mp he
    have hi' := List.mem_range.mp hi'
    have hc' := List.mem_range.mp hc'
    refine ⟨_, accWord p pr x t g i' c', rfl, ?_⟩
    by_cases hsame : i' = i ∧ c' = c
    · exact .inl ⟨by rw [hsame.1, hsame.2], by rw [hsame.1, hsame.2]⟩
    · rw [hlen, hlen]
      exact .inr (accKey_apart n (by omega) (by omega) (by omega) (by omega) (by omega))
  rwa [hlen] at hread

/-! ## The array -/

section
variable {s : State} (hs : s.Wf)
include hs

theorem bumpWrap_value (page off n : Nat) : ((bumpWrap page off n).run s).reg 0 page off = (s.reg 0 page off + n) % 2 ^ 32 :=
  (setReg_value hs 0 page off _).trans (Nat.mod_mod _ _)

theorem bumpWrap_other (page : Nat) {off off' : Nat} (h : off' ≠ off) (n : Nat) : ((bumpWrap page off n).run s).reg 0 page off' = s.reg 0 page off' :=
  (setReg_keepsReg (by unfold regKey; omega) _).reg hs

theorem cluster_put (n : Nat) (c : Cluster) : (s.apply (.clusters n c)).cluster n = c := (Tab.get_put hs.clusters ..).trans (if_pos rfl)

/-- A pass that issues is one that the array is busy with and that the cluster's counters have counted (R64-R68). -/
theorem issuePass_issued (n : Nat) (right : Bool) (ncol wAt aAt gated : Nat) (x : PassIn) (next : Option Stationary) :
    s.Issued ((issuePass n right ncol wAt aAt gated x next).run s) n right ncol wAt aAt gated x next := by
  have h1 := Plan.run_wf hs (bumpWrap (pgBC n) 0x10C 1)
  have hw := fun (u : State) (hu : u.Wf) (off k : Nat) => Plan.run_wf hu (bumpWrap (pgBC n) off k)
  have hact : ∀ (u : State) (c : Cluster) (off : Nat), ((Plan.act (.clusters n c)).run u).reg 0 (pgBC n) off = u.reg 0 (pgBC n) off := fun _ _ _ => rfl
  have hput : ∀ (u : State) (c : Cluster), u.Wf → ((Plan.act (.clusters n c)).run u).cluster n = c := fun u c hu => cluster_put hu n c
  unfold issuePass
  constructor
  all_goals
    rw [Plan.run_def]
    dsimp only
    rw [← Plan.run_def, Plan.run_seq_cons, Plan.run_seq_cons, Plan.run_seq_cons, Plan.run_seq_cons, Plan.run_seq_cons, Plan.run_seq_nil]
  case array => exact hput _ _ (hw _ (hw _ (hw _ h1 _ _) _ _) _ _)
  case passes =>
    rw [hact, bumpWrap_other (hw _ (hw _ h1 _ _) _ _) _ (by decide), bumpWrap_other (hw _ h1 _ _) _ (by decide), bumpWrap_other h1 _ (by decide), bumpWrap_value hs]
  case cycles =>
    rw [hact, bumpWrap_other (hw _ (hw _ h1 _ _) _ _) _ (by decide), bumpWrap_other (hw _ h1 _ _) _ (by decide), bumpWrap_value h1, bumpWrap_other hs _ (by decide)]
  case stall =>
    rw [hact, bumpWrap_other (hw _ (hw _ h1 _ _) _ _) _ (by decide), bumpWrap_value (hw _ h1 _ _), bumpWrap_other h1 _ (by decide), bumpWrap_other hs _ (by decide)]
  case gated =>
    rw [hact, bumpWrap_value (hw _ (hw _ h1 _ _) _ _), bumpWrap_other (hw _ h1 _ _) _ (by decide), bumpWrap_other h1 _ (by decide), bumpWrap_other hs _ (by decide)]

end

/-- What a pass that issues leaves of the array does not rest on local memory, free values and jobs. -/
theorem issued_between {s u t : State} {n : Nat} {right : Bool} {ncol wAt aAt gated : Nat} {x : PassIn} {next : Option Stationary} (hu : u.Wf)
    (hbefore : s.SameBut [.localMem, .fresh] u) (hafter : ((issuePass n right ncol wAt aAt gated x next).run u).SameBut [.localMem, .fresh, .jobs] t) :
    s.Issued t n right ncol wAt aAt gated x next := by
  have hissued := issuePass_issued hu n right ncol wAt aAt gated x next
  have hcluster : u.cluster n = s.cluster n := congrArg (fun c => Tab.get ({} : Cluster) c n) (hbefore.2 .clusters (by decide))
  have hreg : ∀ off, u.reg 0 (pgBC n) off = s.reg 0 (pgBC n) off := fun off => congrArg (fun r => (Tab.get (0 : Word) r (regKey 0 (pgBC n) off)).toNat) (hbefore.2 .regs (by decide))
  generalize (issuePass n right ncol wAt aAt gated x next).run u = w at hissued hafter
  have hcluster' : t.cluster n = w.cluster n := congrArg (fun c => Tab.get ({} : Cluster) c n) (hafter.2 .clusters (by decide))
  have hreg' : ∀ off, t.reg 0 (pgBC n) off = w.reg 0 (pgBC n) off := fun off => congrArg (fun r => (Tab.get (0 : Word) r (regKey 0 (pgBC n) off)).toNat) (hafter.2 .regs (by decide))
  constructor
  case array => rw [hcluster', ← hcluster]; exact hissued.array
  case passes => rw [hreg', ← hreg]; exact hissued.passes
  case cycles => rw [hreg', ← hreg]; exact hissued.cycles
  case stall => rw [hreg', ← hreg, ← hcluster]; exact hissued.stall
  case gated => rw [hreg', ← hreg]; exact hissued.gated

theorem issued_frame {s u t : State} {n : Nat} {right : Bool} {ncol wAt aAt gated : Nat} {x : PassIn} {next : Option Stationary}
    (hbefore : s.SameBut [.localMem, .fresh] u) (hafter : ((issuePass n right ncol wAt aAt gated x next).run u).SameBut [.localMem, .fresh, .jobs] t) :
    s.SameBut [.clusters, .regs, .jobs, .localMem, .fresh] t :=
  (hbefore.mono (by decide)).trans ((((issuePass_only ..).sameBut u).mono (by decide)).trans (hafter.mono (by decide)))

/-! ## PASS_ISSUE -/

theorem countPasses_localMem (id i n : Nat) (s : State) : ((countPasses id i n).run s).localMem = s.localMem := rfl

theorem countPasses_passes {s : State} (hs : s.Wf) {id i : Nat} (hi : i < (s.job id).strokes.length) (n : Nat) : (((countPasses id i n).run s).job id).stroke i = { (s.job id).stroke i with passes := n } := by
  have hjob : ((countPasses id i n).run s).job id = { s.job id with strokes := (s.job id).strokes.modify i (fun t => { t with passes := n }), changed := (s.job id).changed } :=
    job_put_same hs id _
  rw [hjob, stroke_modify, if_pos ⟨rfl, hi⟩]

/-- A stroke runs on the array of a cluster, or on a half of it, and no injection is armed for a check of it: its next pass may issue. -/
structure State.Passing (s : State) (n : Nat) (right : Bool) (r : StrokeRef) (pl : Place) : Prop where
  wf : s.Wf
  serves : s.svc.halted = false
  holds : (if right then (s.cluster n).right else (s.cluster n).left) = some r
  phase : (s.job r.job).phase = .running
  lives : (s.job r.job).killed = none
  state : ((s.job r.job).stroke r.idx).state = .running
  waits : ((s.job r.job).stroke r.idx).ran = false
  place : ((s.job r.job).stroke r.idx).place = some pl
  cluster : pl.cluster = n
  side : pl.right = right
  calm : s.firesOn pl [4, 1, 2, 0, 3] = none

section
variable {s : State} {n : Nat} {right : Bool} {r : StrokeRef} {pl : Place} (h : s.Passing n right r pl) (accRow wAt aAt : Nat) (shape : PassShape)
include h

theorem State.Passing.stands : r.idx < (s.job r.job).strokes.length := stroke_lt (by rw [h.state]; decide)

theorem passIssue_eq : passIssue n right accRow wAt aAt shape s =
    if ((s.job r.job).stroke r.idx).cls = 1 then issueNext r pl accRow wAt aAt s
    else if ((s.job r.job).stroke r.idx).cls = 2 then issueAttn r pl accRow wAt aAt shape s else [] := by
  unfold passIssue
  simp only [h.holds, h.place]
  rw [if_neg (by simp [h.phase, h.lives, h.state, h.waits])]

/-- What the steps of a pass leave, from its working space on: the array as it issues, and the stroke one pass on (R57, R67). -/
theorem passSteps {ncol gated k : Nat} {x : PassIn} {next : Option Stationary} {u : State} {p : Plan} (hu : u.Wf) (hbefore : s.SameBut [.localMem, .fresh] u)
    (hp : Plan.Only [.localMem] p) :
    (let t := (countPasses r.job r.idx k).run (p.run ((issuePass n right ncol wAt aAt gated x next).run u))
     s.Issued t n right ncol wAt aAt gated x next ∧ ((t.job r.job).stroke r.idx).passes = k ∧ s.SameBut [.clusters, .regs, .jobs, .localMem, .fresh] t) := by
  dsimp only
  have hjob : (p.run ((issuePass n right ncol wAt aAt gated x next).run u)).job r.job = s.job r.job := by
    rw [hp.job_eq _ (by decide), (issuePass_only ..).job_eq _ (by decide)]
    exact congrArg (fun t => Tab.get ({} : Job) t r.job) (hbefore.2 .jobs (by decide))
  have hafter : ((issuePass n right ncol wAt aAt gated x next).run u).SameBut [.localMem, .fresh, .jobs]
      ((countPasses r.job r.idx k).run (p.run ((issuePass n right ncol wAt aAt gated x next).run u))) :=
    ((hp.sameBut _).mono (by decide)).trans (((modJob_only ..).sameBut _).mono (by decide))
  refine ⟨issued_between hu hbefore hafter, ?_, issued_frame hbefore hafter⟩
  rw [countPasses_passes (Plan.run_wf (Plan.run_wf hu _) _) (by rw [hjob]; exact h.stands)]

end

end Sys2Proof.Machine
end

section
/-! The events of a cluster, command by command: passes, parity detections, the injection register and burnish (R57, R64-R74, R403). -/
namespace Sys2Proof.Machine

/-! ## Passes -/

section
variable {s : State} {n : Nat} {right : Bool} {r : StrokeRef} {pl : Place} (h : s.Passing n right r pl) (accRow wAt aAt : Nat) (shape : PassShape)
include h

section
variable {x : Mm} {pr : Product} {g : PassGeom} {gs : List PassGeom} (hpre : ((s.job r.job).stroke r.idx).preempting = false)
  (hcheck : mmCheck s (s.job r.job) ((s.job r.job).stroke r.idx) = none) (hx : mmOf s (s.job r.job) ((s.job r.job).stroke r.idx) = x)
  (hpr : x.product s ((s.job r.job).stroke r.idx) = pr) (hpasses : (x.plan ((s.job r.job).stroke r.idx)).passes.drop ((s.job r.job).stroke r.idx).passes = g :: gs)
include hpre hcheck hx hpr hpasses

/-- The next pass of an mm stroke: its working space, the pass, its words in the accumulator store, and one more pass counted (R57, R84). -/
theorem issueNext_eq : issueNext r pl accRow wAt aAt s = Plan.seq [workSpace pl true,
    issuePass pl.cluster pl.right x.ncol wAt aAt 0 (x.passIn pr g) ((gs.head?).map (fun h => pr.tile (x.batch h.b) x.B.d.fmtCode h)),
    (fun _ => accWrites pl.cluster pl.right (min accRow (2048 - g.m)) (x.plan ((s.job r.job).stroke r.idx)) pr x ((s.job r.job).stroke r.idx) g),
    countPasses r.job r.idx (((s.job r.job).stroke r.idx).passes + 1)] s := by
  unfold issueNext
  simp only [hx, hpr, hpasses, hcheck, hpre, h.calm, Option.isSome_none, Bool.false_and, Bool.or_false, Bool.false_eq_true, if_false]

/-- PASS_ISSUE of an mm stroke (R57, R65-R68). -/
theorem exec_passIssue_mm (hcls : ((s.job r.job).stroke r.idx).cls = 1) (hm : g.m ≤ 2048) (hn : g.n ≤ (if pl.isHalf then 64 else 128)) :
    ∃ t, exec (.passIssue n right accRow wAt aAt shape) s = .next t ∧
      s.Issued t n right x.ncol wAt aAt 0 (x.passIn pr g) ((gs.head?).map (fun h => pr.tile (x.batch h.b) x.B.d.fmtCode h)) ∧
      ((t.job r.job).stroke r.idx).passes = ((s.job r.job).stroke r.idx).passes + 1 ∧
      (∀ i c, i < g.m → c < g.n → Tab.getList 0 t.localMem (accKey n (min accRow (2048 - g.m) + i) (c + if right then 64 else 0)) 4 =
        accWord (x.plan ((s.job r.job).stroke r.idx)) pr x ((s.job r.job).stroke r.idx) g i c) ∧
      s.SameBut [.clusters, .regs, .jobs, .localMem, .fresh] t := by
  obtain rfl := h.cluster
  obtain rfl := h.side
  have hplan := (passIssue_eq h accRow wAt aAt shape).trans ((if_pos hcls).trans (issueNext_eq h accRow wAt aAt hpre hcheck hx hpr hpasses))
  clear hx hpr hpasses hcheck
  generalize (x.plan ((s.job r.job).stroke r.idx)) = p at hplan ⊢
  have hspace := Plan.run_wf h.wf (workSpace pl true)
  have hwords : Plan.Only [.localMem] (fun _ => accWrites pl.cluster pl.right (min accRow (2048 - g.m)) p pr x ((s.job r.job).stroke r.idx) g) := ⟨fun _ => accWrites_effs _ _ _ _ _ _ _ _⟩
  obtain ⟨hissued, hcount, hframe⟩ := passSteps h wAt aAt (ncol := x.ncol) (gated := 0) (k := ((s.job r.job).stroke r.idx).passes + 1) (x := x.passIn pr g)
    (next := (gs.head?).map (fun h => pr.tile (x.batch h.b) x.B.d.fmtCode h)) hspace ((workSpace_only pl true).sameBut s) hwords
  have hcols : g.n + (if pl.right then 64 else 0) ≤ 128 := by
    cases pl with
    | half k b =>
      have hn : g.n ≤ 64 := hn
      split <;> omega
    | _ => exact hn.trans (by simp [Place.isHalf])
  refine ⟨_, Plan.done_of_eq h.serves hplan, ?_⟩
  rw [Plan.run_seq_cons, Plan.run_seq_cons, Plan.run_seq_cons, Plan.run_seq_cons, Plan.run_seq_nil]
  refine ⟨hissued, hcount, fun i c hi hc => ?_, hframe⟩
  rw [countPasses_localMem]
  exact accWrites_read (Plan.run_wf hspace _) pl.cluster _ pr x _ (by omega) hcols hi hc

end

end

/-- The tile of a pass that the attention sequencer issues holds free values (R57; log entry 110). -/
def attnTile (a : Attn) (shape : PassShape) (f : Nat) : Stationary :=
  { fmt := a.kv.fmtCode, k := shape.k, n := shape.n, codes := (List.range (shape.k * shape.n)).map (fun q => f / 2 ^ (16 * q) % 2 ^ (8 * a.fmt.bytes)) }

/-- The words of the accumulator store that such a pass leaves, columns 0 to 63 and the rest. -/
def attnWords (n r0 : Nat) (shape : PassShape) (f : Nat) : Plan := Plan.seq [
  (fun _ => (List.range shape.m).map (fun i => Eff.localStore (accKey n (r0 + i) 0) (leBytes (4 * min 64 shape.n) (f / 2 ^ (300000 + 4096 * i))))),
  (fun _ => if shape.n ≤ 64 then [] else (List.range shape.m).map (fun i => Eff.localStore (accKey n (r0 + i) 64) (leBytes (4 * (shape.n - 64)) (f / 2 ^ (302048 + 4096 * i)))))]

theorem attnWords_only (n r0 : Nat) (shape : PassShape) (f : Nat) : Plan.Only [.localMem] (attnWords n r0 shape f) := by
  refine Plan.only_seq_cons ⟨fun _ => EffsIn.map (fun _ => by simp [Eff.field])⟩ (Plan.only_seq_cons ⟨fun _ => ?_⟩ Plan.only_seq_nil)
  split
  · exact EffsIn.nil
  · exact EffsIn.map (fun _ => by simp [Eff.field])

section
variable {s : State} {n : Nat} {r : StrokeRef} {pl : Place} (h : s.Passing n false r pl) (accRow wAt aAt : Nat) {shape : PassShape}
  (hcheck : (attnOf s (s.job r.job) ((s.job r.job).stroke r.idx)).check ((s.job r.job).stroke r.idx).op = none) (hk : 1 ≤ shape.k) (hk' : shape.k ≤ 128) (hn : 1 ≤ shape.n)
  (hn' : shape.n ≤ 128) (hm : 1 ≤ shape.m) (hm' : shape.m ≤ 2048) (hgated : shape.gated ≤ 128 * shape.m)
include h hcheck hk hk' hn hn' hm hm' hgated

theorem issueAttn_run : (issueAttn r pl accRow wAt aAt shape).run s =
    (let u := (workSpace pl true).run s
     let f := Config.freeValue u.fresh
     (countPasses r.job r.idx (((s.job r.job).stroke r.idx).passes + 1)).run ((attnWords pl.cluster (min accRow (2048 - shape.m)) shape f).run
       ((issuePass pl.cluster false 128 wAt aAt shape.gated
         { wide := shape.wide, rows := shape.m, finite := 0, tile := attnTile (attnOf s (s.job r.job) ((s.job r.job).stroke r.idx)) shape f } none).run { u with fresh := u.fresh + 1 }))) := by
  have hopen : ¬ (((attnOf s (s.job r.job) ((s.job r.job).stroke r.idx)).check ((s.job r.job).stroke r.idx).op).isSome || shape.k == 0 || shape.n == 0 || shape.m == 0 ||
      decide (128 < shape.k) || decide (128 < shape.n) || decide (2048 < shape.m) || decide (128 * shape.m < shape.gated)) = true := by
    simp only [hcheck, Option.isSome_none, Bool.or_eq_true, decide_eq_true_eq, beq_iff_eq, Bool.false_eq_true, false_or]
    omega
  have hplan : issueAttn r pl accRow wAt aAt shape s = Plan.seq [workSpace pl true,
      withFree (fun f => Plan.andThen (issuePass pl.cluster false 128 wAt aAt shape.gated
        { wide := shape.wide, rows := shape.m, finite := 0, tile := attnTile (attnOf s (s.job r.job) ((s.job r.job).stroke r.idx)) shape f } none)
        (attnWords pl.cluster (min accRow (2048 - shape.m)) shape f)), countPasses r.job r.idx (((s.job r.job).stroke r.idx).passes + 1)] s := by
    unfold issueAttn
    dsimp only
    rw [if_neg hopen]
    simp only [h.calm]
    rfl
  rw [Plan.run_congr hplan, Plan.run_seq_cons, Plan.run_seq_cons, Plan.run_seq_cons, Plan.run_seq_nil, withFree_run, Plan.run_andThen]

/-- PASS_ISSUE of an attn stroke (R57, R65-R68, R133). -/
theorem exec_passIssue_attn (hcls : ((s.job r.job).stroke r.idx).cls = 2) : ∃ t tile, exec (.passIssue n false accRow wAt aAt shape) s = .next t ∧ tile.k = shape.k ∧ tile.n = shape.n ∧
    s.Issued t n false 128 wAt aAt shape.gated { wide := shape.wide, tile := tile, rows := shape.m, finite := 0 } none ∧
    ((t.job r.job).stroke r.idx).passes = ((s.job r.job).stroke r.idx).passes + 1 ∧ s.SameBut [.clusters, .regs, .jobs, .localMem, .fresh] t := by
  obtain rfl := h.cluster
  have hplan : passIssue pl.cluster false accRow wAt aAt shape s = issueAttn r pl accRow wAt aAt shape s :=
    (passIssue_eq h accRow wAt aAt shape).trans ((if_neg (by rw [hcls]; decide)).trans (if_pos hcls))
  have hspace := Plan.run_wf h.wf (workSpace pl true)
  have hbefore := (workSpace_only pl true).sameBut s
  refine ⟨_, attnTile (attnOf s (s.job r.job) ((s.job r.job).stroke r.idx)) shape (Config.freeValue ((workSpace pl true).run s).fresh), Plan.done_of_eq h.serves hplan, rfl, rfl, ?_⟩
  rw [issueAttn_run h accRow wAt aAt hcheck hk hk' hn hn' hm hm' hgated]
  generalize (workSpace pl true).run s = u at hspace hbefore
  have hdrawn : u.SameBut [.localMem, .fresh] { u with fresh := u.fresh + 1 } := (Plan.only_act (F := [.localMem, .fresh]) (e := .fresh (u.fresh + 1)) (by simp [Eff.field])).sameBut u
  exact passSteps h wAt aAt (hspace.apply (.fresh (u.fresh + 1))) (hbefore.trans hdrawn) (attnWords_only ..)

end

/-! ## The injection register and local burnish -/

/-- BC_INJECT takes PATH and HALF, keeps or sets ARM for a path that exists, and clears FIRED by a 1 (R74). -/
theorem exec_bcInjectWrite {s : State} {n : Nat} (v : Nat) (h : s.Open 0) (hn : n ≤ 16) (hused : (s.cluster n).withdrawn = false) :
    exec (.bcInjectWrite 0 n v) s = .next ((setReg 0 (pgBC n) 0x128 (bitAt (bit (s.reg 0 (pgBC n) 0x128) 8 && !bit v 8) 8 + fld v 5 4 * 16 + fld v 3 1 * 2 +
      bitAt ((bit (s.reg 0 (pgBC n) 0x128) 0 || bit v 0) && decide (fld v 3 1 ≤ 4)) 0)).run s) := by
  refine exec_pageGate h (if_neg ?_)
  rw [hused]
  simp [Nat.not_lt.mpr hn]

section
variable {s : State} (hserves : s.svc.halted = false) {n : Nat} (hn : n < 16)
include hserves hn

/-- A local share is free again once its burnish has ended (R72, R73). -/
theorem exec_localBurnishDone {share : Nat} {c : Cluster} (hplan : localBurnishDone n share s = if 16 ≤ n then [] else [.clusters n c]) :
    exec (.localBurnishDone n share) s = .next { s with clusters := Tab.put {} s.clusters n c } :=
  Plan.done_of_eq hserves (q := Plan.act (.clusters n c)) (hplan.trans (if_neg (Nat.not_le.mpr hn)))

theorem exec_localBurnishDone_each :
    ((s.cluster n).burnishL = true ∨ (s.cluster n).burnishW = true →
      exec (.localBurnishDone n 0) s = .next { s with clusters := Tab.put {} s.clusters n { s.cluster n with burnishL := false, burnishW := false } }) ∧
    ((s.cluster n).burnishR = true → exec (.localBurnishDone n 1) s = .next { s with clusters := Tab.put {} s.clusters n { s.cluster n with burnishR := false } }) ∧
    ((s.cluster n).burnishH = true → exec (.localBurnishDone n 2) s = .next { s with clusters := Tab.put {} s.clusters n { s.cluster n with burnishH := false } }) ∧
    ((s.cluster n).burnishM = true → exec (.localBurnishDone n 3) s = .next { s with clusters := Tab.put {} s.clusters n { s.cluster n with burnishM := false } }) := by
  refine ⟨fun h => ?_, fun h => ?_, fun h => ?_, fun h => ?_⟩
  · exact exec_localBurnishDone hserves hn (by simp [localBurnishDone, h])
  · exact exec_localBurnishDone hserves hn (by simp [localBurnishDone, h])
  · exact exec_localBurnishDone hserves hn (by simp [localBurnishDone, h])
  · exact exec_localBurnishDone hserves hn (by simp [localBurnishDone, h])

end

/-! ## Detections -/

section
variable {s : State} (hs : s.Wf) (hserves : s.svc.halted = false) {n : Nat} (hn : n < 16) (right : Bool)
include hs hserves hn

/-- Detections of a cycle: the jobs charged end, and a single one is counted, flagged and captured (R71-R73, R403, R404). -/
theorem exec_clusterParityDetect {hits : List ParityHit} (hne : hits ≠ [])
    (hall : ∀ h ∈ hits, h.path ≤ 5 ∧ ∃ r rest, faultedStrokes (s.cluster n) h.path right (s.splitMode n) = r :: rest ∧ ((s.job r.job).stroke r.idx).reached h = true) :
    ∃ t, exec (.clusterParityDetect n right false hits) s = .next t ∧
      (∀ h ∈ hits, ∀ r ∈ faultedStrokes (s.cluster n) h.path right (s.splitMode n), (t.job r.job).killed ≠ none ∨ (t.job r.job).phase = .gone) ∧
      (∀ h r rest, hits = [h] → faultedStrokes (s.cluster n) h.path right (s.splitMode n) = r :: rest →
        (let w := s.reg 0 (pgBC n) 0x120
         t.reg 0 (pgBC n) 0x120 = (if h.path = 5 then w else hitWord h.path w) ∧
         bit (t.reg 0 (pgBC n) 0x018) (clusterErrBit h.path right h.column (s.splitMode n)) = true ∧
         (Nat.land (s.reg 0 (pgBC n) 0x018) 0xFF = 0 →
           t.reg 0 (pgBC n) 0x028 = (clusterHalf h.path right (s.splitMode n) * 2 ^ 29 + (s.job r.job).fn * 2 ^ 25 + (s.job r.job).tableIndex r.idx) % 2 ^ 32 ∧
           t.reg 0 (pgBC n) 0x02C = h.pass % 2 ^ 32))) := by
  refine ⟨_, Plan.done_of_eq hserves (clusterParityDetect_real hn hne hall), fun h hh r hr => ?_, fun h r rest hsingle hwho => ?_⟩
  · rw [parityDetect_run]
    exact killEach_dead _ 0x31 (Plan.run_wf hs _) (List.mem_flatMap.mpr ⟨h, hh, hr⟩)
  · subst hsingle
    have hreg : ∀ off, off < 0x1000 → ((parityDetect n right false [h]).run s).reg 0 (pgBC n) off = ((noteHit n right false h).run s).reg 0 (pgBC n) off :=
      fun off hoff => parityDetect_single_reg hs hn false h hoff
    dsimp only
    rw [hreg _ (by decide), hreg _ (by decide), hreg _ (by decide), hreg _ (by decide)]
    exact noteHit_real hs hn hwho

/-- An injected fault at the check that it is armed for: the injection fires, counts nothing, and ends the jobs charged (R74). -/
theorem exec_clusterParityDetect_injected {h : ParityHit} {r : StrokeRef} {rest : List StrokeRef} (hpath : h.path ≤ 5)
    (hwho : faultedStrokes (s.cluster n) h.path right (s.splitMode n) = r :: rest) (hreached : ((s.job r.job).stroke r.idx).reached h = true) (harmed : s.armed n h.path right = true) :
    ∃ t, exec (.clusterParityDetect n right true [h]) s = .next t ∧ t.reg 0 (pgBC n) 0x128 = fld (s.reg 0 (pgBC n) 0x128) 5 1 * 2 + 256 ∧
      t.reg 0 (pgBC n) 0x120 = s.reg 0 (pgBC n) 0x120 ∧
      ∀ r' ∈ faultedStrokes (s.cluster n) h.path right (s.splitMode n), (s.job r'.job).phase ≠ .gone → (s.job r'.job).killed = none → (t.job r'.job).killed = some 0x31 := by
  obtain ⟨hfired, hcount⟩ := noteHit_injected hs hn hwho
  refine ⟨_, Plan.done_of_eq hserves (clusterParityDetect_injected hn hpath hwho hreached harmed), ?_, ?_, fun r' hr' hphase hlives => ?_⟩
  · rw [parityDetect_single_reg hs hn true h (by decide), hfired]
  · rw [parityDetect_single_reg hs hn true h (by decide), hcount]
  · have hjob := noteHit_injected_job hwho r'.job
    rw [parityDetect_single_run]
    exact killEach_fault _ (Plan.run_wf hs _) (List.mem_flatMap.mpr ⟨h, List.mem_singleton_self h, hr'⟩) ⟨by rw [hjob]; exact hphase, .inl (by rw [hjob]; exact hlives)⟩

end

/-- Settles O37, event by event. -/
theorem clusterEvents : Obligations.ClusterEvents := by
  unfold Obligations.ClusterEvents
  refine ⟨?passes, ?detections, ?injected, ?register, ?burnish⟩
  case passes =>
    intro n accRow wAt aAt right shape r pl s hs hserves hholds hphase hlives hstate hwaits hplace hcluster hside hcalm
    have h : s.Passing n right r pl := ⟨hs, hserves, hholds, hphase, hlives, hstate, hwaits, hplace, hcluster, hside, hcalm⟩
    refine ⟨fun g gs hcls hpre hcheck hpasses hm hn => exec_passIssue_mm h accRow wAt aAt shape hpre hcheck rfl rfl hpasses hcls hm hn, ?_⟩
    intro hcls hleft hcheck hk hk' hn hn' hm hm' hgated
    subst hleft
    exact exec_passIssue_attn h accRow wAt aAt hcheck hk hk' hn hn' hm hm' hgated hcls
  case detections =>
    intro n right hits s hs hserves hn hne hall
    exact exec_clusterParityDetect hs hserves hn right hne hall
  case injected =>
    intro n right h r rest s hs hserves hn hpath hwho hreached harmed
    exact exec_clusterParityDetect_injected hs hserves hn right hpath hwho hreached harmed
  case register =>
    intro n v s hopen hn hused
    exact exec_bcInjectWrite v hopen hn hused
  case burnish =>
    intro n s hserves hn
    exact exec_localBurnishDone_each hserves hn

end Sys2Proof.Machine
end

section
/-! Tensors given by a function of the index: what `Tensor.build` holds at each index, and so what the elementwise operations of the hatch unit compute (R106, R110). -/
namespace Sys2Proof.Machine

/-! ## The place of an index -/

theorem add_mul_lt_mul {a b m n : Nat} (ha : a < m) (hb : b < n) : a + m * b < m * n :=
  calc a + m * b < m * (b + 1) := by rw [Nat.mul_succ]; omega
    _ ≤ m * n := Nat.mul_le_mul_left m hb

theorem length_flatMap_range {α : Type} (g : Nat → List α) {m : Nat} (n : Nat) (hlen : ∀ i, (g i).length = m) : ((List.range n).flatMap g).length = m * n := by
  simp [List.length_flatMap, hlen, Nat.mul_comm]

/-- Of rows of one length, element `j` of row `k` stands at `j + m * k`. -/
theorem getElem?_flatMap_range {α : Type} (g : Nat → List α) {m j k n : Nat} (hlen : ∀ i, (g i).length = m) (hk : k < n) (hj : j < m) :
    ((List.range n).flatMap g)[j + m * k]? = (g k)[j]? := by
  induction n with
  | zero => omega
  | succ n ih =>
    have hall := length_flatMap_range g n hlen
    rw [List.range_succ, List.flatMap_append, List.flatMap_singleton]
    rcases Nat.lt_succ_iff_lt_or_eq.mp hk with hlt | rfl
    · rw [List.getElem?_append_left (hall ▸ add_mul_lt_mul hj hlt), ih hlt]
    · rw [List.getElem?_append_right (by omega), hall, Nat.add_sub_cancel]

/-- `indices` lists the indices in the order of their places. -/
theorem getElem?_indices {ext i : List Nat} (hi : i ∈ indices ext) : (indices ext)[linear ext i]? = some i := by
  unfold indices at hi ⊢
  simp only [List.mem_flatMap, List.mem_map, List.mem_range] at hi
  obtain ⟨i3, h3, i2, h2, i1, h1, i0, h0, rfl⟩ := hi
  have hplace : linear ext [i0, i1, i2, i3] = (i0 + ext.getD 0 1 * (i1 + ext.getD 1 1 * i2)) + ext.getD 0 1 * ext.getD 1 1 * ext.getD 2 1 * i3 := by
    simp only [linear, List.getD_cons_zero, List.getD_cons_succ]; ring
  have hplane : i0 + ext.getD 0 1 * (i1 + ext.getD 1 1 * i2) = (i0 + ext.getD 0 1 * i1) + ext.getD 0 1 * ext.getD 1 1 * i2 := by ring
  have hrow : i0 + ext.getD 0 1 * i1 < ext.getD 0 1 * ext.getD 1 1 := add_mul_lt_mul h0 h1
  have hcube : (i0 + ext.getD 0 1 * i1) + ext.getD 0 1 * ext.getD 1 1 * i2 < ext.getD 0 1 * ext.getD 1 1 * ext.getD 2 1 := add_mul_lt_mul hrow h2
  have hrows : ∀ g : Nat → List Nat, ((List.range (ext.getD 0 1)).map g).length = ext.getD 0 1 := fun _ => by simp
  have hplanes : ∀ g : Nat → Nat → List Nat, ((List.range (ext.getD 1 1)).flatMap (fun k => (List.range (ext.getD 0 1)).map (g k))).length =
      ext.getD 0 1 * ext.getD 1 1 := fun g => length_flatMap_range _ _ (fun k => hrows (g k))
  rw [hplace, getElem?_flatMap_range _ (fun _ => length_flatMap_range _ _ (fun _ => hplanes _)) h3 (hplane ▸ hcube), hplane,
    getElem?_flatMap_range _ (fun _ => hplanes _) h2 hrow, getElem?_flatMap_range _ (fun _ => hrows _) h1 h0,
    List.getElem?_map, List.getElem?_range h0, Option.map_some]

/-- A tensor given by a function holds that function's value at each of its indices. -/
theorem Tensor.at_build {ext i : List Nat} (f : List Nat → FVal) (hi : i ∈ indices ext) : (Tensor.build ext f).at i = f i := by
  simp [Tensor.at, Tensor.build, List.getD_eq_getElem?_getD, getElem?_indices hi]

/-! ## The elementwise operations -/

theorem map1_values (cost : Nat) (f : FVal → FVal) (h : HatchIn) :
    ∃ z, (map1 cost f h).outs = [(h.z, z)] ∧ ∀ i ∈ indices h.z.ext, z.at i = f (h.xt.bcast i) :=
  ⟨_, rfl, fun _ hi => Tensor.at_build _ hi⟩

theorem map2_values (cost : Nat) (f : FVal → FVal → FVal) (h : HatchIn) :
    ∃ z, (map2 cost f h).outs = [(h.z, z)] ∧ ∀ i ∈ indices h.z.ext, z.at i = f (h.xt.bcast i) (h.yt.bcast i) :=
  ⟨_, rfl, fun _ hi => Tensor.at_build _ hi⟩

/-- Settles O34: each operation is `map1` or `map2` of its step, and hatch.fill and hatch.iota build their tensor directly. -/
theorem hatchValues : Obligations.HatchValues := by
  unfold Obligations.HatchValues
  intro h
  exact ⟨map2_values 1 FVal.add h, map2_values 1 FVal.sub h, map2_values 1 FVal.mul h, map2_values 1 FVal.max h, map2_values 1 FVal.min h,
    map2_values 1 _ h, map1_values 1 _ h, map1_values 1 (fun a => (a.max (h.pf 0)).min (h.pf 1)) h, map1_values 1 _ h, map1_values 1 id h,
    ⟨_, rfl, fun _ hi => Tensor.at_build _ hi⟩, ⟨_, rfl, fun _ hi => Tensor.at_build _ hi⟩⟩

end Sys2Proof.Machine
end

section
/-! Magnitudes counted in a common unit, by which values are compared, and what rounding leaves of one (R60, R97). -/
namespace Sys2Proof.Machine

/-- `m` × 2^`e` in units of 2^`u`, for `u` ≤ `e`. -/
def units (u : Int) (m : Nat) (e : Int) : Nat := m * 2 ^ (e - u).toNat

@[simp] theorem units_zero (u e : Int) : units u 0 e = 0 := Nat.zero_mul _

@[simp] theorem units_add (u : Int) (m k : Nat) : units u m (u + k) = m * 2 ^ k := by simp [units]

theorem units_finer {u b e : Int} (hub : u ≤ b) (hbe : b ≤ e) (m : Nat) : units u m e = units b m e * 2 ^ (b - u).toNat := by
  have hsplit : (e - u).toNat = (e - b).toNat + (b - u).toNat := by omega
  rw [units, units, Nat.mul_assoc, ← Nat.pow_add, hsplit]

/-- Two values compare as their counts in a unit below both do; the model compares them in the lower of their own units. -/
theorem units_le_units {u b e e2 : Int} (hub : u ≤ b) (hbe : b ≤ e) (hbe2 : b ≤ e2) {m m2 : Nat} :
    units u m e ≤ units u m2 e2 ↔ units b m e ≤ units b m2 e2 := by
  rw [units_finer hub hbe, units_finer hub hbe2, Nat.mul_le_mul_right_iff (by positivity)]

theorem magGt_eq_false {u e e2 : Int} (he : u ≤ e) (he2 : u ≤ e2) {m m2 : Nat} : magGt m e m2 e2 = false ↔ units u m e ≤ units u m2 e2 := by
  rw [units_le_units (le_min he he2) (min_le_left e e2) (min_le_right e e2)]
  simp [magGt, units]

theorem FVal.equals_fin {u e e2 : Int} (he : u ≤ e) (he2 : u ≤ e2) (n : Bool) {m m2 : Nat} (h : units u m e = units u m2 e2) :
    (FVal.fin n m e).equals (.fin n m2 e2) = true := by
  have hb : units (Min.min e e2) m e = units (Min.min e e2) m2 e2 :=
    Nat.le_antisymm ((units_le_units (le_min he he2) (min_le_left e e2) (min_le_right e e2)).mp h.le)
      ((units_le_units (le_min he he2) (min_le_right e e2) (min_le_left e e2)).mp h.ge)
  unfold units at hb
  simp [FVal.equals, FVal.eqNum, signedAt, hb]

/-! ## Rounding -/

theorem rneShift_le {m k p : Nat} (h : m < 2 ^ (p + k)) : rneShift m k ≤ 2 ^ p := by
  have hq : m / 2 ^ k < 2 ^ p := Nat.div_lt_of_lt_mul (by rwa [← Nat.pow_add, Nat.add_comm k])
  simp only [rneShift]
  split_ifs <;> omega

/-- A rounded value has at most `p` significant bits, but for a carry to 2^`p`, and is never finer than 2^`emin`. -/
theorem rnd_range (p : Nat) (emin : Int) (m : Nat) (e : Int) : (rnd p emin m e).1 ≤ 2 ^ p ∧ emin ≤ (rnd p emin m e).2 := by
  simp only [rnd]
  split_ifs with hzero hkeeps
  · exact ⟨Nat.zero_le _, le_rfl⟩
  · have hm : m < 2 ^ p := (Nat.log2_lt hzero).mp (by omega)
    exact ⟨hm.le, by omega⟩
  · exact ⟨rneShift_le ((Nat.log2_lt hzero).mp (by omega)), le_max_left _ _⟩

/-- A value of at most `p` significant bits that is not finer than 2^`emin` is not changed. -/
theorem units_rnd {p : Nat} {emin : Int} {m : Nat} {e : Int} (hm : m < 2 ^ p) (he : emin ≤ e) :
    units emin (rnd p emin m e).1 (rnd p emin m e).2 = units emin m e := by
  by_cases hzero : m = 0
  · simp [rnd, hzero]
  · have hbits : Nat.log2 m < p := (Nat.log2_lt hzero).mpr hm
    have hkeeps : max emin ((Nat.log2 m : Int) + e - p + 1) ≤ e := by omega
    simp [rnd, hzero, hkeeps]

end Sys2Proof.Machine
end

section
/-! The float formats field by field: sign, exponent and fraction of an element, the value they spell, and the fields that `packFloat` writes (R94, R95). -/
namespace Sys2Proof.Machine

/-! ## Fields -/

def Fmt.fracBits (f : Fmt) : Nat := f.float.1
def Fmt.expBits (f : Fmt) : Nat := f.float.2.1
def Fmt.bias (f : Fmt) : Int := f.float.2.2

/-- The exponent of the least subnormal value, in which every finite value is whole. -/
def Fmt.unit (f : Fmt) : Int := 1 - f.bias - f.fracBits

/-- The highest exponent field of a finite value: only E4M3 has finite values under the field of all ones (R94). -/
def Fmt.maxExp (f : Fmt) : Nat := 2 ^ f.expBits - if f = .e4m3 then 1 else 2

/-- The significand of the largest finite value: all ones, but for E4M3, where that is NaN (R94). -/
def Fmt.maxSig (f : Fmt) : Nat := 2 ^ f.fracBits * 2 - if f = .e4m3 then 2 else 1

/-- The element of a sign, an exponent field and a fraction field. -/
def Fmt.word (f : Fmt) (neg : Bool) (ex fr : Nat) : Nat := (if neg then 2 ^ (f.fracBits + f.expBits) else 0) + ex * 2 ^ f.fracBits + fr

/-- The value that the three fields spell. -/
def Fmt.ofFields (f : Fmt) (neg : Bool) (ex fr : Nat) : FVal :=
  if ex = 2 ^ f.expBits - 1 ∧ f ≠ .e4m3 then (if fr = 0 then .inf neg else .nan)
  else if ex = 2 ^ f.expBits - 1 ∧ fr = 2 ^ f.fracBits - 1 then .nan
  else if ex = 0 then .fin neg fr f.unit
  else .fin neg (2 ^ f.fracBits + fr) ((ex : Int) - f.bias - f.fracBits)

/-- The significand of a finite value, with the leading one of a normal value. -/
def Fmt.sig (f : Fmt) (ex fr : Nat) : Nat := if ex = 0 then fr else 2 ^ f.fracBits + fr

/-- Fields of a finite value: not above those of the largest. -/
def Fmt.FiniteFields (f : Fmt) (ex fr : Nat) : Prop := fr < 2 ^ f.fracBits ∧ ex ≤ f.maxExp ∧ (ex = f.maxExp → 2 ^ f.fracBits + fr ≤ f.maxSig)

theorem Fmt.maxExp_pos (f : Fmt) : 1 ≤ f.maxExp := by cases f <;> decide

theorem Fmt.maxExp_add (f : Fmt) : f.maxExp + (if f = .e4m3 then 1 else 2) = 2 ^ f.expBits := by cases f <;> decide

theorem Fmt.maxSig_add (f : Fmt) : f.maxSig + (if f = .e4m3 then 2 else 1) = 2 ^ f.fracBits * 2 := by cases f <;> decide

theorem Fmt.maxSig_normal (f : Fmt) : 2 ^ f.fracBits ≤ f.maxSig ∧ f.maxSig < 2 ^ f.fracBits * 2 := by cases f <;> decide

/-- The table of R94 gives the magnitude of the largest finite fields. -/
theorem Fmt.units_largest {f : Fmt} (hf : f.isInt = false) : units f.unit f.largest.1 f.largest.2 = f.maxSig * 2 ^ (f.maxExp - 1) := by
  revert hf
  cases f <;> decide

theorem Fmt.maxExp_lt (f : Fmt) : f.maxExp < 2 ^ f.expBits := by
  rw [← f.maxExp_add]
  split_ifs <;> omega

theorem decodeElem_float {f : Fmt} (hf : f.isInt = false) (w : Nat) :
    decodeElem f w = f.ofFields (bit w (f.fracBits + f.expBits)) (w / 2 ^ f.fracBits % 2 ^ f.expBits) (w % 2 ^ f.fracBits) := by
  rw [decodeElem, hf]
  rfl

/-- Reading an element gives the fields that it was made of. -/
theorem decodeElem_word {f : Fmt} (hf : f.isInt = false) (neg : Bool) {ex fr : Nat} (hex : ex < 2 ^ f.expBits) (hfr : fr < 2 ^ f.fracBits) :
    decodeElem f (f.word neg ex fr) = f.ofFields neg ex fr := by
  have hword : f.word neg ex fr = 2 ^ f.fracBits * (2 ^ f.expBits * neg.toNat + ex) + fr := by
    cases neg <;> simp [Fmt.word] <;> ring
  have hhigh : f.word neg ex fr / 2 ^ f.fracBits = 2 ^ f.expBits * neg.toNat + ex := by
    rw [hword, Nat.mul_add_div (by positivity), Nat.div_eq_of_lt hfr, Nat.add_zero]
  have hsign : f.word neg ex fr / 2 ^ (f.fracBits + f.expBits) = neg.toNat := by
    rw [Nat.pow_add, ← Nat.div_div_eq_div_mul, hhigh, Nat.mul_add_div (by positivity), Nat.div_eq_of_lt hex, Nat.add_zero]
  have hbit : bit (f.word neg ex fr) (f.fracBits + f.expBits) = neg := by rw [bit, hsign]; cases neg <;> rfl
  rw [decodeElem_float hf, hbit, hhigh, Nat.mul_add_mod, Nat.mod_eq_of_lt hex, hword, Nat.mul_add_mod, Nat.mod_eq_of_lt hfr]

theorem Fmt.ofFields_finite {f : Fmt} (neg : Bool) {ex fr : Nat} (h : f.FiniteFields ex fr) :
    f.ofFields neg ex fr = .fin neg (f.sig ex fr) (f.unit + (ex - 1 : Nat)) := by
  obtain ⟨hfr, hle, htop⟩ := h
  have hexp := f.maxExp_add
  have hsig := f.maxSig_add
  have hnumber : ¬(ex = 2 ^ f.expBits - 1 ∧ f ≠ .e4m3) := by rintro ⟨hex, hne⟩; rw [if_neg hne] at hexp; omega
  have hnotNan : ¬(ex = 2 ^ f.expBits - 1 ∧ fr = 2 ^ f.fracBits - 1) := by rintro ⟨hex, hall⟩; split_ifs at hexp hsig <;> omega
  rw [ofFields, if_neg hnumber, if_neg hnotNan, sig, unit]
  split_ifs with hzero
  · simp [hzero]
  · congr 1; omega

/-- What any fields spell: NaN, an infinity, which E4M3 has not, or a finite value. -/
theorem Fmt.ofFields_cases (f : Fmt) (neg : Bool) {ex fr : Nat} (hex : ex < 2 ^ f.expBits) (hfr : fr < 2 ^ f.fracBits) :
    f.ofFields neg ex fr = .nan ∨ f.ofFields neg ex fr = .inf neg ∨ f.FiniteFields ex fr := by
  have hexp := f.maxExp_add
  have hsig := f.maxSig_add
  by_cases hspecial : ex = 2 ^ f.expBits - 1 ∧ f ≠ .e4m3
  · rw [ofFields, if_pos hspecial]
    split_ifs <;> simp
  · by_cases hnan : ex = 2 ^ f.expBits - 1 ∧ fr = 2 ^ f.fracBits - 1
    · rw [ofFields, if_neg hspecial, if_pos hnan]
      exact .inl rfl
    · refine .inr (.inr ?_)
      by_cases hfmt : f = .e4m3
      · rw [if_pos hfmt] at hexp hsig
        exact ⟨hfr, by omega, fun _ => by omega⟩
      · have hlow : ex ≠ 2 ^ f.expBits - 1 := fun h => hspecial ⟨h, hfmt⟩
        rw [if_neg hfmt] at hexp hsig
        exact ⟨hfr, by omega, fun _ => by omega⟩

/-- Fields are those of a finite value where their magnitude is not above the largest. -/
theorem Fmt.finiteFields_iff {f : Fmt} (hf : f.isInt = false) {ex fr : Nat} (hfr : fr < 2 ^ f.fracBits) :
    f.FiniteFields ex fr ↔ units f.unit (f.sig ex fr) (f.unit + (ex - 1 : Nat)) ≤ units f.unit f.largest.1 f.largest.2 := by
  have hone := f.maxExp_pos
  obtain ⟨hlow, hhigh⟩ := f.maxSig_normal
  have hdouble : ∀ k, 1 ≤ k → 2 ^ f.fracBits * 2 * 2 ^ (k - 1) = 2 ^ f.fracBits * 2 ^ k := fun k hk => by
    rw [Nat.mul_assoc, ← Nat.pow_succ', Nat.succ_eq_add_one, Nat.sub_add_cancel hk]
  rw [units_largest hf, units_add, sig]
  constructor
  · rintro ⟨-, hle, htop⟩
    rcases Nat.eq_zero_or_pos ex with rfl | hpos
    · exact Nat.mul_le_mul (by simp; omega) (Nat.pow_le_pow_right (by decide) (by omega))
    · rw [if_neg (by omega)]
      rcases hle.eq_or_lt with rfl | hlt
      · exact Nat.mul_le_mul_right _ (htop rfl)
      · calc (2 ^ f.fracBits + fr) * 2 ^ (ex - 1) ≤ 2 ^ f.fracBits * 2 * 2 ^ (ex - 1) := Nat.mul_le_mul_right _ (by omega)
          _ = 2 ^ f.fracBits * 2 ^ ex := hdouble ex hpos
          _ ≤ f.maxSig * 2 ^ (f.maxExp - 1) := Nat.mul_le_mul hlow (Nat.pow_le_pow_right (by decide) (by omega))
  · intro hle
    refine ⟨hfr, Nat.le_of_not_lt fun habove => absurd hle (Nat.not_le_of_lt ?_), fun htop => ?_⟩
    · rw [if_neg (by omega)]
      calc f.maxSig * 2 ^ (f.maxExp - 1) < 2 ^ f.fracBits * 2 * 2 ^ (f.maxExp - 1) := Nat.mul_lt_mul_of_pos_right hhigh (by positivity)
        _ = 2 ^ f.fracBits * 2 ^ f.maxExp := hdouble _ hone
        _ ≤ (2 ^ f.fracBits + fr) * 2 ^ (ex - 1) := Nat.mul_le_mul (by omega) (Nat.pow_le_pow_right (by decide) (by omega))
    · rw [if_neg (by omega), htop] at hle
      exact Nat.le_of_mul_le_mul_right hle (by positivity)

/-! ## Packing -/

theorem packFloat_zero (f : Fmt) (neg : Bool) (e : Int) : packFloat f neg 0 e = f.word neg 0 0 := by simp [packFloat, Fmt.word, Fmt.fracBits, Fmt.expBits]

theorem packFloat_subnormal {f : Fmt} (neg : Bool) {m : Nat} {e : Int} (hm : m ≠ 0) (hlow : (Nat.log2 m : Int) + e < 1 - f.bias) :
    packFloat f neg m e = f.word neg 0 (units f.unit m e) := by
  unfold Fmt.bias at hlow
  simp [packFloat, hm, hlow, Fmt.word, Fmt.fracBits, Fmt.expBits, Fmt.unit, Fmt.bias, units]

/-- The significand of `m` with `fb` bits after its leading one. -/
def leading (fb m : Nat) : Nat := if Nat.log2 m ≤ fb then m * 2 ^ (fb - Nat.log2 m) else m / 2 ^ (Nat.log2 m - fb)

theorem packFloat_normal {f : Fmt} (neg : Bool) {m : Nat} {e : Int} (hm : m ≠ 0) (hhigh : 1 - f.bias ≤ (Nat.log2 m : Int) + e) :
    packFloat f neg m e = f.word neg ((Nat.log2 m : Int) + e + f.bias).toNat (leading f.fracBits m - 2 ^ f.fracBits) :=
  (if_neg hm).trans (if_neg (Int.not_lt.mpr hhigh))

/-- A significand of at most `fb` + 1 bits, or one that rounding carried to 2^(`fb` + 1), keeps its value with its leading one in place. -/
theorem leading_spec {fb m : Nat} (hm : m ≠ 0) (hle : m ≤ 2 ^ (fb + 1)) :
    2 ^ fb ≤ leading fb m ∧ leading fb m < 2 ^ fb * 2 ∧ leading fb m * 2 ^ Nat.log2 m = m * 2 ^ fb := by
  rcases hle.eq_or_lt with rfl | hlt
  · have hhalf : leading fb (2 ^ (fb + 1)) = 2 ^ fb := by
      rw [leading, Nat.log2_two_pow, if_neg (by omega), Nat.add_sub_cancel_left, Nat.pow_succ, Nat.pow_one, Nat.mul_div_cancel _ (by decide)]
    have hpos := Nat.two_pow_pos fb
    rw [hhalf, Nat.log2_two_pow]
    exact ⟨le_rfl, by omega, Nat.mul_comm ..⟩
  · have hbits : Nat.log2 m ≤ fb := Nat.le_of_lt_succ ((Nat.log2_lt hm).mpr hlt)
    have hsplit : 2 ^ fb = 2 ^ Nat.log2 m * 2 ^ (fb - Nat.log2 m) := by rw [← Nat.pow_add, Nat.add_sub_cancel' hbits]
    have hlead : leading fb m = m * 2 ^ (fb - Nat.log2 m) := if_pos hbits
    have hlow := Nat.log2_self_le hm
    have hhigh := Nat.lt_log2_self (n := m)
    rw [hlead, hsplit]
    refine ⟨Nat.mul_le_mul_right _ hlow, ?_, by ring⟩
    calc m * 2 ^ (fb - Nat.log2 m) < 2 ^ (Nat.log2 m + 1) * 2 ^ (fb - Nat.log2 m) := Nat.mul_lt_mul_of_pos_right hhigh (by positivity)
      _ = 2 ^ Nat.log2 m * 2 ^ (fb - Nat.log2 m) * 2 := by rw [Nat.pow_succ]; ring

/-- A rounded magnitude is packed into fields that spell it. -/
theorem packFloat_word {f : Fmt} (neg : Bool) {m : Nat} {e : Int} (hm : m ≤ 2 ^ (f.fracBits + 1)) (he : f.unit ≤ e) :
    ∃ ex fr, fr < 2 ^ f.fracBits ∧ packFloat f neg m e = f.word neg ex fr ∧ units f.unit (f.sig ex fr) (f.unit + (ex - 1 : Nat)) = units f.unit m e := by
  by_cases hzero : m = 0
  · subst hzero
    exact ⟨0, 0, by positivity, packFloat_zero f neg e, by simp [Fmt.sig]⟩
  · unfold Fmt.unit at he
    rcases lt_or_ge ((Nat.log2 m : Int) + e) (1 - f.bias) with hlow | hhigh
    · refine ⟨0, units f.unit m e, ?_, packFloat_subnormal neg hzero hlow, by simp [Fmt.sig, units]⟩
      calc units f.unit m e < 2 ^ (Nat.log2 m + 1) * 2 ^ (e - f.unit).toNat := Nat.mul_lt_mul_of_pos_right Nat.lt_log2_self (by positivity)
        _ = 2 ^ (Nat.log2 m + 1 + (e - f.unit).toNat) := (Nat.pow_add ..).symm
        _ ≤ 2 ^ f.fracBits := Nat.pow_le_pow_right (by decide) (by unfold Fmt.unit; omega)
    · obtain ⟨hone, htwo, hvalue⟩ := leading_spec hzero hm
      refine ⟨_, _, by omega, packFloat_normal neg hzero hhigh, ?_⟩
      have hex : Nat.log2 m + (e - f.unit).toNat = ((Nat.log2 m : Int) + e + f.bias).toNat - 1 + f.fracBits := by unfold Fmt.unit; omega
      rw [units_add, Fmt.sig, if_neg (by omega), Nat.add_sub_cancel' hone, units]
      refine Nat.eq_of_mul_eq_mul_right (Nat.two_pow_pos f.fracBits) ?_
      rw [Nat.mul_assoc, ← Nat.pow_add, ← hex, Nat.pow_add, ← Nat.mul_assoc, hvalue]
      ring

/-- A magnitude of the format is read back as it was packed. -/
theorem decodeElem_packFloat {f : Fmt} (hf : f.isInt = false) (neg : Bool) {m : Nat} {e : Int} (hm : m ≤ 2 ^ (f.fracBits + 1)) (he : f.unit ≤ e)
    (hle : units f.unit m e ≤ units f.unit f.largest.1 f.largest.2) :
    ∃ m' e', decodeElem f (packFloat f neg m e) = .fin neg m' e' ∧ f.unit ≤ e' ∧ units f.unit m' e' = units f.unit m e := by
  obtain ⟨ex, fr, hfr, hword, hunits⟩ := packFloat_word neg hm he
  have hfinite : f.FiniteFields ex fr := (Fmt.finiteFields_iff hf hfr).mpr (hunits ▸ hle)
  have hex : ex < 2 ^ f.expBits := hfinite.2.1.trans_lt f.maxExp_lt
  exact ⟨_, _, by rw [hword, decodeElem_word hf neg hex hfr, Fmt.ofFields_finite neg hfinite], by omega, hunits⟩

end Sys2Proof.Machine
end

section
/-! Conversions to a float format: what their result reads as, which NaN they produce and which values they keep (R95-R97, R100). -/
namespace Sys2Proof.Machine

theorem convert_float {f : Fmt} (hf : f.isInt = false) (v : FVal) : convert f v = convFloat f true v := if_neg (by simp [hf])

theorem convertCode_float {f : Fmt} (hf : f.isInt = false) (v : FVal) : convertCode f v = convFloat f false v := if_neg (by simp [hf])

/-! ## What a conversion reads back as -/

theorem Fmt.largest_le {f : Fmt} (hf : f.isInt = false) : f.largest.1 ≤ 2 ^ (f.fracBits + 1) ∧ f.unit ≤ f.largest.2 := by
  revert hf
  cases f <;> decide

/-- The largest finite value, to which a conversion saturates, reads back as it is. -/
theorem decodeElem_saturated {f : Fmt} (hf : f.isInt = false) (neg : Bool) :
    ∃ m e, decodeElem f (packFloat f neg f.largest.1 f.largest.2) = .fin neg m e := by
  obtain ⟨hsig, hexp⟩ := Fmt.largest_le hf
  obtain ⟨m, e, hread, -, -⟩ := decodeElem_packFloat hf neg hsig hexp le_rfl
  exact ⟨m, e, hread⟩

theorem decodeElem_nanBits {f : Fmt} (hf : f.isInt = false) : decodeElem f f.nanBits = .nan := by
  revert hf
  cases f <;> decide

theorem Fmt.infBits_eq (f : Fmt) (neg : Bool) : f.infBits neg = f.word neg (2 ^ f.expBits - 1) 0 := (Nat.add_zero _).symm

theorem decodeElem_infBits {f : Fmt} (hf : f.isInt = false) (hinf : f ≠ .e4m3) (neg : Bool) : decodeElem f (f.infBits neg) = .inf neg := by
  have hones : 2 ^ f.expBits - 1 < 2 ^ f.expBits := Nat.sub_lt (by positivity) Nat.one_pos
  rw [Fmt.infBits_eq, decodeElem_word hf neg hones (by positivity), Fmt.ofFields, if_pos ⟨rfl, hinf⟩, if_pos rfl]

/-- The value as R97 rounds it to a float format, before its limit. -/
def Fmt.round (f : Fmt) (m : Nat) (e : Int) : Nat × Int := rnd (f.fracBits + 1) f.unit m e

theorem convFloat_saturates {f : Fmt} (keepInf n : Bool) {m : Nat} {e : Int} (h : magGt (f.round m e).1 (f.round m e).2 f.largest.1 f.largest.2 = true) :
    convFloat f keepInf (.fin n m e) = { bits := packFloat f n f.largest.1 f.largest.2, sat := true } := if_pos h

theorem convFloat_rounds {f : Fmt} (keepInf n : Bool) {m : Nat} {e : Int} (h : magGt (f.round m e).1 (f.round m e).2 f.largest.1 f.largest.2 = false) :
    convFloat f keepInf (.fin n m e) = { bits := packFloat f n (f.round m e).1 (f.round m e).2 } := if_neg (by simp [Fmt.round] at h ⊢; exact h)

/-- A rounded value within the limit reads back as it was rounded. -/
theorem decodeElem_round {f : Fmt} (hf : f.isInt = false) (n : Bool) {m : Nat} {e : Int} (h : magGt (f.round m e).1 (f.round m e).2 f.largest.1 f.largest.2 = false) :
    ∃ m' e', decodeElem f (packFloat f n (f.round m e).1 (f.round m e).2) = .fin n m' e' ∧ f.unit ≤ e' ∧
      units f.unit m' e' = units f.unit (f.round m e).1 (f.round m e).2 := by
  obtain ⟨hsig, hexp⟩ := rnd_range (f.fracBits + 1) f.unit m e
  exact decodeElem_packFloat hf n hsig hexp ((magGt_eq_false hexp (Fmt.largest_le hf).2).mp h)

/-- A finite value stays finite, with its sign. -/
theorem decodeElem_convFloat_fin {f : Fmt} (hf : f.isInt = false) (keepInf n : Bool) (m : Nat) (e : Int) :
    ∃ m' e', decodeElem f (convFloat f keepInf (.fin n m e)).bits = .fin n m' e' := by
  cases h : magGt (f.round m e).1 (f.round m e).2 f.largest.1 f.largest.2 with
  | true => rw [convFloat_saturates keepInf n h]; exact decodeElem_saturated hf n
  | false =>
    obtain ⟨m', e', hread, -, -⟩ := decodeElem_round hf n h
    exact ⟨m', e', by rw [convFloat_rounds keepInf n h, hread]⟩

/-- An infinity is kept, or saturates to a finite value. -/
theorem decodeElem_convFloat_inf {f : Fmt} (hf : f.isInt = false) (keepInf n : Bool) : decodeElem f (convFloat f keepInf (.inf n)).bits ≠ .nan := by
  rw [convFloat]
  split_ifs with hkept
  · simp only [Bool.and_eq_true, bne_iff_ne] at hkept
    rw [decodeElem_infBits hf hkept.2]
    nofun
  · obtain ⟨m, e, hread⟩ := decodeElem_saturated hf n
    rw [hread]
    nofun

/-! ## NaN -/

/-- Only a NaN is converted to a NaN, and that is the canonical one. -/
theorem convFloat_bits_of_nan {f : Fmt} (hf : f.isInt = false) (keepInf : Bool) {v : FVal} (h : decodeElem f (convFloat f keepInf v).bits = .nan) :
    (convFloat f keepInf v).bits = f.nanBits := by
  cases v with
  | nan => rfl
  | inf n => exact absurd h (decodeElem_convFloat_inf hf keepInf n)
  | fin n m e =>
    obtain ⟨m', e', hread⟩ := decodeElem_convFloat_fin hf keepInf n m e
    rw [hread] at h
    cases h

/-- Under the exponent field of all ones every other fraction is a NaN, but in E4M3. -/
theorem decodeElem_nan {f : Fmt} (hf : f.isInt = false) (hinf : f ≠ .e4m3) {w : Nat} (hones : w / 2 ^ f.fracBits % 2 ^ f.expBits = 2 ^ f.expBits - 1)
    (hfr : w % 2 ^ f.fracBits ≠ 0) : decodeElem f w = .nan := by
  rw [decodeElem_float hf, hones, Fmt.ofFields, if_pos ⟨rfl, hinf⟩, if_neg hfr]

theorem decodeElem_nan_e4m3 {w : Nat} (h : w % 2 ^ 7 = 0x7F) : decodeElem .e4m3 w = .nan := by
  have hex : w / 2 ^ Fmt.fracBits .e4m3 % 2 ^ Fmt.expBits .e4m3 = 15 := by simp only [Fmt.fracBits, Fmt.expBits, Fmt.float]; omega
  have hfr : w % 2 ^ Fmt.fracBits .e4m3 = 7 := by simp only [Fmt.fracBits, Fmt.float]; omega
  rw [decodeElem_float rfl, hex, hfr]
  rfl

/-- Settles O31: a conversion reads back as NaN only where it was given one, and then it wrote the canonical bits. -/
theorem nansAreCanonical : Obligations.NansAreCanonical := by
  unfold Obligations.NansAreCanonical
  refine ⟨rfl, rfl, rfl, rfl, rfl, fun f v hf => ?_, fun w => ?_⟩
  · rw [convert_float hf, convert_float hf, convertCode_float hf, convertCode_float hf]
    exact ⟨rfl, rfl, convFloat_bits_of_nan hf true, convFloat_bits_of_nan hf false⟩
  · exact ⟨decodeElem_nan_e4m3, decodeElem_nan (f := .e5m2) rfl (by decide), decodeElem_nan (f := .bf16) rfl (by decide),
      decodeElem_nan (f := .fp16) rfl (by decide), decodeElem_nan (f := .fp32) rfl (by decide)⟩

end Sys2Proof.Machine
end

section
/-! Widening conversions: every value of the narrower format is a value of the wider one (R96). -/
namespace Sys2Proof.Machine

/-- A conversion neither saturates nor changes the value. -/
def ConvertsExactly (g : Fmt) (v : FVal) : Prop := (convert g v).sat = false ∧ (decodeElem g (convert g v).bits).equals v = true

/-! ## Float formats -/

/-- The float format `g` has the precision and the range of `f`, and infinities. -/
def Fmt.FloatWidens (f g : Fmt) : Prop :=
  f.isInt = false ∧ g.isInt = false ∧ g ≠ .e4m3 ∧ f.fracBits ≤ g.fracBits ∧ g.unit ≤ f.unit ∧ magGt f.largest.1 f.largest.2 g.largest.1 g.largest.2 = false

theorem convertsExactly_nan {g : Fmt} (hg : g.isInt = false) : ConvertsExactly g .nan := by
  rw [ConvertsExactly, convert_float hg]
  exact ⟨rfl, congrArg (·.equals .nan) (decodeElem_nanBits hg)⟩

theorem convertsExactly_inf {g : Fmt} (hg : g.isInt = false) (hinf : g ≠ .e4m3) (n : Bool) : ConvertsExactly g (.inf n) := by
  have hkeeps : convFloat g true (.inf n) = { bits := g.infBits n } := if_pos (by simp [hinf])
  rw [ConvertsExactly, convert_float hg, hkeeps, decodeElem_infBits hg hinf]
  exact ⟨rfl, by simp [FVal.equals]⟩

/-- A finite value of the precision of a format, not finer than its unit and not above its largest, is converted to it exactly. -/
theorem convertsExactly_fin {g : Fmt} (hg : g.isInt = false) (n : Bool) {m : Nat} {e : Int} (hm : m < 2 ^ (g.fracBits + 1)) (he : g.unit ≤ e)
    (hle : units g.unit m e ≤ units g.unit g.largest.1 g.largest.2) : ConvertsExactly g (.fin n m e) := by
  have hround : units g.unit (g.round m e).1 (g.round m e).2 = units g.unit m e := units_rnd hm he
  have hlimit : magGt (g.round m e).1 (g.round m e).2 g.largest.1 g.largest.2 = false :=
    (magGt_eq_false (rnd_range _ _ m e).2 (Fmt.largest_le hg).2).mpr (hround ▸ hle)
  obtain ⟨m', e', hread, he', hunits⟩ := decodeElem_round hg n hlimit
  rw [ConvertsExactly, convert_float hg, convFloat_rounds true n hlimit, hread]
  exact ⟨rfl, FVal.equals_fin he' he n (hunits.trans hround)⟩

theorem Fmt.sig_lt {f : Fmt} {ex fr : Nat} (hfr : fr < 2 ^ f.fracBits) : f.sig ex fr < 2 ^ (f.fracBits + 1) := by
  rw [sig, Nat.pow_succ]
  split_ifs <;> omega

/-- Every element of a float format is converted exactly to a format that widens it. -/
theorem convertsExactly_of_floatWidens {f g : Fmt} (h : f.FloatWidens g) (w : Nat) : ConvertsExactly g (decodeElem f w) := by
  obtain ⟨hf, hg, hinf, hprecision, hunit, hlargest⟩ := h
  have hfr : w % 2 ^ f.fracBits < 2 ^ f.fracBits := Nat.mod_lt _ (by positivity)
  rw [decodeElem_float hf]
  rcases f.ofFields_cases (bit w (f.fracBits + f.expBits)) (Nat.mod_lt _ (by positivity)) hfr with hnan | hinfinite | hfinite
  · rw [hnan]; exact convertsExactly_nan hg
  · rw [hinfinite]; exact convertsExactly_inf hg hinf _
  · rw [Fmt.ofFields_finite _ hfinite]
    refine convertsExactly_fin hg _ ((Fmt.sig_lt hfr).trans_le (Nat.pow_le_pow_right (by decide) (by omega))) (by omega) ?_
    calc units g.unit _ _ ≤ units g.unit f.largest.1 f.largest.2 :=
          (units_le_units hunit (by omega) (Fmt.largest_le hf).2).mpr ((Fmt.finiteFields_iff hf hfr).mp hfinite)
      _ ≤ units g.unit g.largest.1 g.largest.2 := (magGt_eq_false (hunit.trans (Fmt.largest_le hf).2) (Fmt.largest_le hg).2).mp hlargest

/-! ## Integer formats -/

/-- The integers of `n` bits in two's complement. -/
def SignedRange (n : Nat) (x : Int) : Prop := -((2 ^ (n - 1) : Nat) : Int) ≤ x ∧ x < (2 ^ (n - 1) : Nat)

theorem two_pow_pred_mul {n : Nat} (hn : 1 ≤ n) : 2 ^ (n - 1) * 2 = 2 ^ n := by rw [← Nat.pow_succ, Nat.succ_eq_add_one, Nat.sub_add_cancel hn]

theorem toSigned_range {n : Nat} (hn : 1 ≤ n) (w : Nat) : SignedRange n (toSigned n w) := by
  have hdouble := two_pow_pred_mul hn
  have hlt : w % 2 ^ n < 2 ^ n := Nat.mod_lt _ (by positivity)
  simp only [SignedRange, toSigned]
  split_ifs <;> omega

theorem toSigned_ofSigned {n : Nat} (hn : 1 ≤ n) {x : Int} (h : SignedRange n x) : toSigned n (ofSigned n x) = x := by
  obtain ⟨hlow, hhigh⟩ := h
  have hdouble := two_pow_pred_mul hn
  rcases le_or_gt 0 x with hpos | hneg
  · have hcode : ofSigned n x = x.toNat := by rw [ofSigned, Int.emod_eq_of_lt hpos (by omega)]
    rw [hcode, toSigned, Nat.mod_eq_of_lt (by omega), if_pos (by omega)]
    omega
  · have hcode : ofSigned n x = (x + (2 ^ n : Nat)).toNat := by
      rw [ofSigned, ← Int.add_emod_right, Int.emod_eq_of_lt (by omega) (by omega)]
    rw [hcode, toSigned, Nat.mod_eq_of_lt (by omega), if_neg (by omega)]
    omega

theorem SignedRange.mono {n k : Nat} (hnk : n ≤ k) {x : Int} (h : SignedRange n x) : SignedRange k x := by
  have hpow : 2 ^ (n - 1) ≤ 2 ^ (k - 1) := Nat.pow_le_pow_right (by decide) (by omega)
  obtain ⟨hlow, hhigh⟩ := h
  exact ⟨by omega, by omega⟩

theorem decodeElem_int {f : Fmt} (hf : f.isInt = true) (w : Nat) : decodeElem f w = FVal.ofInt (toSigned f.bits w) := if_pos hf

theorem roundInt_ofInt (x : Int) : roundInt (decide (x < 0)) x.natAbs 0 = x := by
  simp only [roundInt, le_refl, if_true, Int.toNat_zero, Nat.pow_zero, Nat.mul_one, decide_eq_true_eq]
  split_ifs <;> omega

theorem FVal.equals_ofInt (x : Int) : (FVal.ofInt x).equals (FVal.ofInt x) = true := FVal.equals_fin (u := 0) le_rfl le_rfl _ rfl

/-- The limits of an integer format are those of its two's complement. -/
theorem Fmt.int_limits {f : Fmt} (hf : f.isInt = true) : 1 ≤ f.bits ∧ (f.largest.1 : Int) = (2 ^ (f.bits - 1) : Nat) - 1 := by
  revert hf
  cases f <;> decide

theorem convert_ofInt {f : Fmt} (hf : f.isInt = true) {x : Int} (h : SignedRange f.bits x) : convert f (.ofInt x) = { bits := ofSigned f.bits x } := by
  obtain ⟨hlow, hhigh⟩ := h
  obtain ⟨-, hlargest⟩ := Fmt.int_limits hf
  have hleast : ¬x < f.least := by unfold Fmt.least; omega
  have hmost : ¬(f.largest.1 : Int) < x := by omega
  rw [convert, if_pos hf, FVal.ofInt, convInt]
  simp only [roundInt_ofInt, hleast, hmost, if_false]

/-- Every element of an integer format is converted exactly to one of as many bits. -/
theorem convertsExactly_of_intWidens {f g : Fmt} (hf : f.isInt = true) (hg : g.isInt = true) (hbits : f.bits ≤ g.bits) (w : Nat) : ConvertsExactly g (decodeElem f w) := by
  have hrange : SignedRange g.bits (toSigned f.bits w) := (toSigned_range (Fmt.int_limits hf).1 w).mono hbits
  rw [ConvertsExactly, decodeElem_int hf, convert_ofInt hg hrange, decodeElem_int hg, toSigned_ofSigned (Fmt.int_limits hg).1 hrange]
  exact ⟨rfl, FVal.equals_ofInt _⟩

/-- A widening conversion of R96: between integer formats by bits, between float formats by precision and range. -/
def Fmt.Widens (f g : Fmt) : Prop := (f.isInt = true ∧ g.isInt = true ∧ f.bits ≤ g.bits) ∨ f.FloatWidens g

theorem convertsExactly_of_widens {f g : Fmt} (h : f.Widens g) (w : Nat) : ConvertsExactly g (decodeElem f w) := by
  rcases h with ⟨hf, hg, hbits⟩ | hfloat
  · exact convertsExactly_of_intWidens hf hg hbits w
  · exact convertsExactly_of_floatWidens hfloat w

/-- Settles O32: each listed pair of formats widens. -/
theorem wideningIsExact : Obligations.WideningIsExact := by
  unfold Obligations.WideningIsExact
  intro p hp w _
  have hwidens : p.1.Widens p.2 := by
    clear * - hp
    revert p
    unfold Fmt.Widens Fmt.FloatWidens
    decide
  exact convertsExactly_of_widens hwidens w

end Sys2Proof.Machine
end

section
/-! The power of a plate segment: requests, drain, wake and the drain limit (R154, R156, R405). -/
namespace Sys2Proof.Machine

/-! ## Segments by number -/

theorem seg_put {s : State} (hs : s.Wf) (k : Nat) (g : Seg) (n : Nat) : (s.apply (.segs k g)).seg n = if n = k then g else s.seg n := Tab.get_put hs.segs ..

theorem seg_put_same {s : State} (hs : s.Wf) (n : Nat) (g : Seg) : (s.apply (.segs n g)).seg n = g := (seg_put hs n g n).trans (if_pos rfl)

theorem seg_put_other {s : State} (hs : s.Wf) {n m : Nat} (g : Seg) (h : m ≠ n) : (s.apply (.segs n g)).seg m = s.seg m := (seg_put hs n g m).trans (if_neg h)

theorem Plan.Only.seg_eq {F : List Field} {p : Plan} (h : Plan.Only F p) (s : State) (hf : Field.segs ∉ F) (n : Nat) : (p.run s).seg n = s.seg n :=
  congrFun (seg_congr (h.same s hf : (p.run s).segs = s.segs)) n

/-! ## A segment at rest -/

/-- A segment at rest turns to the state that its request names, if that is another (R405). -/
def Seg.seeking (g : Seg) (now : Nat) : Seg :=
  if g.power = .on ∧ g.req then { g with power := .draining, drainStart := now } else if g.power = .off ∧ !g.req then { g with power := .waking } else g

theorem seekPower_only (n : Nat) : Plan.Only [.segs] (seekPower n) := by
  refine ⟨fun s => ?_⟩
  unfold seekPower
  dsimp only
  split
  · exact EffsIn.one (by simp [Eff.field])
  · split
    · exact EffsIn.one (by simp [Eff.field])
    · exact EffsIn.nil

theorem seekPower_seg {s : State} (hs : s.Wf) (n : Nat) : ((seekPower n).run s).seg n = (s.seg n).seeking s.ticks := by
  rw [Plan.run_def]
  unfold seekPower Seg.seeking
  dsimp only
  split
  · exact seg_put_same hs n _
  · split
    · exact seg_put_same hs n _
    · rfl

theorem seekPower_seg_other {s : State} (hs : s.Wf) {n m : Nat} (h : m ≠ n) : ((seekPower n).run s).seg m = s.seg m := by
  rw [Plan.run_def]
  unfold seekPower
  dsimp only
  split
  · exact seg_put_other hs _ h
  · split
    · exact seg_put_other hs _ h
    · rfl

/-! ## PS_POWER -/

section
variable {n v : Nat} {s : State} (hs : s.Wf) (hopen : s.Open 0) (hn : n < 34) (hused : (s.seg n).withdrawn = false) (hmove : s.moving 1 n = false)
include hn hused hmove

/-- A write of PS_POWER to a segment that takes it. -/
theorem psPowerWrite_eq : psPowerWrite n v s =
    (let y : Seg := { s.seg n with drainLimit := fld v 31 16 }
     if bit v 0 = (s.seg n).req then [.segs n y]
     else if (s.modeUnit (pgPS n)).pending ≠ 0 ∨ s.sparing 1 n = true then Plan.andThen (Plan.act (.segs n y)) (raiseErr (pgPS n) 6 []) s
     else Plan.andThen (Plan.act (.segs n { y with req := bit v 0 })) (seekPower n) s) := by
  unfold psPowerWrite
  dsimp only
  rw [if_neg (by simp [hused, hmove, hn])]
  simp only [beq_iff_eq, Bool.or_eq_true, bne_iff_ne]

include hopen

theorem exec_psPowerWrite_same (h : bit v 0 = (s.seg n).req) :
    exec (.psPowerWrite n v) s = .next { s with segs := Tab.put {} s.segs n { s.seg n with drainLimit := fld v 31 16 } } :=
  exec_pageGate (q := Plan.act (.segs n _)) hopen ((psPowerWrite_eq hn hused hmove).trans (if_pos h))

include hs

theorem exec_psPowerWrite_turns (h : bit v 0 ≠ (s.seg n).req) (hmode : (s.modeUnit (pgPS n)).pending = 0) (hspare : s.sparing 1 n = false) :
    ∃ t, exec (.psPowerWrite n v) s = .next t ∧ t.seg n = ({ s.seg n with drainLimit := fld v 31 16, req := bit v 0 } : Seg).seeking s.ticks ∧
      (∀ m, m ≠ n → t.seg m = s.seg m) ∧ s.SameBut [.segs] t := by
  have hplan := (psPowerWrite_eq hn hused hmove).trans ((if_neg h).trans (if_neg (by simp [hmode, hspare])))
  refine ⟨_, exec_pageGate hopen hplan, ?_, fun m hm => ?_, (Plan.only_andThen (Plan.only_act (by simp [Eff.field])) (seekPower_only n)).sameBut s⟩
  · rw [Plan.run_andThen, seekPower_seg (Plan.run_wf hs _), Plan.run_act, seg_put_same hs]
    rfl
  · rw [Plan.run_andThen, seekPower_seg_other (Plan.run_wf hs _) hm, Plan.run_act, seg_put_other hs _ hm]

theorem exec_psPowerWrite_refused (h : bit v 0 ≠ (s.seg n).req) (hbusy : (s.modeUnit (pgPS n)).pending ≠ 0 ∨ s.sparing 1 n = true) :
    ∃ t, exec (.psPowerWrite n v) s = .next t ∧ t.seg n = { s.seg n with drainLimit := fld v 31 16 } ∧ s.SameBut [.segs, .regs, .vecs] t := by
  have hplan := (psPowerWrite_eq hn hused hmove).trans ((if_neg h).trans (if_pos hbusy))
  refine ⟨_, exec_pageGate hopen hplan, ?_, (Plan.only_andThen (Plan.only_act (by simp [Eff.field])) ((raiseErr_only ..).mono (by decide))).sameBut s⟩
  rw [Plan.run_andThen, (raiseErr_only ..).seg_eq _ (by decide), Plan.run_act, seg_put_same hs]

end

/-- What the request of a segment at rest comes to, by what is asked for. -/
theorem seeking_of_request (g : Seg) (b : Bool) (now : Nat) : ({ g with req := b } : Seg).seeking now =
    (if b && g.power = .on then { g with req := true, power := .draining, drainStart := now }
     else if !b && g.power = .off then { g with req := false, power := .waking } else { g with req := b }) := by
  unfold Seg.seeking
  cases b <;> simp [and_comm]

/-! ## Drain and wake -/

/-- A segment that holds nothing: zeros in scratch, and no line. -/
def EmptySegment (n : Nat) (s : State) : Prop :=
  (∀ o, o < segSize → Tab.get 0 s.mem (plateBase + n * segSize + o) = 0) ∧ ∀ k, k < 65536 → Tab.get {} s.lines (n * 65536 + k) = {}

/-- A segment comes to rest in a power state, and starts the transition that is asked for (R405). -/
def restIn (n : Nat) (p : SegPower) : Plan := Plan.andThen (fun s => [.segs n { s.seg n with power := p }]) (seekPower n)

theorem restIn_only (n : Nat) (p : SegPower) : Plan.Only [.segs] (restIn n p) := Plan.only_andThen ⟨fun _ => EffsIn.one (by simp [Eff.field])⟩ (seekPower_only n)

theorem restIn_seg {s : State} (hs : s.Wf) (n : Nat) (p : SegPower) : ((restIn n p).run s).seg n = ({ s.seg n with power := p } : Seg).seeking s.ticks := by
  unfold restIn
  rw [Plan.run_andThen, seekPower_seg (Plan.run_wf hs _)]
  exact congrArg (fun g : Seg => g.seeking s.ticks) (seg_put_same hs n _)

theorem burnishSegment_only (n : Nat) : Plan.Only [.mem, .badWords] (burnishSegment n) := ⟨fun _ => EffsIn.cons (by simp [Eff.field]) (EffsIn.one (by simp [Eff.field]))⟩

theorem coldCache_cold (n : Nat) : Plan.Only [.lines, .plru] (coldCache n) := ⟨fun _ => EffsIn.cons (by simp [Eff.field]) (EffsIn.one (by simp [Eff.field]))⟩

/-- A clear of its scratch and a clear of its lines leave a segment empty. -/
theorem emptySegment_of_clears {n : Nat} {t : State} {mem : Tab Byte} {lines : Tab Line} (hmem : t.mem = Tab.clear mem (plateBase + n * segSize) segSize)
    (hlines : t.lines = Tab.clear lines (n * 65536) 65536) : EmptySegment n t := by
  refine ⟨fun o ho => ?_, fun k hk => ?_⟩
  · rw [hmem, Tab.get_clear, if_pos ⟨Nat.le_add_right _ _, Nat.add_lt_add_left ho _⟩]
  · rw [hlines, Tab.get_clear, if_pos ⟨Nat.le_add_right _ _, Nat.add_lt_add_left hk _⟩]

theorem EmptySegment.rest {n : Nat} {s : State} (h : EmptySegment n s) (p : SegPower) : EmptySegment n ((restIn n p).run s) := by
  have hmem : ((restIn n p).run s).mem = s.mem := (restIn_only n p).mem_eq s (by decide)
  have hlines : ((restIn n p).run s).lines = s.lines := (restIn_only n p).same s (f := .lines) (by decide)
  unfold EmptySegment
  rw [hmem, hlines]
  exact h

/-- A drained segment: its dirty lines are written back, and its contents are lost (R154). -/
theorem exec_psDrainDone {n : Nat} {s : State} (hs : s.Wf) (hserves : s.svc.halted = false) (hpower : (s.seg n).power = .draining) (hreads : (s.seg n).inReads = 0)
    (hwrites : (s.seg n).inWrites = 0) : ∃ t, exec (.psDrainDone n) s = .next t ∧ t.seg n = ({ s.seg n with power := .off } : Seg).seeking s.ticks ∧ EmptySegment n t ∧
      s.SameBut (.segs :: gddrFields) t := by
  have hplan : psDrainDone n s = Plan.seq [writeBackAll n, coldCache n, burnishSegment n, restIn n .off] s := by
    unfold psDrainDone
    dsimp only
    rw [if_neg (by simp [hpower, hreads, hwrites])]
    simp only [restIn, Plan.seq, Plan.andThen, List.append_assoc, State.applyAll_append]
  refine ⟨_, Plan.done_of_eq hserves hplan, ?_⟩
  have hclears : Plan.Only gddrFields (Plan.andThen (writeBackAll n) (Plan.andThen (coldCache n) (burnishSegment n))) :=
    Plan.only_andThen (writeBackAll_only n) (Plan.only_andThen ((coldCache_cold n).mono (by decide)) ((burnishSegment_only n).mono (by decide)))
  have hseg := hclears.seg_eq s (by decide) n
  have hticks := hclears.ticks_eq s (by decide)
  have hsame := hclears.sameBut s
  simp only [Plan.run_andThen] at hseg hticks hsame
  simp only [Plan.run_seq_cons, Plan.run_seq_nil]
  refine ⟨?_, (emptySegment_of_clears (mem := (Plan.run _ _).mem) (lines := (Plan.run _ _).lines) rfl rfl).rest _, (hsame.mono (List.subset_cons_self _ _)).trans (((restIn_only n .off).sameBut _).mono (by simp))⟩
  rw [restIn_seg (Plan.run_wf (Plan.run_wf (Plan.run_wf hs _) _) _), hseg, hticks]

/-- A segment that wakes: it is burnished whole, and cold (R154). -/
theorem exec_psWakeDone {n : Nat} {s : State} (hs : s.Wf) (hserves : s.svc.halted = false) (hpower : (s.seg n).power = .waking) :
    ∃ t, exec (.psWakeDone n) s = .next t ∧ t.seg n = ({ s.seg n with power := .on } : Seg).seeking s.ticks ∧ EmptySegment n t ∧
      s.SameBut [.segs, .badWords, .mem, .lines, .plru] t := by
  have hplan : psWakeDone n s = Plan.seq [burnishSegment n, coldCache n, restIn n .on] s := by
    unfold psWakeDone
    rw [if_neg (by simp [hpower])]
    simp only [restIn, Plan.seq, Plan.andThen, List.append_assoc, State.applyAll_append]
  refine ⟨_, Plan.done_of_eq hserves hplan, ?_⟩
  have hclears : Plan.Only [.badWords, .mem, .lines, .plru] (Plan.andThen (burnishSegment n) (coldCache n)) :=
    Plan.only_andThen ((burnishSegment_only n).mono (by decide)) ((coldCache_cold n).mono (by decide))
  have hseg := hclears.seg_eq s (by decide) n
  have hticks := hclears.ticks_eq s (by decide)
  have hsame := hclears.sameBut s
  simp only [Plan.run_andThen] at hseg hticks hsame
  simp only [Plan.run_seq_cons, Plan.run_seq_nil]
  refine ⟨?_, EmptySegment.rest (emptySegment_of_clears rfl rfl) _, (hsame.mono (List.subset_cons_self _ _)).trans (((restIn_only n .on).sameBut _).mono (by simp))⟩
  rw [restIn_seg (Plan.run_wf (Plan.run_wf hs _) _), hseg, hticks]

/-! ## The drain limit -/

theorem Plan.only_withFree {F : List Field} {f : Nat → Plan} (h : ∀ v, Plan.Only F (f v)) : Plan.Only (.fresh :: F) (withFree f) :=
  ⟨fun s => (Plan.only_andThen (Plan.only_act (List.mem_cons_self ..)) ((h _).mono (List.subset_cons_self _ _))).effs s⟩

/-- An event with a free value in it draws that value, and is otherwise a report. -/
theorem freeEvent_fresh (a : Nat → EvArgs) (s : State) : ((withFree (fun v => event (a v))).run s).fresh = s.fresh + 1 := by
  rw [withFree_run]
  exact (event_only _).same _ (f := .fresh) (by decide)

/-- The event of an abandoned power-down, its open fields drawn as one free value. -/
def drainEvent (n v : Nat) (s : State) : EvArgs :=
  { cls := v % 128, code := v / 128 % 65536, part := (s.seg n).owner - 1, charged := (s.seg n).owner != 0, fn := (s.part ((s.seg n).owner - 1)).fn, page := pgPS n }

/-- At the drain limit the power-down is abandoned, and its event draws a free value (R156). -/
theorem exec_drainLimitExpiry {n : Nat} {s : State} (hs : s.Wf) (hserves : s.svc.halted = false) (hpower : (s.seg n).power = .draining)
    (hdue : (s.seg n).drainStart + (s.seg n).drainLimit ≤ s.ticks) : ∃ t, exec (.drainLimitExpiry n) s = .next t ∧ t.seg n = { s.seg n with power := .on, req := false } ∧
      (∀ m, m ≠ n → t.seg m = s.seg m) ∧ t.fresh = s.fresh + 1 ∧ s.SameBut (.segs :: .fresh :: reportFields) t := by
  have hplan : drainLimitExpiry n s = Plan.seq [Plan.act (.segs n { s.seg n with power := .on, req := false }), raiseErr (pgPS n) 4 [],
      withFree (fun f => event (drainEvent n f s))] s := if_pos ⟨hpower, hdue⟩
  refine ⟨_, Plan.done_of_eq hserves hplan, ?_⟩
  have herr := raiseErr_only (pgPS n) 4 [] 0xFFFFFFFF
  have hevent := Plan.only_withFree (fun v => event_only (drainEvent n v s))
  have hreport := Plan.only_andThen (herr.mono (by decide)) hevent
  simp only [Plan.run_seq_cons, Plan.run_seq_nil]
  rw [← Plan.run_andThen]
  refine ⟨?_, fun m hm => ?_, ?_, ?_⟩
  · rw [hreport.seg_eq _ (by decide), Plan.run_act, seg_put_same hs]
  · rw [hreport.seg_eq _ (by decide), Plan.run_act, seg_put_other hs _ hm]
  · rw [Plan.run_andThen, freeEvent_fresh, herr.same _ (f := .fresh) (by decide)]
    rfl
  · rw [← Plan.run_andThen]
    exact (Plan.only_andThen (Plan.only_act (by simp [Eff.field])) (hreport.mono (by decide))).sameBut s

/-- Settles O40: a request is taken, turned away or starts its transition; a segment that has drained or woken comes to rest, and turns again where its request has turned. -/
theorem platePower : Obligations.PlatePower := by
  unfold Obligations.PlatePower
  refine ⟨fun n v s hs hopen hn hused hmove => ⟨exec_psPowerWrite_same hopen hn hused hmove, fun hturn hmode hspare => ?_, exec_psPowerWrite_refused hs hopen hn hused hmove⟩,
    fun n s hs hserves => ⟨fun hpower hreads hwrites => ?_, fun hpower => ?_, exec_drainLimitExpiry hs hserves⟩⟩
  · obtain ⟨t, hexec, hseg, hothers, hsame⟩ := exec_psPowerWrite_turns hs hopen hn hused hmove hturn hmode hspare
    exact ⟨t, hexec, hseg.trans (seeking_of_request { s.seg n with drainLimit := fld v 31 16 } (bit v 0) s.ticks), hothers, hsame⟩
  · obtain ⟨t, hexec, hseg, ⟨hmem, hlines⟩, hsame⟩ := exec_psDrainDone hs hserves hpower hreads hwrites
    refine ⟨t, hexec, ?_, hmem, hlines, hsame⟩
    rw [hseg]
    unfold Seg.seeking
    cases (s.seg n).req <;> simp
  · obtain ⟨t, hexec, hseg, ⟨hmem, hlines⟩, hsame⟩ := exec_psWakeDone hs hserves hpower
    refine ⟨t, hexec, ?_, hmem, hlines, hsame⟩
    rw [hseg]
    unfold Seg.seeking
    cases (s.seg n).req <;> simp

end Sys2Proof.Machine
end

section
/-! What the kill of a job leaves standing, for any property that its changes outside the registers do not touch; and of the counters of the plate (R53, R149, R152). -/
namespace Sys2Proof.Machine

/-! ## The kill of a job -/

/-- The fields that the kill of a job changes outside registers, reports and GDDR6. -/
def quietFields : List Field :=
  [.jobs, .sems, .segs, .claims, .sessions, .groups, .streams, .medQueue, .cores, .intakes, .clusters, .localMem, .refs, .pools, .lines, .parts, .channels, .badWords, .plru, .mem,
    .poisoned, .reserve]

/-- A property that no change of the quiet fields takes away, nor an event, a poisoned read, an access refused, or a store into GDDR6.
Unlike `MemSafe` it may speak of registers: those that a kill reaches are reached through these four alone. -/
structure KillSafe (I : State → Prop) : Prop where
  frame : ∀ p, Plan.Only quietFields p → Plan.Preserves I p
  event : ∀ a, Plan.Preserves I (event a)
  poison : ∀ w a, Plan.Preserves I (poisonRead w a)
  foreign : ∀ page, Plan.Preserves I (noteForeign page)
  store : ∀ job a bs, Plan.Preserves I (gddrStore job a bs)

section
variable {I : State → Prop} (h : KillSafe I)
include h

theorem KillSafe.quiet {F : List Field} {p : Plan} (hp : Plan.Only F p) (hF : F ⊆ quietFields) : Plan.Preserves I p := h.frame p (hp.mono hF)

theorem KillSafe.act {e : Eff} (he : e.field ∈ quietFields) : Plan.Preserves I (Plan.act e) := h.frame _ (Plan.only_act he)

theorem KillSafe.ownStore (a : Nat) (bs : List Byte) : Plan.Preserves I (ownStore a bs) := by
  intro s hs ht
  rw [Plan.run_def]
  simp only [Sys2Proof.Machine.ownStore]
  split
  · exact ht
  · exact Plan.preserves_andThen (h.quiet (memRequests_only ..) (by decide)) (h.store _ _ _) s hs ht

theorem KillSafe.unitStore (mine a : Nat) (bs : List Byte) : Plan.Preserves I (unitStore mine a bs) := by
  intro s hs ht
  have hrequests : Plan.Preserves I (memRequests { cls := 6 } true a bs.length) := h.quiet (memRequests_only ..) (by decide)
  rw [Plan.run_def]
  simp only [Sys2Proof.Machine.unitStore]
  split
  · exact ht
  · split
    · split
      · exact Plan.preserves_andThen hrequests (h.store _ _ _) s hs ht
      · exact h.foreign _ s hs ht
    · refine Plan.preserves_andThen hrequests ?_ s hs ht
      split
      · exact h.poison _ _
      · exact h.store _ _ _

theorem KillSafe.modSlice (pool part : Nat) (f : PolSlice → PolSlice) : Plan.Preserves I (modSlice pool part f) :=
  h.quiet (F := [.pools]) ⟨fun _ => EffsIn.one (by simp [Eff.field])⟩ (by decide)

theorem KillSafe.pushFree (pool i : Nat) : Plan.Preserves I (pushFree pool i) := by
  intro s hs ht
  rw [Plan.run_def]
  simp only [Sys2Proof.Machine.pushFree]
  split
  · exact ht
  · split
    · exact ht
    · exact Plan.preserves_andThen (h.unitStore _ _ _) (h.modSlice _ _ _) s hs ht

theorem KillSafe.releaseRef (n : Nat) : Plan.Preserves I (releaseRef n) := by
  intro s hs ht
  have hset : ∀ pool i k, Plan.Preserves I (setRef pool i k) := fun pool i k => h.quiet (F := [.refs]) ⟨fun _ => EffsIn.one (by simp [Eff.field])⟩ (by decide)
  rw [Plan.run_def]
  simp only [Sys2Proof.Machine.releaseRef]
  split
  · exact ht
  · split
    · exact Plan.preserves_andThen (h.modSlice _ _ _) (h.event _) s hs ht
    · exact Plan.preserves_andThen (hset _ _ _) (Plan.preserves_when (h.pushFree _ _)) s hs ht

theorem KillSafe.twoStores (a b : Nat) (x y : List Byte) : Plan.Preserves I (Plan.andThen (Sys2Proof.Machine.ownStore a x) (Sys2Proof.Machine.ownStore b y)) :=
  Plan.preserves_andThen (h.ownStore a x) (h.ownStore b y)

theorem KillSafe.writeEntry (c n w : Nat) : Plan.Preserves I (writeEntry c n w) := by
  intro s hs ht
  rw [Plan.run_def]
  simp only [Sys2Proof.Machine.writeEntry]
  exact h.twoStores _ _ _ _ s hs ht

theorem KillSafe.writeWaiting (g : Nat) : Plan.Preserves I (writeWaiting g) := by
  intro s hs ht
  rw [Plan.run_def]
  simp only [Sys2Proof.Machine.writeWaiting]
  refine Plan.preserves_seq (I := I) (fun p hp => ?_) s hs ht
  obtain ⟨k, hk, rfl⟩ := List.mem_mapIdx.mp hp
  exact Plan.preserves_andThen (h.writeEntry _ _ _) (h.writeEntry _ _ _)

theorem KillSafe.dropWaiting (id : Nat) : Plan.Preserves I (dropWaiting id) := by
  intro s hs ht
  rw [Plan.run_def]
  simp only [Sys2Proof.Machine.dropWaiting]
  refine Plan.preserves_each (I := I) (fun n u hu htu => ?_) _ s hs ht
  rw [Plan.run_def]
  refine Plan.preserves_andThen (h.quiet (F := [.sessions, .groups]) ⟨fun _ => ?_⟩ (by decide)) (Plan.preserves_andThen (h.twoStores _ _ _ _) (h.writeWaiting _)) u hu htu
  exact EffsIn.cons (by simp [Eff.field]) (EffsIn.one (by simp [Eff.field]))

theorem KillSafe.mediaEnds (l : List (Nat × Nat)) : Plan.Preserves I (mediaEnds l) := by
  refine Plan.preserves_each (fun r s hs ht => ?_) _
  rw [Plan.run_def]
  dsimp only
  split
  · exact ht
  · exact h.quiet (modStroke_only _ _ _) (by decide) s hs ht

theorem KillSafe.resync (c : Nat) : Plan.Preserves I (resync c) := by
  intro s hs ht
  rw [Plan.run_def]
  simp only [Sys2Proof.Machine.resync]
  split
  · exact ht
  · exact Plan.preserves_seq_cons (h.act (by simp [Eff.field, quietFields])) (Plan.preserves_seq_cons (h.act (by simp [Eff.field, quietFields]))
      (Plan.preserves_seq_cons (Plan.preserves_each (fun _ => h.releaseRef _) _) (Plan.preserves_seq_cons (h.mediaEnds _) Plan.preserves_seq_nil))) s hs ht

theorem KillSafe.abandonMedia (id : Nat) : Plan.Preserves I (abandonMedia id) := by
  intro s hs ht
  rw [Plan.run_def]
  simp only [Sys2Proof.Machine.abandonMedia]
  split
  · exact ht
  · exact Plan.preserves_seq_cons (h.act (by simp [Eff.field, quietFields])) (Plan.preserves_seq_cons
      (Plan.preserves_each (fun _ => h.quiet (F := [.cores]) ⟨fun _ => EffsIn.one (by simp [Eff.field])⟩ (by decide)) _)
      (Plan.preserves_seq_cons (Plan.preserves_each h.resync _) (Plan.preserves_seq_cons (Plan.preserves_each (fun _ => h.releaseRef _) _) Plan.preserves_seq_nil))) s hs ht

theorem KillSafe.abandonIntake (id : Nat) : Plan.Preserves I (abandonIntake id) := by
  intro s hs ht
  rw [Plan.run_def]
  simp only [Sys2Proof.Machine.abandonIntake]
  refine Plan.preserves_each (I := I) (fun c u hu htu => ?_) _ s hs ht
  rw [Plan.run_def]
  exact Plan.preserves_andThen (h.act (by simp [Eff.field, quietFields])) (Plan.preserves_each (fun _ => h.releaseRef _) _) u hu htu

theorem KillSafe.freeMutexes (id : Nat) : Plan.Preserves I (freeMutexes id) := by
  intro s hs ht
  rw [Plan.run_def]
  simp only [Sys2Proof.Machine.freeMutexes]
  refine Plan.preserves_each (I := I) (fun n u hu htu => ?_) _ s hs ht
  rw [Plan.run_def]
  exact Plan.preserves_andThen (h.act (by simp [Eff.field, quietFields])) (h.event _) u hu htu

theorem KillSafe.burnishClaims (id : Nat) : Plan.Preserves I (burnishClaims id) := by
  refine h.quiet (F := [.segs]) ⟨fun s => (Plan.only_each (fun b => ⟨fun s => ?_⟩)).effs s⟩ (by decide)
  dsimp only
  split
  · exact EffsIn.nil
  · exact EffsIn.one (by simp [Eff.field])

theorem KillSafe.burnishLocal (pl : Place) : Plan.Preserves I (burnishLocal pl) := by
  have hcluster : ∀ n c, EffsIn [.clusters, .localMem] [Eff.clusters n c] := fun _ _ => EffsIn.one (by simp [Eff.field])
  refine h.quiet (F := [.clusters, .localMem]) ⟨fun s => EffsIn.append ?_ (EffsIn.map (fun _ => by simp [Eff.field]))⟩ (by decide)
  split
  · exact hcluster _ _
  · exact hcluster _ _
  · exact hcluster _ _
  · exact hcluster _ _
  · exact hcluster _ _
  · exact EffsIn.nil

theorem KillSafe.killParts (id : Nat) (strokes : List Stroke) : Plan.Preserves I (killParts id strokes) :=
  Plan.preserves_seq_cons (h.freeMutexes id) (Plan.preserves_seq_cons (h.quiet (freeFrames_parts id) (by decide)) (Plan.preserves_seq_cons (h.burnishClaims id)
    (Plan.preserves_seq_cons (h.quiet (F := [.lines]) ⟨fun _ => EffsIn.map (fun _ => by simp [Eff.field])⟩ (by decide)) (Plan.preserves_seq_cons (h.dropWaiting id)
      (Plan.preserves_seq_cons (h.abandonMedia id) (Plan.preserves_seq_cons (h.abandonIntake id) (Plan.preserves_seq_cons (Plan.preserves_each h.burnishLocal _)
        (Plan.preserves_seq_cons (h.quiet settle_only (by decide)) Plan.preserves_seq_nil))))))))

theorem KillSafe.killJob (id status : Nat) : Plan.Preserves I (killJob id status) := by
  intro s hs ht
  rw [Plan.run_def, killJob_eq]
  split
  · exact ht
  · split
    · split
      · exact h.quiet (setJob_only id _) (by decide) s hs ht
      · exact ht
    · exact Plan.preserves_andThen (h.quiet (setJob_only _ _) (by decide)) (h.killParts id _) s hs ht

end

/-! ## The counters of the plate -/

theorem noteMetric_reserve {kind metric n : Nat} {p : Plan} (h : Plan.Only [.reserve] p) : Plan.Only [.reserve] (noteMetric kind metric n p) := by
  refine ⟨fun s => ?_⟩
  simp only [noteMetric]
  split
  · exact EffsIn.nil
  · split
    · exact EffsIn.nil
    · split
      · exact (Plan.only_andThen (Plan.only_act (by simp [Eff.field])) h).effs s
      · exact EffsIn.one (by simp [Eff.field])

/-- A counter of the page of the plate holds a value. -/
def PlateCount (off v : Nat) (s : State) : Prop := s.reg 0 pgPLT off = v

theorem Plan.KeepsReg.keepsPlateCount {off : Nat} {p : Plan} (h : Plan.KeepsReg (regKey 0 pgPLT off) p) (v : Nat) : Plan.Preserves (PlateCount off v) p :=
  fun _ hs e => (h.reg hs).trans e

section
variable {off v : Nat} (hlow : 0x100 ≤ off) (hhigh : off < 0x1000)
include hlow hhigh

theorem raiseErr_keepsPlate (page b : Nat) (cap : List Nat) (m : Nat) : Plan.Preserves (PlateCount off v) (raiseErr page b cap m) :=
  (raiseErr_keepsReg (fun _ _ _ => by unfold regKey pgPLT; omega) b cap m).keepsPlateCount v

theorem event_keepsPlate (a : EvArgs) : Plan.Preserves (PlateCount off v) (event a) :=
  (event_keepsReg (fun _ _ _ => by unfold regKey pgPLT pgEVT; omega) a).keepsPlateCount v

omit hlow hhigh in
theorem setReg_keepsPlate {page o : Nat} (h : regKey 0 pgPLT off ≠ regKey 0 page o) (w : Nat) : Plan.Preserves (PlateCount off v) (setReg 0 page o w) :=
  (setReg_keepsReg h w).keepsPlateCount v

omit hlow in
/-- The registers of a segment stand on no page of the plate. -/
theorem setSegment_keepsPlate (seg o w : Nat) : Plan.Preserves (PlateCount off v) (setReg 0 (pgPS seg) o w) :=
  setReg_keepsPlate (by unfold regKey pgPLT pgPS; omega) w

omit hlow hhigh in
theorem bump_keepsPlate {page o : Nat} (h : regKey 0 pgPLT off ≠ regKey 0 page o) (n : Nat) : Plan.Preserves (PlateCount off v) (bump page o n) :=
  fun u hu hv => setReg_keepsPlate h _ u hu hv

omit hlow hhigh in
theorem bumpField_keepsPlate {page o : Nat} (h : regKey 0 pgPLT off ≠ regKey 0 page o) (hi lo n : Nat) : Plan.Preserves (PlateCount off v) (bumpField page o hi lo n) :=
  fun u hu hv => setReg_keepsPlate h _ u hu hv

omit hlow in
theorem bumpSegment_keepsPlate (seg o n : Nat) : Plan.Preserves (PlateCount off v) (bumpWrap (pgPS seg) o n) :=
  fun u hu hv => setSegment_keepsPlate hhigh seg o _ u hu hv

theorem poisonRead_keepsPlate (hoff : off ≠ 0x108) (w : MemWho) (a : Nat) : Plan.Preserves (PlateCount off v) (poisonRead w a) :=
  fun s hs hv => by
    rw [Plan.run_def]
    simp only [poisonRead]
    exact Plan.preserves_andThen (bumpField_keepsPlate (by unfold regKey pgPLT; omega) _ _ _) (raiseErr_keepsPlate hlow hhigh _ _ _ _) s hs hv

theorem noteForeign_keepsPlate (page : Nat) : Plan.Preserves (PlateCount off v) (noteForeign page) := by
  unfold noteForeign
  split
  · exact Plan.preserves_andThen (bump_keepsPlate (by unfold regKey pgPLT pgLET letCnt; omega) _) (raiseErr_keepsPlate hlow hhigh _ _ _ _)
  · exact raiseErr_keepsPlate hlow hhigh _ _ _ _

/-! ### Stores through the cache -/

theorem plateDetect_keepsPlate (hoff : off ≠ 0x110) (seg o source fn stroke part : Nat) (charged tag : Bool) (g : Nat) :
    Plan.Preserves (PlateCount off v) (plateDetect seg o source fn stroke part charged tag g) := by
  have hbump : ∀ hi lo, Plan.Preserves (PlateCount off v) (bumpField (pgPS seg) 0x120 hi lo 1) := fun hi lo => bumpField_keepsPlate (by unfold regKey pgPLT pgPS; omega) hi lo 1
  have hcount : Plan.Preserves (PlateCount off v) (bump pgPLT 0x110 1) := bump_keepsPlate (by unfold regKey; omega) 1
  have hreserve : ∀ p, Plan.Only [.reserve] p → Plan.Preserves (PlateCount off v) p := fun p hp => (hp.keepsReg (by decide) _).keepsPlateCount v
  refine Plan.preserves_seq_cons ?_ (Plan.preserves_seq_cons hcount (Plan.preserves_seq_cons (raiseErr_keepsPlate hlow hhigh _ _ _ _)
    (Plan.preserves_seq_cons (event_keepsPlate hlow hhigh _) (Plan.preserves_seq_cons (hreserve _ (noteMetric_reserve (queueSegment_reserve seg))) Plan.preserves_seq_nil))))
  split
  · exact hbump _ _
  · exact hbump _ _

theorem lineDetect_keepsPlate (hoff : off ≠ 0x110) (source fn stroke part : Nat) (charged : Bool) (x : Nat × Nat × Bool) :
    Plan.Preserves (PlateCount off v) (lineDetect source fn stroke part charged x) := fun s hs hv => by
  rw [Plan.run_def]
  simp only [lineDetect]
  exact plateDetect_keepsPlate hlow hhigh hoff _ _ _ _ _ _ _ _ _ s hs hv

omit hlow hhigh in
theorem Plan.Only.keepsPlate {F : List Field} {p : Plan} (h : Plan.Only F p) (hF : Field.regs ∉ F) : Plan.Preserves (PlateCount off v) p :=
  (h.keepsReg hF _).keepsPlateCount v

theorem writeBack_keepsPlate (hoff : off ≠ 0x110) (key : Nat) : Plan.Preserves (PlateCount off v) (writeBack key) := by
  intro s hs hv
  rw [Plan.run_def]
  simp only [writeBack]
  split
  · refine Plan.preserves_seq_cons (Plan.preserves_each (fun x => lineDetect_keepsPlate hlow hhigh hoff _ _ _ _ _ x) _)
      (Plan.preserves_seq_cons ((debitLine_parts _).keepsPlate (by decide)) (Plan.preserves_seq_cons ((memRequests_only ..).keepsPlate (by decide))
        (Plan.preserves_seq_cons (Plan.Only.keepsPlate (F := [.mem, .poisoned, .lines]) ⟨fun _ => ?_⟩ (by decide)) Plan.preserves_seq_nil))) s hs hv
    exact EffsIn.cons (by simp [Eff.field]) (EffsIn.cons (by simp [Eff.field]) (EffsIn.cons (by simp [Eff.field]) (EffsIn.one (by simp [Eff.field]))))
  · exact hv

theorem bringLine_keepsPlate (hoff : off ≠ 0x110) (seg a : Nat) (whole : Bool) : Plan.Preserves (PlateCount off v) (bringLine seg a whole) := by
  intro s hs hv
  have htouch : ∀ k w, Plan.Preserves (PlateCount off v) (Plan.act (.plru k w)) := fun k w => Plan.Only.keepsPlate (F := [.plru]) (Plan.only_act (by simp [Eff.field])) (by decide)
  rw [Plan.run_def]
  simp only [bringLine]
  split
  · exact Plan.preserves_andThen (bumpSegment_keepsPlate hhigh _ _ _) (htouch _ _) s hs hv
  · exact Plan.preserves_seq_cons (bumpSegment_keepsPlate hhigh _ _ _) (Plan.preserves_seq_cons (writeBack_keepsPlate hlow hhigh hoff _)
      (Plan.preserves_seq_cons (Plan.preserves_when (Plan.preserves_andThen ((debitLine_parts _).keepsPlate (by decide)) ((memRequests_only ..).keepsPlate (by decide))))
        (Plan.preserves_seq_cons ((goodWords_badWords ..).keepsPlate (by decide))
          (Plan.preserves_seq_cons (Plan.Only.keepsPlate (F := [.lines]) ⟨fun _ => EffsIn.one (by simp [Eff.field])⟩ (by decide))
            (Plan.preserves_seq_cons (htouch _ _) Plan.preserves_seq_nil))))) s hs hv

theorem writeLine_keepsPlate (hoff : off ≠ 0x110) (seg a job : Nat) (bs : List Byte) : Plan.Preserves (PlateCount off v) (writeLine seg a job bs) := by
  simp only [writeLine]
  refine Plan.preserves_andThen (bringLine_keepsPlate hlow hhigh hoff _ _ _) (fun s hs hv => ?_)
  rw [Plan.run_def]
  split
  · exact hv
  · exact Plan.preserves_seq_cons (Plan.preserves_when (writeBack_keepsPlate hlow hhigh hoff _)) (Plan.preserves_seq_cons ((goodWords_badWords ..).keepsPlate (by decide))
      (Plan.preserves_seq_cons (Plan.Only.keepsPlate (F := [.lines]) ⟨fun _ => EffsIn.one (by simp [Eff.field])⟩ (by decide)) Plan.preserves_seq_nil)) s hs hv

omit hlow hhigh in
/-- A piece that no segment caches goes to memory. -/
theorem uncachedPiece_only (p : Nat × List Byte) : Plan.Only [.mem, .poisoned] (fun _ => .store p.1 p.2 ::
    (pieces 64 p.1 p.2 4).filterMap (fun q => if q.2.length = 64 then some (.poisoned (q.1 / 64) false) else none)) := by
  refine ⟨fun _ => EffsIn.cons (by simp [Eff.field]) (EffsIn.filterMap (fun q e he => ?_))⟩
  split at he
  · obtain rfl := Option.some.inj he
    simp [Eff.field]
  · exact absurd he (by simp)

theorem gddrStore_keepsPlate (hoff : off ≠ 0x110) (job a : Nat) (bs : List Byte) : Plan.Preserves (PlateCount off v) (gddrStore job a bs) := by
  intro s hs hv
  rw [Plan.run_def]
  simp only [gddrStore]
  split
  · exact Plan.Only.keepsPlate (F := [.mem]) (p := Plan.act (.store a bs)) (Plan.only_act (by simp [Eff.field])) (by decide) s hs hv
  · refine Plan.preserves_each (I := PlateCount off v) (fun p u hu huv => ?_) _ s hs hv
    rw [Plan.run_def]
    split
    · exact writeLine_keepsPlate hlow hhigh hoff _ _ _ _ u hu huv
    · exact (uncachedPiece_only p).keepsPlate (by decide) u hu huv

/-- The kill of a job leaves the counters of the plate but that of the detections. -/
theorem killSafe_plateCount (hoff : off ≠ 0x110) (hoff' : off ≠ 0x108) : KillSafe (PlateCount off v) where
  frame _ hp := hp.keepsPlate (by decide)
  event := event_keepsPlate hlow hhigh
  poison := poisonRead_keepsPlate hlow hhigh hoff'
  foreign := noteForeign_keepsPlate hlow hhigh
  store := gddrStore_keepsPlate hlow hhigh hoff

end

/-- No segment is a cache, and a counter of the plate holds a value. -/
def UncachedCount (off v : Nat) (s : State) : Prop := s.cacheSegs = [] ∧ PlateCount off v s

theorem uncachedCount_of {off v : Nat} {p : Plan} (hp : Plan.Preserves (PlateCount off v) p) {F : List Field} (ho : Plan.Only F p) (hF : Field.modeUnits ∉ F) :
    Plan.Preserves (UncachedCount off v) p := fun s hs h => ⟨(cacheSegs_congr (ho.same s hF : (p.run s).modeUnits = s.modeUnits)).trans h.1, hp s hs h.2⟩

theorem cacheOf_noCache {s : State} (h : s.cacheSegs = []) (a : Nat) : s.cacheOf a = none := by simp [State.cacheOf, h]

/-- Without a cache, a store into GDDR6 goes to memory, and no plate word is read (R143). -/
theorem gddrStore_uncached (off v job a : Nat) (bs : List Byte) : Plan.Preserves (UncachedCount off v) (gddrStore job a bs) := by
  intro s hs h
  have hkeeps : ∀ {F : List Field} {p : Plan}, Plan.Only F p → Field.regs ∉ F → Field.modeUnits ∉ F → Plan.Preserves (UncachedCount off v) p :=
    fun ho hr hm => uncachedCount_of (ho.keepsPlate hr) ho hm
  rw [Plan.run_def]
  simp only [gddrStore]
  split
  · exact hkeeps (F := [.mem]) (Plan.only_act (e := .store a bs) (by simp [Eff.field])) (by decide) (by decide) s hs h
  · refine Plan.preserves_each (I := UncachedCount off v) (fun p u hu hcount => ?_) _ s hs h
    rw [Plan.run_def]
    simp only [cacheOf_noCache hcount.1]
    exact hkeeps (uncachedPiece_only p) (by decide) (by decide) u hu hcount

/-- Where no segment is a cache, the kill of a job leaves the counters of the plate (R149). -/
theorem killSafe_uncached {off : Nat} (hlow : 0x100 ≤ off) (hhigh : off < 0x1000) (hoff : off ≠ 0x108) (v : Nat) : KillSafe (UncachedCount off v) where
  frame _ hp := uncachedCount_of (hp.keepsPlate (by decide)) hp (by decide)
  event a := uncachedCount_of (event_keepsPlate hlow hhigh a) (event_only a) (by decide)
  poison w a := uncachedCount_of (poisonRead_keepsPlate hlow hhigh hoff w a) (poisonRead_only w a) (by decide)
  foreign page := uncachedCount_of (noteForeign_keepsPlate hlow hhigh page) (noteForeign_only page) (by decide)
  store := gddrStore_uncached off v

end Sys2Proof.Machine
end

section
/-! A parity detection on a word of the plate: the count, the re-run of a stroke, and the kill of its job (R148-R150). -/
namespace Sys2Proof.Machine

/-! ## A detection -/

theorem plateDetect_reports (seg off source fn stroke part : Nat) (charged tag : Bool) (g : Nat) :
    Plan.Only [.regs, .vecs, .recorder, .reserve] (plateDetect seg off source fn stroke part charged tag g) := by
  refine Plan.only_seq_cons ?_ (Plan.only_seq_cons ((bump_only ..).mono (by decide)) (Plan.only_seq_cons ((raiseErr_only ..).mono (by decide))
    (Plan.only_seq_cons ((event_only _).mono (by decide)) (Plan.only_seq_cons ((noteMetric_reserve (queueSegment_reserve seg)).mono (by decide)) Plan.only_seq_nil))))
  split
  · exact (bumpField_only ..).mono (by decide)
  · exact (bumpField_only ..).mono (by decide)

/-- A counter that saturates goes up by one. -/
theorem bump_counts {s : State} (hs : s.Wf) (page off : Nat) : ((bump page off 1).run s).reg 0 page off = satAdd 0xFFFFFFFF (s.reg 0 page off) 1 :=
  (setReg_value hs 0 page off _).trans (Nat.mod_eq_of_lt (Nat.lt_succ_of_le (satAdd_le ..)))

/-- Every detection is counted (R149). -/
theorem plateDetect_counts {s : State} (hs : s.Wf) (seg off source fn stroke part : Nat) (charged tag : Bool) (g : Nat) :
    PlateCount 0x110 (satAdd 0xFFFFFFFF (s.reg 0 pgPLT 0x110) 1) ((plateDetect seg off source fn stroke part charged tag g).run s) := by
  have hfield : ∀ hi lo, PlateCount 0x110 (s.reg 0 pgPLT 0x110) ((bumpField (pgPS seg) 0x120 hi lo 1).run s) := fun hi lo =>
    bumpField_keepsPlate (by unfold regKey pgPLT pgPS; omega) hi lo 1 s hs rfl
  have hrest : Plan.Preserves (PlateCount 0x110 (satAdd 0xFFFFFFFF (s.reg 0 pgPLT 0x110) 1))
      (Plan.seq [raiseErr (pgPS seg) (if tag then 1 else 0) (plateCapture source fn stroke off g),
        event { cls := 3, code := 2, stroke := stroke, part := part, charged := charged, fn := fn, page := pgPS seg, detail := ((plateCapture source fn stroke off g).map (leBytes 4)).flatten },
        noteMetric 1 1 seg (queueSegment seg)]) :=
    Plan.preserves_seq_cons (raiseErr_keepsPlate (by decide) (by decide) _ _ _ _) (Plan.preserves_seq_cons (event_keepsPlate (by decide) (by decide) _)
      (Plan.preserves_seq_cons ((noteMetric_reserve (queueSegment_reserve seg)).keepsPlate (by decide)) Plan.preserves_seq_nil))
  have hcount : ∀ p : Plan, PlateCount 0x110 (s.reg 0 pgPLT 0x110) (p.run s) → (p.run s).Wf →
      PlateCount 0x110 (satAdd 0xFFFFFFFF (s.reg 0 pgPLT 0x110) 1) ((bump pgPLT 0x110 1).run (p.run s)) := fun p hp hw =>
    (bump_counts hw pgPLT 0x110).trans (congrArg (satAdd 0xFFFFFFFF · 1) hp)
  unfold plateDetect
  rw [Plan.run_seq_cons, Plan.run_seq_cons]
  refine hrest _ (Plan.run_wf (Plan.run_wf hs _) _) (hcount _ ?_ (Plan.run_wf hs _))
  split
  · exact hfield _ _
  · exact hfield _ _

/-- What a detection and the marks that it leaves make of a state: it is counted, and every job stands. -/
structure Detected (s u : State) : Prop where
  wf : u.Wf
  job : ∀ id, u.job id = s.job id
  count : PlateCount 0x110 (satAdd 0xFFFFFFFF (s.reg 0 pgPLT 0x110) 1) u
  reruns : PlateCount 0x114 (s.reg 0 pgPLT 0x114) u
  cache : u.cacheSegs = s.cacheSegs

theorem plateDetect_detected {s : State} (hs : s.Wf) (seg off source fn stroke part : Nat) (charged tag : Bool) (g : Nat) :
    Detected s ((plateDetect seg off source fn stroke part charged tag g).run s) where
  wf := Plan.run_wf hs _
  job := (plateDetect_reports ..).job_eq s (by decide)
  count := plateDetect_counts hs ..
  reruns := plateDetect_keepsPlate (by decide) (by decide) (by decide) _ _ _ _ _ _ _ _ _ s hs rfl
  cache := cacheSegs_congr ((plateDetect_reports seg off source fn stroke part charged tag g).same s (f := .modeUnits) (by decide))

/-- Marks in the plate leave what a detection has made. -/
theorem Detected.marks {s u : State} (h : Detected s u) {m : Plan} (hm : Plan.Only [.lines, .badWords] m) : Detected s (m.run u) where
  wf := Plan.run_wf h.wf m
  job id := (hm.job_eq u (by decide) id).trans (h.job id)
  count := hm.keepsPlate (by decide) u h.wf h.count
  reruns := hm.keepsPlate (by decide) u h.wf h.reruns
  cache := (cacheSegs_congr (hm.same u (f := .modeUnits) (by decide))).trans h.cache

/-! ## The re-run of a stroke -/

/-- A stroke that is abandoned to run once more (R149). -/
def Stroke.abandoned (t : Stroke) : Stroke :=
  { t with state := .waiting, place := none, ran := false, begun := false, rerun := true, resumed := false, frame := none, structs := [], passes := 0, loaded := [], accOrder := [], tilesDone := 0 }

theorem Stroke.core_place (t : Stroke) : t.core.place = t.place := by
  unfold Stroke.core
  split <;> rfl

theorem Stroke.core_rerun (t : Stroke) : t.core.rerun = t.rerun := by
  unfold Stroke.core
  split <;> rfl

theorem Stroke.core_running {t : Stroke} (h : t.state = .running) : t.core.state = .running := by
  rw [Stroke.core_eq (by rw [h]; decide)]
  exact h

/-- A job one of whose strokes is abandoned to run once more. -/
def Job.abandoning (j : Job) (i now : Nat) : Job := { j with strokes := j.strokes.modify i Stroke.abandoned, changed := now, rerun := true }

theorem Job.abandoning_stroke {j : Job} {i : Nat} (h : i < j.strokes.length) (now : Nat) : (j.abandoning i now).stroke i = (j.stroke i).abandoned :=
  (stroke_modify j i i Stroke.abandoned now).trans (if_pos ⟨rfl, h⟩)

/-- A stroke leaves its place and waits, and its job notes the re-run. -/
def leaveForRerun (id i : Nat) (t : Stroke) : Plan :=
  Plan.seq [(match t.place with | some pl => leaveUnit id i pl | none => Plan.skip), modStroke id i Stroke.abandoned, modJob id (fun j => { j with rerun := true })]

/-- The steps that make a stroke wait for its re-run. -/
def abandonStroke (id i : Nat) (t : Stroke) : Plan := Plan.seq [leaveForRerun id i t, bump pgPLT 0x114 1, settle]

section
variable {s u : State} {id i : Nat} {z : Bool}

theorem rerunOrKill_again (h : ((u.job id).stroke i).reRunnable z = true) (hfirst : ((u.job id).stroke i).rerun = false) :
    rerunOrKill id i z u = abandonStroke id i ((u.job id).stroke i) u := by
  refine (if_pos (by simp [h, hfirst])).trans ?_
  simp only [abandonStroke, leaveForRerun, Plan.seq, Plan.andThen, Plan.skip, List.append_nil, List.append_assoc, State.applyAll_append]
  rfl

theorem rerunOrKill_kills (h : ((u.job id).stroke i).reRunnable z = false ∨ ((u.job id).stroke i).rerun = true) : rerunOrKill id i z u = killJob id 0x31 u := by
  refine if_neg ?_
  rcases h with h | h <;> simp [h]

theorem leavePlace_only (id i : Nat) (t : Stroke) : Plan.Only [.clusters] (match t.place with | some pl => leaveUnit id i pl | none => Plan.skip) := by
  split
  · exact leaveUnit_only ..
  · exact Plan.only_skip

theorem leaveForRerun_only (id i : Nat) (t : Stroke) : Plan.Only [.clusters, .jobs] (leaveForRerun id i t) :=
  Plan.only_seq_cons ((leavePlace_only id i t).mono (by decide)) (Plan.only_seq_cons ((modStroke_only ..).mono (by decide)) (Plan.only_seq_cons ((modJob_only ..).mono (by decide)) Plan.only_seq_nil))

theorem abandonStroke_only (id i : Nat) (t : Stroke) : Plan.Only [.clusters, .jobs, .regs, .parts] (abandonStroke id i t) :=
  Plan.only_seq_cons ((leaveForRerun_only id i t).mono (by decide)) (Plan.only_seq_cons ((bump_only ..).mono (by decide)) (Plan.only_seq_cons (settle_only.mono (by decide)) Plan.only_seq_nil))

theorem leaveForRerun_job (hu : u.Wf) (id i : Nat) (t : Stroke) : ((leaveForRerun id i t).run u).job id = (u.job id).abandoning i u.ticks := by
  have hleave := leavePlace_only id i t
  unfold leaveForRerun
  simp only [Plan.run_seq_cons, Plan.run_seq_nil]
  refine (job_put_same (Plan.run_wf (Plan.run_wf hu _) _) id _).trans ?_
  rw [modStroke_job (Plan.run_wf hu _), if_pos rfl, hleave.job_eq u (by decide), hleave.ticks_eq u (by decide)]
  rfl

/-- The job of a stroke that waits for its re-run, but for what a re-evaluation changes. -/
theorem abandonStroke_core (hu : u.Wf) (id i : Nat) (t : Stroke) : (((abandonStroke id i t).run u).job id).core = ((u.job id).abandoning i u.ticks).core := by
  unfold abandonStroke
  simp only [Plan.run_seq_cons, Plan.run_seq_nil]
  refine (settle_keepsCore id _ (Plan.run_wf (Plan.run_wf hu _) _)).trans (congrArg Job.core ?_)
  exact ((bump_only ..).job_eq _ (by decide) id).trans (leaveForRerun_job hu id i t)

theorem abandonStroke_keepsDetections (id i : Nat) (t : Stroke) (v : Nat) : Plan.Preserves (PlateCount 0x110 v) (abandonStroke id i t) :=
  Plan.preserves_seq_cons ((leaveForRerun_only id i t).keepsPlate (by decide)) (Plan.preserves_seq_cons (bump_keepsPlate (by decide) 1)
    (Plan.preserves_seq_cons (settle_only.keepsPlate (by decide)) Plan.preserves_seq_nil))

/-- The re-run is counted (R149). -/
theorem abandonStroke_counts (hu : u.Wf) (id i : Nat) (t : Stroke) : PlateCount 0x114 (satAdd 0xFFFFFFFF (u.reg 0 pgPLT 0x114) 1) ((abandonStroke id i t).run u) := by
  have hwf := Plan.run_wf hu (leaveForRerun id i t)
  unfold abandonStroke
  simp only [Plan.run_seq_cons, Plan.run_seq_nil]
  refine settle_only.keepsPlate (by decide) _ (Plan.run_wf hwf _) ((bump_counts hwf pgPLT 0x114).trans ?_)
  rw [(leaveForRerun_only id i t).reg_eq u (by decide)]

/-- A stroke that may run again waits for it, and its job says so (R149). -/
theorem rerunOrKill_waits (h : Detected s u) (hkilled : (s.job id).killed = none) (hstate : ((s.job id).stroke i).state = .running)
    (hre : ((s.job id).stroke i).reRunnable z = true) (hfirst : ((s.job id).stroke i).rerun = false) :
    (let t := (rerunOrKill id i z).run u
     ((t.job id).stroke i).rerun = true ∧ ((t.job id).stroke i).place = none ∧ ((t.job id).stroke i).state ≠ .running ∧ (t.job id).rerun = true ∧ (t.job id).killed = none ∧
     t.badWords = u.badWords ∧ t.lines = u.lines ∧ PlateCount 0x110 (satAdd 0xFFFFFFFF (s.reg 0 pgPLT 0x110) 1) t ∧
     PlateCount 0x114 (satAdd 0xFFFFFFFF (s.reg 0 pgPLT 0x114) 1) t) := by
  have hjob := h.job id
  rw [Plan.run_congr (rerunOrKill_again (by rw [hjob]; exact hre) (by rw [hjob]; exact hfirst))]
  have honly := abandonStroke_only id i ((u.job id).stroke i)
  have hcore := abandonStroke_core h.wf id i ((u.job id).stroke i)
  have hlt : i < (s.job id).strokes.length := stroke_lt (by rw [hstate]; decide)
  generalize hw : (abandonStroke id i ((u.job id).stroke i)).run u = w at hcore
  have hstroke : ((w.job id).stroke i).core = ((s.job id).stroke i).abandoned := by
    rw [← strokes_core, show (w.job id).strokes.map Stroke.core = (((u.job id).abandoning i u.ticks).strokes.map Stroke.core) from congrArg Job.strokes hcore, strokes_core,
      hjob, Job.abandoning_stroke hlt]
    rfl
  refine ⟨?_, ?_, fun hrun => ?_, congrArg Job.rerun hcore, (congrArg Job.killed hcore).trans ?_, ?_, ?_, ?_, ?_⟩
  · rw [← Stroke.core_rerun, hstroke]; rfl
  · rw [← Stroke.core_place, hstroke]; rfl
  · have := (Stroke.core_running hrun).symm.trans (congrArg Stroke.state hstroke)
    exact absurd this (by simp [Stroke.abandoned])
  · rw [hjob]; exact hkilled
  · rw [← hw]; exact honly.same u (f := .badWords) (by decide)
  · rw [← hw]; exact honly.same u (f := .lines) (by decide)
  · rw [← hw]; exact abandonStroke_keepsDetections id i _ _ u h.wf h.count
  · rw [← hw, show s.reg 0 pgPLT 0x114 = u.reg 0 pgPLT 0x114 from h.reruns.symm]
    exact abandonStroke_counts h.wf id i _

/-- A stroke that may not run again has its job killed (R149). -/
theorem rerunOrKill_faults (h : Detected s u) (hphase : (s.job id).phase = .running) (hkilled : (s.job id).killed = none)
    (hlast : ((s.job id).stroke i).reRunnable z = false ∨ ((s.job id).stroke i).rerun = true) :
    (((rerunOrKill id i z).run u).job id).killed = some 0x31 ∧
    (s.cacheSegs = [] → PlateCount 0x110 (satAdd 0xFFFFFFFF (s.reg 0 pgPLT 0x110) 1) ((rerunOrKill id i z).run u)) := by
  have hjob := h.job id
  rw [Plan.run_congr (rerunOrKill_kills (by rw [hjob]; exact hlast))]
  refine ⟨killJob_first h.wf id 0x31 (by rw [hjob, hphase]; decide) (by rw [hjob]; exact hkilled), fun hcache => ?_⟩
  exact ((killSafe_uncached (by decide) (by decide) (by decide) _).killJob id 0x31 u h.wf ⟨h.cache.trans hcache, h.count⟩).2

end

/-! ## PLATE_PARITY_DETECT -/

/-- A running stroke of a live job reads a word of a segment in service. -/
structure ReadsPlate (id i seg off : Nat) (s : State) : Prop where
  serves : s.svc.halted = false
  phase : (s.job id).phase = .running
  lives : (s.job id).killed = none
  running : ((s.job id).stroke i).state = .running
  notRan : ((s.job id).stroke i).ran = false
  segment : seg < 32
  offset : off < segSize
  used : (s.seg seg).withdrawn = false

/-- The detection on a word of a segment, as a stroke reads it. -/
def wordDetect (id i seg off : Nat) (tagPar : Bool) (gaddr : Nat) (s : State) : Plan := plateDetect seg off 0 (s.job id).fn ((s.job id).tableIndex i) (s.job id).part true tagPar gaddr

/-- A dirty line on which a detection came: it is marked, and a flipped tag stays bad (R150). -/
def Line.suspect (l : Line) (tag : Bool) : Line := { l with marked := true, badTag := l.badTag || tag }

theorem wordDetect_lines (id i seg off : Nat) (tagPar : Bool) (gaddr : Nat) (s : State) (k : Nat) (l : Line) :
    ((Plan.act (.lines k l)).run ((wordDetect id i seg off tagPar gaddr s).run s)).lines = Tab.put {} s.lines k l :=
  congrArg (fun x : Tab Line => Tab.put ({} : Line) x k l) ((plateDetect_reports ..).same s (f := .lines) (by decide))

/-- The word of the array that a bit has flipped in stays bad (R149). -/
def markWord (seg off : Nat) (stored : Bool) : Plan := Plan.when stored (Plan.act (.badWords ((plateBase + seg * segSize + off) / 4) true))

theorem markWord_only (seg off : Nat) (stored : Bool) : Plan.Only [.lines, .badWords] (markWord seg off stored) := Plan.only_when (Plan.only_act (by simp [Eff.field]))

theorem markWord_badWords (seg off : Nat) (stored : Bool) (s : State) :
    ((markWord seg off stored).run s).badWords = if stored then Tab.put false s.badWords ((plateBase + seg * segSize + off) / 4) true else s.badWords := by
  unfold markWord
  rw [Plan.run_when]
  split <;> rfl

section
variable {s : State} {id i seg off : Nat} (hs : s.Wf) (hr : ReadsPlate id i seg off s) (stored : Bool)
include hr

theorem plateParityDetect_scratch (hmode : s.mode (pgPS seg) ≠ 1) : plateParityDetect id i seg off false stored s =
    Plan.seq [wordDetect id i seg off false 0 s, markWord seg off stored, rerunOrKill id i (inPlace s (s.job id) ((s.job id).stroke i))] s := by
  obtain ⟨hserves, hphase, hlives, hrunning, hnotRan, hsegment, hoffset, hused⟩ := hr
  unfold plateParityDetect
  dsimp only
  rw [if_pos ⟨hphase, by simp [hlives], hrunning, by simp [hnotRan], hsegment, hoffset, by simp [State.withdrawn, hused]⟩, if_neg hmode]
  rfl

theorem plateParityDetect_clean (tagPar : Bool) (hmode : s.mode (pgPS seg) = 1) (hvalid : (Tab.get {} s.lines (seg * 65536 + off / 128)).valid = true)
    (hclean : (Tab.get {} s.lines (seg * 65536 + off / 128)).dirty = false) : plateParityDetect id i seg off tagPar stored s =
    Plan.andThen (wordDetect id i seg off tagPar ((Tab.get {} s.lines (seg * 65536 + off / 128)).tag * 128) s) (Plan.act (.lines (seg * 65536 + off / 128) {})) s := by
  obtain ⟨hserves, hphase, hlives, hrunning, hnotRan, hsegment, hoffset, hused⟩ := hr
  unfold plateParityDetect
  dsimp only
  rw [if_pos ⟨hphase, by simp [hlives], hrunning, by simp [hnotRan], hsegment, hoffset, by simp [State.withdrawn, hused]⟩, if_pos hmode, if_neg (by simp [hvalid]), if_pos (by simp [hclean])]
  rfl

theorem plateParityDetect_dirty (tagPar : Bool) (hmode : s.mode (pgPS seg) = 1) (hvalid : (Tab.get {} s.lines (seg * 65536 + off / 128)).valid = true)
    (hdirty : (Tab.get {} s.lines (seg * 65536 + off / 128)).dirty = true) : plateParityDetect id i seg off tagPar stored s =
    Plan.seq [wordDetect id i seg off tagPar ((Tab.get {} s.lines (seg * 65536 + off / 128)).tag * 128) s,
      Plan.act (.lines (seg * 65536 + off / 128) ((Tab.get {} s.lines (seg * 65536 + off / 128)).suspect (stored && tagPar))), markWord seg off (stored && !tagPar),
      rerunOrKill id i (inPlace s (s.job id) ((s.job id).stroke i))] s := by
  obtain ⟨hserves, hphase, hlives, hrunning, hnotRan, hsegment, hoffset, hused⟩ := hr
  unfold plateParityDetect
  dsimp only
  rw [if_pos ⟨hphase, by simp [hlives], hrunning, by simp [hnotRan], hsegment, hoffset, by simp [State.withdrawn, hused]⟩, if_pos hmode, if_neg (by simp [hvalid]), if_neg (by simp [hdirty])]
  rfl

include hs

/-- A stroke that may run again reads a bad word of scratch: it waits for its re-run, and a bit that has flipped in the array is marked (R149). -/
theorem exec_parity_again (hmode : s.mode (pgPS seg) ≠ 1) (hre : ((s.job id).stroke i).reRunnable (inPlace s (s.job id) ((s.job id).stroke i)) = true)
    (hfirst : ((s.job id).stroke i).rerun = false) :
    ∃ t, exec (.plateParityDetect id i seg off false stored) s = .next t ∧ ((t.job id).stroke i).rerun = true ∧ ((t.job id).stroke i).place = none ∧
      ((t.job id).stroke i).state ≠ .running ∧ (t.job id).rerun = true ∧ (t.job id).killed = none ∧
      t.badWords = (if stored then Tab.put false s.badWords ((plateBase + seg * segSize + off) / 4) true else s.badWords) ∧
      t.reg 0 pgPLT 0x110 = satAdd 0xFFFFFFFF (s.reg 0 pgPLT 0x110) 1 ∧ t.reg 0 pgPLT 0x114 = satAdd 0xFFFFFFFF (s.reg 0 pgPLT 0x114) 1 := by
  have hdetected := (plateDetect_detected hs seg off 0 (s.job id).fn ((s.job id).tableIndex i) (s.job id).part true false 0).marks (markWord_only seg off stored)
  obtain ⟨hrerun, hplace, hstate, hjob, hkilled, hwords, -, hcount, hreruns⟩ := rerunOrKill_waits hdetected hr.lives hr.running hre hfirst
  refine ⟨_, Plan.done_of_eq hr.serves (plateParityDetect_scratch hr stored hmode), ?_⟩
  simp only [Plan.run_seq_cons, Plan.run_seq_nil]
  refine ⟨hrerun, hplace, hstate, hjob, hkilled, hwords.trans ?_, hcount, hreruns⟩
  rw [markWord_badWords, (plateDetect_reports ..).same s (f := .badWords) (by decide)]

/-- A stroke that may not run again reads a bad word of scratch: its job ends (R149). -/
theorem exec_parity_faults (hmode : s.mode (pgPS seg) ≠ 1)
    (hlast : ((s.job id).stroke i).reRunnable (inPlace s (s.job id) ((s.job id).stroke i)) = false ∨ ((s.job id).stroke i).rerun = true) :
    ∃ t, exec (.plateParityDetect id i seg off false stored) s = .next t ∧ (t.job id).killed = some 0x31 ∧
      (s.cacheSegs = [] → t.reg 0 pgPLT 0x110 = satAdd 0xFFFFFFFF (s.reg 0 pgPLT 0x110) 1) := by
  have hdetected := (plateDetect_detected hs seg off 0 (s.job id).fn ((s.job id).tableIndex i) (s.job id).part true false 0).marks (markWord_only seg off stored)
  refine ⟨_, Plan.done_of_eq hr.serves (plateParityDetect_scratch hr stored hmode), ?_⟩
  simp only [Plan.run_seq_cons, Plan.run_seq_nil]
  exact rerunOrKill_faults hdetected hr.phase hr.lives hlast

/-- A clean line is invalidated, and the stroke goes on (R150). -/
theorem exec_parity_clean (tagPar : Bool) (hmode : s.mode (pgPS seg) = 1) (hvalid : (Tab.get {} s.lines (seg * 65536 + off / 128)).valid = true)
    (hclean : (Tab.get {} s.lines (seg * 65536 + off / 128)).dirty = false) :
    ∃ t, exec (.plateParityDetect id i seg off tagPar stored) s = .next t ∧ t.lines = Tab.put {} s.lines (seg * 65536 + off / 128) {} ∧ t.job id = s.job id ∧
      t.reg 0 pgPLT 0x110 = satAdd 0xFFFFFFFF (s.reg 0 pgPLT 0x110) 1 := by
  have hnote := plateDetect_detected hs seg off 0 (s.job id).fn ((s.job id).tableIndex i) (s.job id).part true tagPar ((Tab.get {} s.lines (seg * 65536 + off / 128)).tag * 128)
  have hdetected := hnote.marks (m := Plan.act (.lines (seg * 65536 + off / 128) {})) (Plan.only_act (by simp [Eff.field]))
  refine ⟨_, Plan.done_of_eq hr.serves (plateParityDetect_clean hr stored tagPar hmode hvalid hclean), ?_⟩
  rw [Plan.run_andThen]
  exact ⟨wordDetect_lines .., hdetected.job id, hdetected.count⟩

/-- A dirty line is marked, and its stroke waits for its re-run or ends its job (R150). -/
theorem exec_parity_dirty (tagPar : Bool) (hmode : s.mode (pgPS seg) = 1) (hvalid : (Tab.get {} s.lines (seg * 65536 + off / 128)).valid = true)
    (hdirty : (Tab.get {} s.lines (seg * 65536 + off / 128)).dirty = true) :
    ∃ u, exec (.plateParityDetect id i seg off tagPar stored) s = .next ((rerunOrKill id i (inPlace s (s.job id) ((s.job id).stroke i))).run u) ∧ Detected s u ∧
      u.lines = Tab.put {} s.lines (seg * 65536 + off / 128) ((Tab.get {} s.lines (seg * 65536 + off / 128)).suspect (stored && tagPar)) ∧
      u.badWords = (if stored && !tagPar then Tab.put false s.badWords ((plateBase + seg * segSize + off) / 4) true else s.badWords) := by
  have hnote := plateDetect_detected hs seg off 0 (s.job id).fn ((s.job id).tableIndex i) (s.job id).part true tagPar ((Tab.get {} s.lines (seg * 65536 + off / 128)).tag * 128)
  have hline : Plan.Only [.lines, .badWords] (Plan.act (.lines (seg * 65536 + off / 128) ((Tab.get {} s.lines (seg * 65536 + off / 128)).suspect (stored && tagPar)))) :=
    Plan.only_act (by simp [Eff.field])
  refine ⟨_, (Plan.done_of_eq hr.serves (plateParityDetect_dirty hr stored tagPar hmode hvalid hdirty)).trans ?_, (hnote.marks hline).marks (markWord_only seg off (stored && !tagPar)), ?_, ?_⟩
  · simp only [Plan.run_seq_cons, Plan.run_seq_nil]
    rfl
  · have hmark : Plan.Only [.badWords] (markWord seg off (stored && !tagPar)) := Plan.only_when (Plan.only_act (by simp [Eff.field]))
    refine (hmark.same _ (f := .lines) (by decide)).trans ?_
    exact wordDetect_lines ..
  · rw [markWord_badWords]
    have hwords : ∀ l, ((Plan.act (.lines (seg * 65536 + off / 128) l)).run ((plateDetect seg off 0 (s.job id).fn ((s.job id).tableIndex i) (s.job id).part true tagPar
        ((Tab.get {} s.lines (seg * 65536 + off / 128)).tag * 128)).run s)).badWords = s.badWords := fun l => (plateDetect_reports ..).same s (f := .badWords) (by decide)
    rw [hwords]

end

/-- Settles O38: a detection is counted and marked first; then the stroke waits for its re-run, or its job is killed, or a clean line goes. -/
theorem plateParity : Obligations.PlateParity := by
  unfold Obligations.PlateParity
  intro id i seg off stored s hs hserves hphase hlives hrunning hnotRan hsegment hoffset hused
  have hr : ReadsPlate id i seg off s := ⟨hserves, hphase, hlives, hrunning, hnotRan, hsegment, hoffset, hused⟩
  refine ⟨exec_parity_again hs hr stored, exec_parity_faults hs hr stored, exec_parity_clean hs hr stored, fun tagPar hmode hvalid hdirty hre hfirst => ?_,
    fun tagPar hmode hvalid hdirty hlast => ?_⟩
  · obtain ⟨u, hexec, hdetected, hlines, hwords⟩ := exec_parity_dirty hs hr stored tagPar hmode hvalid hdirty
    obtain ⟨-, -, -, hrerun, hkilled, hkeptWords, hkeptLines, hcount, -⟩ := rerunOrKill_waits hdetected hlives hrunning hre hfirst
    exact ⟨_, hexec, hkeptLines.trans hlines, hkeptWords.trans hwords, hrerun, hkilled, hcount⟩
  · obtain ⟨u, hexec, hdetected, -, -⟩ := exec_parity_dirty hs hr stored tagPar hmode hvalid hdirty
    exact ⟨_, hexec, (rerunOrKill_faults hdetected hphase hlives hlast).1⟩

end Sys2Proof.Machine
end

section
/-! Accesses that a unit makes for a stroke after its command (R139, R152, R155, R272): what they rest on, and how they are made. -/
namespace Sys2Proof.Machine

/-! ## What the answer to an access rests on -/

/-- The fields that the answer to an access of a job in plain memory rests on, but for where the partitions lie. -/
def answerFields : List Field := [.segs, .modeUnits, .unitMove, .claims, .jobs, .bases, .sessions, .pools, .regs, .poisoned, .lines, .badWords, .gddr]

/-- The second state answers accesses as the first. -/
structure Answers (F : List Field) (s t : State) : Prop where
  frame : s.SameBut F t
  apart : ∀ f ∈ answerFields, f ∉ F
  layout : LaidOut (fun p => (s.part p).place) t

/-- A plan that changes neither what accesses rest on nor the partitions. -/
theorem Plan.Only.answers {F : List Field} {p : Plan} (h : Plan.Only F p) (s : State) (hF : ∀ f ∈ answerFields, f ∉ F) (hp : Field.parts ∉ F) : Answers F s (p.run s) where
  frame := h.sameBut s
  apart := hF
  layout k := congrArg (fun t => (Tab.get ({} : Part) t k).place) (h.parts_eq s hp)

section
variable {F : List Field} {s t : State} (h : Answers F s t)
include h

theorem Answers.judge (p a n : Nat) : t.judge p false a n = s.judge p false a n :=
  judge_congr h.frame (h.apart _ (by decide)) (h.apart _ (by decide)) (h.apart _ (by decide)) h.layout p a n

theorem Answers.plain (hp : s.Plain) : t.Plain :=
  plain_congr h.frame (h.apart _ (by decide)) (h.apart _ (by decide)) (h.apart _ (by decide)) (h.apart _ (by decide)) (h.apart _ (by decide)) hp

theorem Answers.job (id : Nat) : t.job id = s.job id := congrArg (fun x => Tab.get ({} : Job) x id) (h.frame.2 .jobs (h.apart _ (by decide)) : t.jobs = s.jobs)

theorem Answers.foreign (stops : Bool) (a n : Nat) : t.foreign stops a n = s.foreign stops a n := by
  have hregs : t.regs = s.regs := h.frame.2 .regs (h.apart _ (by decide))
  have hreg : ∀ fn page off, t.reg fn page off = s.reg fn page off := fun fn page off => congrArg (fun x => (Tab.get (0 : Word) x (regKey fn page off)).toNat) hregs
  exact foreign_congr (h.frame.2 .bases (h.apart _ (by decide))) (h.frame.2 .sessions (h.apart _ (by decide))) (h.frame.2 .pools (h.apart _ (by decide))) (hreg ..) (hreg ..) (hreg ..) stops a n

theorem Answers.readable {id : Nat} {r : Nat × Nat} (hr : s.Readable id false r) : t.Readable id false r := by
  unfold State.Readable
  rw [h.job, h.judge]
  exact hr

theorem Answers.writable {id : Nat} {w : Nat × List Byte} (hw : s.Writable id false w) : t.Writable id false w where
  open_ := by rw [h.job, h.judge]; exact hw.open_
  own := by rw [h.job, h.foreign]; exact hw.own
  unclaimed := by
    have hclaims : t.claims = s.claims := h.frame.2 .claims (h.apart _ (by decide))
    unfold State.claimedByOther
    rw [hclaims]
    exact hw.unclaimed

end

/-! ## A stroke that faults -/

/-- The event of a stroke that faults (R361). -/
def faultEvent (s : State) (id i status check page : Nat) : EvArgs :=
  let j := s.job id
  { cls := 2, code := status, stroke := j.tableIndex i, part := j.part, charged := true, fn := j.fn, page := page, check := check }

theorem faultStroke_run (id i status check page : Nat) (s : State) : (faultStroke id i status check page).run s = (killJob id status).run ((event (faultEvent s id i status check page)).run s) :=
  Plan.run_andThen ..

/-- A stroke that faults ends its job. -/
theorem faultStroke_kills {s : State} (hs : s.Wf) {id : Nat} (i status check page : Nat) (hphase : (s.job id).phase ≠ .gone) (hlives : (s.job id).killed = none) :
    (((faultStroke id i status check page).run s).job id).killed = some status := by
  have hjob := (event_only (faultEvent s id i status check page)).job_eq s (by decide) id
  rw [faultStroke_run]
  exact killJob_first (Plan.run_wf hs _) id status (by rw [hjob]; exact hphase) (by rw [hjob]; exact hlives)

theorem KillSafe.faultStroke {I : State → Prop} (h : KillSafe I) (id i status check page : Nat) : Plan.Preserves I (faultStroke id i status check page) := fun s hs hI => by
  rw [faultStroke_run]
  exact h.killJob id status _ (Plan.run_wf hs _) (h.event _ s hs hI)

/-! ## Accesses that go through -/

/-- The accesses of a stroke are charged to its partition, and requested. -/
def State.requested (s : State) (p : Nat) (src : MemSrc) (reads : List (Nat × Nat)) (writes : List (Nat × List Byte)) : State :=
  (requestAll src reads writes).run ((chargeTo p (reads ++ writes.map (fun w => (w.1, w.2.length)))).run s)

theorem chargeTo_keepsPart {α : Type} {π : Part → α} (hπ : ∀ x : Part, ∀ b c, π { x with gddr := b, plate := c } = π x) (p k : Nat) (l : List (Nat × Nat)) :
    Plan.Keeps (fun s => π (s.part k)) (chargeTo p l) := by
  intro s hs
  rw [Plan.run_def]
  unfold chargeTo
  dsimp only
  split
  · refine (congrArg π (part_put hs p _ k)).trans ?_
    split
    next he => rw [he]; exact hπ _ _ _
    · rfl
  · rfl

section
variable {s : State} (hs : s.Wf) (p : Nat) (src : MemSrc) (reads : List (Nat × Nat)) (writes : List (Nat × List Byte))
include hs

theorem requested_wf : (s.requested p src reads writes).Wf := Plan.run_wf (Plan.run_wf hs _) _

omit hs in
theorem requested_frame : s.SameBut [.channels, .parts] (s.requested p src reads writes) :=
  ((chargeTo_parts p _).sameBut s).mono (by decide) |>.trans (((requestAll_only src reads writes).sameBut _).mono (by decide))

theorem requested_part {α : Type} {π : Part → α} (hπ : ∀ x : Part, ∀ b c, π { x with gddr := b, plate := c } = π x) (k : Nat) :
    π ((s.requested p src reads writes).part k) = π (s.part k) :=
  (congrArg (fun t => π (Tab.get ({} : Part) t k)) ((requestAll_only src reads writes).parts_eq _ (by decide))).trans (chargeTo_keepsPart hπ p k _ s hs)

theorem requested_answers : Answers [.channels, .parts] s (s.requested p src reads writes) :=
  ⟨requested_frame p src reads writes, by decide, fun k => requested_part hs p src reads writes (fun _ _ _ => rfl) k⟩

omit hs in
/-- Without a regulator in force nothing is charged. -/
theorem requested_unregulated (h : (s.part p).measure = true ∨ ((s.part p).gddr.rate = 0 ∧ (s.part p).plate.rate = 0)) :
    s.requested p src reads writes = (requestAll src reads writes).run s := by
  unfold State.requested
  rw [chargeTo_unregulated h]

end

theorem retryOf_none_of_not {s : State} {p : Nat} {l : List (Nat × Nat)} (h : ∀ r ∈ l, ∀ g, s.judge p false r.1 r.2 ≠ .retry g) : s.retryOf p false l = none := by
  rw [State.retryOf, List.findSome?_eq_none_iff]
  intro r hr
  split
  next g hg => exact absurd hg (h r hr g)
  · rfl

/-- Accesses that are granted are requested and made (R152, R155). -/
theorem withAccess_granted {s : State} {id i : Nat} {src : MemSrc} {reads : List (Nat × Nat)} {writes : List (Nat × List Byte)} (h : s.Granted id src reads writes) (go : Plan) :
    (withAccess id i src reads writes go).run s = go.run (s.requested (s.job id).part src reads writes) := by
  have hreads : s.retryOf (s.job id).part false reads = none := retryOf_none_of_not (fun r hr g => by
    rcases h.reads_open r hr with hopen | ⟨-, hnot⟩
    · rw [show s.judge (s.job id).part false r.1 r.2 = .ok from hopen]; simp
    · exact hnot g)
  have hwrites : s.retryOf (s.job id).part false (writes.map (fun w => (w.1, w.2.length))) = none := retryOf_ok (fun r hr => by
    obtain ⟨w, hw, rfl⟩ := List.mem_map.mp hr
    exact (h.writes_open w hw).open_)
  have hplan : withAccess id i src reads writes go s =
      Plan.seq [chargeTo (s.job id).part (reads ++ writes.map (fun w => (w.1, w.2.length))), requestAll src reads writes, go] s := by
    unfold withAccess
    have hheld : (!s.inPanic src && s.held (s.job id).part (reads ++ writes.map (fun w => (w.1, w.2.length)))) = false := by
      rcases h.notHeld with hpanic | hfree
      · simp [hpanic]
      · simp [hfree]
    simp only [h.running, h.alive, hreads, hwrites, h.noBurnish, hheld, reduceCtorEq, decide_false, Option.isSome_none, Bool.or_self, Bool.false_eq_true, if_false]
  rw [Plan.run_congr hplan, Plan.run_seq_cons, Plan.run_seq_cons, Plan.run_seq_cons, Plan.run_seq_nil]
  rfl

/-! ## The end of an operation -/

/-- An operation that has ended has run. -/
theorem endOp_ran {s : State} (hs : s.Wf) {id i : Nat} (hphase : (s.job id).phase = .running) (hi : i < (s.job id).strokes.length) :
    ((((endOp id i).run s).job id).stroke i).ran = true := by
  have hplan : endOp id i s = modStroke id i (fun t => { t with ran := true }) s := if_neg (by rw [hphase]; decide)
  rw [Plan.run_congr hplan, modStroke_job hs, if_pos rfl, stroke_modify, if_pos ⟨rfl, hi⟩]

/-- What a write of a stroke in plain memory changes. -/
theorem storeFor_frame (s : State) (id : Nat) (w : Nat × List Byte) : s.SameBut [.mem, .claims] (s.storeFor id w) := by
  unfold State.storeFor
  split
  · exact ((Plan.only_skip (F := [])).sameBut s).mono (by decide)
  · exact ⟨rfl, fun f hf => by cases f <;> first | rfl | exact absurd (by decide) hf⟩

theorem storeFor_mem (s : State) (id a : Nat) {bs : List Byte} : (s.storeFor id (a, bs)).mem = Tab.putList 0 s.mem a bs := by
  unfold State.storeFor
  split
  next h => rw [show bs = [] from h]; rfl
  · rfl

end Sys2Proof.Machine
end

section
/-! Events of a plate segment: the end of a burnish, the accesses that wait for it, and the cache window (R145, R152, R155). -/
namespace Sys2Proof.Machine

/-- A block under burnish ends as zeros, without claim and with good parity (R152). -/
theorem exec_plateBurnishDone {n b : Nat} {bs : List Nat} {s : State} (hserves : s.svc.halted = false) (hburnish : (s.seg n).burnish = b :: bs) :
    exec (.plateBurnishDone n) s = .next { s with
      mem := Tab.clear s.mem (plateBase + n * segSize + b * 0x10000) 0x10000
      badWords := Tab.clear s.badWords ((plateBase + n * segSize + b * 0x10000) / 4) 0x4000
      claims := Tab.put 0 s.claims (n * 128 + b) 0
      segs := Tab.put {} s.segs n { s.seg n with burnish := bs } } := by
  have hplan : plateBurnishDone n s = [.zero (plateBase + n * segSize + b * 0x10000) 0x10000, .badWordsClear ((plateBase + n * segSize + b * 0x10000) / 4) 0x4000,
      .claims (n * 128 + b) 0, .segs n { s.seg n with burnish := bs }] := by
    unfold plateBurnishDone
    simp only [hburnish]
  exact Plan.done_of_eq (p := plateBurnishDone n) (q := fun _ => _) hserves hplan

/-! ## Late accesses -/

theorem lateStroke_only (id i seg : Nat) : Plan.Only killFields (lateStroke id i seg) :=
  Plan.only_seq_cons ((raiseErr_only ..).mono (by decide)) (Plan.only_seq_cons ((bump_only ..).mono (by decide)) (Plan.only_seq_cons (faultStroke_only ..) Plan.only_seq_nil))

/-- An access that comes late is counted, and ends its job (R155). -/
theorem lateStroke_late {s : State} (hs : s.Wf) (id i seg : Nat) (hphase : (s.job id).phase = .running) (hlives : (s.job id).killed = none) :
    (((lateStroke id i seg).run s).job id).killed = some 0x30 ∧ PlateCount 0x118 (satAdd 0xFFFFFFFF (s.reg 0 pgPLT 0x118) 1) ((lateStroke id i seg).run s) := by
  have herr : Plan.Preserves (PlateCount 0x118 (s.reg 0 pgPLT 0x118)) (raiseErr (pgPS seg) 3 []) := raiseErr_keepsPlate (by decide) (by decide) _ _ _ _
  have hjob := (Plan.only_andThen (raiseErr_only (pgPS seg) 3 [] 0xFFFFFFFF) ((bump_only pgPLT 0x118 1).mono (by decide))).job_eq s (by decide) id
  rw [Plan.run_andThen] at hjob
  have hcount : PlateCount 0x118 (satAdd 0xFFFFFFFF (s.reg 0 pgPLT 0x118) 1) ((bump pgPLT 0x118 1).run ((raiseErr (pgPS seg) 3 []).run s)) :=
    (bump_counts (Plan.run_wf hs _) pgPLT 0x118).trans (congrArg (satAdd 0xFFFFFFFF · 1) (herr s hs rfl))
  have hwf := Plan.run_wf (Plan.run_wf hs (raiseErr (pgPS seg) 3 [])) (bump pgPLT 0x118 1)
  unfold lateStroke
  simp only [Plan.run_seq_cons, Plan.run_seq_nil]
  refine ⟨faultStroke_kills hwf i 0x30 0 _ ?_ ?_, (killSafe_plateCount (by decide) (by decide) (by decide) (by decide)).faultStroke id i 0x30 0 _ _ hwf hcount⟩
  · rw [hjob, hphase]; decide
  · rw [hjob, hlives]

/-! ## A write that waits -/

/-- The last write of a stroke, once its segment serves: it is requested and made, and the stroke has run (R155). -/
theorem lastWrite_goes {u : State} {id i a : Nat} {src : MemSrc} {bs : List Byte} (hphase : (u.job id).phase = .running) (hlives : (u.job id).killed = none) (hp : u.Plain)
    (hw : u.Writable id false (a, bs)) (hburnish : u.burnishOf [(a, bs)] = none)
    (hfree : (u.part (u.job id).part).measure = true ∨ ((u.part (u.job id).part).gddr.rate = 0 ∧ (u.part (u.job id).part).plate.rate = 0)) :
    (lastWrite id i src a bs).run u = (endOp id i).run (((requestAll src [] [(a, bs)]).run u).storeFor id (a, bs)) := by
  have hretry : u.retryOf (u.job id).part false [(a, bs.length)] = none := retryOf_ok (fun r hr => by
    obtain rfl := List.mem_singleton.mp hr
    exact hw.open_)
  have hplan : lastWrite id i src a bs u = Plan.seq [chargeTo (u.job id).part [(a, bs.length)], requestAll src [] [(a, bs)], strokeWrite id i false a bs, endOp id i] u := by
    unfold lastWrite
    simp only [hphase, hlives, hretry, hburnish, held_unregulated hfree, reduceCtorEq, decide_false, Option.isSome_none, Bool.or_self, Bool.false_eq_true, if_false]
    rfl
  have hanswers := (requestAll_only src [] [(a, bs)]).answers u (by decide) (by decide)
  rw [Plan.run_congr hplan, Plan.run_seq_cons, Plan.run_seq_cons, Plan.run_seq_cons, Plan.run_seq_cons, Plan.run_seq_nil, chargeTo_unregulated hfree,
    strokeWrite_plain (hanswers.plain hp) id i false (a, bs) (hanswers.writable hw) (by rw [hanswers.job]; exact hphase) (by rw [hanswers.job]; exact hlives)]

theorem lastWrite_written {u : State} (hu : u.Wf) {id i a : Nat} {bs : List Byte} (hi : i < (u.job id).strokes.length) (hphase : (u.job id).phase = .running) (hlives : (u.job id).killed = none)
    (hp : u.Plain) (hw : u.Writable id false (a, bs)) (hburnish : u.burnishOf [(a, bs)] = none)
    (hfree : (u.part (u.job id).part).measure = true ∨ ((u.part (u.job id).part).gddr.rate = 0 ∧ (u.part (u.job id).part).plate.rate = 0)) (src : MemSrc) :
    (let t := (lastWrite id i src a bs).run u
     t.mem = Tab.putList 0 u.mem a bs ∧ ((t.job id).stroke i).ran = true ∧ u.SameBut [.mem, .claims, .channels, .jobs] t) := by
  have hreq := requestAll_only src [] [(a, bs)]
  have hwf := Plan.run_wf hu (requestAll src [] [(a, bs)])
  have hjob := hreq.job_eq u (by decide) id
  have hmem := hreq.mem_eq u (by decide)
  have hframe := hreq.sameBut u
  rw [lastWrite_goes hphase hlives hp hw hburnish hfree]
  generalize (requestAll src [] [(a, bs)]).run u = v at hwf hjob hmem hframe
  have hstored := storeFor_frame v id (a, bs)
  have hkept : (v.storeFor id (a, bs)).job id = u.job id := (congrArg (fun x => Tab.get ({} : Job) x id) (hstored.2 .jobs (by decide))).trans hjob
  have hend := endOp_only id i
  refine ⟨?_, endOp_ran (storeFor_wf hwf id _) (by rw [hkept]; exact hphase) (by rw [hkept]; exact hi), ?_⟩
  · rw [hend.mem_eq _ (by decide), storeFor_mem, hmem]
  · exact (hframe.mono (by decide)).trans ((hstored.mono (by decide)).trans ((hend.sameBut _).mono (by decide)))

/-! ## PLATE_ACCESS_RETRY -/

/-- An access of a running stroke waits for its segment. -/
structure Waits (k : Nat) (r : RetryReq) (s : State) : Prop where
  serves : s.svc.halted = false
  waits : s.retries[k]? = some r
  phase : (s.job r.who.job).phase = .running
  lives : (s.job r.who.job).killed = none
  running : ((s.job r.who.job).stroke r.who.idx).state = .running

section
variable {k : Nat} {r : RetryReq} {s : State} (h : Waits k r s)
include h

theorem plateAccessRetry_eq : plateAccessRetry k s =
    (if (s.seg r.seg).power = .off then Plan.andThen (Plan.act (.retries (s.retries.eraseIdx k))) (lateStroke r.who.job r.who.idx r.seg) s
     else if s.segRetries r.seg then []
     else Plan.andThen (Plan.act (.retries (s.retries.eraseIdx k))) (Plan.when (r.data != []) (lastWrite r.who.job r.who.idx
       { cls := memClass ((s.job r.who.job).stroke r.who.idx).cls ((s.job r.who.job).stroke r.who.idx).op } r.addr r.data)) s) := by
  have hlt := stroke_lt (by rw [h.running]; decide : ((s.job r.who.job).stroke r.who.idx).state ≠ .waiting)
  unfold plateAccessRetry
  simp only [h.waits, h.phase, h.lives, h.running, Nat.not_le.mpr hlt, reduceCtorEq, decide_false, Option.isSome_none, Bool.or_self, Bool.false_eq_true, if_false, ne_eq, not_true_eq_false,
    Bool.and_false]

theorem exec_retry_goes (hdata : r.data = []) (hpower : (s.seg r.seg).power ≠ .off) (hready : s.segRetries r.seg = false) :
    exec (.plateAccessRetry k) s = .next { s with retries := s.retries.eraseIdx k } := by
  have hplan := (plateAccessRetry_eq h).trans ((if_neg hpower).trans (if_neg (by simp [hready])))
  refine (Plan.done_of_eq h.serves hplan).trans ?_
  rw [Plan.run_andThen, hdata]
  rfl

theorem exec_retry_waits (hpower : (s.seg r.seg).power ≠ .off) (hready : s.segRetries r.seg = true) : exec (.plateAccessRetry k) s = .next s := by
  exact Plan.done_of_eq (q := fun _ => []) h.serves ((plateAccessRetry_eq h).trans ((if_neg hpower).trans (if_pos hready)))

theorem exec_retry_late (hs : s.Wf) (hpower : (s.seg r.seg).power = .off) :
    ∃ t, exec (.plateAccessRetry k) s = .next t ∧ (t.job r.who.job).killed = some 0x30 ∧ t.retries = s.retries.eraseIdx k ∧
      t.reg 0 pgPLT 0x118 = satAdd 0xFFFFFFFF (s.reg 0 pgPLT 0x118) 1 := by
  have hgone := Plan.run_wf hs (Plan.act (.retries (s.retries.eraseIdx k)))
  obtain ⟨hkilled, hcount⟩ := lateStroke_late hgone r.who.job r.who.idx r.seg h.phase h.lives
  refine ⟨_, Plan.done_of_eq h.serves ((plateAccessRetry_eq h).trans (if_pos hpower)), ?_⟩
  rw [Plan.run_andThen]
  exact ⟨hkilled, (lateStroke_only ..).same _ (f := .retries) (by decide), hcount⟩

theorem exec_retry_writes (hs : s.Wf) (hdata : r.data ≠ []) (hpower : (s.seg r.seg).power ≠ .off) (hready : s.segRetries r.seg = false) (hp : s.Plain)
    (hw : s.Writable r.who.job false (r.addr, r.data)) (hburnish : s.burnishOf [(r.addr, r.data)] = none)
    (hfree : (s.part (s.job r.who.job).part).measure = true ∨ ((s.part (s.job r.who.job).part).gddr.rate = 0 ∧ (s.part (s.job r.who.job).part).plate.rate = 0)) :
    ∃ t, exec (.plateAccessRetry k) s = .next t ∧ t.mem = Tab.putList 0 s.mem r.addr r.data ∧ t.retries = s.retries.eraseIdx k ∧
      ((t.job r.who.job).stroke r.who.idx).ran = true ∧ s.SameBut [.mem, .claims, .channels, .retries, .jobs] t := by
  have hgone : Plan.Only [.retries] (Plan.act (.retries (s.retries.eraseIdx k))) := Plan.only_act (by simp [Eff.field])
  have hanswers := hgone.answers s (by decide) (by decide)
  have hlt := stroke_lt (by rw [h.running]; decide : ((s.job r.who.job).stroke r.who.idx).state ≠ .waiting)
  obtain ⟨hmem, hran, hframe⟩ := lastWrite_written (Plan.run_wf hs (Plan.act (.retries (s.retries.eraseIdx k)))) hlt h.phase h.lives (hanswers.plain hp) (hanswers.writable hw) hburnish hfree
    { cls := memClass ((s.job r.who.job).stroke r.who.idx).cls ((s.job r.who.job).stroke r.who.idx).op }
  refine ⟨_, Plan.done_of_eq h.serves ((plateAccessRetry_eq h).trans ((if_neg hpower).trans (if_neg (by simp [hready])))), ?_⟩
  rw [Plan.run_andThen, Plan.run_when, if_pos (by simp [hdata])]
  exact ⟨hmem, hframe.2 .retries (by decide), hran, ((hgone.sameBut s).mono (by decide)).trans (hframe.mono (by decide))⟩

end

/-- The window of a segment in scratch mode is taken, aligned to its size (R145). -/
theorem exec_psCacheBaseWrite {fn n v : Nat} {s : State} (hopen : s.Open fn) (hn : n < 34) (hused : (s.seg n).withdrawn = false) (hshows : s.shows fn (pgPS n) = true)
    (hmode : s.mode (pgPS n) = 0) (hpending : (s.modeUnit (pgPS n)).pending = 0) (hmin : 23 ≤ fld v 5 0) (hmax : fld v 5 0 ≤ 34)
    (halign : (fld v 31 23 * 2 ^ 23 + (s.seg n).windowHiStaged * 2 ^ 32) % 2 ^ fld v 5 0 = 0) :
    exec (.psCacheBaseWrite fn n v) s = .next { s with
      segs := Tab.put {} s.segs n { s.seg n with windowBase := fld v 31 23 * 2 ^ 23 + (s.seg n).windowHiStaged * 2 ^ 32, windowLog2 := fld v 5 0 } } := by
  have hwindow : s.windowOpen fn n = true := by simp [State.windowOpen, hn, hused, hshows, hmode, hpending]
  have hplan : psCacheBaseWrite fn n v s = [.segs n { s.seg n with windowBase := fld v 31 23 * 2 ^ 23 + (s.seg n).windowHiStaged * 2 ^ 32, windowLog2 := fld v 5 0 }] :=
    if_neg (by simpa [hwindow, Nat.not_lt.mpr hmin, Nat.not_lt.mpr hmax] using halign)
  exact exec_pageGate (q := Plan.act _) hopen hplan

/-- Settles O39: the burnish ends its block; a waiting access goes on, waits on, is made, or is late, as its segment stands; an aligned window is taken. -/
theorem plateEvents : Obligations.PlateEvents := by
  unfold Obligations.PlateEvents
  refine ⟨fun n b bs s hserves hburnish => exec_plateBurnishDone hserves hburnish, fun k r s hs hserves hwaits hphase hlives hrunning => ?_,
    fun fn n v s hopen hn hused hshows hmode hpending hmin hmax halign => exec_psCacheBaseWrite hopen hn hused hshows hmode hpending hmin hmax halign⟩
  have h : Waits k r s := ⟨hserves, hwaits, hphase, hlives, hrunning⟩
  exact ⟨exec_retry_goes h, exec_retry_writes h hs, exec_retry_waits h, exec_retry_late h hs⟩

end Sys2Proof.Machine
end

section
/-! What a write leaves to a read, and the strokes of the move engine (R138, R152, R155, R158). -/
namespace Sys2Proof.Machine

/-! ## What is read back where a write went -/

theorem segOf_mem_segsOf {a n k : Nat} (h : k < n) : segOf (a + k) ∈ segsOf a n := by
  have hlow : segOf a ≤ segOf (a + k) := Nat.div_le_div_right (by omega)
  have hhigh : segOf (a + k) ≤ segOf (a + n - 1) := Nat.div_le_div_right (by omega)
  exact List.mem_map.mpr ⟨segOf (a + k) - segOf a, List.mem_range.mpr (by omega), by omega⟩

theorem blockOf_seg {a : Nat} : blockOf a / 128 = segOf a := by
  unfold blockOf segOf segSize
  omega

section
variable {s : State} {p : Nat} {a : Nat} {bs : List Byte} {k : Nat}

/-- No segment of a plate range that is open is OFF, and none answers with a retry. -/
theorem judge_plate {host : Bool} {n : Nat} (hn : n ≠ 0) (hplate : regionOf a n = .plate) (hopen : s.judge p host a n = .ok) :
    firstSeg (segsOf a n) (fun g => decide ((s.seg g).power = .off)) = none ∧ firstSeg (segsOf a n) s.segRetries = none := by
  unfold State.judge at hopen
  rw [if_neg hn] at hopen
  -- The searches are made opaque: the kernel would else evaluate the segments of the range.
  generalize firstSeg (segsOf a n) (fun g => !s.segServes p g) = refusing at hopen
  generalize firstSeg (segsOf a n) (fun g => decide ((s.seg g).power = .off)) = off at hopen ⊢
  generalize firstSeg (segsOf a n) s.segRetries = retrying at hopen ⊢
  rw [hplate] at hopen
  cases refusing with
  | some g => exact absurd hopen (by simp)
  | none =>
    cases off with
    | some g => exact absurd hopen (by simp)
    | none =>
      cases retrying with
      | some g => exact absurd hopen (by simp)
      | none => exact ⟨rfl, rfl⟩

/-- A plate range that is open lies in segments that serve it. -/
theorem judge_plate_power {host : Bool} {n : Nat} (hplate : regionOf a n = .plate) (hopen : s.judge p host a n = .ok) (hk : k < n) :
    (s.seg (segOf (a + k))).power ≠ .off ∧ (s.seg (segOf (a + k))).power ≠ .waking := by
  obtain ⟨hoff, hretry⟩ := judge_plate (Nat.ne_zero_of_lt hk) hplate hopen
  have hnotOff := List.find?_eq_none.mp hoff _ (segOf_mem_segsOf hk)
  have hnotRetry := List.find?_eq_none.mp hretry _ (segOf_mem_segsOf hk)
  refine ⟨by simpa using hnotOff, fun hwaking => hnotRetry ?_⟩
  simp [State.segRetries, hwaking]

/-- A range that is written lies in no block under burnish. -/
theorem burnishOf_none (hplate : regionOf a bs.length = .plate) (hnone : s.burnishOf [(a, bs)] = none) (hk : k < bs.length) :
    (s.seg (segOf (a + k))).burnish.contains (blockOf (a + k) % 128) = false := by
  have hbs : bs ≠ [] := by rintro rfl; exact absurd hk (Nat.not_lt_zero _)
  have hlow : blockOf a ≤ blockOf (a + k) := Nat.div_le_div_right (by omega)
  have hhigh : blockOf (a + k) ≤ blockOf (a + bs.length - 1) := Nat.div_le_div_right (by omega)
  have hblocks := List.findSome?_eq_none_iff.mp hnone _ (List.mem_singleton.mpr rfl)
  rw [if_pos ⟨hplate, hbs⟩] at hblocks
  have hblock := List.findSome?_eq_none_iff.mp hblocks (blockOf (a + k))
    (List.mem_map.mpr ⟨blockOf (a + k) - blockOf a, List.mem_range.mpr (Nat.sub_lt_sub_right hlow (Nat.lt_succ_of_le hhigh)), Nat.sub_add_cancel hlow⟩)
  rw [blockOf_seg] at hblock
  by_contra hcontains
  rw [if_pos (by simpa using hcontains)] at hblock
  exact absurd hblock (by simp)

end

theorem bytesAt_length (s : State) (a n : Nat) : (s.bytesAt a n).length = n := by
  unfold State.bytesAt
  split
  · split
    · simp [Tab.getList]
    · simp
  · simp
  · simp
  · simp [Tab.getList]
  · simp [zeros]

/-- A byte of a plate segment that serves it is the one in the array. -/
theorem plateByte_serving {t : State} {a : Nat} (hoff : (t.seg (segOf a)).power ≠ .off) (hwaking : (t.seg (segOf a)).power ≠ .waking)
    (hburnish : (t.seg (segOf a)).burnish.contains (blockOf a % 128) = false) : t.plateByte a = Tab.get 0 t.mem a := by
  unfold State.plateByte
  dsimp only
  rw [hburnish]
  simp [hoff, hwaking]

/-- What is written in plain memory, where it may be, is read back (R138, R152, R154). -/
theorem bytesAt_written {s t : State} (hs : s.Wf) (hp : s.Plain) {p a : Nat} {host : Bool} {bs : List Byte} (hopen : s.judge p host a bs.length = .ok) (hburnish : s.burnishOf [(a, bs)] = none)
    (hmodes : t.modeUnits = s.modeUnits) (hsegs : t.segs = s.segs) (hmem : t.mem = Tab.putList 0 s.mem a bs) : t.bytesAt a bs.length = bs := by
  by_cases hn : bs.length = 0
  · rw [List.length_eq_zero_iff.mp hn]
    exact List.length_eq_zero_iff.mp (bytesAt_length t a 0)
  have hread : Tab.getList 0 t.mem a bs.length = bs := by rw [hmem, Tab.getList_putList bs a hs.mem]
  have hcache : t.cacheSegs = [] := (cacheSegs_congr hmodes).trans hp.noCache
  unfold State.bytesAt
  split
  · rw [hcache]; exact hread
  next hplate =>
    refine Eq.trans (List.map_congr_left (fun k hk => ?_)) hread
    have hlt := List.mem_range.mp hk
    obtain ⟨hoff, hwaking⟩ := judge_plate_power hplate hopen hlt
    have hseg := seg_congr hsegs
    exact plateByte_serving (by rw [hseg]; exact hoff) (by rw [hseg]; exact hwaking) (by rw [hseg]; exact burnishOf_none hplate hburnish hlt)
  next hlocal =>
    unfold State.judge at hopen
    rw [if_neg hn, hlocal] at hopen
    simp at hopen
  · exact hread
  next hnowhere =>
    unfold State.judge at hopen
    rw [if_neg hn, hnowhere] at hopen
    simp at hopen

/-! ## move.linear and move.fill -/

/-- An operation that makes one write and nothing else leaves its bytes in memory. -/
theorem carried_oneWrite (s : State) (id i : Nat) {o : OpOut} {a : Nat} {bs : List Byte} (hwrites : o.writes = [(a, bs)]) (hmore : o.more = Plan.skip) :
    (s.carried false id i o).mem = Tab.putList 0 s.mem a bs := by
  have hbegan : (s.began id i o).mem = s.mem := by rw [began_eq]
  show (o.more.run ((s.began id i o).storeAll id o.writes)).mem = _
  rw [hwrites, hmore, ← hbegan]
  exact storeFor_mem _ id a

theorem carried_frame_skip (s : State) (id i : Nat) {o : OpOut} (hmore : o.more = Plan.skip) : s.SameBut [.mem, .claims, .channels, .localMem, .fresh, .jobs] (s.carried false id i o) := by
  obtain ⟨m, c, ch, l, f, hover⟩ := begun_over s id i o
  have hbegun := over_frame s m c ch l f
  rw [← hover] at hbegun
  rw [State.carried, ← marked_eq, hmore]
  exact (hbegun.mono (by decide)).trans (((modStroke_only ..).sameBut _).mono (by decide))

theorem linearOp_moves {s : State} {j : Job} {t : Stroke} (hn : t.param ≠ 0) (hcheck : (linearOp s j t).check = none) :
    linearOp s j t = { reads := [(t.opnds.getD 0 0, t.param)], writes := [(t.opnds.getD 1 0, s.bytesAt (t.opnds.getD 0 0) t.param)], host := true, paths := [4] } := by
  unfold linearOp at hcheck ⊢
  dsimp only at hcheck ⊢
  rw [if_neg hn] at hcheck ⊢
  split at hcheck
  · simp at hcheck
  next h => rw [if_neg h]

/-- move.linear leaves at its destination what its source held, and nothing elsewhere (R158). -/
theorem exec_moveLinear {id i : Nat} {s : State} (h : s.Unhindered 0x04 0x02 id i linearOp) :
    ∃ t, exec (.moveLinear id i .ok) s = .next t ∧
      t.bytesAt (((s.job id).stroke i).opnds.getD 1 0) ((s.job id).stroke i).param = s.bytesAt (((s.job id).stroke i).opnds.getD 0 0) ((s.job id).stroke i).param ∧
      ∀ a, (a < ((s.job id).stroke i).opnds.getD 1 0 ∨ ((s.job id).stroke i).opnds.getD 1 0 + ((s.job id).stroke i).param ≤ a) → Tab.get 0 t.mem a = Tab.get 0 s.mem a := by
  have hexec : exec (.moveLinear id i .ok) s = .next (s.carried false id i (linearOp s (s.job id) ((s.job id).stroke i))) := by
    refine Eq.trans ?_ (runOp_done h)
    exact (Plan.done_of_eq h.serves (moveLinear_ok id i s)).trans (Plan.done_eq _ _ h.serves).symm
  refine ⟨_, hexec, ?_⟩
  by_cases hn : ((s.job id).stroke i).param = 0
  · have hbegan : ∀ o : OpOut, (s.began id i o).mem = s.mem := fun o => by rw [began_eq]
    have hop : linearOp s (s.job id) ((s.job id).stroke i) = {} := if_pos hn
    rw [hn, hop]
    refine ⟨(List.length_eq_zero_iff.mp (bytesAt_length _ _ 0)).trans (List.length_eq_zero_iff.mp (bytesAt_length _ _ 0)).symm, fun a _ => congrArg (Tab.get 0 · a) (hbegan {})⟩
  · have hop := linearOp_moves hn h.admits.passes
    have hadmits := h.admits
    have hmem : (s.carried false id i (linearOp s (s.job id) ((s.job id).stroke i))).mem = Tab.putList 0 s.mem (((s.job id).stroke i).opnds.getD 1 0)
        (s.bytesAt (((s.job id).stroke i).opnds.getD 0 0) ((s.job id).stroke i).param) := carried_oneWrite s id i (by rw [hop]) (by rw [hop])
    have hlen := bytesAt_length s (((s.job id).stroke i).opnds.getD 0 0) ((s.job id).stroke i).param
    rw [hop] at hadmits
    have hopen := (hadmits.writes _ (List.mem_singleton.mpr rfl)).open_
    have hframe := carried_frame_skip s id i (o := linearOp s (s.job id) ((s.job id).stroke i)) (by rw [hop])
    have hread := bytesAt_written h.wf hadmits.plain hopen hadmits.noBurnish (hframe.2 .modeUnits (by decide)) (hframe.2 .segs (by decide)) hmem
    rw [hlen] at hread
    refine ⟨hread, fun a ha => ?_⟩
    rw [hmem, Tab.get_putList _ _ h.wf.mem, if_neg (by rw [hlen]; omega)]

/-- The bytes of a pattern repeated. -/
theorem getD_replicate (pattern : List Byte) (hlen : 0 < pattern.length) : ∀ (m k : Nat), k < m * pattern.length →
    (List.replicate m pattern).flatten.getD k 0 = pattern.getD (k % pattern.length) 0
  | 0, k, hk => by omega
  | m + 1, k, hk => by
    rw [List.replicate_succ, List.flatten_cons]
    by_cases h : k < pattern.length
    · rw [List.getD_append _ _ _ _ h, Nat.mod_eq_of_lt h]
    · have hrest : k - pattern.length < m * pattern.length := by rw [Nat.succ_mul] at hk; omega
      rw [List.getD_append_right _ _ _ _ (Nat.le_of_not_lt h), getD_replicate pattern hlen m _ hrest, ← Nat.mod_eq_sub_mod (Nat.le_of_not_lt h)]

theorem fillOp_fills {s : State} {j : Job} {t : Stroke} (hn : t.param ≠ 0) (hcheck : (fillOp s j t).check = none) :
    t.param % 8 = 0 ∧ fillOp s j t = { writes := [(t.opnds.getD 0 0, (List.replicate (t.param / 8) (leBytes 8 (t.opnds.getD 1 0))).flatten)] } := by
  unfold fillOp at hcheck ⊢
  dsimp only at hcheck ⊢
  rw [if_neg hn] at hcheck ⊢
  split at hcheck
  · simp at hcheck
  next h =>
    rw [if_neg h]
    simp only [Bool.or_eq_true, bne_iff_ne, ne_eq, not_or, not_not] at h
    exact ⟨h.1, rfl⟩

/-- move.fill leaves its pattern in its range (R158). -/
theorem exec_moveFill {id i : Nat} {s : State} (h : s.Unhindered 0x04 0x03 id i fillOp) :
    ∃ t, exec (.moveFill id i) s = .next t ∧
      ∀ k, k < ((s.job id).stroke i).param →
        Tab.get 0 t.mem (((s.job id).stroke i).opnds.getD 0 0 + k) = (leBytes 8 (((s.job id).stroke i).opnds.getD 1 0)).getD (k % 8) 0 := by
  refine ⟨_, runOp_done h, fun k hk => ?_⟩
  obtain ⟨h8, hop⟩ := fillOp_fills (Nat.ne_zero_of_lt hk) h.admits.passes
  have hmem := carried_oneWrite s id i (o := fillOp s (s.job id) ((s.job id).stroke i)) (by rw [hop]) (by rw [hop])
  have hpattern := leBytes_length 8 (((s.job id).stroke i).opnds.getD 1 0)
  have hget := getD_replicate (leBytes 8 (((s.job id).stroke i).opnds.getD 1 0)) (by omega) (((s.job id).stroke i).param / 8) k (by rw [hpattern]; omega)
  have hlen : (List.replicate (((s.job id).stroke i).param / 8) (leBytes 8 (((s.job id).stroke i).opnds.getD 1 0))).flatten.length = ((s.job id).stroke i).param := by
    rw [List.length_flatten, List.map_replicate, List.sum_replicate_nat, hpattern]
    omega
  rw [hpattern] at hget
  rw [hmem, Tab.get_putList _ _ h.wf.mem, if_pos (by rw [hlen]; omega), Nat.add_sub_cancel_left, hget]

/-- The AER status of a read that fails (R32). -/
def noteAer : Plan := fun s => [.pcie { s.pcie with aerOther := true }]

theorem noteAer_only : Plan.Only [.pcie] noteAer := ⟨fun _ => EffsIn.one (by simp [Eff.field])⟩

/-- A read of host memory that fails is a violation, sets its AER status and ends the job (R32, R158). -/
theorem exec_moveLinear_fails {id i : Nat} {ans : HostAnswer} {s : State} (hs : s.Wf) (hserves : s.svc.halted = false) (hans : ans ≠ .ok) (hrun : s.runnable id i 0x04 0x02 = true)
    (hcheck : (linearOp s (s.job id) ((s.job id).stroke i)).check = none) (hn : ((s.job id).stroke i).param ≠ 0)
    (hhost : regionOf (((s.job id).stroke i).opnds.getD 0 0) ((s.job id).stroke i).param = .host) :
    ∃ t, exec (.moveLinear id i ans) s = .next t ∧ (t.job id).killed = some (if ans = .timeout then 0x32 else 0x30) ∧ t.pcie = { s.pcie with aerOther := true } ∧
      s.SameBut (.pcie :: killFields) t := by
  obtain ⟨hphase, hlives⟩ := runnable_running hrun
  have hplan : moveLinear id i ans s =
      Plan.seq [violation (s.job id).fn 0x0D (s.queueLocal (s.job id).queue), noteAer, killJob id (if ans = .timeout then 0x32 else 0x30)] s :=
    if_pos ⟨hans, hrun, by simp [hcheck], hn, hhost⟩
  have hviolation := violation_only (s.job id).fn 0x0D (s.queueLocal (s.job id).queue)
  have hkill := killJob_only id (if ans = .timeout then 0x32 else 0x30)
  refine ⟨_, Plan.done_of_eq hserves hplan, ?_⟩
  simp only [Plan.run_seq_cons, Plan.run_seq_nil]
  have hwf := Plan.run_wf (Plan.run_wf hs (violation (s.job id).fn 0x0D (s.queueLocal (s.job id).queue))) noteAer
  have hjob := (noteAer_only.job_eq _ (by decide) id).trans (hviolation.job_eq s (by decide) id)
  refine ⟨killJob_first hwf id _ (by rw [hjob, hphase]; decide) (by rw [hjob, hlives]), (hkill.pcie_eq _ (by decide)).trans ?_, ?_⟩
  · exact congrArg (fun x : Pcie => { x with aerOther := true }) (hviolation.pcie_eq s (by decide))
  · exact ((hviolation.sameBut s).mono (by decide)).trans (((noteAer_only.sameBut _).mono (by decide)).trans ((hkill.sameBut _).mono (by decide)))

/-! ## The cache operations -/

/-- Nothing is charged, and nothing held, for no access. -/
theorem held_nil (s : State) (p : Nat) : s.held p [] = false := by simp [State.held, State.holdsAt, State.chargesOf, Bucket.empty]

theorem Bucket.debit_zero (b : Bucket) : b.debit 0 = b := by
  unfold Bucket.debit
  split
  · rfl
  · simp

theorem chargeTo_nil {s : State} (hs : s.Wf) (p : Nat) : (chargeTo p []).run s = s := by
  have hput : Tab.put {} s.parts p (s.part p) = s.parts := Tab.ext_get (Tab.wf_put _ _ hs.parts) hs.parts (fun k => by
    rw [Tab.get_put hs.parts]
    split
    next h => rw [h]; rfl
    · rfl)
  have hpart : ({ s.part p with gddr := (s.part p).gddr.debit (s.chargesOf []).1, plate := (s.part p).plate.debit (s.chargesOf []).2 } : Part) = s.part p := by
    simp only [State.chargesOf, List.foldl_nil, Bucket.debit_zero]
  rw [Plan.run_def]
  unfold chargeTo
  dsimp only
  rw [hpart]
  split
  · show { s with parts := Tab.put {} s.parts p (s.part p) } = s
    rw [hput]
  · rfl

/-- The place of a stroke becomes its working space (R47). -/
def Stroke.enterPlace (t : Stroke) : Plan :=
  match t.place with
  | some pl => Plan.when (pl.localShare != []) (workSpace pl (t.cls == 0x01 && t.op == 0x20))
  | none => Plan.skip

theorem began_bare (s : State) (id i : Nat) : s.began id i {} = ((s.job id).stroke i).enterPlace.run s := began_run s id i {}

/-- An operation that makes no access of its own is carried out: its place becomes working space, and it does what it does (R47, R158). -/
theorem carryOut_bare {s : State} (hs : s.Wf) {id i : Nat} (m : Plan) {on : State → Bool} (fin : Plan) (hlives : (s.job id).killed = none) (hon : ∀ u : State, u.jobs = s.jobs → on u = true) :
    (carryOut id i { more := m } on fin).run s = fin.run (m.run (s.began id i {})) := by
  have hfires : ((s.job id).stroke i).place.bind (fun pl => s.firesOn pl []) = none := by
    cases ((s.job id).stroke i).place with
    | none => rfl
    | some pl => cases pl <;> simp [State.firesOn]
  have hjobs : (s.began id i {}).jobs = s.jobs := (began_frame_empty s id i (o := {}) rfl rfl rfl).2 .jobs (by decide)
  have hkilled : ((s.began id i {}).job id).killed = none := (congrArg (fun x => (Tab.get ({} : Job) x id).killed) hjobs).trans hlives
  have hstep : (carryOut id i { more := m } on fin).run s =
      (Plan.seq [((s.job id).stroke i).enterPlace, chargeTo (s.job id).part [], Plan.skip, Plan.skip,
        Plan.look (fun s1 => if !on s1 then Plan.skip else
          Plan.seq [Plan.skip, Plan.look (fun s2 => if (s2.job id).killed.isSome then Plan.skip else Plan.andThen m fin)])]).run s := by
    apply Plan.run_congr
    unfold carryOut
    simp only [State.retryOf, State.burnishOf, List.append_nil, List.map_nil, List.findSome?_nil, held_nil, hfires, Bool.false_eq_true, if_false]
    rfl
  rw [hstep]
  simp only [Plan.run_seq_cons, Plan.run_seq_nil, Plan.run_look]
  rw [chargeTo_nil (Plan.run_wf hs _), Plan.run_skip, Plan.run_skip, ← began_bare, hon _ hjobs]
  simp only [Bool.not_true, Bool.false_eq_true, if_false, Plan.run_seq_cons, Plan.run_seq_nil, Plan.run_look, Plan.run_skip, hkilled, Option.isSome_none, Plan.run_andThen]

/-- An instruction that carries out an operation on the cache lines of a range, of which it makes nothing where there is none. -/
structure CacheOp (x : (Nat → Nat → Instr) × Nat × (List Nat → Plan)) : Prop where
  exec : ∀ id i s, exec (x.1 id i) s = Plan.done (cacheStroke x.2.1 id i x.2.2) s
  none : x.2.2 [] = Plan.skip
  only : ∀ l, Plan.Only gddrFields (x.2.2 l)

theorem prefetchLines_only (l : List Nat) : Plan.Only gddrFields (prefetchLines l) := by
  refine Plan.only_each (fun a => ⟨fun s => ?_⟩)
  split
  · exact EffsIn.nil
  · exact (bringLine_only ..).effs s

theorem flushLines_only (l : List Nat) : Plan.Only gddrFields (flushLines l) := by
  refine Plan.only_each (fun a => ⟨fun s => ?_⟩)
  split
  · exact EffsIn.nil
  · exact (writeBack_only _).effs s

theorem evictLines_only (l : List Nat) : Plan.Only gddrFields (evictLines l) := by
  refine Plan.only_each (fun a => ⟨fun s => ?_⟩)
  split
  · exact EffsIn.nil
  · exact (Plan.only_andThen (writeBack_only _) (Plan.only_act (by simp [Eff.field, gddrFields]))).effs s

theorem cacheOps_all : ∀ x ∈ cacheOps, CacheOp x := by
  simp only [cacheOps, List.forall_mem_cons]
  exact ⟨⟨fun _ _ _ => rfl, rfl, prefetchLines_only⟩, ⟨fun _ _ _ => rfl, rfl, flushLines_only⟩, ⟨fun _ _ _ => rfl, rfl, evictLines_only⟩, fun _ h => absurd h List.not_mem_nil⟩

section
variable {s : State} {op id i : Nat} {f : List Nat → Plan} (hrun : s.runnable id i 0x04 op = true) (hretry : s.hasRetry id i = false)
include hrun hretry

/-- An operation on cache lines is carried out. -/
theorem runOp_cacheOp (hs : s.Wf) (hnone : f [] = Plan.skip)
    (hrange : ((s.job id).stroke i).param = 0 ∨ moveRangeOk s (s.job id).part false (((s.job id).stroke i).opnds.getD 0 0) ((s.job id).stroke i).param = true) :
    (runOp 0x04 op id i (cacheOp f)).run s =
      State.marked ((f (linesOf (((s.job id).stroke i).opnds.getD 0 0) ((s.job id).stroke i).param)).run (s.began id i {})) false id i := by
  have hop : cacheOp f s (s.job id) ((s.job id).stroke i) = { more := f (linesOf (((s.job id).stroke i).opnds.getD 0 0) ((s.job id).stroke i).param) } := by
    unfold cacheOp
    dsimp only
    by_cases hn : ((s.job id).stroke i).param = 0
    · rw [if_pos hn, linesOf, if_pos hn, hnone]
    · rw [if_neg hn, hrange.resolve_left hn]
      rfl
  have hplan : runOp 0x04 op id i (cacheOp f) s = carryOut id i { more := f (linesOf (((s.job id).stroke i).opnds.getD 0 0) ((s.job id).stroke i).param) }
      (fun s1 => s1.runnable id i 0x04 op) (modStroke id i (fun t => if false then { t with begun := true } else { t with ran := true })) s := by
    unfold runOp runOpWith
    rw [if_neg (by simp [hrun, hretry]), hop]
  rw [Plan.run_congr hplan, carryOut_bare hs _ _ (runnable_running hrun).2, marked_eq]
  intro u hu
  have hjob : u.job id = s.job id := congrArg (fun x => Tab.get ({} : Job) x id) hu
  simp only [State.runnable, hjob] at hrun ⊢
  exact hrun

theorem cacheStroke_inRange (hrange : moveRangeOk s (s.job id).part false (((s.job id).stroke i).opnds.getD 0 0) ((s.job id).stroke i).param = true) :
    cacheStroke op id i f s =
      (match s.servingSeg (linesOf (((s.job id).stroke i).opnds.getD 0 0) ((s.job id).stroke i).param) (fun g => decide ((s.seg g).power = .off)) with
       | some g => lateStroke id i g s
       | none =>
         match s.servingSeg (linesOf (((s.job id).stroke i).opnds.getD 0 0) ((s.job id).stroke i).param) s.segRetries with
         | some g => addRetry id i (g, ((s.job id).stroke i).opnds.getD 0 0, ((s.job id).stroke i).param) false s
         | none => runOp 0x04 op id i (cacheOp f) s) := by
  unfold cacheStroke
  dsimp only
  rw [hrun, hretry, hrange]
  rfl

end

theorem moveRangeOk_zero (s : State) (p a : Nat) : moveRangeOk s p false a 0 = true := by simp [moveRangeOk, State.judge]

section
variable {x : (Nat → Nat → Instr) × Nat × (List Nat → Plan)} {s : State} {id i : Nat} (hx : CacheOp x) (hs : s.Wf) (hserves : s.svc.halted = false)
  (hrun : s.runnable id i 0x04 x.2.1 = true) (hretry : s.hasRetry id i = false)
include hx hs hserves hrun hretry

/-- An operation whose lines are all served acts on them (R158). -/
theorem exec_cacheOp_acts
    (h : ((s.job id).stroke i).param = 0 ∨ (moveRangeOk s (s.job id).part false (((s.job id).stroke i).opnds.getD 0 0) ((s.job id).stroke i).param = true ∧
      s.servingSeg (linesOf (((s.job id).stroke i).opnds.getD 0 0) ((s.job id).stroke i).param) (fun g => decide ((s.seg g).power = .off)) = none ∧
      s.servingSeg (linesOf (((s.job id).stroke i).opnds.getD 0 0) ((s.job id).stroke i).param) s.segRetries = none)) :
    ∃ t, exec (x.1 id i) s = .next t ∧
      t = State.marked ((x.2.2 (linesOf (((s.job id).stroke i).opnds.getD 0 0) ((s.job id).stroke i).param)).run (s.began id i {})) false id i ∧
      s.SameBut ([.jobs, .localMem, .fresh] ++ gddrFields) t := by
  have hplan : cacheStroke x.2.1 id i x.2.2 s = runOp 0x04 x.2.1 id i (cacheOp x.2.2) s := by
    rcases h with hn | ⟨hrange, hoff, hmoving⟩
    · rw [cacheStroke_inRange hrun hretry (by rw [hn]; exact moveRangeOk_zero ..), hn]
      rfl
    · rw [cacheStroke_inRange hrun hretry hrange, hoff, hmoving]
  refine ⟨_, (hx.exec id i s).trans (Plan.done_of_eq hserves hplan), runOp_cacheOp hrun hretry hs hx.none (h.imp_right And.left), ?_⟩
  rw [runOp_cacheOp hrun hretry hs hx.none (h.imp_right And.left), ← marked_eq]
  exact ((began_frame_empty s id i rfl rfl rfl).mono (by decide)).trans ((((hx.only _).sameBut _).mono (by decide)).trans (((modStroke_only ..).sameBut _).mono (by decide)))

theorem exec_cacheOp_late (hrange : moveRangeOk s (s.job id).part false (((s.job id).stroke i).opnds.getD 0 0) ((s.job id).stroke i).param = true)
    (hoff : s.servingSeg (linesOf (((s.job id).stroke i).opnds.getD 0 0) ((s.job id).stroke i).param) (fun g => decide ((s.seg g).power = .off)) ≠ none) :
    ∃ t, exec (x.1 id i) s = .next t ∧ (t.job id).killed = some 0x30 := by
  obtain ⟨g, hg⟩ := Option.ne_none_iff_exists'.mp hoff
  have hplan : cacheStroke x.2.1 id i x.2.2 s = lateStroke id i g s := by rw [cacheStroke_inRange hrun hretry hrange, hg]
  obtain ⟨hphase, hlives⟩ := runnable_running hrun
  exact ⟨_, (hx.exec id i s).trans (Plan.done_of_eq hserves hplan), (lateStroke_late hs id i g hphase hlives).1⟩

omit hs in
theorem exec_cacheOp_waits {g : Nat} (hrange : moveRangeOk s (s.job id).part false (((s.job id).stroke i).opnds.getD 0 0) ((s.job id).stroke i).param = true)
    (hoff : s.servingSeg (linesOf (((s.job id).stroke i).opnds.getD 0 0) ((s.job id).stroke i).param) (fun g => decide ((s.seg g).power = .off)) = none)
    (hmoving : s.servingSeg (linesOf (((s.job id).stroke i).opnds.getD 0 0) ((s.job id).stroke i).param) s.segRetries = some g) :
    exec (x.1 id i) s = .next { s with retries := s.retries ++ [{ who := { job := id, idx := i }, seg := g, isWrite := false, addr := ((s.job id).stroke i).opnds.getD 0 0 }] } := by
  have hplan : cacheStroke x.2.1 id i x.2.2 s = addRetry id i (g, ((s.job id).stroke i).opnds.getD 0 0, ((s.job id).stroke i).param) false s := by
    rw [cacheStroke_inRange hrun hretry hrange, hoff, hmoving]
  exact (hx.exec id i s).trans (Plan.done_of_eq hserves hplan)

end

/-- Settles O35: the two copies are operations that nothing hinders, whose write is read back; a cache operation acts on its lines, or its serving segments make it late or wait. -/
theorem moveStrokes : Obligations.MoveStrokes := by
  unfold Obligations.MoveStrokes
  refine ⟨fun id i s h => exec_moveLinear h, fun id i s h => exec_moveFill h, fun id i ans s hs hserves hans hrun hcheck hn hhost => exec_moveLinear_fails hs hserves hans hrun hcheck hn hhost,
    fun x hmem id i s hs hserves hrun hretry => ?_⟩
  have hx := cacheOps_all x hmem
  exact ⟨exec_cacheOp_acts hx hs hserves hrun hretry, fun ⟨hrange, hoff⟩ => exec_cacheOp_late hx hs hserves hrun hretry hrange hoff,
    fun g ⟨hrange, hoff, hmoving⟩ => exec_cacheOp_waits hx hserves hrun hretry hrange hoff hmoving⟩

end Sys2Proof.Machine
end

section
/-! Packets on their way: what sending, serving and refusing one can change (R313, R317-R319, R325). -/
namespace Sys2Proof.Machine

/-! ## Serving and sending -/

theorem modPort_only (p : Nat) (f : Port → Port) : Plan.Only [.ports] (modPort p f) := ⟨fun _ => EffsIn.one (by simp [Eff.field])⟩

theorem freePacket_only (k : Packet) : Plan.Only [.ports] (freePacket k) := by
  unfold freePacket
  split
  · exact Plan.only_skip
  · exact modPort_only _ _

theorem servePacket_only (p : Nat) (k : Packet) : Plan.Only [.ports] (servePacket p k) := Plan.only_andThen (modPort_only _ _) (freePacket_only k)

/-- A plan that changes ports, and partitions in what their links may carry. -/
structure Plan.Sends (p : Plan) : Prop where
  only : Plan.Only [.ports, .parts] p
  part : ∀ {α : Type} (π : Part → α), (∀ x b, π { x with link := b } = π x) → ∀ k, Plan.Keeps (fun s => π (s.part k)) p

theorem Plan.Only.sends {F : List Field} {p : Plan} (h : Plan.Only F p) (hF : F ⊆ [.ports, .parts]) (hp : Field.parts ∉ F) : p.Sends where
  only := h.mono hF
  part π _ k s _ := congrArg (fun t => π (Tab.get ({} : Part) t k)) (h.parts_eq s hp)

theorem sends_andThen {p q : Plan} (hp : p.Sends) (hq : q.Sends) : (Plan.andThen p q).Sends :=
  ⟨Plan.only_andThen hp.only hq.only, fun π hπ k => Plan.keeps_andThen (P := fun s => π (s.part k)) (hp.part π hπ k) (hq.part π hπ k)⟩

theorem sends_skip : Plan.skip.Sends := ⟨Plan.only_skip, fun _ _ _ => Plan.keeps_skip⟩

theorem sends_each {α : Type} {f : α → Plan} (h : ∀ x, (f x).Sends) (xs : List α) : (Plan.each xs f).Sends :=
  ⟨Plan.only_each (fun x => (h x).only), fun π hπ k => Plan.keeps_each (P := fun s => π (s.part k)) (fun x => (h x).part π hπ k)⟩

/-- A plan that looks at the state first. -/
theorem Plan.Sends.of_eq {p : Plan} (h : ∀ s, ∃ q : Plan, q.Sends ∧ p s = q s) : p.Sends where
  only := ⟨fun s => by obtain ⟨q, hq, he⟩ := h s; rw [he]; exact hq.only.effs s⟩
  part π hπ k s hs := by
    obtain ⟨q, hq, he⟩ := h s
    rw [Plan.run_congr he]
    exact hq.part π hπ k s hs

/-- What a link bucket is debited or holds. -/
theorem linkBucket_sends (s : State) (c : Bool) (n : Nat) (b : Bucket) : ∃ q : Plan, q.Sends ∧ Plan.when c (Plan.act (.parts n { s.part n with link := b })) s = q s := by
  refine ⟨Plan.when c (fun s => [.parts n { s.part n with link := b }]), ⟨Plan.only_when ⟨fun _ => EffsIn.one (by simp [Eff.field])⟩, fun π hπ k => Plan.keeps_when (fun u hu => ?_)⟩, ?_⟩
  · refine (congrArg π (part_put hu n _ k)).trans ?_
    split
    next h => rw [hπ, h]
    · rfl
  · cases c <;> rfl

theorem Plan.andThen_eq {p p' q : Plan} {s : State} (h : p s = p' s) : Plan.andThen p q s = Plan.andThen p' q s := by simp only [Plan.andThen, h]

theorem act_ports_sends (p : Nat) (x : Port) : (Plan.act (.ports p x)).Sends := (Plan.only_act (F := [.ports]) (by simp [Eff.field])).sends (by decide) (by decide)

theorem transmit_sends (p : Nat) (k : Packet) : (transmit p k).Sends := by
  refine Plan.Sends.of_eq (fun s => ?_)
  obtain ⟨q, hq, he⟩ := linkBucket_sends s (!(s.part k.vc).measure && (s.part k.vc).link.rate != 0) k.vc ((s.part k.vc).link.debit (16 * k.units))
  refine ⟨_, ?_, Plan.andThen_eq he⟩
  refine sends_andThen hq (sends_andThen ?_ (sends_andThen ((freePacket_only k).sends (by decide) (by decide)) sends_skip))
  split
  · exact act_ports_sends _ _
  · exact act_ports_sends _ _

theorem sendOn_sends (p : Nat) (k : Packet) : (sendOn p k).Sends := by
  refine Plan.Sends.of_eq (fun s => ?_)
  unfold sendOn
  dsimp only
  split
  · exact ⟨_, transmit_sends p k, rfl⟩
  · obtain ⟨q, hq, he⟩ := linkBucket_sends s (!forwarded s k && !(s.part k.vc).measure && (s.part k.vc).link.empty (16 * k.units)) k.vc { (s.part k.vc).link with held := true }
    exact ⟨_, sends_andThen hq (act_ports_sends p _), Plan.andThen_eq he⟩

theorem answerPacket_sends (k : Packet) (status : Nat) (data : List Byte) : (answerPacket k status data).Sends := by
  refine Plan.Sends.of_eq (fun s => ?_)
  unfold answerPacket
  split
  · exact ⟨Plan.skip, sends_skip, rfl⟩
  · exact ⟨_, sendOn_sends _ _, rfl⟩

theorem collSend_sends (c : Coll) (dir step chunk : Nat) (data : List Byte) : (collSend c dir step chunk data).Sends :=
  Plan.Sends.of_eq (fun _ => ⟨_, sends_each (fun _ => sendOn_sends _ _) _, rfl⟩)

/-! ## Violations -/

theorem linkViolation_only (p code : Nat) : Plan.Only reportFields (linkViolation p code) :=
  ⟨fun s => (Plan.only_seq_cons ((setReg_only ..).mono (by decide)) (Plan.only_seq_cons ((raiseErr_only ..).mono (by decide)) (Plan.only_seq_cons (event_only _) Plan.only_seq_nil))).effs s⟩

/-- The latest violation of a partner shows its code (R325). -/
theorem linkViolation_code {s : State} (hs : s.Wf) (p : Nat) {code : Nat} (hcode : code < 256) : ((linkViolation p code).run s).reg 0 (pgU p) 0x110 % 256 = code := by
  have hraise : Plan.KeepsReg (regKey 0 (pgU p) 0x110) (raiseErr (pgU p) 3 []) := raiseErr_keepsReg (fun _ _ _ => by unfold regKey; omega) _ _ _
  have hevent : Plan.KeepsReg (regKey 0 (pgU p) 0x110) (event { cls := 6, code := code, page := pgU p, detail := leBytes 1 p }) :=
    event_keepsReg (fun _ _ _ => by unfold regKey pgEVT; omega) _
  have hplan : linkViolation p code s = Plan.seq [setReg 0 (pgU p) 0x110 (satAdd 0xFFFFFF (fld (s.reg 0 (pgU p) 0x110) 31 8) 1 * 256 + code), raiseErr (pgU p) 3 [],
      event { cls := 6, code := code, page := pgU p, detail := leBytes 1 p }] s := rfl
  have hcount := satAdd_le 0xFFFFFF (fld (s.reg 0 (pgU p) 0x110) 31 8) 1
  rw [Plan.run_congr hplan, Plan.run_seq_cons, Plan.run_seq_cons, Plan.run_seq_cons, Plan.run_seq_nil, hevent.reg (Plan.run_wf (Plan.run_wf hs _) _), hraise.reg (Plan.run_wf hs _), setReg_value hs]
  omega

end Sys2Proof.Machine
end

section
/-! Remote operations that a node serves: WRITE, READ and SEM, refused, late, waiting, or carried out (R152, R155, R321). -/
namespace Sys2Proof.Machine

/-! ## Operations that are not served -/

/-- A refused operation is a violation with code 5, and leaves memory as it is (R321, R325). -/
def RefusedRemote (p : Nat) (s t : State) : Prop := t.reg 0 (pgU p) 0x110 % 256 = 5 ∧ t.mem = s.mem

theorem refuseRemote_refuses {s : State} (hs : s.Wf) (p : Nat) (k : Packet) : RefusedRemote p s ((refuseRemote p k).run s) := by
  have hanswer := (answerPacket_sends k 1 []).only
  have hviolation := linkViolation_only p 5
  unfold refuseRemote
  simp only [Plan.run_seq_cons, Plan.run_seq_nil]
  refine ⟨?_, ?_⟩
  · rw [hanswer.reg_eq _ (by decide)]
    exact linkViolation_code (Plan.run_wf hs _) p (by decide)
  · rw [hanswer.mem_eq _ (by decide), hviolation.mem_eq _ (by decide), (servePacket_only p k).mem_eq s (by decide)]

theorem lateRemote_refuses {s : State} (hs : s.Wf) (p seg : Nat) (k : Packet) : RefusedRemote p s ((lateRemote p seg k).run s) := by
  have hreport : Plan.Only reportFields (Plan.seq [raiseErr (pgPS seg) 3 [], bump pgPLT 0x118 1,
      event { cls := 2, code := 0x30, part := k.vc, charged := true, fn := (s.part k.vc).fn, page := pgPS seg }]) :=
    Plan.only_seq_cons ((raiseErr_only ..).mono (by decide)) (Plan.only_seq_cons ((bump_only ..).mono (by decide)) (Plan.only_seq_cons (event_only _) Plan.only_seq_nil))
  have hmem := hreport.mem_eq s (by decide)
  have hplan : lateRemote p seg k s = Plan.seq [raiseErr (pgPS seg) 3 [], bump pgPLT 0x118 1,
      event { cls := 2, code := 0x30, part := k.vc, charged := true, fn := (s.part k.vc).fn, page := pgPS seg }, refuseRemote p k] s := rfl
  rw [Plan.run_congr hplan]
  simp only [Plan.run_seq_cons, Plan.run_seq_nil] at hmem ⊢
  obtain ⟨hcode, hkept⟩ := refuseRemote_refuses (Plan.run_wf (Plan.run_wf (Plan.run_wf hs (raiseErr (pgPS seg) 3 [])) (bump pgPLT 0x118 1))
    (event { cls := 2, code := 0x30, part := k.vc, charged := true, fn := (s.part k.vc).fn, page := pgPS seg })) p k
  exact ⟨hcode, hkept.trans hmem⟩

section
variable {s : State} {p n : Nat} {k : Packet} {isWrite : Bool} {go : Nat → Plan}

/-- A WRITE or READ that may not be served, or comes late, is refused. -/
theorem serveRemote_refuses (hs : s.Wf) {g : Option Nat} (h : (remoteRange s k.vc k.addr n).2 = .refused g ∨ ∃ x, g = some x ∧ (remoteRange s k.vc k.addr n).2 = .late x) :
    RefusedRemote p s ((serveRemote p k n isWrite go).run s) := by
  rcases h with h | ⟨x, -, h⟩
  · have hplan : serveRemote p k n isWrite go s = refuseRemote p k s := by simp only [serveRemote, h]
    rw [Plan.run_congr hplan]
    exact refuseRemote_refuses hs p k
  · have hplan : serveRemote p k n isWrite go s = lateRemote p x k s := by simp only [serveRemote, h]
    rw [Plan.run_congr hplan]
    exact lateRemote_refuses hs p x k

/-- One that meets a segment in transition waits. -/
theorem serveRemote_waits {g : Nat} (h : (remoteRange s k.vc k.addr n).2 = .retry g) : serveRemote p k n isWrite go s = [] := by simp only [serveRemote, h]

/-- One that is served meets no block under burnish. -/
theorem serveRemote_goes (h : (remoteRange s k.vc k.addr n).2 = .ok) (hburnish : isWrite = true → s.burnishOf [((remoteRange s k.vc k.addr n).1, zeros n)] = none) :
    serveRemote p k n isWrite go s = go (remoteRange s k.vc k.addr n).1 s := by
  simp only [serveRemote, h]
  refine if_neg ?_
  cases isWrite with
  | true => simp [hburnish rfl]
  | false => simp

end

/-! ## WRITE and READ -/

/-- A remote request that no regulator holds reaches its channel (R272). -/
theorem chargeRemote_free {s : State} {vc : Nat} (hfree : (s.part vc).measure = true ∨ ((s.part vc).gddr.rate = 0 ∧ (s.part vc).plate.rate = 0)) (isWrite : Bool) (a n : Nat) (go : Plan) :
    (chargeRemote vc isWrite a n go).run s = go.run ((memRequests { cls := 7 } isWrite a n).run s) := by
  have hplan : chargeRemote vc isWrite a n go s = Plan.seq [chargeTo vc [(a, n)], memRequests { cls := 7 } isWrite a n, go] s := if_neg (by simp [held_unregulated hfree])
  rw [Plan.run_congr hplan, Plan.run_seq_cons, Plan.run_seq_cons, Plan.run_seq_cons, Plan.run_seq_nil, chargeTo_unregulated hfree]

/-- A store in plain memory. -/
theorem plainStore_run {s : State} (hp : s.Plain) (a n : Nat) (bs : List Byte) :
    Plan.run (if regionOf a n = .gddr then gddrStore 0 a bs else plateStore a bs) s = { s with mem := Tab.putList 0 s.mem a bs } := by
  have hplan : (if regionOf a n = .gddr then gddrStore 0 a bs else plateStore a bs) s = [.store a bs] := by
    split
    · exact gddrStore_plain hp 0 a bs
    · exact plateStore_plain hp.noBad a bs
  rw [Plan.run_congr (q := fun _ => [.store a bs]) hplan]
  rfl

/-- What a WRITE in plain memory, that nothing holds, comes to. -/
def State.written (s : State) (p : Nat) (k : Packet) (a n : Nat) : State :=
  (answerPacket k 0 []).run { (servePacket p k).run ((memRequests { cls := 7 } true a n).run s) with mem := Tab.putList 0 s.mem a (k.data.take n) }

/-- What a READ in plain memory, that nothing holds, comes to. -/
def State.readBy (s : State) (p : Nat) (k : Packet) (a : Nat) : State :=
  (answerPacket k 0 (s.bytesAt a k.want)).run ((servePacket p k).run ((memRequests { cls := 7 } false a k.want).run s))

section
variable {p : Nat} {k : Packet} {s : State}

/-- A WRITE is a remote operation that, where nothing hinders it, stores its data (R321). -/
theorem remoteWrite_serves (hnext : nextOf (s.port p).inbox (fun k => k.typ == 1) = some k) : ∃ go, remoteWrite p s = serveRemote p k (k.data.length - k.pad) true go s ∧
    ∀ a, s.Plain → ((s.part k.vc).measure = true ∨ ((s.part k.vc).gddr.rate = 0 ∧ (s.part k.vc).plate.rate = 0)) → s.foreign false a (k.data.length - k.pad) = none →
      (go a).run s = s.written p k a (k.data.length - k.pad) := by
  unfold remoteWrite
  rw [hnext]
  refine ⟨_, rfl, fun a hp hfree hforeign => ?_⟩
  rw [Plan.run_def]
  simp only [hforeign]
  rw [← Plan.run_def, chargeRemote_free hfree]
  have hanswers := (memRequests_only { cls := 7 } true a (k.data.length - k.pad)).answers s (by decide) (by decide)
  have hmem := (memRequests_only { cls := 7 } true a (k.data.length - k.pad)).mem_eq s (by decide)
  unfold State.written
  generalize (memRequests { cls := 7 } true a (k.data.length - k.pad)).run s = u at hanswers hmem
  have hplain := hanswers.plain hp
  have hserved := (servePacket_only p k).answers u (by decide) (by decide)
  rw [Plan.run_def]
  simp only [partialOnPoison_plain hplain, Bool.false_eq_true, if_false]
  rw [← Plan.run_def, Plan.run_seq_cons, Plan.run_seq_cons, Plan.run_seq_cons, Plan.run_seq_nil, plainStore_run (hserved.plain hplain), (servePacket_only p k).mem_eq u (by decide), hmem]

/-- A READ is a remote operation that, where nothing hinders it, is answered with what it reads (R321). -/
theorem remoteRead_serves (hnext : nextOf (s.port p).inbox (fun k => k.typ == 2) = some k) : ∃ go, remoteRead p s = serveRemote p k k.want false go s ∧
    ∀ a, s.Plain → ((s.part k.vc).measure = true ∨ ((s.part k.vc).gddr.rate = 0 ∧ (s.part k.vc).plate.rate = 0)) → (go a).run s = s.readBy p k a := by
  unfold remoteRead
  rw [hnext]
  refine ⟨_, rfl, fun a hp hfree => ?_⟩
  rw [chargeRemote_free hfree]
  have hframe := (memRequests_only { cls := 7 } false a k.want).sameBut s
  have hanswers := (memRequests_only { cls := 7 } false a k.want).answers s (by decide) (by decide)
  unfold State.readBy
  generalize (memRequests { cls := 7 } false a k.want).run s = u at hanswers hframe
  have hplain := hanswers.plain hp
  have hserved := ((servePacket_only p k).answers u (by decide) (by decide)).plain hplain
  rw [Plan.run_def]
  simp only [badWordIn_none hplain.noBad, cachedRead_noCache hplain.noCache, meetsPoison_plain hplain, Bool.false_eq_true, if_false]
  rw [← Plan.run_def, Plan.run_seq_cons, Plan.run_seq_cons, Plan.run_seq_cons, Plan.run_seq_nil, bytesAt_congr hframe hp hplain (by decide) (by decide) (by decide)]
  exact congrArg (answerPacket k 0 (s.bytesAt a k.want)).run (Plan.run_congr (q := Plan.skip) (gddrTouch_noCache hserved.noCache ..))

section
variable (hserves : s.svc.halted = false)
include hserves

theorem exec_remoteWrite (hs : s.Wf) (hnext : nextOf (s.port p).inbox (fun k => k.typ == 1) = some k) :
    (let free := (s.part k.vc).measure = true ∨ ((s.part k.vc).gddr.rate = 0 ∧ (s.part k.vc).plate.rate = 0)
     let n := k.data.length - k.pad
     let r := remoteRange s k.vc k.addr n
     (r.2 = .ok → s.burnishOf [(r.1, zeros n)] = none → s.foreign false r.1 n = none → s.Plain → free → exec (.remoteWrite p) s = .next (s.written p k r.1 n)) ∧
     (∀ g, r.2 = .retry g → exec (.remoteWrite p) s = .next s) ∧
     (∀ g, r.2 = .refused g ∨ (∃ x, g = some x ∧ r.2 = .late x) → ∃ t, exec (.remoteWrite p) s = .next t ∧ RefusedRemote p s t)) := by
  obtain ⟨go, hplan, hgoes⟩ := remoteWrite_serves hnext
  refine ⟨fun hok hburnish hforeign hp hfree => ?_, fun g hretry => ?_, fun g hrefused => ⟨_, Plan.done_of_eq hserves hplan, serveRemote_refuses hs hrefused⟩⟩
  · rw [← hgoes _ hp hfree hforeign]
    exact Plan.done_of_eq hserves (hplan.trans (serveRemote_goes hok (fun _ => hburnish)))
  · exact Plan.done_of_eq (q := Plan.skip) hserves (hplan.trans (serveRemote_waits hretry))

theorem exec_remoteRead (hs : s.Wf) (hnext : nextOf (s.port p).inbox (fun k => k.typ == 2) = some k) :
    (let free := (s.part k.vc).measure = true ∨ ((s.part k.vc).gddr.rate = 0 ∧ (s.part k.vc).plate.rate = 0)
     let r := remoteRange s k.vc k.addr k.want
     (r.2 = .ok → s.Plain → free → exec (.remoteRead p) s = .next (s.readBy p k r.1)) ∧
     (∀ g, r.2 = .retry g → exec (.remoteRead p) s = .next s) ∧
     (∀ g, r.2 = .refused g ∨ (∃ x, g = some x ∧ r.2 = .late x) → ∃ t, exec (.remoteRead p) s = .next t ∧ RefusedRemote p s t)) := by
  obtain ⟨go, hplan, hgoes⟩ := remoteRead_serves hnext
  refine ⟨fun hok hp hfree => ?_, fun g hretry => ?_, fun g hrefused => ⟨_, Plan.done_of_eq hserves hplan, serveRemote_refuses hs hrefused⟩⟩
  · rw [← hgoes _ hp hfree]
    exact Plan.done_of_eq hserves (hplan.trans (serveRemote_goes hok (fun h => absurd h (by decide))))
  · exact Plan.done_of_eq (q := Plan.skip) hserves (hplan.trans (serveRemote_waits hretry))

end

end

/-! ## SEM -/

/-- Sending leaves every semaphore as it is, and where a partition's begin. -/
theorem Plan.Sends.semOf {q : Plan} (h : q.Sends) {s : State} (hs : s.Wf) (p n : Nat) : (q.run s).semOf p n = s.semOf p n := by
  have hsems : (q.run s).sems = s.sems := h.only.same s (f := .sems) (by decide)
  have hfirst : ((q.run s).part p).semFirst = (s.part p).semFirst := h.part Part.semFirst (fun _ _ => rfl) p s hs
  unfold State.semOf
  rw [hsems, hfirst]

/-- A SEM on a counter of the partition changes it and is answered (R321). -/
theorem exec_remoteSem {p : Nat} {k : Packet} {s : State} (hs : s.Wf) (hserves : s.svc.halted = false) (hnext : nextOf (s.port p).inbox (fun k => k.typ == 5) = some k)
    (hpart : partServes s k.vc = true) (hn : fld k.arg 11 0 < (s.part k.vc).semCount) (hcounter : (s.semOf k.vc (fld k.arg 11 0)).mutex = false) :
    ∃ t, exec (.remoteSem p) s = .next t ∧ t.semOf k.vc (fld k.arg 11 0) = semChange (s.semOf k.vc (fld k.arg 11 0)) (bit k.arg 16) (fld k.arg 47 32) ∧
      s.SameBut [.ports, .sems, .jobs, .parts] t := by
  have hplan : remoteSem p s = Plan.seq [servePacket p k,
      Plan.act (.sems ((s.part k.vc).semFirst + fld k.arg 11 0) (semChange (s.semOf k.vc (fld k.arg 11 0)) (bit k.arg 16) (fld k.arg 47 32))), settle, answerPacket k 0 []] s := by
    unfold remoteSem
    rw [hnext]
    exact if_neg (by simp [hpart, hn, hcounter])
  have hserve := servePacket_only p k
  have hanswer := answerPacket_sends k 0 []
  have hfirst : (((servePacket p k).run s).part k.vc).semFirst = (s.part k.vc).semFirst := congrArg (fun t => (Tab.get ({} : Part) t k.vc).semFirst) (hserve.parts_eq s (by decide))
  have hwf := Plan.run_wf hs (servePacket p k)
  refine ⟨_, Plan.done_of_eq hserves hplan, ?_, ?_⟩
  · simp only [Plan.run_seq_cons, Plan.run_seq_nil, Plan.run_act]
    rw [hanswer.semOf (Plan.run_wf (hwf.apply _) _), settle_semOf (hwf.apply _), ← hfirst]
    exact semOf_put_same hwf k.vc _ _
  · simp only [Plan.run_seq_cons, Plan.run_seq_nil]
    exact ((hserve.sameBut s).mono (by decide)).trans ((((Plan.only_act (F := [.sems]) (by simp [Eff.field])).sameBut _).mono (by decide)).trans
      (((settle_only.sameBut _).mono (by decide)).trans ((hanswer.only.sameBut _).mono (by decide))))

end Sys2Proof.Machine
end

section
/-! Answers to the transfers of a stroke, and the time that they may take (R321, R322, R323). -/
namespace Sys2Proof.Machine

/-! ## Accesses of which there are none -/

theorem withAccess_none {s : State} (hs : s.Wf) {id i : Nat} (src : MemSrc) (go : Plan) (hphase : (s.job id).phase = .running) (hlives : (s.job id).killed = none) :
    (withAccess id i src [] [] go).run s = go.run s := by
  have hplan : withAccess id i src [] [] go s = Plan.seq [chargeTo (s.job id).part [], Plan.skip, go] s := by
    unfold withAccess
    simp only [hphase, hlives, State.retryOf, State.burnishOf, List.map_nil, List.append_nil, List.findSome?_nil, held_nil, reduceCtorEq, decide_false, Option.isSome_none, Bool.or_self,
      Bool.and_false, Bool.false_eq_true, if_false]
    rfl
  rw [Plan.run_congr hplan, Plan.run_seq_cons, Plan.run_seq_cons, Plan.run_seq_cons, Plan.run_seq_nil, chargeTo_nil hs, Plan.run_skip]

theorem stroke_lt_of_begun {j : Job} {i : Nat} (h : (j.stroke i).begun = true) : i < j.strokes.length := by
  by_contra hle
  unfold Job.stroke at h
  rw [List.getElem?_eq_none (Nat.le_of_not_lt hle)] at h
  exact absurd h (by decide)

/-! ## The end of a transfer -/

theorem endXfer_only (x : Xfer) : Plan.Only [.xfers, .jobs] (endXfer x) :=
  ⟨fun s => (Plan.only_andThen (Plan.only_act (by simp [Eff.field])) (Plan.only_when ((endOp_only _ _).mono (by decide)))).effs s⟩

theorem endXfer_run (x : Xfer) (s : State) : (endXfer x).run s =
    (Plan.when (!(s.xfers.erase x).any (fun y => y.job == x.job && y.idx == x.idx) && (s.job x.job).killed.isNone) (endOp x.job x.idx)).run
      ((Plan.act (.xfers (s.xfers.erase x))).run s) := Plan.run_andThen ..

theorem endXfer_xfers (x : Xfer) (s : State) : ((endXfer x).run s).xfers = s.xfers.erase x := by
  rw [endXfer_run, (Plan.only_when (endOp_only _ _)).same _ (f := .xfers) (by decide)]
  rfl

/-- With its last transfer a stroke has run. -/
theorem endXfer_ran {x : Xfer} {s : State} (hs : s.Wf) (hphase : (s.job x.job).phase = .running) (hlives : (s.job x.job).killed = none) (hi : x.idx < (s.job x.job).strokes.length)
    (hlast : ∀ y ∈ s.xfers.erase x, y.job ≠ x.job ∨ y.idx ≠ x.idx) : ((((endXfer x).run s).job x.job).stroke x.idx).ran = true := by
  have hnone : (s.xfers.erase x).any (fun y => y.job == x.job && y.idx == x.idx) = false := List.any_eq_false.mpr (fun y hy => by
    rcases hlast y hy with h | h <;> simp [h])
  rw [endXfer_run, Plan.run_when, if_pos (by simp [hnone, hlives])]
  exact endOp_ran (Plan.run_wf hs _) hphase hi

theorem endXfer_killed {x : Xfer} {s : State} (hkilled : (s.job x.job).killed ≠ none) : ((endXfer x).run s).job x.job = s.job x.job := by
  rw [endXfer_run, Plan.run_when, if_neg (by simp [hkilled])]
  rfl

/-! ## LINK_ANSWER -/

/-- What an answer with data stores for its transfer. -/
def Packet.stored (k : Packet) (x : Xfer) : List (Nat × List Byte) := if k.status = 0 ∧ k.typ = 3 then [(x.addr, k.data.take x.len)] else []

/-- What the status of an answer does to the job of its transfer (R321, R322). -/
def Packet.verdict (k : Packet) (id : Nat) : Plan :=
  match k.status with
  | 0 => Plan.skip
  | 2 => killJob id 0x30
  | _ => killJob id 0x33

theorem Packet.verdict_kills {k : Packet} (h : k.status ≠ 0) (id : Nat) : k.verdict id = killJob id (if k.status = 2 then 0x30 else 0x33) := by
  unfold Packet.verdict
  split
  next h0 => exact absurd h0 h
  next h2 => rw [if_pos h2]
  next h2 => rw [if_neg h2]

/-- The steps of an answer whose accesses are granted. -/
def answerSteps (p : Nat) (k : Packet) (x : Xfer) : Plan :=
  Plan.seq [servePacket p k, Plan.each (k.stored x) (fun w => strokeWrite x.job x.idx false w.1 w.2), k.verdict x.job, endXfer x]

section
variable {p : Nat} {k : Packet} {x : Xfer} {s : State} (hs : s.Wf) (hserves : s.svc.halted = false)
  (hnext : nextOf (s.port p).inbox (fun k => k.typ == 3 || k.typ == 4 || k.typ == 6) = some k)
  (hfind : s.xfers.find? (fun x => x.tag == k.tag && x.vc == k.vc && x.typ == k.typ) = some x)
  (hphase : (s.job x.job).phase = .running) (hlives : (s.job x.job).killed = none)
include hnext hfind

theorem linkAnswer_eq : linkAnswer p s = withAccess x.job x.idx { cls := 7 } [] (k.stored x) (answerSteps p k x) s := by
  unfold linkAnswer
  rw [hnext]
  dsimp only
  rw [hfind]
  rfl

include hs hserves hphase hlives

theorem exec_linkAnswer_bare (hstored : k.stored x = []) : exec (.linkAnswer p) s = .next ((endXfer x).run ((k.verdict x.job).run ((servePacket p k).run s))) := by
  have hrun : (linkAnswer p).run s = (answerSteps p k x).run s := by
    rw [Plan.run_congr (linkAnswer_eq hnext hfind), hstored, withAccess_none hs _ _ hphase hlives]
  refine (Plan.done_eq _ _ hserves).trans (congrArg _ (hrun.trans ?_))
  unfold answerSteps
  rw [hstored]
  simp only [Plan.run_seq_cons, Plan.run_seq_nil]
  rfl

/-- An answer ends its transfer, and the last one its stroke (R322). -/
theorem exec_linkAnswer_ends (hok : k.status = 0) (htyp : k.typ ≠ 3) (hbegun : ((s.job x.job).stroke x.idx).begun = true)
    (hlast : ∀ y ∈ s.xfers.erase x, y.job ≠ x.job ∨ y.idx ≠ x.idx) :
    ∃ t, exec (.linkAnswer p) s = .next t ∧ t.xfers = s.xfers.erase x ∧ ((t.job x.job).stroke x.idx).ran = true ∧ s.SameBut [.ports, .xfers, .jobs, .parts] t := by
  have hserve := servePacket_only p k
  have hverdict : k.verdict x.job = Plan.skip := by simp only [Packet.verdict, hok]
  have hjob := hserve.job_eq s (by decide) x.job
  have hxfers : ((servePacket p k).run s).xfers = s.xfers := hserve.same s (f := .xfers) (by decide)
  refine ⟨_, exec_linkAnswer_bare hs hserves hnext hfind hphase hlives (if_neg (fun h => htyp h.2)), ?_⟩
  rw [hverdict, Plan.run_skip]
  refine ⟨(endXfer_xfers x _).trans (by rw [hxfers]), endXfer_ran (Plan.run_wf hs _) (by rw [hjob]; exact hphase) (by rw [hjob]; exact hlives) ?_ (by rw [hxfers]; exact hlast), ?_⟩
  · rw [hjob]; exact stroke_lt_of_begun hbegun
  · exact ((hserve.sameBut s).mono (by decide)).trans (((endXfer_only x).sameBut _).mono (by decide))

/-- An answer with another status than 0 ends the job (R321, R322). -/
theorem exec_linkAnswer_kills (hbad : k.status ≠ 0) :
    ∃ t, exec (.linkAnswer p) s = .next t ∧ t.xfers = s.xfers.erase x ∧ (t.job x.job).killed = some (if k.status = 2 then 0x30 else 0x33) := by
  have hserve := servePacket_only p k
  have hjob := hserve.job_eq s (by decide) x.job
  have hkill := killJob_first (Plan.run_wf hs (servePacket p k)) x.job (if k.status = 2 then 0x30 else 0x33) (by rw [hjob, hphase]; decide) (by rw [hjob]; exact hlives)
  refine ⟨_, exec_linkAnswer_bare hs hserves hnext hfind hphase hlives (if_neg (fun h => hbad h.1)), ?_⟩
  rw [Packet.verdict_kills hbad]
  refine ⟨(endXfer_xfers x _).trans ?_, ?_⟩
  · rw [(killJob_only _ _).same _ (f := .xfers) (by decide), hserve.same s (f := .xfers) (by decide)]
  · rw [endXfer_killed (by rw [hkill]; simp), hkill]

omit hphase hlives in
/-- The data of an answer are stored where the transfer wants them (R321, R322). -/
theorem exec_linkAnswer_stores (hok : k.status = 0) (htyp : k.typ = 3) (hgranted : s.Granted x.job { cls := 7 } [] [(x.addr, k.data.take x.len)]) :
    ∃ t, exec (.linkAnswer p) s = .next t ∧ t.xfers = s.xfers.erase x ∧ t.mem = Tab.putList 0 s.mem x.addr (k.data.take x.len) := by
  have hstored : k.stored x = [(x.addr, k.data.take x.len)] := if_pos ⟨hok, htyp⟩
  have hverdict : k.verdict x.job = Plan.skip := by simp only [Packet.verdict, hok]
  have hrun : (linkAnswer p).run s = (answerSteps p k x).run (s.requested (s.job x.job).part { cls := 7 } [] [(x.addr, k.data.take x.len)]) := by
    rw [Plan.run_congr (linkAnswer_eq hnext hfind), hstored, withAccess_granted hgranted]
  have hframe := requested_frame (s := s) (s.job x.job).part { cls := 7 } [] [(x.addr, k.data.take x.len)]
  have hanswers := requested_answers hs (s.job x.job).part { cls := 7 } [] [(x.addr, k.data.take x.len)]
  have hwf := requested_wf hs (s.job x.job).part { cls := 7 } [] [(x.addr, k.data.take x.len)]
  refine ⟨_, (Plan.done_eq _ _ hserves).trans (congrArg _ hrun), ?_⟩
  generalize s.requested (s.job x.job).part { cls := 7 } [] [(x.addr, k.data.take x.len)] = u at hframe hanswers hwf
  have hserve := (servePacket_only p k).answers u (by decide) (by decide)
  have hjob := (hserve.job x.job).trans (hanswers.job x.job)
  have hwrite := writes_plain x.job x.idx false [(x.addr, k.data.take x.len)] _ (Plan.run_wf hwf (servePacket p k)) (hserve.plain (hanswers.plain hgranted.plain))
    (fun w hw => hserve.writable (hanswers.writable (hgranted.writes_open w hw))) (by rw [hjob]; exact hgranted.running) (by rw [hjob]; exact hgranted.alive)
  have hsteps : (answerSteps p k x).run u = (endXfer x).run (((servePacket p k).run u).storeFor x.job (x.addr, k.data.take x.len)) := by
    unfold answerSteps
    rw [hstored, hverdict]
    simp only [Plan.run_seq_cons, Plan.run_seq_nil, Plan.run_skip]
    exact congrArg (endXfer x).run hwrite
  have hfinal := storeFor_frame ((servePacket p k).run u) x.job (x.addr, k.data.take x.len)
  rw [hsteps]
  refine ⟨(endXfer_xfers x _).trans (congrArg (List.erase · x) ?_), ?_⟩
  · exact (hfinal.2 .xfers (by decide)).trans ((hserve.frame.2 .xfers (by decide)).trans (hframe.2 .xfers (by decide)))
  · rw [(endXfer_only x).mem_eq _ (by decide), storeFor_mem]
    exact congrArg (Tab.putList 0 · _ _) ((hserve.frame.2 .mem (by decide)).trans (hframe.2 .mem (by decide)))

end

/-! ## ULZ_TIMEOUT_EXPIRY -/

/-- The transfers and the collectives of a stroke are given up. -/
def dropLinks (id i : Nat) : Plan := fun s =>
  [.xfers (s.xfers.filter (fun x => !(x.job == id && x.idx == i))), .colls (s.colls.filter (fun c => !(c.job == id && c.idx == i)))]

theorem not_both {a b c d : Nat} (h : (!(a == b && c == d)) = true) : a ≠ b ∨ c ≠ d := by
  by_cases hab : a = b
  · exact .inr (fun hcd => by simp [hab, hcd] at h)
  · exact .inl hab

/-- A late answer or collective ends its job, with its transfers and collectives (R322, R323). -/
theorem exec_ulzTimeoutExpiry {id i start : Nat} {s : State} (hs : s.Wf) (hserves : s.svc.halted = false)
    (hopen : (∃ x ∈ s.xfers, x.job = id ∧ x.idx = i ∧ x.start = start) ∨ (∃ c ∈ s.colls, c.job = id ∧ c.idx = i ∧ c.start = start))
    (hlate : start + s.reg 0 pgULZ 0x104 % 65536 * 1000 ≤ s.ticks) (hphase : (s.job id).phase = .running) (hlives : (s.job id).killed = none) :
    ∃ t, exec (.ulzTimeoutExpiry id i) s = .next t ∧ (t.job id).killed = some 0x33 ∧ (∀ y ∈ t.xfers, y.job ≠ id ∨ y.idx ≠ i) ∧ ∀ y ∈ t.colls, y.job ≠ id ∨ y.idx ≠ i := by
  have hplan : ulzTimeoutExpiry id i s = Plan.andThen (killJob id 0x33) (dropLinks id i) s := by
    unfold ulzTimeoutExpiry
    refine (if_pos ?_).trans ?_
    · rw [Bool.or_eq_true, List.any_eq_true, List.any_eq_true]
      rcases hopen with ⟨x, hx, rfl, rfl, rfl⟩ | ⟨c, hc, rfl, rfl, rfl⟩
      · exact .inl ⟨x, hx, by simp [hlate]⟩
      · exact .inr ⟨c, hc, by simp [hlate]⟩
    · simp only [Plan.seq, Plan.andThen, Plan.skip, List.append_nil]
      rfl
  have hdrop : Plan.Only [.xfers, .colls] (dropLinks id i) := ⟨fun _ => EffsIn.cons (by simp [Eff.field]) (EffsIn.one (by simp [Eff.field]))⟩
  refine ⟨_, Plan.done_of_eq hserves hplan, ?_⟩
  rw [Plan.run_andThen]
  refine ⟨?_, fun y hy => not_both (List.mem_filter.mp hy).2, fun y hy => not_both (List.mem_filter.mp hy).2⟩
  rw [hdrop.job_eq _ (by decide)]
  exact killJob_first hs id 0x33 (by rw [hphase]; decide) hlives

end Sys2Proof.Machine
end

section
/-! Packets of a collective, and the packets of the links in one statement (R323, R324, R325). -/
namespace Sys2Proof.Machine

/-! ## What a collective takes -/

/-- The stroke of a collective has none any more. -/
def CollGone (c : Coll) (t : State) : Prop := ∀ y ∈ t.colls, y.job ≠ c.job ∨ y.idx ≠ c.idx

/-- A collective goes on as the same one, with its progress (R324). -/
theorem collStep_next {c : Coll} {dir step chunk : Nat} {data : List Byte} {s : State} {x : CollStep} (h : collStep c dir step chunk data s = some x) :
    x.next.job = c.job ∧ x.next.idx = c.idx ∧ x.next.reduce = c.reduce ∧ x.next.size = c.size ∧ x.next.ring = c.ring := by
  unfold collStep at h
  dsimp only at h
  split at h
  · exact absurd h (by simp)
  · split at h
    · obtain rfl := Option.some.inj h
      dsimp only
      split <;> exact ⟨rfl, rfl, rfl, rfl, rfl⟩
    · obtain rfl := Option.some.inj h
      exact ⟨rfl, rfl, rfl, rfl, rfl⟩

/-- The last hop of a gather writes its bytes and reads nothing (R324). -/
theorem collStep_gather {c : Coll} {dir step chunk : Nat} {data : List Byte} {s : State} (hreduce : c.reduce = false) (hchunk : chunk < c.ring) (hstep : step = c.lastStep)
    (hdata : data.take ((c.part dir chunk).2 - Tab.get 0 c.got (dir * 2 ^ 32 + step * 2 ^ 16 + chunk)) ≠ []) :
    ∃ x, collStep c dir step chunk data s = some x ∧ x.reads = [] ∧
      x.writes = [(c.dst + chunk * c.size + (c.part dir chunk).1 + Tab.get 0 c.got (dir * 2 ^ 32 + step * 2 ^ 16 + chunk),
        data.take ((c.part dir chunk).2 - Tab.get 0 c.got (dir * 2 ^ 32 + step * 2 ^ 16 + chunk)))] := by
  have hwire : ∀ n, c.wire n = n := fun n => by simp [Coll.wire, hreduce]
  have hsome := List.isEmpty_eq_false_iff.mpr hdata
  subst hstep
  unfold collStep
  dsimp only
  rw [hwire, hsome, if_neg (by simp [hchunk]), if_neg (by simp [hreduce])]
  exact ⟨_, rfl, rfl, rfl⟩

/-! ## The progress of a collective -/

/-- The bytes of the destination of a collective. -/
def Coll.total (c : Coll) : Nat := if c.reduce then c.size else c.size * c.ring

theorem collNote_eq (c : Coll) (s : State) : collNote c s =
    (if c.total ≤ c.done then Plan.andThen (Plan.act (.colls (s.colls.filter (fun x => !(x.job == c.job && x.idx == c.idx))))) (endOp c.job c.idx) s
     else Plan.act (.colls (s.colls.filter (fun x => !(x.job == c.job && x.idx == c.idx)) ++ [c])) s) := rfl

theorem collNote_only (c : Coll) : Plan.Only [.colls, .jobs] (collNote c) := by
  refine ⟨fun s => ?_⟩
  rw [collNote_eq]
  split
  · exact (Plan.only_andThen (Plan.only_act (by simp [Eff.field])) ((endOp_only _ _).mono (by decide))).effs s
  · exact EffsIn.one (by simp [Eff.field])

theorem collNote_goesOn {c : Coll} {u : State} (h : c.done < c.total) : c ∈ ((collNote c).run u).colls := by
  rw [Plan.run_congr ((collNote_eq c u).trans (if_neg (Nat.not_le.mpr h)))]
  exact List.mem_append_right _ (List.mem_singleton.mpr rfl)

theorem collNote_ends {c : Coll} {u : State} (hu : u.Wf) (h : c.total ≤ c.done) (hphase : (u.job c.job).phase = .running)
    (hi : c.idx < (u.job c.job).strokes.length) : ((((collNote c).run u).job c.job).stroke c.idx).ran = true ∧ CollGone c ((collNote c).run u) := by
  rw [Plan.run_congr ((collNote_eq c u).trans (if_pos h)), Plan.run_andThen]
  refine ⟨endOp_ran (Plan.run_wf hu _) hphase hi, fun y hy => ?_⟩
  rw [(endOp_only _ _).same _ (f := .colls) (by decide)] at hy
  exact not_both (List.mem_filter.mp hy).2

/-- What writes leave in memory rests on memory alone. -/
theorem storeAll_mem_congr (id : Nat) : ∀ (ws : List (Nat × List Byte)) {s t : State}, t.mem = s.mem → (t.storeAll id ws).mem = (s.storeAll id ws).mem
  | [], _, _, h => h
  | w :: ws, s, t, h => storeAll_mem_congr id ws (by rw [storeFor_mem t id w.1, storeFor_mem s id w.1, h])

theorem granted_readable {s : State} {id : Nat} {src : MemSrc} {reads : List (Nat × Nat)} {writes : List (Nat × List Byte)} (h : s.Granted id src reads writes) :
    ∀ r ∈ reads, s.Readable id false r := fun r hr => by
  rcases h.reads_open r hr with hopen | ⟨hzero, -⟩
  · exact hopen
  · unfold State.Readable State.judge
    exact if_pos hzero

/-- The bytes of a packet reach a collective whose accesses are granted: they are made, what goes on is sent, and the progress is noted (R324). -/
theorem collTake_run {c : Coll} {dir step chunk : Nat} {data : List Byte} {s : State} {x : CollStep} {served : Plan} (hs : s.Wf) (hserved : Plan.Only [.ports] served)
    (hstep : collStep c dir step chunk data s = some x) (hg : s.Granted c.job { cls := 7 } x.reads x.writes) :
    ∃ u : State, (collTake c dir step chunk data served).run s = (collNote x.next).run u ∧ u.Wf ∧ u.mem = (s.storeAll c.job x.writes).mem ∧ u.job c.job = s.job c.job := by
  have hplan : collTake c dir step chunk data served s = withAccess c.job c.idx { cls := 7 } x.reads x.writes (Plan.seq [
      served,
      Plan.each x.reads (fun r => strokeRead c.job c.idx false false r.1 r.2),
      Plan.each x.writes (fun w => strokeWrite c.job c.idx false w.1 w.2),
      Plan.when (step < c.lastStep) (collSend c dir (step + 1) chunk x.send),
      collNote x.next]) s := by
    unfold collTake
    rw [hstep]
  have hframe := requested_frame (s := s) (s.job c.job).part { cls := 7 } x.reads x.writes
  have hanswers := requested_answers hs (s.job c.job).part { cls := 7 } x.reads x.writes
  have hwf := requested_wf hs (s.job c.job).part { cls := 7 } x.reads x.writes
  rw [Plan.run_congr hplan, withAccess_granted hg]
  generalize s.requested (s.job c.job).part { cls := 7 } x.reads x.writes = v at hframe hanswers hwf
  have hports := hserved.answers v (by decide) (by decide)
  have hvwf := Plan.run_wf hwf served
  simp only [Plan.run_seq_cons, Plan.run_seq_nil]
  generalize served.run v = w at hports hvwf
  have hjob := (hports.job c.job).trans (hanswers.job c.job)
  have hplain := hports.plain (hanswers.plain hg.plain)
  have hmem : w.mem = s.mem := (hports.frame.2 .mem (by decide)).trans (hframe.2 .mem (by decide))
  rw [reads_plain hplain c.job c.idx false false x.reads (fun r hr => hports.readable (hanswers.readable (granted_readable hg r hr))),
    writes_plain c.job c.idx false x.writes w hvwf hplain (fun y hy => hports.writable (hanswers.writable (hg.writes_open y hy))) (by rw [hjob]; exact hg.running) (by rw [hjob]; exact hg.alive)]
  have hsend : Plan.Only [.ports, .parts] (Plan.when (step < c.lastStep) (collSend c dir (step + 1) chunk x.send)) := Plan.only_when (collSend_sends ..).only
  have hstored := storeAll_eq c.job x.writes w
  refine ⟨_, rfl, Plan.run_wf (storeAll_wf _ _ hvwf) _, ?_, ?_⟩
  · rw [hsend.mem_eq _ (by decide), storeAll_mem_congr c.job x.writes hmem]
  · rw [hsend.job_eq _ (by decide), hstored]
    exact hjob

/-- A collective is given up. -/
def dropColl (c : Coll) : Plan := fun s => [.colls (s.colls.filter (fun x => !(x.job == c.job && x.idx == c.idx)))]

theorem dropColl_only (c : Coll) : Plan.Only [.colls] (dropColl c) := ⟨fun _ => EffsIn.one (by simp [Eff.field])⟩

/-- Every other node of the ring is told that a collective has ended (R323). -/
def tellRing (c : Coll) : Plan := Plan.each ((List.range c.ring).filter (· != c.node)) (fun n => fun s =>
  sendOn (route s n 0) { typ := 7, dst := n, src := s.node, vc := c.vc, len := 0, status := 1, tag := 0, arg := c.id, data := [], tick := s.ticks } s)

theorem tellRing_sends (c : Coll) : (tellRing c).Sends := sends_each (fun _ => Plan.Sends.of_eq (fun _ => ⟨_, sendOn_sends _ _, rfl⟩)) _

/-- A collective that does not fit ends its job (R323). -/
theorem collMismatch_ends {c : Coll} {s : State} (hs : s.Wf) (hphase : (s.job c.job).phase = .running) (hlives : (s.job c.job).killed = none) :
    (((collMismatch c).run s).job c.job).killed = some 0x33 ∧ CollGone c ((collMismatch c).run s) := by
  have hplan : collMismatch c s = Plan.seq [killJob c.job 0x33, dropColl c, tellRing c] s := rfl
  have htell := (tellRing_sends c).only
  rw [Plan.run_congr hplan]
  simp only [Plan.run_seq_cons, Plan.run_seq_nil]
  refine ⟨?_, fun y hy => ?_⟩
  · rw [htell.job_eq _ (by decide), (dropColl_only c).job_eq _ (by decide)]
    exact killJob_first hs c.job 0x33 (by rw [hphase]; decide) hlives
  · rw [htell.same _ (f := .colls) (by decide)] at hy
    exact not_both (List.mem_filter.mp hy).2

/-! ## COLL_PACKET -/

section
variable {p : Nat} {k : Packet} {s : State} (hs : s.Wf) (hserves : s.svc.halted = false) (hnext : nextOf (s.port p).inbox (fun k => k.typ == 7) = some k)
include hserves hnext

section
variable (hfind : s.colls.find? (fun c => c.id == fld k.arg 15 0 && c.vc == k.vc) = none)
include hfind

/-- A packet without a collective is kept for the time that a collective may take (R324). -/
theorem exec_collPacket_kept (hearly : s.ticks < k.tick + s.reg 0 pgULZ 0x104 % 65536 * 1000) : exec (.collPacket p) s = .next s := by
  have hplan : collPacket p s = Plan.skip s := by
    unfold collPacket
    rw [hnext]
    dsimp only
    rw [hfind]
    exact if_neg (Nat.not_le.mpr hearly)
  exact Plan.done_of_eq hserves hplan

include hs

/-- It is then dropped, as a violation with code 8 (R325). -/
theorem exec_collPacket_dropped (hlate : k.tick + s.reg 0 pgULZ 0x104 % 65536 * 1000 ≤ s.ticks) :
    ∃ t, exec (.collPacket p) s = .next t ∧ t.reg 0 (pgU p) 0x110 % 256 = 8 ∧ s.SameBut (.ports :: reportFields) t := by
  have hplan : collPacket p s = Plan.andThen (servePacket p k) (linkViolation p 8) s := by
    unfold collPacket
    rw [hnext]
    dsimp only
    rw [hfind]
    exact if_pos hlate
  refine ⟨_, Plan.done_of_eq hserves hplan, ?_⟩
  rw [Plan.run_andThen]
  exact ⟨linkViolation_code (Plan.run_wf hs _) p (by decide),
    (((servePacket_only p k).sameBut s).mono (by decide)).trans (((linkViolation_only p 8).sameBut _).mono (by decide))⟩

end

section
variable {c : Coll} (hfind : s.colls.find? (fun c => c.id == fld k.arg 15 0 && c.vc == k.vc) = some c) (hphase : (s.job c.job).phase = .running) (hlives : (s.job c.job).killed = none)
include hs hfind hphase hlives

/-- A node that has given up ends the collective (R323). -/
theorem exec_collPacket_givenUp (hbad : k.status ≠ 0) : ∃ t, exec (.collPacket p) s = .next t ∧ (t.job c.job).killed = some 0x33 ∧ CollGone c t := by
  have hplan : collPacket p s = Plan.seq [servePacket p k, killJob c.job 0x33, dropColl c] s := by
    unfold collPacket
    rw [hnext]
    dsimp only
    rw [hfind]
    dsimp only
    rw [if_neg (by simp [hlives]), if_pos hbad]
    rfl
  have hjob := (servePacket_only p k).job_eq s (by decide) c.job
  refine ⟨_, Plan.done_of_eq hserves hplan, ?_⟩
  simp only [Plan.run_seq_cons, Plan.run_seq_nil]
  refine ⟨?_, fun y hy => not_both (List.mem_filter.mp hy).2⟩
  rw [(dropColl_only c).job_eq _ (by decide)]
  exact killJob_first (Plan.run_wf hs _) c.job 0x33 (by rw [hjob, hphase]; decide) (by rw [hjob]; exact hlives)

variable (hok : k.status = 0)
include hok

omit hs hphase hserves in
theorem collPacket_takes : collPacket p s = collTake c (1 - p) (fld k.arg 31 16) (fld k.arg 47 32) k.data (servePacket p k) s := by
  unfold collPacket
  rw [hnext]
  dsimp only
  rw [hfind]
  dsimp only
  rw [if_neg (by simp [hlives]), if_neg (by simp [hok])]

/-- A packet that fits its collective stores what it brings, and the collective goes on or has all its bytes (R324). -/
theorem exec_collPacket_fits {x : CollStep} (hstep : collStep c (1 - p) (fld k.arg 31 16) (fld k.arg 47 32) k.data s = some x) (hg : s.Granted c.job { cls := 7 } x.reads x.writes) :
    ∃ t, exec (.collPacket p) s = .next t ∧ t.mem = (s.storeAll c.job x.writes).mem ∧ (x.next.done < c.total → x.next ∈ t.colls) ∧
      (c.total ≤ x.next.done → ((s.job c.job).stroke c.idx).begun = true → ((t.job c.job).stroke c.idx).ran = true ∧ CollGone c t) := by
  obtain ⟨hjob, hidx, hreduce, hsize, hring⟩ := collStep_next hstep
  have htotal : x.next.total = c.total := by unfold Coll.total; rw [hreduce, hsize, hring]
  obtain ⟨u, hrun, hwf, hmem, hkept⟩ := collTake_run hs (servePacket_only p k) hstep hg
  refine ⟨_, (Plan.done_of_eq hserves (collPacket_takes hnext hfind hlives hok)).trans (congrArg _ hrun), ?_, fun hmore => ?_, fun hall hbegun => ?_⟩
  · rw [(collNote_only _).mem_eq _ (by decide), hmem]
  · exact collNote_goesOn (by rw [htotal]; exact hmore)
  · have hends := collNote_ends (c := x.next) hwf (by rw [htotal]; exact hall) (by rw [hjob, hkept]; exact hphase) (by rw [hjob, hidx, hkept]; exact stroke_lt_of_begun hbegun)
    unfold CollGone at hends
    rw [hjob, hidx] at hends
    exact hends

/-- A packet that does not fit ends its collective (R323). -/
theorem exec_collPacket_misfits (hstep : collStep c (1 - p) (fld k.arg 31 16) (fld k.arg 47 32) k.data s = none) :
    ∃ t, exec (.collPacket p) s = .next t ∧ (t.job c.job).killed = some 0x33 ∧ CollGone c t := by
  have hplan : collPacket p s = Plan.andThen (servePacket p k) (collMismatch c) s := by
    rw [collPacket_takes hnext hfind hlives hok]
    unfold collTake
    rw [hstep]
  have hjob := (servePacket_only p k).job_eq s (by decide) c.job
  refine ⟨_, Plan.done_of_eq hserves hplan, ?_⟩
  rw [Plan.run_andThen]
  exact collMismatch_ends (Plan.run_wf hs _) (by rw [hjob]; exact hphase) (by rw [hjob]; exact hlives)

end

end

/-- Settles O49: each packet is taken through the steps that serve it; what is refused, late or amiss shows its code or ends its job. -/
theorem linkPackets : Obligations.LinkPackets := by
  unfold Obligations.LinkPackets
  refine ⟨fun p k s hs hserves => ⟨exec_remoteWrite hserves hs, exec_remoteRead hserves hs, exec_remoteSem hs hserves⟩,
    fun p k x s hs hserves hnext hfind hphase hlives => ⟨exec_linkAnswer_ends hs hserves hnext hfind hphase hlives, exec_linkAnswer_stores hs hserves hnext hfind,
      exec_linkAnswer_kills hs hserves hnext hfind hphase hlives⟩,
    fun p k s hs hserves hnext => ⟨fun hfind => ⟨exec_collPacket_kept hserves hnext hfind, exec_collPacket_dropped hs hserves hnext hfind⟩, fun c hfind hphase hlives =>
      ⟨exec_collPacket_givenUp hs hserves hnext hfind hphase hlives, fun hok => ⟨fun hreduce hchunk hstep hdata hg => ?_,
        fun x => exec_collPacket_fits hs hserves hnext hfind hphase hlives hok, exec_collPacket_misfits hs hserves hnext hfind hphase hlives hok⟩⟩⟩,
    fun id i start s hs hserves => exec_ulzTimeoutExpiry hs hserves⟩
  obtain ⟨x, hx, hreads, hwrites⟩ := collStep_gather (s := s) hreduce hchunk hstep hdata
  obtain ⟨t, hexec, hmem, -, -⟩ := exec_collPacket_fits hs hserves hnext hfind hphase hlives hok hx (by rw [hreads, hwrites]; exact hg)
  refine ⟨t, hexec, hmem.trans ?_⟩
  rw [hwrites]
  exact storeFor_mem s c.job _

end Sys2Proof.Machine
end
